-- ==== Sys2Proof/Word.lean ====
section
/-!
DEFINITION. Words, bytes and the identifiers of the units of the XO-75 (R4, R7).
-/

namespace Sys2Proof

/-- A register word (R8: registers are 64 bits wide). -/
abbrev Word := BitVec 64

/-- One byte of memory. -/
abbrev Byte := BitVec 8

/-- A core C000 to C127 (R7). -/
abbrev Core := Fin 128

/-- A virtual core of a launch (R134). -/
abbrev Vcore := Fin 128

/-- A partition P0 to P15 (R7). -/
abbrev Part := Fin 16

/-- An erg E0 to E7 (R7). -/
abbrev Erg := Fin 8

/-- A DRAM stack S00 to S31 (R7). -/
abbrev Stack := Fin 32

/-- A fast-tier channel ch0 to ch255 (R7). -/
abbrev Chan := Fin 256

/-- A DMA channel D0 to D15 of one core (R7). -/
abbrev DmaCh := Fin 16

/-- A fabric port F0 to F3 (R7). -/
abbrev FPort := Fin 4

/-- A host queue q0 to q65535 (R7). -/
abbrev QueueId := Fin 65536

/-- The erg that owns a core: core number = 16 × erg + local index (R7). -/
def ergOf (c : Core) : Erg := ⟨c.val / 16, by omega⟩

/-- The local index of a core in its erg (R7). -/
def localOf (c : Core) : Nat := c.val % 16

/-- The two host ports H0 and H1 (R7). -/
inductive Port
  | h0
  | h1
deriving DecidableEq, Repr

/-- The number of a host port: 0 for H0, 1 for H1. -/
def Port.num : Port → Nat
  | .h0 => 0
  | .h1 => 1

/-- The other host port. -/
def Port.other : Port → Port
  | .h0 => .h1
  | .h1 => .h0

/-- The port of a register's PORT bit. -/
def Port.ofBit (n : Nat) : Port := if n % 2 = 0 then .h0 else .h1

/-- How a host accesses a register: all 8 bytes, or a 4-byte half (R10, R11). -/
inductive Size
  | full
  | low
  | high
deriving DecidableEq, Repr

end Sys2Proof
end

