-- ==== Sys2Proof/Types.lean ====
section
/-!
DEFINITION. The operands that the commands carry: the fields of the Tynte instructions (R147 to R169), host accesses,
requests to the fast tier, fabric frames and the outcomes that the world outside the block supplies.
Numbers that a field holds stand here as the plain value of that field.
-/

namespace Sys2Proof

/-- The sequencer context that runs a Tynte instruction: the physical core and the virtual core on it (R134, R136), the word
index of the instruction in the virtual core's code or in the stage's body, and whether the fetch part of a stage body runs
it (R192). -/
structure At where
  core : Core
  vcore : Vcore
  word : Nat
  fetch : Bool
deriving DecidableEq, Repr

/-- The predicate fields of word 0 (R147): PEN, PCOND and PLEV. -/
structure Pred where
  pen : Bool
  pcond : Nat
  plev : Nat
deriving DecidableEq, Repr

/-- LOOP (R154): NLEV and the four counts. -/
structure LoopF where
  nlev : Nat
  count0 : Nat
  count1 : Nat
  count2 : Nat
  count3 : Nat
deriving DecidableEq, Repr

/-- STREAM (R152). -/
structure StreamF where
  s : Nat
  initParam : Bool
  init : BitVec 32
  inc0 : BitVec 32
  inc1 : BitVec 32
  inc2 : BitVec 32
  inc3 : BitVec 32
deriving DecidableEq, Repr

/-- LOAD and STORE (R155). `gran` is DST of LOAD and SRC of STORE; `rel` belongs to STORE. -/
structure MoveF where
  rel : Bool
  rows : Bool
  desc : Nat
  gran : Nat
  off : Nat
  count : Nat
deriving DecidableEq, Repr

/-- PREFETCH (R156). -/
structure PrefetchF where
  desc : Nat
  pin : Bool
  off : Nat
  count : Nat
deriving DecidableEq, Repr

/-- TABLE_SETUP (R157). -/
structure TableF where
  accShift : Nat
  adesc : Nat
  wdesc : Nat
  sdesc : Nat
deriving DecidableEq, Repr

/-- CODEBOOK_SET (R157). -/
structure CodebookF where
  desc : Nat
  constOff : Nat
deriving DecidableEq, Repr

/-- OPB (R158). -/
structure OpbF where
  bdesc : Nat
  adesc : Nat
  holdT : Nat
  acc : Bool
  slot : Nat
  tile : Bool
  width : Nat
  path : Nat
  bcol : Nat
  arow : Nat
  blocks : Nat
  kb0 : Nat
  high : Nat
deriving DecidableEq, Repr

/-- DRAIN (R161). -/
structure DrainF where
  xbase : Nat
  outDesc : Nat
  tile : Bool
  dest : Nat
  stats : Bool
  format : Nat
  slot : Nat
  ocol : Nat
  orow : Nat
  high : Nat
deriving DecidableEq, Repr

/-- VOP (R162). -/
structure VopF where
  rel : Bool
  dStream : Bool
  sStream : Bool
  fout : Nat
  fin : Nat
  op : Nat
  dst : Nat
  src3 : Nat
  src2 : Nat
  src1 : Nat
  imm : BitVec 32
  sdesc : Nat
  vectors : Nat
deriving DecidableEq, Repr

/-- REDUCE (R163). -/
structure ReduceF where
  min : Bool
  fin : Nat
  rel : Bool
  dst : Nat
  src : Nat
  dStream : Bool
  sStream : Bool
  k : Nat
  mode : Nat
  corr : Bool
  op : Nat
  pos0 : Nat
  count : Nat
  xidx : Nat
  xdesc : Nat
  rows : Nat
deriving DecidableEq, Repr

/-- INDEX_STREAM (R165). -/
structure IndexF where
  idesc : Nat
  first : Nat
  count : Nat
deriving DecidableEq, Repr

/-- GATHER (R165). -/
structure GatherF where
  dst : Nat
  tdesc : Nat
  count : Nat
deriving DecidableEq, Repr

/-- SCATTER_ADD (R165). -/
structure ScatterF where
  rel : Bool
  anchor : Int
  anchored : Bool
  src : Nat
  tdesc : Nat
  count : Nat
deriving DecidableEq, Repr

/-- ANCHOR_READ (R165). -/
structure AnchorF where
  anchor : Int
  dst : Nat
  tdesc : Nat
  row0 : Nat
  rows : Nat
deriving DecidableEq, Repr

/-- SEGMENT_REDUCE (R166). -/
structure SegF where
  fin : Nat
  rel : Bool
  part : Bool
  op : Nat
  dst : Nat
  src : Nat
  xdesc : Nat
  last : Nat
  first : Nat
  rowlen : Nat
  rows : Nat
deriving DecidableEq, Repr

/-- QUANT_CODES (R167). -/
structure QuantF where
  src : Nat
  dst : Nat
  kb0 : Nat
  blocks : Nat
deriving DecidableEq, Repr

/-- COLL (R168). -/
structure CollF where
  group : Nat
  ddesc : Nat
  sdesc : Nat
  op : Nat
  doff : Nat
  soff : Nat
  sigEn : Bool
  token : Nat
  length : Nat
deriving DecidableEq, Repr

/-- CARAVAN (R168). -/
structure CaravanF where
  cdef : Nat
  param : Nat
  tiles : Nat
deriving DecidableEq, Repr

/-- UPDATE (R168). -/
structure UpdateF where
  vdesc : Nat
  wdesc : Nat
  sched : Nat
  step : Nat
deriving DecidableEq, Repr

/-- One Tynte instruction as a module carries it (R148). -/
inductive Tynte
  | nop
  | endI
  | loop (f : LoopF)
  | endloop
  | stream (f : StreamF)
  | load (f : MoveF)
  | store (f : MoveF)
  | prefetch (f : PrefetchF)
  | tableSetup (f : TableF)
  | codebookSet (f : CodebookF)
  | opb (f : OpbF)
  | drain (f : DrainF)
  | vop (f : VopF)
  | reduce (f : ReduceF)
  | indexStream (f : IndexF)
  | gather (f : GatherF)
  | scatterAdd (f : ScatterF)
  | segmentReduce (f : SegF)
  | anchorRead (f : AnchorF)
  | quantCodes (f : QuantF)
  | signal (token : Nat)
  | wait (token value : Nat)
  | barrier
  | mbBegin (mb step : Nat)
  | mbEnd (mb step : Nat)
  | stepEnd (step : Nat)
  | coll (f : CollF)
  | caravan (f : CaravanF)
  | update (f : UpdateF)
deriving DecidableEq, Repr

/-- A host write of a register: the port that makes it, its size and its data (R10, R11). -/
structure HostWr where
  port : Port
  size : Size
  data : Word
deriving DecidableEq, Repr

/-- An access to a BAR by offset, as the error record of R439 names it. -/
structure BarAccess where
  port : Port
  bar : Nat
  off : Nat
  size : Nat
  write : Bool
  data : Word
deriving DecidableEq, Repr

/-- Who presents an address to the fast tier (R17, R281). -/
inductive Requester
  | part (p : Part)
  | oasis
  | paced
  | firmware
deriving DecidableEq, Repr

/-- What the memory finds at one byte (R288, R289, R291); `crcFailed`: the CRC still fails after 8 retries. -/
inductive MemKind
  | corrected
  | retried (n : Nat)
  | crcFailed
  | uncorrectable
  | cacheCorrected
  | cacheUncorrectable
deriving DecidableEq, Repr

/-- What the memory finds in one access: at byte i of it, counted from its first, in the order in which it is found. -/
structure MemEvent where
  finds : List (Nat × MemKind)
deriving DecidableEq, Repr

/-- Nothing is found. -/
def MemEvent.ok : MemEvent := ⟨[]⟩

/-- The start of a partition's waiting launch, and what the memory finds in the lines that it pins (R285). -/
structure LaunchAt where
  part : Part
  ev : MemEvent
deriving DecidableEq, Repr

/-- What the error check of staging or accumulator memory finds in one instruction (R96). -/
inductive SramEvent
  | ok
  | stgCorrected
  | accCorrected
  | stgUncorrectable (bank row : Nat)
  | accUncorrectable (slot row : Nat)
  /-- In paired mode: what the shadow makes of the tile differs from the primary's at byte `at_`, where it has the value `b`
  (R364, R365). -/
  | shadowDiffers (at_ : Nat) (b : Byte)
deriving DecidableEq, Repr

/-- A PREFETCH, and what the memory finds in the bytes it fetches. -/
structure PrefetchOp where
  f : PrefetchF
  ev : MemEvent
deriving DecidableEq, Repr

/-- A core on which a unit starts or is fed, and what the memory finds at the records or entries that this reads. -/
structure IssueEv where
  core : Core
  ev : MemEvent
deriving DecidableEq, Repr

/-- What the error checks of the core, and the memory, find in a vector instruction. -/
structure VectorFinds where
  sram : List SramEvent
  ev : MemEvent
deriving DecidableEq, Repr

/-- What a write-back meets: its CRC retries, and whether it is lost (R288, R290). -/
structure WriteBack where
  retries : Nat
  lost : Bool
deriving DecidableEq, Repr

/-- What a pass of the oasis die or a master transfer meets: what the memory finds in its bytes or votes, and the retries and
CRC errors of the oasis link (R269, R270). -/
structure OasFinds where
  ev : MemEvent
  retries : Nat
  crcs : Nat
deriving DecidableEq, Repr

/-- A module of the oasis link that fails, after so many retries and CRC errors (R269, R270). -/
structure LinkModule where
  m : Fin 4
  retries : Nat
  crcs : Nat
deriving DecidableEq, Repr

/-- The atomic operations of R286. -/
inductive AtomicOp
  | add
  | smin
  | smax
  | umin
  | umax
  | xchg
  | cmpxchg (comparand : Nat)
  | fadd
  | bfadd
deriving DecidableEq, Repr

/-- Whether the two signatures of a signature block verify under the keys that it carries (R386). The schemes themselves are
standards that the manual names and does not define; the other checks of R386 are the model's. -/
structure SigVerdict where
  rsa : Bool
  slh : Bool
deriving DecidableEq, Repr

/-- The transports of the SPDM responder: the DOE mailbox of each port, and MCTP (R392). -/
inductive Transport
  | doe (p : Port)
  | mctp
deriving DecidableEq, Repr

/-- How a message reaches the management bus (R421): over SMBus or I3C, to an address, or the I3C controller assigns the module its
dynamic address. -/
inductive MctpBus
  | smbus (addr : Nat)
  | i3c (addr : Nat)
  | assign (addr : Nat)
deriving DecidableEq, Repr

/-- An MCTP message (R421): how it comes, its message type, and the vendor ID of a vendor-defined PCI message. -/
structure MctpMsg where
  bus : MctpBus
  type : Nat
  vendor : Nat
deriving DecidableEq, Repr

/-- An SPDM request as it arrives (R392): its transport, the version of its header (0x12 and 0x13 are SPDM 1.2 and 1.3), and
whether it asks for mutual authentication, a PSK or chunking. -/
structure SpdmReq where
  t : Transport
  version : Nat
  unsupported : Bool
deriving DecidableEq, Repr

/-- What a request about a secured session asks (R392: KEY_EX, HBEAT, KEY_UPD): a new session, a heartbeat, new keys, or its
end. -/
inductive SessionOp
  | exchange
  | heartbeat
  | keyUpdate
  | endSession
deriving DecidableEq, Repr

/-- A VENDOR_DEFINED_REQUEST (R392): how it arrives, the vendor ID and the command. -/
structure VendorReq where
  hdr : SpdmReq
  vendor : Nat
  cmd : Nat
deriving DecidableEq, Repr

/-- A host write of BAR0 or BAR4 at an offset (R427, R428). -/
structure RegAddr where
  bar : Nat
  off : Nat
deriving DecidableEq, Repr

/-- A SerDes lane PLL: of a host port, or half h of a fabric port (R26). -/
inductive Lane
  | host (p : Port)
  | fabric (f : FPort) (h : Fin 2)
deriving DecidableEq, Repr

/-- Why power is lost (R408). -/
inductive PowerCause
  | rail
  | railCurrent
  | inputStage
  | vin
  | shutdownTemp
  | vinRemoved
deriving DecidableEq, Repr

/-- What the MAC finds of a received frame (R333): its FCS holds, its FCS fails, or n codewords of it were not correctable. -/
inductive FrameCheck
  | ok
  | fcs
  | fec (n : Nat)
deriving DecidableEq, Repr

/-- The XFT header fields a receiver reads (R332), what the MAC found, and whether the GCM tag holds (R333, R337). `type` is
TYPE as it arrived: the command says which frame it is where TYPE is one of R332's, and a frame of another TYPE is given as any
of them. `srcRank` is the rank that the IV of a frame under a group key begins with. -/
structure FrameHdr where
  fport : FPort
  check : FrameCheck
  version : Nat
  type : Nat
  dst : Nat
  mcast : Bool
  last : Bool
  op : Nat
  phase : Nat
  groupTag : Nat
  psn : Nat
  inst : Nat
  offset : Nat
  authOk : Bool
  srcRank : Nat
deriving DecidableEq, Repr

/-- The end of a handshake (R336): its last frame, the identity digest of the peer, and whether both of the peer's signatures
of the transcript verify. -/
structure HandshakeEnd where
  hdr : FrameHdr
  peer : List Byte
  rsa : Bool
  slh : Bool
deriving DecidableEq, Repr

/-- What a GROUP_KEY frame carries beside its tag (R338): the epoch and the 256-bit key. -/
structure GroupKeyArgs where
  epoch : Nat
  key : Nat
deriving DecidableEq, Repr

/-- The instructions of the test access port (R415). -/
inductive JtagInstr
  | bypass
  | idcode
  | samplePreload
  | extest
  | clamp
  | highz
  | priv (code : Nat)
deriving DecidableEq, Repr

end Sys2Proof
end

