-- ==== Sys2Proof/Syntax.lean ====
section
/-!
DEFINITION. The commands of the block: one constructor for each row of the opcode table, in the table's order. The
operands say who commands (a core and its virtual core, a partition, a host port, a flow) and what comes from outside the
block (host writes, bytes read from host memory, frames, sensor readings, error events, verdicts of signature checks).
-/

namespace Sys2Proof

/-- A command. -/
inductive Instr
  /-- NOP (R148). -/
  | nop (a : At) (pr : Pred)
  /-- END (R154). -/
  | endI (a : At)
  /-- LOOP (R154). -/
  | loop (a : At) (f : LoopF)
  /-- ENDLOOP (R154). -/
  | endloop (a : At)
  /-- STREAM (R152). -/
  | stream (a : At) (f : StreamF)
  /-- LOAD (R155). -/
  | load (a : At) (pr : Pred) (f : MoveF)
  /-- STORE (R155). -/
  | store (a : At) (pr : Pred) (f : MoveF)
  /-- PREFETCH (R156). -/
  | prefetch (a : At) (pr : Pred) (f : PrefetchOp)
  /-- TABLE_SETUP (R157). -/
  | tableSetup (a : At) (pr : Pred) (f : TableF)
  /-- CODEBOOK_SET (R157). -/
  | codebookSet (a : At) (pr : Pred) (f : CodebookF)
  /-- OPB (R158). -/
  | opb (a : At) (pr : Pred) (f : OpbF)
  /-- DRAIN (R161). -/
  | drain (a : At) (pr : Pred) (f : DrainF)
  /-- VOP (R162). -/
  | vop (a : At) (pr : Pred) (f : VopF)
  /-- REDUCE (R163). -/
  | reduce (a : At) (pr : Pred) (f : ReduceF)
  /-- INDEX_STREAM (R174). -/
  | indexStream (a : At) (pr : Pred) (f : IndexF)
  /-- GATHER (R124). -/
  | gather (a : At) (pr : Pred) (f : GatherF)
  /-- SCATTER_ADD (R125). -/
  | scatterAdd (a : At) (pr : Pred) (f : ScatterF)
  /-- SEGMENT_REDUCE (R128). -/
  | segmentReduce (a : At) (pr : Pred) (f : SegF)
  /-- ANCHOR_READ (R127). -/
  | anchorRead (a : At) (pr : Pred) (f : AnchorF)
  /-- QUANT_CODES (R167). -/
  | quantCodes (a : At) (pr : Pred) (f : QuantF)
  /-- SIGNAL (R171). -/
  | signal (a : At) (pr : Pred) (token : Nat)
  /-- WAIT (R171). -/
  | wait (a : At) (pr : Pred) (token value : Nat)
  /-- BARRIER (R172). -/
  | barrier (a : At)
  /-- MB_BEGIN (R229). -/
  | mbBegin (a : At) (pr : Pred) (mb step : Nat)
  /-- MB_END (R225). -/
  | mbEnd (a : At) (pr : Pred) (mb step : Nat)
  /-- STEP_END (R236). -/
  | stepEnd (a : At) (pr : Pred) (step : Nat)
  /-- COLL (R349). -/
  | coll (a : At) (pr : Pred) (f : CollF)
  /-- CARAVAN (R194). -/
  | caravan (a : At) (pr : Pred) (f : CaravanF)
  /-- UPDATE (R256). -/
  | update (a : At) (pr : Pred) (f : UpdateF)
  /-- HOST_NOP (R319). -/
  | hostNop (p : Part) (seq : Nat)
  /-- COPY_TO_DEVICE (R320). -/
  | copyToDevice (p : Part) (seq : Nat)
  /-- COPY_TO_HOST (R320). -/
  | copyToHost (p : Part) (seq : Nat)
  /-- COPY_DEVICE (R320). -/
  | copyDevice (p : Part) (seq : Nat)
  /-- LOAD_MODULE (R175). -/
  | loadModule (p : Part) (seq : Nat) (image : Option (List Byte))
  /-- LOAD_NATIVE (R181). -/
  | loadNative (p : Part) (seq : Nat) (image : Option (List Byte)) (v : SigVerdict)
  /-- UNLOAD (R179). -/
  | unload (p : Part) (seq : Nat)
  /-- LAUNCH (R177). -/
  | launch (p : Part) (seq : Nat)
  /-- ABORT (R323). -/
  | abort (p : Part) (seq : Nat)
  /-- LAUNCH_START (R133). -/
  | launchStart (x : LaunchAt)
  /-- COMMAND_ACCEPT (R317). -/
  | commandAccept (q : QueueId) (bytes : Option (List Byte))
  /-- INTERRUPT_AGGREGATION_TIMEOUT (R321). -/
  | interruptAggregationTimeout (q : QueueId)
  /-- DOORBELL_WRITE (R316). -/
  | doorbellWrite (off : Nat) (w : HostWr)
  /-- QUE_SEL_WRITE (R314). -/
  | queSelWrite (w : HostWr)
  /-- QUE_CFG_WRITE (R315). -/
  | queCfgWrite (w : HostWr)
  /-- SET_HELPER (R388). -/
  | setHelper (port : Port) (host : Option (List Byte)) (seedOk : Bool)
  /-- IDENTITY_DERIVATION_COMPLETE (R389). -/
  | identityDerivationComplete (digest : List Byte)
  /-- LOAD_FIRMWARE (R387). -/
  | loadFirmware (port : Port) (image : Option (List Byte)) (v : SigVerdict)
  /-- LOAD_CERT (R391). -/
  | loadCert (port : Port) (chain : Option (List Byte)) (isOurs : Bool)
  /-- PART_CREATE (R397). -/
  | partCreate (port : Port)
  /-- PART_FRAMES (R280). -/
  | partFrames (port : Port)
  /-- PART_QBLOCKS (R397). -/
  | partQblocks (port : Port)
  /-- PART_LOCK (R397). -/
  | partLock (port : Port)
  /-- PART_START (R397). -/
  | partStart (port : Port)
  /-- PART_TEARDOWN (R398). -/
  | partTeardown (port : Port)
  /-- GET_MLOG (R393). -/
  | getMlog (port : Port)
  /-- TEST_CHALLENGE (R401). -/
  | testChallenge (port : Port) (nonce : List Byte)
  /-- TEST_UNLOCK (R401). -/
  | testUnlock (port : Port) (response : Option (List Byte)) (v : SigVerdict)
  /-- FRAME_ZEROIZE_COMPLETE (R294). -/
  | frameZeroizeComplete (frame : Nat) (bad : Option Nat)
  /-- LOCK_INTERFACE (R394). -/
  | lockInterface (t : Transport) (p : Part)
  /-- START_INTERFACE (R397). -/
  | startInterface (t : Transport) (p : Part)
  /-- STOP_INTERFACE (R397). -/
  | stopInterface (t : Transport) (p : Part)
  /-- GET_DEVICE_INTERFACE_REPORT (R394). -/
  | getDeviceInterfaceReport (t : Transport) (p : Part)
  /-- GET_DEVICE_INTERFACE_STATE (R394). -/
  | getDeviceInterfaceState (t : Transport) (p : Part)
  /-- KEY_PROG (R394). -/
  | keyProg (t : Transport) (p : Part) (stream : Nat) (tx : Bool) (unsupported : Bool)
  /-- K_SET_GO (R394). -/
  | kSetGo (t : Transport) (p : Part) (tx : Bool)
  /-- K_SET_STOP (R394). -/
  | kSetStop (t : Transport) (p : Part) (tx : Bool)
  /-- IDE_INTEGRITY_FAILURE (R395). -/
  | ideIntegrityFailure (p : Part)
  /-- UNPROTECTED_ACCESS (R395). -/
  | unprotectedAccess (p : Part) (acc : BarAccess)
  /-- SPDM_GET_CERTIFICATE (R392). -/
  | spdmGetCertificate (r : SpdmReq) (slot off len : Nat)
  /-- SPDM_CHALLENGE (R392). -/
  | spdmChallenge (r : SpdmReq) (slot : Nat) (nonce : List Byte)
  /-- SPDM_GET_MEASUREMENTS (R393). -/
  | spdmGetMeasurements (r : SpdmReq) (index : Nat) (sign : Bool) (nonce : List Byte)
  /-- SPDM_KEY_EXCHANGE (R392). -/
  | spdmKeyExchange (r : SpdmReq) (slot : Nat) (op : SessionOp) (share : List Byte)
  /-- SPDM_SLH_SIGNATURE_REQUEST (R392). -/
  | spdmSlhSignatureRequest (x : VendorReq)
  /-- MCTP_CONTROL_MESSAGE (R421). -/
  | mctpControlMessage (x : MctpMsg) (code : Nat) (body : List Nat)
  /-- GET_TELEMETRY (R422). -/
  | getTelemetry
  /-- GET_LOG (R422). -/
  | getLog (slot count : Nat)
  /-- SET_POWER_LIMIT (R422). -/
  | setPowerLimit (watts : Nat)
  /-- PREPARE_REMOVAL (R422). -/
  | prepareRemoval
  /-- MCTP_MODULE_RESET (R422). -/
  | mctpModuleReset
  /-- GET_EVENT (R422). -/
  | getEvent
  /-- REGISTER_WRITE (R8). -/
  | registerWrite (at_ : RegAddr) (w : HostWr)
  /-- REGISTER_ACCESS_INVALID (R10). -/
  | registerAccessInvalid (acc : BarAccess)
  /-- MEM_INTERLEAVE_WRITE (R275). -/
  | memInterleaveWrite (w : HostWr)
  /-- MEM_MAPOUT_START (R276). -/
  | memMapoutStart (w : HostWr)
  /-- CHANNEL_MAPPED_OUT (R277). -/
  | channelMappedOut
  /-- MEM_ZEROIZE_ALL (R293). -/
  | memZeroizeAll (w : HostWr)
  /-- MEM_REG_ENABLE_WRITE (R282). -/
  | memRegEnableWrite (p : Part) (e : Erg) (w : HostWr)
  /-- TOKEN_REFILL (R282). -/
  | tokenRefill
  /-- FAST_TIER_ACCESS (R284). -/
  | fastTierAccess (r : Requester) (addr len : Nat) (data : Option (List Byte)) (ev : MemEvent)
  /-- ATOMIC (R286). -/
  | atomic (r : Requester) (addr : Nat) (wide : Bool) (op : AtomicOp) (xs : List Nat) (ev : MemEvent)
  /-- LINE_EVICTION (R284). -/
  | lineEviction (slice : Erg) (set : Nat) (back : WriteBack)
  /-- MEM_PART_STATUS_FAULTED_CLEAR (R290). -/
  | memPartStatusFaultedClear (p : Part) (w : HostWr)
  /-- STACK_SENSOR_READ (R292). -/
  | stackSensorRead (temps : List Nat)
  /-- COUPLING_LEVEL_RELEASE (R292). -/
  | couplingLevelRelease (st : Stack) (level : Nat)
  /-- DIE_SENSOR_READ (R410). -/
  | dieSensorRead (temps : List Nat)
  /-- DIE_LEVEL_RELEASE (R410). -/
  | dieLevelRelease (e : Erg) (level : Nat)
  /-- POWER_CONTROL_TICK (R411). -/
  | powerControlTick (vin iin pin icore : Nat)
  /-- CORE_CURRENT_LIMIT (R411). -/
  | coreCurrentLimit
  /-- CORE_CURRENT_LIMIT_RELEASE (R411). -/
  | coreCurrentLimitRelease
  /-- ACLK_STEP_CHANGE (R23). -/
  | aclkStepChange (c : Core)
  /-- CARAVAN_STEP_CHANGE (R24). -/
  | caravanStepChange (c : Core)
  /-- PWR_LIMIT_WRITE (R411). -/
  | pwrLimitWrite (w : HostWr)
  /-- PWR_REMOVE_PREPARE (R419). -/
  | pwrRemovePrepare (w : HostWr)
  /-- PWR_RESET_MODULE (R416). -/
  | pwrResetModule (w : HostWr)
  /-- POWER_ON (R418). -/
  | powerOn
  /-- ROOT_PLL_LOCK (R387). -/
  | rootPllLock (testsPass : Bool)
  /-- POWER_LOSS (R408). -/
  | powerLoss (cause : PowerCause)
  /-- VIN_OUT_OF_RANGE (R406). -/
  | vinOutOfRange
  /-- COOLANT_INLET_HOT (R409). -/
  | coolantInletHot (temp : Nat)
  /-- MODULE_RESET_PIN (R416). -/
  | moduleResetPin
  /-- PERST_ASSERT (R416). -/
  | perstAssert (port : Port)
  /-- PERST_RELEASE (R416). -/
  | perstRelease (port : Port)
  /-- HOST_LINK_LOST (R325). -/
  | hostLinkLost (port : Port)
  /-- ROOT_CLOCK_LOST (R25). -/
  | rootClockLost
  /-- ROOT_PLL_RELOCK (R25). -/
  | rootPllRelock
  /-- LANE_PLL_LOCK_LOSS (R26). -/
  | lanePllLockLoss (lane : Lane)
  /-- REMOVE_REQ (R419). -/
  | removeReq
  /-- MATE_SENSE_LOST (R420). -/
  | mateSenseLost
  /-- STEP_SYNC_IN_EDGE (R238). -/
  | stepSyncInEdge
  /-- BOUNDARY_READY (R237). -/
  | boundaryReady (p : Part)
  /-- BOUNDARY_EARLIEST_REACHED (R238). -/
  | boundaryEarliestReached (p : Part)
  /-- BOUNDARY_LATEST_REACHED (R238). -/
  | boundaryLatestReached (p : Part)
  /-- LATE_DROP_EXPIRY (R238). -/
  | lateDropExpiry (p : Part)
  /-- SCALE_RECORD_UPDATE (R55). -/
  | scaleRecordUpdate (p : Part) (record step : Nat) (ev : MemEvent)
  /-- MICRO_BATCH_TABLE_WAIT_TIMEOUT (R227). -/
  | microBatchTableWaitTimeout (a : At)
  /-- VERSION_WAIT_TIMEOUT (R232). -/
  | versionWaitTimeout (a : Option At)
  /-- SYN_CTRL_WRITE (R246). -/
  | synCtrlWrite (p : Part) (w : HostWr)
  /-- SYN_STEP_WRITE (R246). -/
  | synStepWrite (p : Part) (w : HostWr)
  /-- CLOSE_ALL (R228). -/
  | closeAll (p : Part) (w : HostWr)
  /-- SYN_VERSION_ENABLE (R246). -/
  | synVersionEnable (p : Part) (w : HostWr)
  /-- SYN_SEED_KEY_WRITE (R241). -/
  | synSeedKeyWrite (p : Part) (w : HostWr)
  /-- SYN_RIPPLE_ENABLE (R247). -/
  | synRippleEnable (p : Part) (w : HostWr)
  /-- REPLAY_START (R244). -/
  | replayStart (p : Part) (w : HostWr)
  /-- REPLAY_ABORT (R244). -/
  | replayAbort (p : Part) (w : HostWr)
  /-- PASS_ISSUE (R73). -/
  | passIssue (x : IssueEv)
  /-- PASS_COMPLETE (R76). -/
  | passComplete (c : Core) (evs : List (Fin 4 × SramEvent))
  /-- DRAIN_ISSUE (R84). -/
  | drainIssue (x : IssueEv)
  /-- OUTPUT_UNIT_COMPLETE (R87). -/
  | outputUnitComplete (c : Core)
  /-- DRAIN_COMPLETE (R87). -/
  | drainComplete (c : Core) (evs : List SramEvent)
  /-- OPERAND_WAIT_TIMEOUT (R75). -/
  | operandWaitTimeout (c : Core)
  /-- VECTOR_ISSUE (R100). -/
  | vectorIssue (x : IssueEv) (gs : Bool)
  /-- VECTOR_COMPLETE (R103). -/
  | vectorComplete (c : Core) (gs : Bool) (finds : VectorFinds)
  /-- VECTOR_WAIT_TIMEOUT (R100). -/
  | vectorWaitTimeout (c : Core) (gs : Bool)
  /-- INDEX_FIFO_FILL (R123). -/
  | indexFifoFill (x : IssueEv)
  /-- TOKEN_WAIT_TIMEOUT (R171). -/
  | tokenWaitTimeout (a : At)
  /-- BANK_LOAD (R212). -/
  | bankLoad (c : Core) (bank : Nat) (v : Vcore)
  /-- BANK_SWITCH (R213). -/
  | bankSwitch (c : Core)
  /-- CARAVAN_INSTANCE_START (R198). -/
  | caravanInstanceStart (p : Part) (cdef : Nat)
  /-- FETCH_PART_START (R199). -/
  | fetchPartStart (p : Part) (cdef stage : Nat)
  /-- HAND_OVER_GRANULE_LAND (R204). -/
  | handOverGranuleLand (p : Part) (cdef stage : Nat) (fault : Option Nat)
  /-- CARAVAN_INSTANCE_END (R201). -/
  | caravanInstanceEnd (p : Part) (cdef : Nat)
  /-- DESCRIPTOR_LOAD (R306). -/
  | descriptorLoad (e : Erg) (dq : Nat) (given : Option (List Byte))
  /-- BURST_GRANT (R301). -/
  | burstGrant (c : Core) (credit : Bool)
  /-- BURST_LAND (R300). -/
  | burstLand (c : Core) (ch : DmaCh) (host : Option (List Byte)) (ev : MemEvent)
  /-- TRANSFER_COMPLETE (R298). -/
  | transferComplete (c : Core) (ch : DmaCh)
  /-- PACE_RESUME (R303). -/
  | paceResume (c : Core) (ch : DmaCh) (level : Nat)
  /-- DMA_CH_DISABLE (R308). -/
  | dmaChDisable (c : Core) (ch : DmaCh) (w : HostWr)
  /-- DMA_CH_HALTED_CLEAR (R312). -/
  | dmaChHaltedClear (c : Core) (ch : DmaCh) (w : HostWr)
  /-- DQ_STOP (R310). -/
  | dqStop (e : Erg) (dq : Nat) (w : HostWr)
  /-- DQ_STOPPED (R310). -/
  | dqStopped (e : Erg) (dq : Nat)
  /-- DQ_RESUME (R310). -/
  | dqResume (e : Erg) (dq : Nat) (w : HostWr)
  /-- OAS_CTRL_ENABLE (R250). -/
  | oasCtrlEnable (p : Part) (w : HostWr)
  /-- UPDATE_REQUEST_START (R257). -/
  | updateRequestStart
  /-- WORKING_COPY_WRITE_START (R233). -/
  | workingCopyWriteStart (slowBad : Bool) (finds : OasFinds)
  /-- UPDATE_COMMIT (R262). -/
  | updateCommit
  /-- OAS_QUEUE_CANCEL (R263). -/
  | oasQueueCancel (p : Part) (w : HostWr)
  /-- OAS_INIT (R255). -/
  | oasInit (p : Part) (w : HostWr)
  /-- OAS_READ (R255). -/
  | oasRead (p : Part) (w : HostWr)
  /-- OAS_DIGEST (R255). -/
  | oasDigest (p : Part) (w : HostWr)
  /-- INIT_QUANT (R255). -/
  | initQuant (p : Part) (w : HostWr)
  /-- OAS_TRANSFER_COMPLETE (R255). -/
  | oasTransferComplete (p : Part) (bad : List Nat) (finds : OasFinds)
  /-- OAS_DIGEST_KEY_WRITE (R266). -/
  | oasDigestKeyWrite (p : Part) (n : Fin 2) (w : HostWr)
  /-- OASIS_LINK_MODULE_RETIRED (R269). -/
  | oasisLinkModuleRetired (x : LinkModule)
  /-- FAB_CTRL_WRITE (R351). -/
  | fabCtrlWrite (w : HostWr)
  /-- FABRIC_PORT_DOWN (R329). -/
  | fabricPortDown (f : FPort)
  /-- FABRIC_PORT_UP (R329). -/
  | fabricPortUp (f : FPort)
  /-- FAB_AREA_CTRL_ENABLE (R342). -/
  | fabAreaCtrlEnable (p : Part) (w : HostWr)
  /-- FLOW_OPEN (R335). -/
  | flowOpen (p : Part) (w : HostWr)
  /-- FLOW_CLOSE (R335). -/
  | flowClose (p : Part) (w : HostWr)
  /-- HANDSHAKE (R336). -/
  | handshake (p : Part) (flow : Nat) (x : HandshakeEnd)
  /-- HANDSHAKE_TIMEOUT (R335). -/
  | handshakeTimeout (p : Part) (flow : Nat)
  /-- DATA (R339). -/
  | data (h : FrameHdr) (payload : List Byte)
  /-- ACK (R339). -/
  | ack (h : FrameHdr) (cum : Nat) (map : List Nat)
  /-- REQ (R341). -/
  | req (h : FrameHdr)
  /-- GRANT (R341). -/
  | grant (h : FrameHdr)
  /-- CREDIT_GRANT (R341). -/
  | creditGrant (p : Part)
  /-- CTRL_ABORT (R349). -/
  | ctrlAbort (h : FrameHdr) (tag inst : Nat)
  /-- CTRL_DETACH (R350). -/
  | ctrlDetach (h : FrameHdr) (tag inst : Nat)
  /-- CTRL_REMOVE (R335). -/
  | ctrlRemove (h : FrameHdr)
  /-- CTRL_CLOSE (R335). -/
  | ctrlClose (h : FrameHdr)
  /-- GROUP_KEY (R338). -/
  | groupKey (h : FrameHdr) (tag : Nat) (x : GroupKeyArgs)
  /-- GROUP_KEY_DISTRIBUTION (R338). -/
  | groupKeyDistribution (p : Part) (group : Nat)
  /-- RETRANSMIT_TIMEOUT (R339). -/
  | retransmitTimeout (p : Part) (flow psn : Nat)
  /-- ACK_TIMER (R339). -/
  | ackTimer (p : Part) (flow : Nat)
  /-- PORT_ROTATION_REJOIN (R340). -/
  | portRotationRejoin (p : Part) (flow : Nat) (f : FPort)
  /-- RECEIVE_QUEUE_BIND (R344). -/
  | receiveQueueBind
  /-- INSTANCE_COMPLETE (R348). -/
  | instanceComplete (p : Part) (group inst : Nat)
  /-- COLLECTIVE_WAIT_TIMEOUT (R349). -/
  | collectiveWaitTimeout (p : Part) (group inst : Nat)
  /-- RECEIVER_DETACH (R350). -/
  | receiverDetach (p : Part) (group inst rank : Nat)
  /-- HOST_FENCE (R356). -/
  | hostFence (w : HostWr)
  /-- HLT_CTRL_WRITE (R381). -/
  | hltCtrlWrite (w : HostWr)
  /-- SIROCCO_START (R357). -/
  | siroccoStart (p : Part) (w : HostWr)
  /-- SIROCCO_RUN_START (R359). -/
  | siroccoRunStart (p : Part)
  /-- SIROCCO_JUDGE (R360). -/
  | siroccoJudge (p : Part) (digests : List (Nat × Option (Nat × Nat)))
  /-- SIROCCO_RERUN (R361). -/
  | siroccoRerun (p : Part) (digests : List (Nat × Option (Nat × Nat)))
  /-- PAIR_ENABLE_WRITE (R362). -/
  | pairEnableWrite (p : Part) (w : HostWr)
  /-- MIRAGE_CHECK_START (R366). -/
  | mirageCheckStart (p : Part)
  /-- MIRAGE_VERDICT (R368). -/
  | mirageVerdict (p : Part) (fail : Nat) (bad : List (Nat × Nat)) (link : Nat × Nat)
  /-- MIRAGE_CLEAR (R370). -/
  | mirageClear (p : Part) (w : HostWr)
  /-- MIRAGE_HALTED_CLEAR (R370). -/
  | mirageHaltedClear (p : Part) (w : HostWr)
  /-- DIAGNOSTIC_DUMP (R379). -/
  | diagnosticDump (w : HostWr)
  /-- HLT_ERR_CTRL_ENABLE (R381). -/
  | hltErrCtrlEnable (p : Part) (w : HostWr)
  /-- OASIS_QUEUE_FULL (R256). -/
  | oasisQueueFull (a : At)
  /-- HOST_LINK_UP (R325). -/
  | hostLinkUp (port : Port) (gen : Nat)
  /-- FLOW_CLOSING_TIMEOUT (R335). -/
  | flowClosingTimeout (p : Part) (flow : Nat)
  /-- VIN_BACK_IN_RANGE (R406). -/
  | vinBackInRange
  /-- COOLANT_INLET_NORMAL (R409). -/
  | coolantInletNormal (temp : Nat)
  /-- OASIS_DIE_INTERNAL_FAULT (R371). -/
  | oasisDieInternalFault
  /-- FULL_ZEROIZATION_COMPLETE (R293). -/
  | fullZeroizationComplete (bad : List Nat)
  /-- BANK_LOAD_COMPLETE (R213). -/
  | bankLoadComplete (c : Core)
  /-- DIAGNOSTIC_DUMP_COMPLETE (R379). -/
  | diagnosticDumpComplete (ok : Bool)
  /-- TEST_ACCESS_PORT_INSTRUCTION (R415). -/
  | testAccessPortInstruction (k : JtagInstr)
  /-- NON_XFT_FRAME_RECEIVED (R328). -/
  | nonXftFrameReceived (f : FPort) (pause : Bool)
deriving DecidableEq, Repr

end Sys2Proof
end

