-- ==== Sys2Proof/Decode.lean ====
section
/-!
DEFINITION. What a word spells. The rows of the opcode table give no bits: a command of this block is no word of a program,
so that no word spells one.
-/

namespace Sys2Proof

/-- The command that a word spells by the table's bits: none, since no row gives bits. -/
def decodeTableWord (_nbits _w : Nat) : Option Instr := none

end Sys2Proof
end

