-- ==== Sys2Proof/Machine/Float.lean ====
section
/-!
DEFINITION. fp32 and bf16 arithmetic on bit patterns, computed exactly and rounded once to nearest, ties to even
(R29 to R32), and the integer roundings of the spec. Bit patterns are natural numbers below 2^32 and 2^16.
-/

namespace Sys2Proof.Machine

/-- The rounding shift of R29. -/
def rneShift (x : Int) (n : Nat) : Int :=
  if n = 0 then x else
    let q := x / 2 ^ n
    let r := x - q * 2 ^ n
    let h : Int := 2 ^ (n - 1)
    if h < r then q + 1 else if r < h then q else q + q % 2

/-- A value of a float format: NaN, an infinity, or sign, significand and exponent of ± m × 2^e. -/
inductive FV
  | nan
  | inf (neg : Bool)
  | fin (neg : Bool) (m : Nat) (e : Int)
deriving DecidableEq, Repr

/-- The value of an fp32 bit pattern; a subnormal operand reads as zero of the same sign (R30). -/
def dec32 (b : Nat) : FV :=
  let neg := b / 2 ^ 31 % 2 == 1
  let ex : Nat := b / 2 ^ 23 % 256
  let fr : Nat := b % 2 ^ 23
  if ex = 255 then (if fr = 0 then .inf neg else .nan)
  else if ex = 0 then .fin neg 0 0
  else .fin neg (fr + 2 ^ 23) ((ex : Int) - 150)

/-- Round ± m × 2^e to `prec` significant bits and write it as sign, 8-bit exponent and prec - 1 fraction bits. A result
that is subnormal after rounding is zero of the same sign (R30); overflow gives infinity (R31). -/
def enc (prec : Nat) (neg : Bool) (m : Nat) (e : Int) : Nat :=
  let sign := if neg then 2 ^ (prec + 7) else 0
  if m = 0 then sign else
    let q := max ((Nat.log2 m : Int) + e - (prec - 1 : Nat)) (-126 - (prec - 1 : Nat))
    let sig : Nat := if q ≤ e then m * 2 ^ (e - q).toNat else (rneShift m (q - e).toNat).toNat
    let (sig, q) := if 2 ^ prec ≤ sig then (sig / 2, q + 1) else (sig, q)
    if sig < 2 ^ (prec - 1) then sign
    else
      let ex := q + (prec - 1 : Nat) + 127
      if 255 ≤ ex then sign + 255 * 2 ^ (prec - 1)
      else sign + ex.toNat * 2 ^ (prec - 1) + (sig - 2 ^ (prec - 1))

/-- The canonical NaN and the infinities of fp32 (R31). -/
def nan32 : Nat := 0x7FC00000
def inf32 (neg : Bool) : Nat := if neg then 0xFF800000 else 0x7F800000

/-- The fp32 bits nearest a value. -/
def enc32 : FV → Nat
  | .nan => nan32
  | .inf n => inf32 n
  | .fin n m e => enc 24 n m e

/-- The bf16 bits nearest a value (R32). -/
def encBf : FV → Nat
  | .nan => 0x7FC0
  | .inf n => if n then 0xFF80 else 0x7F80
  | .fin n m e => enc 8 n m e

/-- bf16 to fp32 appends 16 zero bits (R32). -/
def bfTo32 (b : Nat) : Nat := b % 65536 * 65536

/-- fp32 to bf16 (R32). -/
def toBf (b : Nat) : Nat := encBf (dec32 b)

/-- The exact value of a signed integer times a power of two. -/
def FV.ofScaled (x : Int) (e : Int) : FV := .fin (decide (x < 0)) x.natAbs e

/-- fp32 of an integer (R29). -/
def i32 (x : Int) : Nat := enc32 (FV.ofScaled x 0)

/-- A finite value as an integer at exponent e, where e is not above its own. -/
def FV.at (n : Bool) (m : Nat) (e0 e : Int) : Int := (if n then -1 else 1) * ((m * 2 ^ (e0 - e).toNat : Nat) : Int)

/-- The exact sum; opposite zeros give +0, equal zeros keep their sign. -/
def FV.add : FV → FV → FV
  | .nan, _ => .nan
  | _, .nan => .nan
  | .inf a, .inf b => if a = b then .inf a else .nan
  | .inf a, _ => .inf a
  | _, .inf b => .inf b
  | .fin a m e, .fin b k f =>
    if m = 0 then (if k = 0 then .fin (a && b) 0 0 else .fin b k f)
    else if k = 0 then .fin a m e
    else
      let g := min e f
      let x := FV.at a m e g + FV.at b k f g
      if x = 0 then .fin false 0 0 else FV.ofScaled x g

/-- The exact product. -/
def FV.mul : FV → FV → FV
  | .nan, _ => .nan
  | _, .nan => .nan
  | .inf a, .inf b => .inf (a != b)
  | .inf a, .fin b k _ => if k = 0 then .nan else .inf (a != b)
  | .fin a m _, .inf b => if m = 0 then .nan else .inf (a != b)
  | .fin a m e, .fin b k f => .fin (a != b) (m * k) (e + f)

/-- The quotient to 64 bits beyond the divisor, with a sticky bit below, so that one rounding of it is the rounding of
the exact quotient. -/
def FV.div : FV → FV → FV
  | .nan, _ => .nan
  | _, .nan => .nan
  | .inf _, .inf _ => .nan
  | .inf a, .fin b _ _ => .inf (a != b)
  | .fin a _ _, .inf b => .fin (a != b) 0 0
  | .fin a m e, .fin b k f =>
    if k = 0 then (if m = 0 then .nan else .inf (a != b))
    else
      let q := m * 2 ^ 64 / k
      let sticky := if m * 2 ^ 64 % k = 0 then 0 else 1
      .fin (a != b) (2 * q + sticky) (e - f - 65)

/-- The negated value; a NaN stays NaN. -/
def FV.neg : FV → FV
  | .nan => .nan
  | .inf a => .inf (!a)
  | .fin a m e => .fin (!a) m e

/-- The value times 2^k, exactly (R44: an exponent shift). -/
def FV.scale (v : FV) (k : Int) : FV :=
  match v with
  | .fin a m e => .fin a m (e + k)
  | v => v

/-- Correctly rounded fp32 operations on bit patterns (R29). -/
def f32add (a b : Nat) : Nat := enc32 (FV.add (dec32 a) (dec32 b))
def f32sub (a b : Nat) : Nat := enc32 (FV.add (dec32 a) (FV.neg (dec32 b)))
def f32mul (a b : Nat) : Nat := enc32 (FV.mul (dec32 a) (dec32 b))
def f32fma (a b c : Nat) : Nat := enc32 (FV.add (FV.mul (dec32 a) (dec32 b)) (dec32 c))
def f32div (a b : Nat) : Nat := enc32 (FV.div (dec32 a) (dec32 b))
def f32neg (a : Nat) : Nat := enc32 (FV.neg (dec32 a))

/-- The magnitude. -/
def f32abs (a : Nat) : Nat :=
  match dec32 a with
  | .nan => nan32
  | .inf _ => inf32 false
  | .fin _ m e => enc32 (.fin false m e)

/-- fp32 times a power of two. -/
def f32scale (a : Nat) (k : Int) : Nat := enc32 ((dec32 a).scale k)

/-- Neither NaN nor infinite. -/
def f32finite (a : Nat) : Bool := a / 2 ^ 23 % 256 != 255
def f32isNan (a : Nat) : Bool := dec32 a == .nan

/-- A normal number: neither zero, subnormal, infinite nor NaN. -/
def f32normal (a : Nat) : Bool := a / 2 ^ 23 % 256 != 255 && a / 2 ^ 23 % 256 != 0

/-- The order-preserving key of R53: unsigned order of keys is numeric order, −0.0 just below +0.0. -/
def keyOf (a : Nat) : Nat := if a / 2 ^ 31 % 2 = 0 then a % 2 ^ 32 + 2 ^ 31 else 2 ^ 32 - 1 - a % 2 ^ 32

/-- The bits that a key stands for. -/
def unKey (k : Nat) : Nat := if 2 ^ 31 ≤ k then k - 2 ^ 31 else 2 ^ 32 - 1 - k

/-- Numeric maximum and minimum, +0.0 above −0.0, the canonical NaN if either is NaN. -/
def f32max (a b : Nat) : Nat :=
  if f32isNan a || f32isNan b then nan32
  else
    let a := enc32 (dec32 a)
    let b := enc32 (dec32 b)
    if keyOf a < keyOf b then b else a
def f32min (a b : Nat) : Nat :=
  if f32isNan a || f32isNan b then nan32
  else
    let a := enc32 (dec32 a)
    let b := enc32 (dec32 b)
    if keyOf b < keyOf a then b else a

/-- a < b numerically: zeros are equal, a NaN compares false. -/
def f32lt (a b : Nat) : Bool :=
  match dec32 a, dec32 b with
  | .nan, _ => false
  | _, .nan => false
  | .inf x, .inf y => x && !y
  | .inf x, _ => x
  | _, .inf y => !y
  | .fin x m e, .fin y k f => let g := min e f; decide (FV.at x m e g < FV.at y k f g)

/-- a = b numerically. -/
def f32eq (a b : Nat) : Bool := !f32isNan a && !f32isNan b && !f32lt a b && !f32lt b a

/-- rne_int of R29: the nearest integer to a finite value, ties to even; `big` stands for a magnitude beyond any clamp
where the operand is infinite (R41). -/
def rneInt (a : Nat) : Int :=
  match dec32 a with
  | .nan => 0
  | .inf n => if n then -(2 ^ 200) else 2 ^ 200
  | .fin n m e =>
    let x : Int := if n then -(m : Int) else m
    if 0 ≤ e then x * 2 ^ e.toNat else rneShift x (-e).toNat

/-- Clamp to [lo, hi]. -/
def clampI (lo hi x : Int) : Int := if x < lo then lo else if hi < x then hi else x

/-- sat32 of R42. -/
def sat32 (x : Int) : Int := clampI (-2147483648) 2147483647 x

/-- The exponent and 24-bit significand of a normal fp32 number. -/
def expOf (a : Nat) : Int := ((a / 2 ^ 23 % 256 : Nat) : Int) - 127
def sigOf (a : Nat) : Nat := a % 2 ^ 23 + 2 ^ 23

/-- One constant, 1.0. -/
def one32 : Nat := 0x3F800000

/-- The multiplier and shift of an output conversion from the ratio r (R47): none where r is not normal or SH leaves 0
to 62. -/
def ratioOf (r : Nat) : Option (Int × Nat) :=
  if f32normal r && r / 2 ^ 31 % 2 == 0 then
    let m := rneShift (sigOf r) 8
    let sh := 15 - expOf r
    let (m, sh) := if m = 65536 then (32768, sh - 1) else (m, sh)
    if 0 ≤ sh ∧ sh ≤ 62 then some (m, sh.toNat) else none
  else none

/-- Quantization of an fp32 value to int8 (R40, R31): the code, a saturation, a non-finite value. -/
def quant8 (x invS : Nat) (z : Int) : Int × Bool × Bool :=
  if f32isNan x then (z, false, true)
  else
    let q := rneInt (f32mul x invS) + z
    let c := clampI (-128) 127 q
    let c := if f32finite x then c else (if x / 2 ^ 31 % 2 = 1 then -128 else 127)
    (c, decide (q ≠ c) || !f32finite x, !f32finite x)

end Sys2Proof.Machine
end

