-- ==== Sys2Proof/Config.lean ====
section
/-!
DEFINITION. What the spec leaves open: free values and functions that nothing in the model can evaluate. A statement about
them holds whatever they are.
-/

namespace Sys2Proof.Config

/-- A value that the spec leaves undefined after a command that goes on (log entry 2): the n-th one drawn. -/
opaque freeValue : Nat → Nat

/-- What a read of a field "undefined until written" returns before the first write (R13), from the field's key (log entry 3). -/
opaque unwritten : Nat → Nat

/-- The approximated functions of R103 on fp32 bit patterns (R104: fixed functions; log entry 6). -/
opaque recip : Nat → Nat
opaque rsqrt : Nat → Nat
opaque exp : Nat → Nat
opaque log : Nat → Nat
opaque tanh : Nat → Nat
opaque sigmoid : Nat → Nat
opaque gelu : Nat → Nat
opaque silu : Nat → Nat

/-- What the quantizer makes of a block or a tensor that holds a NaN or an infinity, of which R38 and R39 say nothing
(log entry 7): the tensor exponent, the multiplier and the code of a non-finite weight, from the weights. -/
opaque nonFiniteExp : List Nat → Int
opaque nonFiniteMul : List Nat → Nat
opaque nonFiniteCode : Nat → Nat

/-- SHA-384 (log entry 16: the spec names the function and does not define it). -/
opaque sha384 : List (BitVec 8) → BitVec 384

/-- What the mask ROM holds (R383) and the spec gives no value of: the SVN floor of the stepping, and the SHA-384 of the ROM
that measurement 1 reports (R393). Log entry 21. -/
opaque svnFloor : BitVec 32
opaque romDigest : BitVec 384

/-- The keys whose SHA-384 hashes stand in the mask ROM (R383), of which the spec gives no value: the vendor's RSA-3072 moduli and
SLH-DSA public keys by slot 0 to 3, and the two test-access keys. Log entry 21. -/
opaque vendorRsaKey : Nat → BitVec 3072
opaque vendorSlhKey : Nat → BitVec 384
opaque testRsaKey : BitVec 3072
opaque testSlhKey : BitVec 384

/-- AES-256-GCM (R337): the payload of a frame encrypted, followed by its 16-byte tag, from the 256-bit key, the 96-bit IV, the
header and the payload; and AES-256-XTS (R399): what a 128-byte unit reads as once the key it was written under is destroyed,
from that key, its tweak and what it held. The spec names both and defines neither. Log entries 16 and 62. -/
opaque gcm : Nat → Nat → List (BitVec 8) → List (BitVec 8) → List (BitVec 8)
opaque xtsLost : Nat → Nat → List (BitVec 8) → Nat → BitVec 8

/-- The address straps ADDR0 to ADDR2 of the baseboard (R414). Log entry 21. -/
opaque addrStraps : BitVec 3

/-- The bytes of native code that the translator makes of an instruction stream (R141 and R196 bound their number and do not
give it; log entry 42). -/
opaque codeSize : List Nat → Nat

/-- What stands in the version area for a binding of a micro-batch to a slot (R230 gives its place as a whole and no layout; log
entry 39). -/
opaque bindingWord : List Nat → Nat

/-- The endpoint UUID that the management controller reports over MCTP (R421), of which the spec gives no value. Log entry 21. -/
opaque endpointUuid : Nat

end Sys2Proof.Config
end

