-- ==== Sys2Proof/Machine/SMap.lean ====
section
/-!
DEFINITION. Sparse maps in one canonical form: keys strictly rising, and no entry equal to what an unlisted key reads
as. The register file, the memories and every table of contexts of the state is held in one of these.
-/

namespace Sys2Proof.Machine

/-- A sparse map: (key, value) pairs. What an unlisted key reads as is an argument of each operation. -/
abbrev SMap (α : Type) := List (Nat × α)

/-- Every key of the map is above `k`, and the keys rise strictly. -/
def SMap.above {α : Type} (k : Nat) : SMap α → Bool
  | [] => true
  | (j, _) :: m => decide (k < j) && SMap.above j m

/-- The canonical form: keys strictly rising, no entry equal to the default `d`. -/
def SMap.wf {α : Type} [DecidableEq α] (d : α) : SMap α → Bool
  | [] => true
  | (j, v) :: m => decide (v ≠ d) && SMap.above j m && SMap.wf d m

/-- The value at key `k`; `d` where nothing is listed. -/
def SMap.get {α : Type} (d : α) : SMap α → Nat → α
  | [], _ => d
  | (j, v) :: m, k => if k = j then v else SMap.get d m k

/-- The map with `v` at key `k`; writing the default removes the entry. -/
def SMap.set {α : Type} [DecidableEq α] (d : α) : SMap α → Nat → α → SMap α
  | [], k, v => if v = d then [] else [(k, v)]
  | (j, u) :: m, k, v =>
    if k < j then (if v = d then (j, u) :: m else (k, v) :: (j, u) :: m)
    else if k = j then (if v = d then m else (k, v) :: m)
    else (j, u) :: SMap.set d m k v

/-- The map without the entries whose key meets `p`. -/
def SMap.drop {α : Type} (p : Nat → Bool) : SMap α → SMap α
  | [] => []
  | (j, v) :: m => if p j then SMap.drop p m else (j, v) :: SMap.drop p m

/-- Write a list of (key, value) pairs, from the first to the last. -/
def SMap.setAll {α : Type} [DecidableEq α] (d : α) (m : SMap α) : List (Nat × α) → SMap α
  | [] => m
  | (k, v) :: r => SMap.setAll d (SMap.set d m k v) r

/-- The keys listed. -/
def SMap.keys {α : Type} (m : SMap α) : List Nat := m.map (·.1)

end Sys2Proof.Machine
end

