-- ==== Sys2Proof/Machine/Regs.lean ====
section
/-!
DEFINITION. The registers: one field accessor for every field of every register map of the spec, and the table of the
registers by which a host write is applied (R8, R428). A field is known by the BAR0 offset of its register and its low
bit; the copy of a banked register that H1 sees has 0x100_0000 added (R430). The context registers of queue q, which
BAR0 shows through QUE_SEL, stand at 0x200_0000 + 64 × q plus their offset from 0x800.
-/

namespace Sys2Proof.Machine

/-- A register field: the offset of its register, its low bit, its width and its After power-up value (0 where the spec
says undefined until written: DESIGN CHOICE, log entry 3). -/
structure Fld where
  key : Nat
  lo : Nat
  w : Nat
  rst : Nat
deriving DecidableEq, Repr

/-- The key of a field in the register file. -/
def Fld.id (f : Fld) : Nat := f.key * 64 + f.lo

/-- The access codes of R8. `ctr` is RW on a counter that the host clears by writing 0 (R433). -/
inductive Acc
  | rw
  | ctr
  | ro
  | wo
  | w1c
  | w1s
  | rwl
deriving DecidableEq, Repr

/-- One field of a register map. -/
structure FRow where
  hi : Nat
  lo : Nat
  acc : Acc
  undef : Bool
  rst : Nat
deriving DecidableEq, Repr

/-- The kinds of registers of R430. -/
inductive RKind
  | global
  | banked
  | part
  | core
  | queue
deriving DecidableEq, Repr

/-- One register map: its offset in its block, the (count, stride) of its indexes from the widest stride down, its kind
and its fields. -/
structure RRow where
  name : String
  kind : RKind
  base : Nat
  dims : List (Nat × Nat)
  fields : List FRow
deriving DecidableEq, Repr

/-- The BAR0 offset of the page of core c (R428). -/
def coreBase (c : Nat) : Nat := 0x410000 + 0x80000 * (c / 16) + 0x4000 * (c % 16)

/-- What is added to the offset of a banked register in port b's copy (R430). -/
def bankOff (b : Port) : Nat := 0x1000000 * b.num

/-- Where the context registers of queue q stand. -/
def queueBase (q : Nat) : Nat := 0x2000000 + 64 * q

namespace Reg

/-- CLK_STATUS.FAB_LANE_LOCK (R26). -/
def CLK_STATUS_FAB_LANE_LOCK (f h : Nat) : Fld := ⟨0x10000, 8 + 2 * f + h, 1, 0⟩

/-- CLK_STATUS.OASIS_LOCK (R26). -/
def CLK_STATUS_OASIS_LOCK : Fld := ⟨0x10000, 5, 1, 1⟩

/-- CLK_STATUS.H1_LOCK (R26). -/
def CLK_STATUS_H1_LOCK : Fld := ⟨0x10000, 4, 1, 1⟩

/-- CLK_STATUS.H0_LOCK (R26). -/
def CLK_STATUS_H0_LOCK : Fld := ⟨0x10000, 3, 1, 1⟩

/-- CLK_STATUS.ROOT_LOSS_SEEN (R26). -/
def CLK_STATUS_ROOT_LOSS_SEEN : Fld := ⟨0x10000, 2, 1, 0⟩

/-- CLK_STATUS.ROOT_LOCK (R26). -/
def CLK_STATUS_ROOT_LOCK : Fld := ⟨0x10000, 1, 1, 1⟩

/-- CLK_STATUS.REF_PRESENT (R26). -/
def CLK_STATUS_REF_PRESENT : Fld := ⟨0x10000, 0, 1, 1⟩

/-- CLK_ACLK_STEP.STEP (R26). -/
def CLK_ACLK_STEP_STEP (c : Nat) : Fld := ⟨0x10008 + 8 * (c / 32), 2 * (c % 32), 2, 0⟩

/-- ENG_SCALE_BASE.BASE (R50). -/
def ENG_SCALE_BASE_BASE (p : Nat) : Fld := ⟨0x80200 + 0x8000 * p, 21, 19, 0⟩

/-- ENG_SCALE_CTRL.ENABLE (R50). -/
def ENG_SCALE_CTRL_ENABLE (p : Nat) : Fld := ⟨0x80208 + 0x8000 * p, 16, 1, 0⟩

/-- ENG_SCALE_CTRL.RECORDS (R50). -/
def ENG_SCALE_CTRL_RECORDS (p : Nat) : Fld := ⟨0x80208 + 0x8000 * p, 0, 14, 0⟩

/-- ENG_STATUS.LAST_CODE (R97). -/
def ENG_STATUS_LAST_CODE (c : Nat) : Fld := ⟨coreBase c, 16, 16, 0⟩

/-- ENG_STATUS.SLOT_STATE (R97). -/
def ENG_STATUS_SLOT_STATE (c t : Nat) : Fld := ⟨coreBase c, 8 + 2 * t, 2, 0⟩

/-- ENG_STATUS.GANG_ROLE (R97). -/
def ENG_STATUS_GANG_ROLE (c : Nat) : Fld := ⟨coreBase c, 6, 2, 0⟩

/-- ENG_STATUS.GANGED (R97). -/
def ENG_STATUS_GANGED (c : Nat) : Fld := ⟨coreBase c, 5, 1, 0⟩

/-- ENG_STATUS.HOLD (R97). -/
def ENG_STATUS_HOLD (c : Nat) : Fld := ⟨coreBase c, 4, 1, 0⟩

/-- ENG_STATUS.DRAIN_WAIT (R97). -/
def ENG_STATUS_DRAIN_WAIT (c : Nat) : Fld := ⟨coreBase c, 3, 1, 0⟩

/-- ENG_STATUS.FILL_WAIT (R97). -/
def ENG_STATUS_FILL_WAIT (c : Nat) : Fld := ⟨coreBase c, 2, 1, 0⟩

/-- ENG_STATUS.DRAIN_BUSY (R97). -/
def ENG_STATUS_DRAIN_BUSY (c : Nat) : Fld := ⟨coreBase c, 1, 1, 0⟩

/-- ENG_STATUS.FILL_BUSY (R97). -/
def ENG_STATUS_FILL_BUSY (c : Nat) : Fld := ⟨coreBase c, 0, 1, 0⟩

/-- ENG_ACC_SAT_COUNT.COUNT (R97). -/
def ENG_ACC_SAT_COUNT_COUNT (c : Nat) : Fld := ⟨coreBase c + 0x8, 0, 32, 0⟩

/-- ENG_ISSUE_TIMEOUT.LIMIT (R97). -/
def ENG_ISSUE_TIMEOUT_LIMIT (c : Nat) : Fld := ⟨coreBase c + 0x10, 0, 32, 0⟩

/-- ENG_PASS_COUNT.PASSES (R97). -/
def ENG_PASS_COUNT_PASSES (c : Nat) : Fld := ⟨coreBase c + 0x18, 0, 48, 0⟩

/-- ENG_WAIT_CYCLES.CYCLES (R97). -/
def ENG_WAIT_CYCLES_CYCLES (c : Nat) : Fld := ⟨coreBase c + 0x20, 0, 48, 0⟩

/-- ENG_SRAM_ERR.ACC_CORRECTED (R97). -/
def ENG_SRAM_ERR_ACC_CORRECTED (c : Nat) : Fld := ⟨coreBase c + 0x28, 16, 16, 0⟩

/-- ENG_SRAM_ERR.STG_CORRECTED (R97). -/
def ENG_SRAM_ERR_STG_CORRECTED (c : Nat) : Fld := ⟨coreBase c + 0x28, 0, 16, 0⟩

/-- ENG_PRESENT_A.PRESENT (R97). -/
def ENG_PRESENT_A_PRESENT (c g : Nat) : Fld := ⟨coreBase c + 0x40 + 8 * (g / 64), g % 64, 1, 0⟩

/-- ENG_PRESENT_B.PRESENT (R97). -/
def ENG_PRESENT_B_PRESENT (c g : Nat) : Fld := ⟨coreBase c + 0x58 + 8 * (g / 64), g % 64, 1, 0⟩

/-- ENG_PRESENT_X.PRESENT (R97). -/
def ENG_PRESENT_X_PRESENT (c g : Nat) : Fld := ⟨coreBase c + 0x70 + 8 * (g / 64), g % 64, 1, 0⟩

/-- VEC_STATUS.LAST_CODE (R130). -/
def VEC_STATUS_LAST_CODE (c : Nat) : Fld := ⟨coreBase c + 0x400, 16, 16, 0⟩

/-- VEC_STATUS.RECORD_GUARD (R130). -/
def VEC_STATUS_RECORD_GUARD (c : Nat) : Fld := ⟨coreBase c + 0x400, 5, 1, 0⟩

/-- VEC_STATUS.GS_WAIT (R130). -/
def VEC_STATUS_GS_WAIT (c : Nat) : Fld := ⟨coreBase c + 0x400, 4, 1, 0⟩

/-- VEC_STATUS.GS_BUSY (R130). -/
def VEC_STATUS_GS_BUSY (c : Nat) : Fld := ⟨coreBase c + 0x400, 3, 1, 0⟩

/-- VEC_STATUS.TOPK_BUSY (R130). -/
def VEC_STATUS_TOPK_BUSY (c : Nat) : Fld := ⟨coreBase c + 0x400, 2, 1, 0⟩

/-- VEC_STATUS.VEC_WAIT (R130). -/
def VEC_STATUS_VEC_WAIT (c : Nat) : Fld := ⟨coreBase c + 0x400, 1, 1, 0⟩

/-- VEC_STATUS.VEC_BUSY (R130). -/
def VEC_STATUS_VEC_BUSY (c : Nat) : Fld := ⟨coreBase c + 0x400, 0, 1, 0⟩

/-- VEC_FIFO_LEVEL.LEVEL (R130). -/
def VEC_FIFO_LEVEL_LEVEL (c : Nat) : Fld := ⟨coreBase c + 0x408, 0, 13, 0⟩

/-- VEC_SAT_COUNT.COUNT (R130). -/
def VEC_SAT_COUNT_COUNT (c : Nat) : Fld := ⟨coreBase c + 0x410, 0, 32, 0⟩

/-- VEC_NONFINITE_COUNT.COUNT (R130). -/
def VEC_NONFINITE_COUNT_COUNT (c : Nat) : Fld := ⟨coreBase c + 0x418, 0, 32, 0⟩

/-- VEC_OP_COUNT.OPS (R130). -/
def VEC_OP_COUNT_OPS (c : Nat) : Fld := ⟨coreBase c + 0x420, 0, 48, 0⟩

/-- SEQ_MODULE_BASE.BASE (R174). -/
def SEQ_MODULE_BASE_BASE (p : Nat) : Fld := ⟨0x80210 + 0x8000 * p, 21, 19, 0⟩

/-- SEQ_MODULE_CTRL.ENABLE (R174). -/
def SEQ_MODULE_CTRL_ENABLE (p : Nat) : Fld := ⟨0x80218 + 0x8000 * p, 16, 1, 0⟩

/-- SEQ_MODULE_CTRL.SIZE (R174). -/
def SEQ_MODULE_CTRL_SIZE (p : Nat) : Fld := ⟨0x80218 + 0x8000 * p, 0, 10, 0⟩

/-- SEQ_STATUS.LAST_CODE (R181). -/
def SEQ_STATUS_LAST_CODE (c : Nat) : Fld := ⟨coreBase c + 0x800, 16, 16, 0⟩

/-- SEQ_STATUS.VCORE (R181). -/
def SEQ_STATUS_VCORE (c : Nat) : Fld := ⟨coreBase c + 0x800, 8, 8, 255⟩

/-- SEQ_STATUS.ACTIVE_BANK (R181). -/
def SEQ_STATUS_ACTIVE_BANK (c : Nat) : Fld := ⟨coreBase c + 0x800, 7, 1, 0⟩

/-- SEQ_STATUS.RELOAD (R181). -/
def SEQ_STATUS_RELOAD (c : Nat) : Fld := ⟨coreBase c + 0x800, 6, 1, 0⟩

/-- SEQ_STATUS.WAIT_TOKEN (R181). -/
def SEQ_STATUS_WAIT_TOKEN (c : Nat) : Fld := ⟨coreBase c + 0x800, 5, 1, 0⟩

/-- SEQ_STATUS.WAIT_BARRIER (R181). -/
def SEQ_STATUS_WAIT_BARRIER (c : Nat) : Fld := ⟨coreBase c + 0x800, 4, 1, 0⟩

/-- SEQ_STATUS.SAVING (R181). -/
def SEQ_STATUS_SAVING (c : Nat) : Fld := ⟨coreBase c + 0x800, 3, 1, 0⟩

/-- SEQ_STATUS.RUNNING (R181). -/
def SEQ_STATUS_RUNNING (c : Nat) : Fld := ⟨coreBase c + 0x800, 0, 1, 0⟩

/-- SEQ_RETIRED.COUNT (R181). -/
def SEQ_RETIRED_COUNT (c : Nat) : Fld := ⟨coreBase c + 0x808, 0, 48, 0⟩

/-- CAR_STATUS.LAST_CODE (R216). -/
def CAR_STATUS_LAST_CODE (c : Nat) : Fld := ⟨coreBase c + 0xc00, 32, 16, 0⟩

/-- CAR_STATUS.DISCARDED (R216). -/
def CAR_STATUS_DISCARDED (c : Nat) : Fld := ⟨coreBase c + 0xc00, 16, 16, 0⟩

/-- CAR_STATUS.HOLD (R216). -/
def CAR_STATUS_HOLD (c : Nat) : Fld := ⟨coreBase c + 0xc00, 6, 1, 0⟩

/-- CAR_STATUS.DRAINING (R216). -/
def CAR_STATUS_DRAINING (c : Nat) : Fld := ⟨coreBase c + 0xc00, 5, 1, 0⟩

/-- CAR_STATUS.CREDIT_WAIT (R216). -/
def CAR_STATUS_CREDIT_WAIT (c : Nat) : Fld := ⟨coreBase c + 0xc00, 4, 1, 0⟩

/-- CAR_STATUS.WIN_WAIT (R216). -/
def CAR_STATUS_WIN_WAIT (c : Nat) : Fld := ⟨coreBase c + 0xc00, 3, 1, 0⟩

/-- CAR_STATUS.RENDEZVOUS (R216). -/
def CAR_STATUS_RENDEZVOUS (c : Nat) : Fld := ⟨coreBase c + 0xc00, 2, 1, 0⟩

/-- CAR_STATUS.FETCH_AHEAD (R216). -/
def CAR_STATUS_FETCH_AHEAD (c : Nat) : Fld := ⟨coreBase c + 0xc00, 1, 1, 0⟩

/-- CAR_STATUS.ACTIVE (R216). -/
def CAR_STATUS_ACTIVE (c : Nat) : Fld := ⟨coreBase c + 0xc00, 0, 1, 0⟩

/-- CAR_INSTANCES.COUNT (R216). -/
def CAR_INSTANCES_COUNT (c : Nat) : Fld := ⟨coreBase c + 0xc08, 0, 48, 0⟩

/-- CAR_STAGE.PARTIAL (R216). -/
def CAR_STAGE_PARTIAL (c s : Nat) : Fld := ⟨coreBase c + 0xc10 + 0x8 * s, 36, 1, 0⟩

/-- CAR_STAGE.AHEAD (R216). -/
def CAR_STAGE_AHEAD (c s : Nat) : Fld := ⟨coreBase c + 0xc10 + 0x8 * s, 33, 3, 0⟩

/-- CAR_STAGE.HOSTED (R216). -/
def CAR_STAGE_HOSTED (c s : Nat) : Fld := ⟨coreBase c + 0xc10 + 0x8 * s, 32, 1, 0⟩

/-- CAR_STAGE.DONE (R216). -/
def CAR_STAGE_DONE (c s : Nat) : Fld := ⟨coreBase c + 0xc10 + 0x8 * s, 0, 32, 0⟩

/-- CAR_IMEM.SWITCHES (R216). -/
def CAR_IMEM_SWITCHES (c : Nat) : Fld := ⟨coreBase c + 0xc50, 16, 32, 0⟩

/-- CAR_IMEM.BUSY (R216). -/
def CAR_IMEM_BUSY (c : Nat) : Fld := ⟨coreBase c + 0xc50, 0, 16, 0⟩

/-- SYN_CTRL.LATE_DROP (R246). -/
def SYN_CTRL_LATE_DROP (p : Nat) : Fld := ⟨0x80300 + 0x8000 * p, 33, 23, 0⟩

/-- SYN_CTRL.MB_SYNC (R246). -/
def SYN_CTRL_MB_SYNC (p : Nat) : Fld := ⟨0x80300 + 0x8000 * p, 2, 1, 0⟩

/-- SYN_CTRL.USE_SYNC (R246). -/
def SYN_CTRL_USE_SYNC (p : Nat) : Fld := ⟨0x80300 + 0x8000 * p, 1, 1, 0⟩

/-- SYN_CTRL.ENABLE (R246). -/
def SYN_CTRL_ENABLE (p : Nat) : Fld := ⟨0x80300 + 0x8000 * p, 0, 1, 0⟩

/-- SYN_WINDOW.LATEST (R246). -/
def SYN_WINDOW_LATEST (p : Nat) : Fld := ⟨0x80308 + 0x8000 * p, 32, 23, 0⟩

/-- SYN_WINDOW.EARLIEST (R246). -/
def SYN_WINDOW_EARLIEST (p : Nat) : Fld := ⟨0x80308 + 0x8000 * p, 0, 23, 0⟩

/-- SYN_STEP.STEP (R246). -/
def SYN_STEP_STEP (p : Nat) : Fld := ⟨0x80310 + 0x8000 * p, 0, 32, 0⟩

/-- SYN_STATUS.EXTRA_SYNC (R246). -/
def SYN_STATUS_EXTRA_SYNC (p : Nat) : Fld := ⟨0x80318 + 0x8000 * p, 48, 16, 0⟩

/-- SYN_STATUS.LATE_SYNC (R246). -/
def SYN_STATUS_LATE_SYNC (p : Nat) : Fld := ⟨0x80318 + 0x8000 * p, 16, 32, 0⟩

/-- SYN_STATUS.LATCHED (R246). -/
def SYN_STATUS_LATCHED (p : Nat) : Fld := ⟨0x80318 + 0x8000 * p, 8, 1, 0⟩

/-- SYN_STATUS.HOLDING (R246). -/
def SYN_STATUS_HOLDING (p : Nat) : Fld := ⟨0x80318 + 0x8000 * p, 7, 1, 0⟩

/-- SYN_STATUS.OPEN_MB (R246). -/
def SYN_STATUS_OPEN_MB (p : Nat) : Fld := ⟨0x80318 + 0x8000 * p, 0, 7, 0⟩

/-- SYN_VERSION_BASE.BASE (R246). -/
def SYN_VERSION_BASE_BASE (p : Nat) : Fld := ⟨0x80320 + 0x8000 * p, 21, 19, 0⟩

/-- SYN_VERSION_CTRL.TIMEOUT (R246). -/
def SYN_VERSION_CTRL_TIMEOUT (p : Nat) : Fld := ⟨0x80328 + 0x8000 * p, 32, 32, 0⟩

/-- SYN_VERSION_CTRL.CLOSE_ALL (R246). -/
def SYN_VERSION_CTRL_CLOSE_ALL (p : Nat) : Fld := ⟨0x80328 + 0x8000 * p, 17, 1, 0⟩

/-- SYN_VERSION_CTRL.ENABLE (R246). -/
def SYN_VERSION_CTRL_ENABLE (p : Nat) : Fld := ⟨0x80328 + 0x8000 * p, 16, 1, 0⟩

/-- SYN_VERSION_CTRL.ENTRIES (R246). -/
def SYN_VERSION_CTRL_ENTRIES (p : Nat) : Fld := ⟨0x80328 + 0x8000 * p, 0, 13, 0⟩

/-- SYN_SEED_KEY.KEY (R246). -/
def SYN_SEED_KEY_KEY (p : Nat) : Fld := ⟨0x80330 + 0x8000 * p, 0, 64, 0⟩

/-- SYN_RIPPLE_BASE.BASE (R246). -/
def SYN_RIPPLE_BASE_BASE (p : Nat) : Fld := ⟨0x80338 + 0x8000 * p, 21, 19, 0⟩

/-- SYN_RIPPLE_CTRL.SIZE (R246). -/
def SYN_RIPPLE_CTRL_SIZE (p : Nat) : Fld := ⟨0x80340 + 0x8000 * p, 16, 15, 0⟩

/-- SYN_RIPPLE_CTRL.OVERFLOWED (R246). -/
def SYN_RIPPLE_CTRL_OVERFLOWED (p : Nat) : Fld := ⟨0x80340 + 0x8000 * p, 1, 1, 0⟩

/-- SYN_RIPPLE_CTRL.ENABLE (R246). -/
def SYN_RIPPLE_CTRL_ENABLE (p : Nat) : Fld := ⟨0x80340 + 0x8000 * p, 0, 1, 0⟩

/-- SYN_REPLAY_CTRL.STEP (R246). -/
def SYN_REPLAY_CTRL_STEP (p : Nat) : Fld := ⟨0x80348 + 0x8000 * p, 32, 32, 0⟩

/-- SYN_REPLAY_CTRL.ABORT (R246). -/
def SYN_REPLAY_CTRL_ABORT (p : Nat) : Fld := ⟨0x80348 + 0x8000 * p, 1, 1, 0⟩

/-- SYN_REPLAY_CTRL.START (R246). -/
def SYN_REPLAY_CTRL_START (p : Nat) : Fld := ⟨0x80348 + 0x8000 * p, 0, 1, 0⟩

/-- SYN_REPLAY_RESULT.SEQ (R246). -/
def SYN_REPLAY_RESULT_SEQ (p : Nat) : Fld := ⟨0x80350 + 0x8000 * p, 32, 32, 0⟩

/-- SYN_REPLAY_RESULT.VCORE (R246). -/
def SYN_REPLAY_RESULT_VCORE (p : Nat) : Fld := ⟨0x80350 + 0x8000 * p, 8, 8, 255⟩

/-- SYN_REPLAY_RESULT.STATE (R246). -/
def SYN_REPLAY_RESULT_STATE (p : Nat) : Fld := ⟨0x80350 + 0x8000 * p, 0, 3, 0⟩

/-- SYN_REPLAY_CORES.TILE (R246). -/
def SYN_REPLAY_CORES_TILE (p : Nat) : Fld := ⟨0x80358 + 0x8000 * p, 32, 32, 0⟩

/-- SYN_REPLAY_CORES.REC_CORE (R246). -/
def SYN_REPLAY_CORES_REC_CORE (p : Nat) : Fld := ⟨0x80358 + 0x8000 * p, 8, 8, 255⟩

/-- SYN_REPLAY_CORES.NOW_CORE (R246). -/
def SYN_REPLAY_CORES_NOW_CORE (p : Nat) : Fld := ⟨0x80358 + 0x8000 * p, 0, 8, 255⟩

/-- SYN_OUT_SEL.IN_LEVEL (R246). -/
def SYN_OUT_SEL_IN_LEVEL : Fld := ⟨0x10100, 5, 1, 0⟩

/-- SYN_OUT_SEL.ENABLE (R246). -/
def SYN_OUT_SEL_ENABLE : Fld := ⟨0x10100, 4, 1, 0⟩

/-- SYN_OUT_SEL.OWNER (R246). -/
def SYN_OUT_SEL_OWNER : Fld := ⟨0x10100, 0, 4, 0⟩

/-- OAS_STATUS.LAST_CODE (R270). -/
def OAS_STATUS_LAST_CODE : Fld := ⟨0x300000, 16, 16, 0⟩

/-- OAS_STATUS.ACTIVE_P (R270). -/
def OAS_STATUS_ACTIVE_P : Fld := ⟨0x300000, 8, 8, 255⟩

/-- OAS_STATUS.CORRECTING (R270). -/
def OAS_STATUS_CORRECTING : Fld := ⟨0x300000, 2, 1, 0⟩

/-- OAS_STATUS.BUSY (R270). -/
def OAS_STATUS_BUSY : Fld := ⟨0x300000, 1, 1, 0⟩

/-- OAS_STATUS.READY (R270). -/
def OAS_STATUS_READY : Fld := ⟨0x300000, 0, 1, 0⟩

/-- OAS_LINK_STATUS.UP_COUNT (R270). -/
def OAS_LINK_STATUS_UP_COUNT : Fld := ⟨0x300008, 16, 3, 0⟩

/-- OAS_LINK_STATUS.MOD (R270). -/
def OAS_LINK_STATUS_MOD (m : Nat) : Fld := ⟨0x300008, 4 * m, 4, 0⟩

/-- OAS_LINK_ERR.RETRIES (R270). -/
def OAS_LINK_ERR_RETRIES : Fld := ⟨0x300010, 32, 32, 0⟩

/-- OAS_LINK_ERR.CRC_ERRORS (R270). -/
def OAS_LINK_ERR_CRC_ERRORS : Fld := ⟨0x300010, 0, 32, 0⟩

/-- OAS_COUNTS.CORRECTIONS (R270). -/
def OAS_COUNTS_CORRECTIONS : Fld := ⟨0x300018, 48, 16, 0⟩

/-- OAS_COUNTS.PARAMS (R270). -/
def OAS_COUNTS_PARAMS : Fld := ⟨0x300018, 0, 48, 0⟩

/-- OAS_SLOW_REGION.SIZE (R270). -/
def OAS_SLOW_REGION_SIZE (p : Nat) : Fld := ⟨0x310000 + 0x1000 * p, 32, 9, 0⟩

/-- OAS_SLOW_REGION.BASE (R270). -/
def OAS_SLOW_REGION_BASE (p : Nat) : Fld := ⟨0x310000 + 0x1000 * p, 0, 8, 0⟩

/-- OAS_MASTER_TABLE.BASE (R270). -/
def OAS_MASTER_TABLE_BASE (p : Nat) : Fld := ⟨0x310008 + 0x1000 * p, 21, 19, 0⟩

/-- OAS_CTRL.MFLOOR (R270). -/
def OAS_CTRL_MFLOOR (p : Nat) : Fld := ⟨0x310010 + 0x1000 * p, 48, 16, 0⟩

/-- OAS_CTRL.ENABLE (R270). -/
def OAS_CTRL_ENABLE (p : Nat) : Fld := ⟨0x310010 + 0x1000 * p, 16, 1, 0⟩

/-- OAS_CTRL.RECORDS (R270). -/
def OAS_CTRL_RECORDS (p : Nat) : Fld := ⟨0x310010 + 0x1000 * p, 0, 13, 0⟩

/-- OAS_QUEUE.CANCEL (R270). -/
def OAS_QUEUE_CANCEL (p : Nat) : Fld := ⟨0x310018 + 0x1000 * p, 16, 1, 0⟩

/-- OAS_QUEUE.DEPTH (R270). -/
def OAS_QUEUE_DEPTH (p : Nat) : Fld := ⟨0x310018 + 0x1000 * p, 0, 7, 0⟩

/-- OAS_XFER.FOFF (R270). -/
def OAS_XFER_FOFF (p : Nat) : Fld := ⟨0x310020 + 0x1000 * p, 30, 34, 0⟩

/-- OAS_XFER.RECORD (R270). -/
def OAS_XFER_RECORD (p : Nat) : Fld := ⟨0x310020 + 0x1000 * p, 18, 12, 0⟩

/-- OAS_XFER.OP (R270). -/
def OAS_XFER_OP (p : Nat) : Fld := ⟨0x310020 + 0x1000 * p, 16, 2, 0⟩

/-- OAS_XFER.SLOT (R270). -/
def OAS_XFER_SLOT (p : Nat) : Fld := ⟨0x310020 + 0x1000 * p, 15, 1, 0⟩

/-- OAS_XFER.START (R270). -/
def OAS_XFER_START (p : Nat) : Fld := ⟨0x310020 + 0x1000 * p, 0, 1, 0⟩

/-- OAS_XFER_STATUS.BAD_UNITS (R270). -/
def OAS_XFER_STATUS_BAD_UNITS (p : Nat) : Fld := ⟨0x310028 + 0x1000 * p, 32, 32, 0⟩

/-- OAS_XFER_STATUS.LAST_CODE (R270). -/
def OAS_XFER_STATUS_LAST_CODE (p : Nat) : Fld := ⟨0x310028 + 0x1000 * p, 16, 16, 0⟩

/-- OAS_XFER_STATUS.STATE (R270). -/
def OAS_XFER_STATUS_STATE (p : Nat) : Fld := ⟨0x310028 + 0x1000 * p, 0, 2, 0⟩

/-- OAS_DIGEST_KEY.KEY (R270). -/
def OAS_DIGEST_KEY_KEY (p n : Nat) : Fld := ⟨0x310030 + 0x1000 * p + 0x8 * n, 0, 64, 0⟩

/-- OAS_DIGEST_CTRL.KEY_VALID (R270). -/
def OAS_DIGEST_CTRL_KEY_VALID (p : Nat) : Fld := ⟨0x310040 + 0x1000 * p, 1, 1, 0⟩

/-- OAS_DIGEST_CTRL.INLINE (R270). -/
def OAS_DIGEST_CTRL_INLINE (p : Nat) : Fld := ⟨0x310040 + 0x1000 * p, 0, 1, 0⟩

/-- MEM_INTERLEAVE.VALID (R296). -/
def MEM_INTERLEAVE_VALID : Fld := ⟨0x2000, 8, 1, 0⟩

/-- MEM_INTERLEAVE.WAYS (R296). -/
def MEM_INTERLEAVE_WAYS : Fld := ⟨0x2000, 4, 2, 0⟩

/-- MEM_INTERLEAVE.GRANULE (R296). -/
def MEM_INTERLEAVE_GRANULE : Fld := ⟨0x2000, 0, 2, 0⟩

/-- MEM_CAPACITY.FREE_FRAMES (R296). -/
def MEM_CAPACITY_FREE_FRAMES : Fld := ⟨0x2008, 32, 17, 0⟩

/-- MEM_CAPACITY.BACKED_FRAMES (R296). -/
def MEM_CAPACITY_BACKED_FRAMES : Fld := ⟨0x2008, 9, 17, 0⟩

/-- MEM_CAPACITY.LIVE_CHANNELS (R296). -/
def MEM_CAPACITY_LIVE_CHANNELS : Fld := ⟨0x2008, 0, 9, 256⟩

/-- MEM_MAPOUT.STATE (R296). -/
def MEM_MAPOUT_STATE : Fld := ⟨0x2010, 17, 2, 0⟩

/-- MEM_MAPOUT.START (R296). -/
def MEM_MAPOUT_START : Fld := ⟨0x2010, 16, 1, 0⟩

/-- MEM_MAPOUT.FORCE (R296). -/
def MEM_MAPOUT_FORCE : Fld := ⟨0x2010, 8, 1, 0⟩

/-- MEM_MAPOUT.CHANNEL (R296). -/
def MEM_MAPOUT_CHANNEL : Fld := ⟨0x2010, 0, 8, 0⟩

/-- MEM_ZEROIZE.QUARANTINED (R296). -/
def MEM_ZEROIZE_QUARANTINED : Fld := ⟨0x2018, 34, 17, 0⟩

/-- MEM_ZEROIZE.ALL (R296). -/
def MEM_ZEROIZE_ALL : Fld := ⟨0x2018, 32, 1, 0⟩

/-- MEM_ZEROIZE.PENDING (R296). -/
def MEM_ZEROIZE_PENDING : Fld := ⟨0x2018, 0, 17, 0⟩

/-- MEM_MAPPED_OUT.OUT (R296). -/
def MEM_MAPPED_OUT_OUT (ch : Nat) : Fld := ⟨0x2020 + 8 * (ch / 64), ch % 64, 1, 0⟩

/-- MEM_CHAN_ERR.UNCORRECTABLE (R296). -/
def MEM_CHAN_ERR_UNCORRECTABLE (e c : Nat) : Fld := ⟨0x400100 + 0x80000 * e + 0x8 * c, 32, 16, 0⟩

/-- MEM_CHAN_ERR.CRC_RETRIES (R296). -/
def MEM_CHAN_ERR_CRC_RETRIES (e c : Nat) : Fld := ⟨0x400100 + 0x80000 * e + 0x8 * c, 16, 16, 0⟩

/-- MEM_CHAN_ERR.CORRECTED (R296). -/
def MEM_CHAN_ERR_CORRECTED (e c : Nat) : Fld := ⟨0x400100 + 0x80000 * e + 0x8 * c, 0, 16, 0⟩

/-- CCH_STATUS.PINNED_LINES (R296). -/
def CCH_STATUS_PINNED_LINES (e : Nat) : Fld := ⟨0x400800 + 0x80000 * e, 32, 19, 0⟩

/-- CCH_STATUS.LAST_CODE (R296). -/
def CCH_STATUS_LAST_CODE (e : Nat) : Fld := ⟨0x400800 + 0x80000 * e, 16, 16, 0⟩

/-- CCH_ATOMIC_SAT.COUNT (R296). -/
def CCH_ATOMIC_SAT_COUNT (e : Nat) : Fld := ⟨0x400808 + 0x80000 * e, 0, 32, 0⟩

/-- CCH_ERR.UNCORRECTABLE (R296). -/
def CCH_ERR_UNCORRECTABLE (e : Nat) : Fld := ⟨0x400810 + 0x80000 * e, 16, 16, 0⟩

/-- CCH_ERR.CORRECTED (R296). -/
def CCH_ERR_CORRECTED (e : Nat) : Fld := ⟨0x400810 + 0x80000 * e, 0, 16, 0⟩

/-- MEM_REG.ENABLE (R296). -/
def MEM_REG_ENABLE (p e : Nat) : Fld := ⟨0x80100 + 0x8000 * p + 0x8 * e, 48, 1, 0⟩

/-- MEM_REG.BURST (R296). -/
def MEM_REG_BURST (p e : Nat) : Fld := ⟨0x80100 + 0x8000 * p + 0x8 * e, 32, 16, 0⟩

/-- MEM_REG.RATE (R296). -/
def MEM_REG_RATE (p e : Nat) : Fld := ⟨0x80100 + 0x8000 * p + 0x8 * e, 0, 12, 0⟩

/-- MEM_PART_MAP.PM_BASE (R296). -/
def MEM_PART_MAP_PM_BASE (p : Nat) : Fld := ⟨0x80140 + 0x8000 * p, 32, 17, 0⟩

/-- MEM_PART_MAP.PAGES (R296). -/
def MEM_PART_MAP_PAGES (p : Nat) : Fld := ⟨0x80140 + 0x8000 * p, 0, 17, 0⟩

/-- MEM_PART_STATUS.LAST_CODE (R296). -/
def MEM_PART_STATUS_LAST_CODE (p : Nat) : Fld := ⟨0x80148 + 0x8000 * p, 16, 16, 0⟩

/-- MEM_PART_STATUS.ZEROIZING (R296). -/
def MEM_PART_STATUS_ZEROIZING (p : Nat) : Fld := ⟨0x80148 + 0x8000 * p, 2, 1, 0⟩

/-- MEM_PART_STATUS.FAULTED (R296). -/
def MEM_PART_STATUS_FAULTED (p : Nat) : Fld := ⟨0x80148 + 0x8000 * p, 1, 1, 0⟩

/-- MEM_PART_WAIT.CYCLES (R296). -/
def MEM_PART_WAIT_CYCLES (p : Nat) : Fld := ⟨0x80150 + 0x8000 * p, 0, 48, 0⟩

/-- CCH_PIN_LIMIT.LIMIT (R296). -/
def CCH_PIN_LIMIT_LIMIT (p : Nat) : Fld := ⟨0x80158 + 0x8000 * p, 0, 5, 0⟩

/-- THM_STACK.TEMP (R296). -/
def THM_STACK_TEMP (st : Nat) : Fld := ⟨0x20100 + 8 * (st / 8), 8 * (st % 8), 8, 0⟩

/-- THM_COUPLING.REQ (R296). -/
def THM_COUPLING_REQ (st : Nat) : Fld := ⟨0x20120, 2 * st, 2, 0⟩

/-- THM_COUPLING_COUNT.ERG_EVENTS (R296). -/
def THM_COUPLING_COUNT_ERG_EVENTS : Fld := ⟨0x20128, 16, 16, 0⟩

/-- THM_COUPLING_COUNT.GANG_EVENTS (R296). -/
def THM_COUPLING_COUNT_GANG_EVENTS : Fld := ⟨0x20128, 0, 16, 0⟩

/-- DMA_CH_STATUS.LAST_CODE (R326). -/
def DMA_CH_STATUS_LAST_CODE (c n : Nat) : Fld := ⟨coreBase c + 0x1000 + 0x20 * n, 48, 16, 0⟩

/-- DMA_CH_STATUS.COMPLETED (R326). -/
def DMA_CH_STATUS_COMPLETED (c n : Nat) : Fld := ⟨coreBase c + 0x1000 + 0x20 * n, 16, 32, 0⟩

/-- DMA_CH_STATUS.PRIO (R326). -/
def DMA_CH_STATUS_PRIO (c n : Nat) : Fld := ⟨coreBase c + 0x1000 + 0x20 * n, 10, 2, 0⟩

/-- DMA_CH_STATUS.SHADOW (R326). -/
def DMA_CH_STATUS_SHADOW (c n : Nat) : Fld := ⟨coreBase c + 0x1000 + 0x20 * n, 9, 1, 0⟩

/-- DMA_CH_STATUS.PACED (R326). -/
def DMA_CH_STATUS_PACED (c n : Nat) : Fld := ⟨coreBase c + 0x1000 + 0x20 * n, 8, 1, 0⟩

/-- DMA_CH_STATUS.STATE (R326). -/
def DMA_CH_STATUS_STATE (c n : Nat) : Fld := ⟨coreBase c + 0x1000 + 0x20 * n, 0, 3, 0⟩

/-- DMA_CH_CTRL.HALTED (R326). -/
def DMA_CH_CTRL_HALTED (c n : Nat) : Fld := ⟨coreBase c + 0x1008 + 0x20 * n, 1, 1, 0⟩

/-- DMA_CH_CTRL.DISABLE (R326). -/
def DMA_CH_CTRL_DISABLE (c n : Nat) : Fld := ⟨coreBase c + 0x1008 + 0x20 * n, 0, 1, 0⟩

/-- DMA_CH_PACE.LEVEL_SRC (R326). -/
def DMA_CH_PACE_LEVEL_SRC (c n : Nat) : Fld := ⟨coreBase c + 0x1010 + 0x20 * n, 48, 8, 0⟩

/-- DMA_CH_PACE.HIGH (R326). -/
def DMA_CH_PACE_HIGH (c n : Nat) : Fld := ⟨coreBase c + 0x1010 + 0x20 * n, 28, 20, 0⟩

/-- DMA_CH_PACE.LOW (R326). -/
def DMA_CH_PACE_LOW (c n : Nat) : Fld := ⟨coreBase c + 0x1010 + 0x20 * n, 8, 20, 0⟩

/-- DMA_CH_PACE.RUN (R326). -/
def DMA_CH_PACE_RUN (c n : Nat) : Fld := ⟨coreBase c + 0x1010 + 0x20 * n, 1, 1, 0⟩

/-- DMA_CH_PACE.ENABLE (R326). -/
def DMA_CH_PACE_ENABLE (c n : Nat) : Fld := ⟨coreBase c + 0x1010 + 0x20 * n, 0, 1, 0⟩

/-- DMA_CH_BYTES.MOVED (R326). -/
def DMA_CH_BYTES_MOVED (c n : Nat) : Fld := ⟨coreBase c + 0x1018 + 0x20 * n, 0, 48, 0⟩

/-- DMA_DQ.DEPTH (R326). -/
def DMA_DQ_DEPTH (e n : Nat) : Fld := ⟨0x400c00 + 0x80000 * e + 0x8 * n, 24, 16, 0⟩

/-- DMA_DQ.PARTITION (R326). -/
def DMA_DQ_PARTITION (e n : Nat) : Fld := ⟨0x400c00 + 0x80000 * e + 0x8 * n, 20, 4, 0⟩

/-- DMA_DQ.BOUND (R326). -/
def DMA_DQ_BOUND (e n : Nat) : Fld := ⟨0x400c00 + 0x80000 * e + 0x8 * n, 16, 1, 0⟩

/-- DMA_DQ.STOPPED (R326). -/
def DMA_DQ_STOPPED (e n : Nat) : Fld := ⟨0x400c00 + 0x80000 * e + 0x8 * n, 3, 1, 0⟩

/-- DMA_DQ.STOPPING (R326). -/
def DMA_DQ_STOPPING (e n : Nat) : Fld := ⟨0x400c00 + 0x80000 * e + 0x8 * n, 2, 1, 0⟩

/-- DMA_DQ.RESUME (R326). -/
def DMA_DQ_RESUME (e n : Nat) : Fld := ⟨0x400c00 + 0x80000 * e + 0x8 * n, 1, 1, 0⟩

/-- DMA_DQ.STOP (R326). -/
def DMA_DQ_STOP (e n : Nat) : Fld := ⟨0x400c00 + 0x80000 * e + 0x8 * n, 0, 1, 0⟩

/-- QUE_BLOCK.ASSIGNED (R326). -/
def QUE_BLOCK_ASSIGNED (b : Nat) : Fld := ⟨0x100000 + 0x8 * b, 8, 1, 0⟩

/-- QUE_BLOCK.PORT (R326). -/
def QUE_BLOCK_PORT (b : Nat) : Fld := ⟨0x100000 + 0x8 * b, 4, 1, 0⟩

/-- QUE_BLOCK.PARTITION (R326). -/
def QUE_BLOCK_PARTITION (b : Nat) : Fld := ⟨0x100000 + 0x8 * b, 0, 4, 0⟩

/-- QUE_SEL.QUEUE (R326). -/
def QUE_SEL_QUEUE (b : Port) : Fld := ⟨0x100800 + bankOff b, 0, 16, 0⟩

/-- QUE_SQ_BASE.ADDR (R326). -/
def QUE_SQ_BASE_ADDR (q : Nat) : Fld := ⟨queueBase q + 0x8, 6, 58, 0⟩

/-- QUE_CQ_BASE.ADDR (R326). -/
def QUE_CQ_BASE_ADDR (q : Nat) : Fld := ⟨queueBase q + 0x10, 6, 58, 0⟩

/-- QUE_CFG.AGG_TIME (R326). -/
def QUE_CFG_AGG_TIME (q : Nat) : Fld := ⟨queueBase q + 0x18, 56, 8, 0⟩

/-- QUE_CFG.AGG_COUNT (R326). -/
def QUE_CFG_AGG_COUNT (q : Nat) : Fld := ⟨queueBase q + 0x18, 48, 8, 0⟩

/-- QUE_CFG.VECTOR (R326). -/
def QUE_CFG_VECTOR (q : Nat) : Fld := ⟨queueBase q + 0x18, 32, 11, 0⟩

/-- QUE_CFG.CQ_LOG (R326). -/
def QUE_CFG_CQ_LOG (q : Nat) : Fld := ⟨queueBase q + 0x18, 16, 5, 0⟩

/-- QUE_CFG.SQ_LOG (R326). -/
def QUE_CFG_SQ_LOG (q : Nat) : Fld := ⟨queueBase q + 0x18, 8, 5, 0⟩

/-- QUE_CFG.INT_EN (R326). -/
def QUE_CFG_INT_EN (q : Nat) : Fld := ⟨queueBase q + 0x18, 1, 1, 0⟩

/-- QUE_CFG.ENABLE (R326). -/
def QUE_CFG_ENABLE (q : Nat) : Fld := ⟨queueBase q + 0x18, 0, 1, 0⟩

/-- QUE_STATE.CQ_HEAD (R326). -/
def QUE_STATE_CQ_HEAD (q : Nat) : Fld := ⟨queueBase q + 0x20, 48, 16, 0⟩

/-- QUE_STATE.CQ_TAIL (R326). -/
def QUE_STATE_CQ_TAIL (q : Nat) : Fld := ⟨queueBase q + 0x20, 32, 16, 0⟩

/-- QUE_STATE.SQ_TAIL (R326). -/
def QUE_STATE_SQ_TAIL (q : Nat) : Fld := ⟨queueBase q + 0x20, 16, 16, 0⟩

/-- QUE_STATE.SQ_HEAD (R326). -/
def QUE_STATE_SQ_HEAD (q : Nat) : Fld := ⟨queueBase q + 0x20, 0, 16, 0⟩

/-- QUE_STATUS.LAST_CODE (R326). -/
def QUE_STATUS_LAST_CODE (q : Nat) : Fld := ⟨queueBase q + 0x28, 48, 16, 0⟩

/-- QUE_STATUS.CQ_FULL (R326). -/
def QUE_STATUS_CQ_FULL (q : Nat) : Fld := ⟨queueBase q + 0x28, 29, 1, 0⟩

/-- QUE_STATUS.PHASE (R326). -/
def QUE_STATUS_PHASE (q : Nat) : Fld := ⟨queueBase q + 0x28, 28, 1, 0⟩

/-- QUE_STATUS.IDLE (R326). -/
def QUE_STATUS_IDLE (q : Nat) : Fld := ⟨queueBase q + 0x28, 27, 1, 1⟩

/-- QUE_STATUS.INFLIGHT (R326). -/
def QUE_STATUS_INFLIGHT (q : Nat) : Fld := ⟨queueBase q + 0x28, 0, 17, 0⟩

/-- QUE_PORT_STATUS.ACCEPTED (R326). -/
def QUE_PORT_STATUS_ACCEPTED (b : Port) : Fld := ⟨0x100830 + bankOff b, 32, 32, 0⟩

/-- QUE_PORT_STATUS.LAST_CODE (R326). -/
def QUE_PORT_STATUS_LAST_CODE (b : Port) : Fld := ⟨0x100830 + bankOff b, 16, 16, 0⟩

/-- QUE_PORT_STATUS.LINK_UP (R326). -/
def QUE_PORT_STATUS_LINK_UP (b : Port) : Fld := ⟨0x100830 + bankOff b, 1, 1, 0⟩

/-- QUE_PORT_STATUS.LOST_SEEN (R326). -/
def QUE_PORT_STATUS_LOST_SEEN (b : Port) : Fld := ⟨0x100830 + bankOff b, 0, 1, 0⟩

/-- FAB_CTRL.ETHERTYPE (R351). -/
def FAB_CTRL_ETHERTYPE : Fld := ⟨0x200000, 48, 16, 0⟩

/-- FAB_CTRL.UDP_PORT (R351). -/
def FAB_CTRL_UDP_PORT : Fld := ⟨0x200000, 32, 16, 0⟩

/-- FAB_CTRL.VLAN_EN (R351). -/
def FAB_CTRL_VLAN_EN : Fld := ⟨0x200000, 31, 1, 0⟩

/-- FAB_CTRL.PCP (R351). -/
def FAB_CTRL_PCP : Fld := ⟨0x200000, 28, 3, 0⟩

/-- FAB_CTRL.VID (R351). -/
def FAB_CTRL_VID : Fld := ⟨0x200000, 16, 12, 0⟩

/-- FAB_CTRL.MEDIA (R351). -/
def FAB_CTRL_MEDIA : Fld := ⟨0x200000, 8, 8, 0⟩

/-- FAB_CTRL.ENCAP (R351). -/
def FAB_CTRL_ENCAP : Fld := ⟨0x200000, 1, 1, 0⟩

/-- FAB_CTRL.ENABLE (R351). -/
def FAB_CTRL_ENABLE : Fld := ⟨0x200000, 0, 1, 0⟩

/-- FAB_TIMERS.INST_MS (R351). -/
def FAB_TIMERS_INST_MS : Fld := ⟨0x200008, 48, 16, 0⟩

/-- FAB_TIMERS.RETRY_MAX (R351). -/
def FAB_TIMERS_RETRY_MAX : Fld := ⟨0x200008, 40, 8, 0⟩

/-- FAB_TIMERS.RTO_US (R351). -/
def FAB_TIMERS_RTO_US : Fld := ⟨0x200008, 24, 16, 0⟩

/-- FAB_TIMERS.DETACH_US (R351). -/
def FAB_TIMERS_DETACH_US : Fld := ⟨0x200008, 0, 24, 0⟩

/-- FAB_PORT_STATUS.FEC_UNCORRECTED (R351). -/
def FAB_PORT_STATUS_FEC_UNCORRECTED (f : Nat) : Fld := ⟨0x200010 + 0x8 * f, 32, 32, 0⟩

/-- FAB_PORT_STATUS.LANES_LOCKED (R351). -/
def FAB_PORT_STATUS_LANES_LOCKED (f : Nat) : Fld := ⟨0x200010 + 0x8 * f, 1, 1, 0⟩

/-- FAB_PORT_STATUS.LINK_UP (R351). -/
def FAB_PORT_STATUS_LINK_UP (f : Nat) : Fld := ⟨0x200010 + 0x8 * f, 0, 1, 0⟩

/-- FAB_PORT_MAC.ADDR (R351). -/
def FAB_PORT_MAC_ADDR (f : Nat) : Fld := ⟨0x200030 + 0x8 * f, 0, 48, 0⟩

/-- FAB_PORT_GW.ADDR (R351). -/
def FAB_PORT_GW_ADDR (f : Nat) : Fld := ⟨0x200050 + 0x8 * f, 0, 48, 0⟩

/-- FAB_PORT_IP_LO.ADDR (R351). -/
def FAB_PORT_IP_LO_ADDR (f : Nat) : Fld := ⟨0x200070 + 0x10 * f, 0, 64, 0⟩

/-- FAB_PORT_IP_HI.ADDR (R351). -/
def FAB_PORT_IP_HI_ADDR (f : Nat) : Fld := ⟨0x200078 + 0x10 * f, 0, 64, 0⟩

/-- FAB_COUNTS.AUTH_FAILED (R351). -/
def FAB_COUNTS_AUTH_FAILED : Fld := ⟨0x2000b0, 48, 16, 0⟩

/-- FAB_COUNTS.PAUSE_DISCARDED (R351). -/
def FAB_COUNTS_PAUSE_DISCARDED : Fld := ⟨0x2000b0, 32, 16, 0⟩

/-- FAB_COUNTS.UNMATCHED (R351). -/
def FAB_COUNTS_UNMATCHED : Fld := ⟨0x2000b0, 16, 16, 0⟩

/-- FAB_COUNTS.NUMERIC (R351). -/
def FAB_COUNTS_NUMERIC : Fld := ⟨0x2000b0, 0, 16, 0⟩

/-- FAB_AREA.SIZE (R351). -/
def FAB_AREA_SIZE (p : Nat) : Fld := ⟨0x210000 + 0x1000 * p, 40, 9, 0⟩

/-- FAB_AREA.BASE (R351). -/
def FAB_AREA_BASE (p : Nat) : Fld := ⟨0x210000 + 0x1000 * p, 21, 19, 0⟩

/-- FAB_AREA_CTRL.GROUPS (R351). -/
def FAB_AREA_CTRL_GROUPS (p : Nat) : Fld := ⟨0x210008 + 0x1000 * p, 32, 13, 0⟩

/-- FAB_AREA_CTRL.ENABLE (R351). -/
def FAB_AREA_CTRL_ENABLE (p : Nat) : Fld := ⟨0x210008 + 0x1000 * p, 31, 1, 0⟩

/-- FAB_AREA_CTRL.FLOWS (R351). -/
def FAB_AREA_CTRL_FLOWS (p : Nat) : Fld := ⟨0x210008 + 0x1000 * p, 0, 17, 0⟩

/-- FAB_RX.POOL (R351). -/
def FAB_RX_POOL (p : Nat) : Fld := ⟨0x210010 + 0x1000 * p, 40, 19, 0⟩

/-- FAB_RX.FLOW_MAX (R351). -/
def FAB_RX_FLOW_MAX (p : Nat) : Fld := ⟨0x210010 + 0x1000 * p, 20, 20, 0⟩

/-- FAB_RX.SLOT (R351). -/
def FAB_RX_SLOT (p : Nat) : Fld := ⟨0x210010 + 0x1000 * p, 0, 20, 0⟩

/-- FAB_FLOW_CMD.STATE (R351). -/
def FAB_FLOW_CMD_STATE (p : Nat) : Fld := ⟨0x210018 + 0x1000 * p, 32, 2, 0⟩

/-- FAB_FLOW_CMD.OP (R351). -/
def FAB_FLOW_CMD_OP (p : Nat) : Fld := ⟨0x210018 + 0x1000 * p, 18, 2, 0⟩

/-- FAB_FLOW_CMD.START (R351). -/
def FAB_FLOW_CMD_START (p : Nat) : Fld := ⟨0x210018 + 0x1000 * p, 16, 1, 0⟩

/-- FAB_FLOW_CMD.FLOW (R351). -/
def FAB_FLOW_CMD_FLOW (p : Nat) : Fld := ⟨0x210018 + 0x1000 * p, 0, 16, 0⟩

/-- FAB_PART_STATUS.LAST_CODE (R351). -/
def FAB_PART_STATUS_LAST_CODE (p : Nat) : Fld := ⟨0x210020 + 0x1000 * p, 48, 16, 0⟩

/-- FAB_PART_STATUS.INSTANCES (R351). -/
def FAB_PART_STATUS_INSTANCES (p : Nat) : Fld := ⟨0x210020 + 0x1000 * p, 32, 8, 0⟩

/-- FAB_PART_STATUS.FLOWS_UP (R351). -/
def FAB_PART_STATUS_FLOWS_UP (p : Nat) : Fld := ⟨0x210020 + 0x1000 * p, 0, 17, 0⟩

/-- HLT_CTRL.MIN_LIVE (R381). -/
def HLT_CTRL_MIN_LIVE : Fld := ⟨0x3000, 0, 8, 0⟩

/-- HLT_STATUS.LAST_CODE (R381). -/
def HLT_STATUS_LAST_CODE : Fld := ⟨0x3008, 48, 16, 0⟩

/-- HLT_STATUS.AMBER_COUNT (R381). -/
def HLT_STATUS_AMBER_COUNT : Fld := ⟨0x3008, 16, 8, 0⟩

/-- HLT_STATUS.LIVE_COUNT (R381). -/
def HLT_STATUS_LIVE_COUNT : Fld := ⟨0x3008, 8, 8, 128⟩

/-- HLT_STATUS.OCHRE_REASON (R381). -/
def HLT_STATUS_OCHRE_REASON : Fld := ⟨0x3008, 1, 3, 0⟩

/-- HLT_STATUS.OCHRE (R381). -/
def HLT_STATUS_OCHRE : Fld := ⟨0x3008, 0, 1, 0⟩

/-- HLT_CORE_STATE.STATE (R381). -/
def HLT_CORE_STATE_STATE (c : Nat) : Fld := ⟨0x3010 + 8 * (c / 32), 2 * (c % 32), 2, 0⟩

/-- HLT_FENCE.START (R381). -/
def HLT_FENCE_START : Fld := ⟨0x3030, 8, 1, 0⟩

/-- HLT_FENCE.CORE (R381). -/
def HLT_FENCE_CORE : Fld := ⟨0x3030, 0, 7, 0⟩

/-- HLT_LOG_STATUS.TOTAL (R381). -/
def HLT_LOG_STATUS_TOTAL : Fld := ⟨0x3038, 32, 32, 0⟩

/-- HLT_LOG_STATUS.NEXT (R381). -/
def HLT_LOG_STATUS_NEXT : Fld := ⟨0x3038, 0, 9, 0⟩

/-- HLT_LOG.RECORD (R381). -/
def HLT_LOG_RECORD (i w : Nat) : Fld := ⟨0x8000 + 0x40 * i + 0x8 * w, 0, 64, 0⟩

/-- HLT_DUMP_ADDR.ADDR (R381). -/
def HLT_DUMP_ADDR_ADDR : Fld := ⟨0x3040, 6, 58, 0⟩

/-- HLT_DUMP_CTRL.STATE (R381). -/
def HLT_DUMP_CTRL_STATE : Fld := ⟨0x3048, 16, 2, 0⟩

/-- HLT_DUMP_CTRL.START (R381). -/
def HLT_DUMP_CTRL_START : Fld := ⟨0x3048, 0, 1, 0⟩

/-- HLT_SIROCCO.PERIOD (R381). -/
def HLT_SIROCCO_PERIOD (p : Nat) : Fld := ⟨0x80400 + 0x8000 * p, 48, 16, 0⟩

/-- HLT_SIROCCO.RUNS (R381). -/
def HLT_SIROCCO_RUNS (p : Nat) : Fld := ⟨0x80400 + 0x8000 * p, 16, 32, 0⟩

/-- HLT_SIROCCO.STATE (R381). -/
def HLT_SIROCCO_STATE (p : Nat) : Fld := ⟨0x80400 + 0x8000 * p, 2, 2, 0⟩

/-- HLT_SIROCCO.START (R381). -/
def HLT_SIROCCO_START (p : Nat) : Fld := ⟨0x80400 + 0x8000 * p, 0, 1, 0⟩

/-- HLT_PAIR_CTRL.ENABLE (R381). -/
def HLT_PAIR_CTRL_ENABLE (p : Nat) : Fld := ⟨0x80408 + 0x8000 * p, 0, 1, 0⟩

/-- HLT_MIRAGE_CTRL.GROUP (R381). -/
def HLT_MIRAGE_CTRL_GROUP (p : Nat) : Fld := ⟨0x80410 + 0x8000 * p, 52, 12, 0⟩

/-- HLT_MIRAGE_CTRL.EVERY (R381). -/
def HLT_MIRAGE_CTRL_EVERY (p : Nat) : Fld := ⟨0x80410 + 0x8000 * p, 32, 11, 0⟩

/-- HLT_MIRAGE_CTRL.INLINE (R381). -/
def HLT_MIRAGE_CTRL_INLINE (p : Nat) : Fld := ⟨0x80410 + 0x8000 * p, 1, 1, 0⟩

/-- HLT_MIRAGE_CTRL.ENABLE (R381). -/
def HLT_MIRAGE_CTRL_ENABLE (p : Nat) : Fld := ⟨0x80410 + 0x8000 * p, 0, 1, 0⟩

/-- HLT_MIRAGE_STATUS.LAST_STEP (R381). -/
def HLT_MIRAGE_STATUS_LAST_STEP (p : Nat) : Fld := ⟨0x80418 + 0x8000 * p, 32, 32, 0⟩

/-- HLT_MIRAGE_STATUS.EXCLUDED (R381). -/
def HLT_MIRAGE_STATUS_EXCLUDED (p : Nat) : Fld := ⟨0x80418 + 0x8000 * p, 24, 8, 0⟩

/-- HLT_MIRAGE_STATUS.CLEAR (R381). -/
def HLT_MIRAGE_STATUS_CLEAR (p : Nat) : Fld := ⟨0x80418 + 0x8000 * p, 4, 1, 0⟩

/-- HLT_MIRAGE_STATUS.EXPELLED (R381). -/
def HLT_MIRAGE_STATUS_EXPELLED (p : Nat) : Fld := ⟨0x80418 + 0x8000 * p, 3, 1, 0⟩

/-- HLT_MIRAGE_STATUS.HALTED (R381). -/
def HLT_MIRAGE_STATUS_HALTED (p : Nat) : Fld := ⟨0x80418 + 0x8000 * p, 2, 1, 0⟩

/-- HLT_MIRAGE_STATUS.RUNNING (R381). -/
def HLT_MIRAGE_STATUS_RUNNING (p : Nat) : Fld := ⟨0x80418 + 0x8000 * p, 0, 1, 0⟩

/-- HLT_MIRAGE_EXCL.RANK (R381). -/
def HLT_MIRAGE_EXCL_RANK (p k : Nat) : Fld := ⟨0x80420 + 0x8000 * p + 8 * (k / 4), 16 * (k % 4), 16, 0xffff⟩

/-- HLT_ERR_RING.ADDR (R381). -/
def HLT_ERR_RING_ADDR (p : Nat) : Fld := ⟨0x804a0 + 0x8000 * p, 6, 58, 0⟩

/-- HLT_ERR_CTRL.VECTOR (R381). -/
def HLT_ERR_CTRL_VECTOR (p : Nat) : Fld := ⟨0x804a8 + 0x8000 * p, 32, 11, 0⟩

/-- HLT_ERR_CTRL.LOG (R381). -/
def HLT_ERR_CTRL_LOG (p : Nat) : Fld := ⟨0x804a8 + 0x8000 * p, 16, 5, 0⟩

/-- HLT_ERR_CTRL.INT_EN (R381). -/
def HLT_ERR_CTRL_INT_EN (p : Nat) : Fld := ⟨0x804a8 + 0x8000 * p, 1, 1, 0⟩

/-- HLT_ERR_CTRL.ENABLE (R381). -/
def HLT_ERR_CTRL_ENABLE (p : Nat) : Fld := ⟨0x804a8 + 0x8000 * p, 0, 1, 0⟩

/-- HLT_ERR_PTR.DROPPED (R381). -/
def HLT_ERR_PTR_DROPPED (p : Nat) : Fld := ⟨0x804b0 + 0x8000 * p, 48, 16, 0⟩

/-- HLT_ERR_PTR.TAIL (R381). -/
def HLT_ERR_PTR_TAIL (p : Nat) : Fld := ⟨0x804b0 + 0x8000 * p, 32, 16, 0⟩

/-- HLT_ERR_PTR.HEAD (R381). -/
def HLT_ERR_PTR_HEAD (p : Nat) : Fld := ⟨0x804b0 + 0x8000 * p, 0, 16, 0⟩

/-- SEC_STATUS.LAST_CODE (R402). -/
def SEC_STATUS_LAST_CODE : Fld := ⟨0x40000, 48, 16, 0⟩

/-- SEC_STATUS.FW_SVN (R402). -/
def SEC_STATUS_FW_SVN : Fld := ⟨0x40000, 16, 32, 0⟩

/-- SEC_STATUS.CERT_SLOTS (R402). -/
def SEC_STATUS_CERT_SLOTS : Fld := ⟨0x40000, 8, 2, 0⟩

/-- SEC_STATUS.TEST_OPENED (R402). -/
def SEC_STATUS_TEST_OPENED : Fld := ⟨0x40000, 7, 1, 0⟩

/-- SEC_STATUS.IDENTITY (R402). -/
def SEC_STATUS_IDENTITY : Fld := ⟨0x40000, 4, 1, 0⟩

/-- SEC_STATUS.STAGE (R402). -/
def SEC_STATUS_STAGE : Fld := ⟨0x40000, 0, 4, 0⟩

/-- SEC_ID_DIGEST.DIGEST (R402). -/
def SEC_ID_DIGEST_DIGEST (n : Nat) : Fld := ⟨0x40008 + 0x8 * n, 0, 64, 0⟩

/-- SEC_MBX_CTRL.DONE (R402). -/
def SEC_MBX_CTRL_DONE (b : Port) : Fld := ⟨0x40040 + bankOff b, 2, 1, 0⟩

/-- SEC_MBX_CTRL.BUSY (R402). -/
def SEC_MBX_CTRL_BUSY (b : Port) : Fld := ⟨0x40040 + bankOff b, 1, 1, 0⟩

/-- SEC_MBX_CTRL.GO (R402). -/
def SEC_MBX_CTRL_GO (b : Port) : Fld := ⟨0x40040 + bankOff b, 0, 1, 0⟩

/-- SEC_MBX_REQ.DATA (R402). -/
def SEC_MBX_REQ_DATA (n : Nat) (b : Port) : Fld := ⟨0x40080 + 0x8 * n + bankOff b, 0, 64, 0⟩

/-- SEC_MBX_RESP.DATA (R402). -/
def SEC_MBX_RESP_DATA (n : Nat) (b : Port) : Fld := ⟨0x400c0 + 0x8 * n + bankOff b, 0, 64, 0⟩

/-- SEC_PART_STATUS.LAST_CODE (R402). -/
def SEC_PART_STATUS_LAST_CODE (p : Nat) : Fld := ⟨0x80000 + 0x8000 * p, 48, 16, 0⟩

/-- SEC_PART_STATUS.QBLOCKS (R402). -/
def SEC_PART_STATUS_QBLOCKS (p : Nat) : Fld := ⟨0x80000 + 0x8000 * p, 32, 8, 0⟩

/-- SEC_PART_STATUS.PORT (R402). -/
def SEC_PART_STATUS_PORT (p : Nat) : Fld := ⟨0x80000 + 0x8000 * p, 12, 1, 0⟩

/-- SEC_PART_STATUS.LOCK (R402). -/
def SEC_PART_STATUS_LOCK (p : Nat) : Fld := ⟨0x80000 + 0x8000 * p, 8, 1, 0⟩

/-- SEC_PART_STATUS.TDISP (R402). -/
def SEC_PART_STATUS_TDISP (p : Nat) : Fld := ⟨0x80000 + 0x8000 * p, 3, 1, 0⟩

/-- SEC_PART_STATUS.STATE (R402). -/
def SEC_PART_STATUS_STATE (p : Nat) : Fld := ⟨0x80000 + 0x8000 * p, 0, 3, 0⟩

/-- SEC_PART_CORES.CORE (R402). -/
def SEC_PART_CORES_CORE (p c : Nat) : Fld := ⟨0x80008 + 0x8000 * p + 8 * (c / 64), c % 64, 1, 0⟩

/-- PWR_STATUS.LAST_CODE (R425). -/
def PWR_STATUS_LAST_CODE : Fld := ⟨0x10200, 48, 16, 0⟩

/-- PWR_STATUS.RESET_SEEN (R425). -/
def PWR_STATUS_RESET_SEEN : Fld := ⟨0x10200, 9, 1, 0⟩

/-- PWR_STATUS.CUR_LIMIT (R425). -/
def PWR_STATUS_CUR_LIMIT : Fld := ⟨0x10200, 8, 1, 0⟩

/-- PWR_STATUS.PWR_REQ (R425). -/
def PWR_STATUS_PWR_REQ : Fld := ⟨0x10200, 6, 2, 0⟩

/-- PWR_STATUS.MATE_SENSE (R425). -/
def PWR_STATUS_MATE_SENSE : Fld := ⟨0x10200, 3, 1, 1⟩

/-- PWR_STATUS.VIN_OK (R425). -/
def PWR_STATUS_VIN_OK : Fld := ⟨0x10200, 2, 1, 1⟩

/-- PWR_INPUT.VIN (R425). -/
def PWR_INPUT_VIN : Fld := ⟨0x10208, 48, 16, 0⟩

/-- PWR_INPUT.IIN (R425). -/
def PWR_INPUT_IIN : Fld := ⟨0x10208, 32, 16, 0⟩

/-- PWR_INPUT.PIN (R425). -/
def PWR_INPUT_PIN : Fld := ⟨0x10208, 16, 16, 0⟩

/-- PWR_INPUT.ICORE (R425). -/
def PWR_INPUT_ICORE : Fld := ⟨0x10208, 0, 16, 0⟩

/-- PWR_LIMIT.MGMT_LIMIT (R425). -/
def PWR_LIMIT_MGMT_LIMIT : Fld := ⟨0x10210, 32, 16, 1500⟩

/-- PWR_LIMIT.HOST_LIMIT (R425). -/
def PWR_LIMIT_HOST_LIMIT : Fld := ⟨0x10210, 0, 16, 1500⟩

/-- PWR_REMOVE.STATE (R425). -/
def PWR_REMOVE_STATE : Fld := ⟨0x10218, 1, 2, 0⟩

/-- PWR_REMOVE.PREPARE (R425). -/
def PWR_REMOVE_PREPARE : Fld := ⟨0x10218, 0, 1, 0⟩

/-- PWR_RESET.MODULE (R425). -/
def PWR_RESET_MODULE : Fld := ⟨0x10220, 0, 1, 0⟩

/-- THM_DIE.TEMP (R425). -/
def THM_DIE_TEMP (e : Nat) : Fld := ⟨0x20000, 8 * e, 8, 0⟩

/-- THM_OTHER.INLET (R425). -/
def THM_OTHER_INLET : Fld := ⟨0x20008, 24, 8, 0⟩

/-- THM_OTHER.POWER_STAGE (R425). -/
def THM_OTHER_POWER_STAGE : Fld := ⟨0x20008, 16, 8, 0⟩

/-- THM_OTHER.LPDDR (R425). -/
def THM_OTHER_LPDDR : Fld := ⟨0x20008, 8, 8, 0⟩

/-- THM_OTHER.OASIS (R425). -/
def THM_OTHER_OASIS : Fld := ⟨0x20008, 0, 8, 0⟩

/-- THM_STATUS.LAST_CODE (R425). -/
def THM_STATUS_LAST_CODE : Fld := ⟨0x20010, 48, 16, 0⟩

/-- THM_STATUS.TRIPS (R425). -/
def THM_STATUS_TRIPS : Fld := ⟨0x20010, 32, 8, 0⟩

/-- THM_STATUS.DIE_REQ (R425). -/
def THM_STATUS_DIE_REQ (e : Nat) : Fld := ⟨0x20010, 16 + 2 * e, 2, 0⟩

/-- THM_STATUS.INLET_HOT (R425). -/
def THM_STATUS_INLET_HOT : Fld := ⟨0x20010, 2, 1, 0⟩

/-- THM_STATUS.TRIPPED (R425). -/
def THM_STATUS_TRIPPED : Fld := ⟨0x20010, 1, 1, 0⟩

/-- ID_DEVICE.MANUFACTURER (R434). -/
def ID_DEVICE_MANUFACTURER : Fld := ⟨0x0, 48, 11, 1195⟩

/-- ID_DEVICE.PART (R434). -/
def ID_DEVICE_PART : Fld := ⟨0x0, 32, 16, 117⟩

/-- ID_DEVICE.DEVICE_ID (R434). -/
def ID_DEVICE_DEVICE_ID : Fld := ⟨0x0, 16, 16, 117⟩

/-- ID_DEVICE.VENDOR_ID (R434). -/
def ID_DEVICE_VENDOR_ID : Fld := ⟨0x0, 0, 16, 7546⟩

/-- ID_REVISION.ROM_VERSION (R434). -/
def ID_REVISION_ROM_VERSION : Fld := ⟨0x8, 32, 32, 65536⟩

/-- ID_REVISION.OASIS_STEPPING (R434). -/
def ID_REVISION_OASIS_STEPPING : Fld := ⟨0x8, 8, 4, 1⟩

/-- ID_REVISION.STEPPING (R434). -/
def ID_REVISION_STEPPING : Fld := ⟨0x8, 0, 4, 1⟩

/-- ID_CAPS.FABRIC_PORTS (R434). -/
def ID_CAPS_FABRIC_PORTS : Fld := ⟨0x10, 60, 4, 4⟩

/-- ID_CAPS.HOST_PORTS (R434). -/
def ID_CAPS_HOST_PORTS : Fld := ⟨0x10, 56, 4, 2⟩

/-- ID_CAPS.PARTITIONS (R434). -/
def ID_CAPS_PARTITIONS : Fld := ⟨0x10, 48, 8, 16⟩

/-- ID_CAPS.QUEUE_BLOCKS (R434). -/
def ID_CAPS_QUEUE_BLOCKS : Fld := ⟨0x10, 32, 16, 256⟩

/-- ID_CAPS.CHANNELS (R434). -/
def ID_CAPS_CHANNELS : Fld := ⟨0x10, 16, 16, 256⟩

/-- ID_CAPS.CORES (R434). -/
def ID_CAPS_CORES : Fld := ⟨0x10, 8, 8, 128⟩

/-- ID_CAPS.ERGS (R434). -/
def ID_CAPS_ERGS : Fld := ⟨0x10, 0, 8, 8⟩

/-- ID_PORT.GEN (R434). -/
def ID_PORT_GEN (b : Port) : Fld := ⟨0x18 + bankOff b, 1, 3, 0⟩

/-- ID_PORT.PORT (R434). -/
def ID_PORT_PORT (b : Port) : Fld := ⟨0x18 + bankOff b, 0, 1, b.num⟩

end Reg

/-- The register maps, part 1 (R428). -/
def regRows1 : List RRow := [
  ⟨"CLK_STATUS", .global, 0x10000, [],
    [⟨15, 8, .ro, false, 0⟩, ⟨5, 5, .ro, false, 1⟩, ⟨4, 4, .ro, false, 1⟩, ⟨3, 3, .ro, false, 1⟩, ⟨2, 2, .w1c, false, 0⟩, ⟨1, 1, .ro, false, 1⟩, ⟨0, 0, .ro, false, 1⟩]⟩,
  ⟨"CLK_ACLK_STEP", .global, 0x10008, [(4, 0x8)],
    [⟨63, 0, .ro, false, 0⟩]⟩,
  ⟨"ENG_SCALE_BASE", .part, 0x80200, [(16, 0x8000)],
    [⟨39, 21, .rwl, true, 0⟩]⟩,
  ⟨"ENG_SCALE_CTRL", .part, 0x80208, [(16, 0x8000)],
    [⟨16, 16, .rwl, false, 0⟩, ⟨13, 0, .rwl, true, 0⟩]⟩,
  ⟨"ENG_STATUS", .core, 0x410000, [(8, 0x80000), (16, 0x4000)],
    [⟨31, 16, .ro, false, 0⟩, ⟨15, 8, .ro, false, 0⟩, ⟨7, 6, .ro, false, 0⟩, ⟨5, 5, .ro, false, 0⟩, ⟨4, 4, .ro, false, 0⟩, ⟨3, 3, .ro, false, 0⟩, ⟨2, 2, .ro, false, 0⟩, ⟨1, 1, .ro, false, 0⟩, ⟨0, 0, .ro, false, 0⟩]⟩,
  ⟨"ENG_ACC_SAT_COUNT", .core, 0x410008, [(8, 0x80000), (16, 0x4000)],
    [⟨31, 0, .ctr, false, 0⟩]⟩,
  ⟨"ENG_ISSUE_TIMEOUT", .core, 0x410010, [(8, 0x80000), (16, 0x4000)],
    [⟨31, 0, .rw, true, 0⟩]⟩,
  ⟨"ENG_PASS_COUNT", .core, 0x410018, [(8, 0x80000), (16, 0x4000)],
    [⟨47, 0, .ro, false, 0⟩]⟩,
  ⟨"ENG_WAIT_CYCLES", .core, 0x410020, [(8, 0x80000), (16, 0x4000)],
    [⟨47, 0, .ro, false, 0⟩]⟩,
  ⟨"ENG_SRAM_ERR", .core, 0x410028, [(8, 0x80000), (16, 0x4000)],
    [⟨31, 16, .ctr, false, 0⟩, ⟨15, 0, .ctr, false, 0⟩]⟩,
  ⟨"ENG_PRESENT_A", .core, 0x410040, [(8, 0x80000), (16, 0x4000), (3, 0x8)],
    [⟨63, 0, .ro, false, 0⟩]⟩,
  ⟨"ENG_PRESENT_B", .core, 0x410058, [(8, 0x80000), (16, 0x4000), (3, 0x8)],
    [⟨63, 0, .ro, false, 0⟩]⟩,
  ⟨"ENG_PRESENT_X", .core, 0x410070, [(8, 0x80000), (16, 0x4000), (16, 0x8)],
    [⟨63, 0, .ro, false, 0⟩]⟩,
  ⟨"VEC_STATUS", .core, 0x410400, [(8, 0x80000), (16, 0x4000)],
    [⟨31, 16, .ro, false, 0⟩, ⟨5, 5, .ro, false, 0⟩, ⟨4, 4, .ro, false, 0⟩, ⟨3, 3, .ro, false, 0⟩, ⟨2, 2, .ro, false, 0⟩, ⟨1, 1, .ro, false, 0⟩, ⟨0, 0, .ro, false, 0⟩]⟩,
  ⟨"VEC_FIFO_LEVEL", .core, 0x410408, [(8, 0x80000), (16, 0x4000)],
    [⟨12, 0, .ro, false, 0⟩]⟩,
  ⟨"VEC_SAT_COUNT", .core, 0x410410, [(8, 0x80000), (16, 0x4000)],
    [⟨31, 0, .ctr, false, 0⟩]⟩,
  ⟨"VEC_NONFINITE_COUNT", .core, 0x410418, [(8, 0x80000), (16, 0x4000)],
    [⟨31, 0, .ctr, false, 0⟩]⟩,
  ⟨"VEC_OP_COUNT", .core, 0x410420, [(8, 0x80000), (16, 0x4000)],
    [⟨47, 0, .ro, false, 0⟩]⟩,
  ⟨"SEQ_MODULE_BASE", .part, 0x80210, [(16, 0x8000)],
    [⟨39, 21, .rwl, true, 0⟩]⟩,
  ⟨"SEQ_MODULE_CTRL", .part, 0x80218, [(16, 0x8000)],
    [⟨16, 16, .rwl, false, 0⟩, ⟨9, 0, .rwl, true, 0⟩]⟩]

/-- The register maps, part 2 (R428). -/
def regRows2 : List RRow := [
  ⟨"SEQ_STATUS", .core, 0x410800, [(8, 0x80000), (16, 0x4000)],
    [⟨31, 16, .ro, false, 0⟩, ⟨15, 8, .ro, false, 0xff⟩, ⟨7, 7, .ro, false, 0⟩, ⟨6, 6, .ro, false, 0⟩, ⟨5, 5, .ro, false, 0⟩, ⟨4, 4, .ro, false, 0⟩, ⟨3, 3, .ro, false, 0⟩, ⟨0, 0, .ro, false, 0⟩]⟩,
  ⟨"SEQ_RETIRED", .core, 0x410808, [(8, 0x80000), (16, 0x4000)],
    [⟨47, 0, .ro, false, 0⟩]⟩,
  ⟨"CAR_STATUS", .core, 0x410c00, [(8, 0x80000), (16, 0x4000)],
    [⟨47, 32, .ro, false, 0⟩, ⟨31, 16, .ro, false, 0⟩, ⟨6, 6, .ro, false, 0⟩, ⟨5, 5, .ro, false, 0⟩, ⟨4, 4, .ro, false, 0⟩, ⟨3, 3, .ro, false, 0⟩, ⟨2, 2, .ro, false, 0⟩, ⟨1, 1, .ro, false, 0⟩, ⟨0, 0, .ro, false, 0⟩]⟩,
  ⟨"CAR_INSTANCES", .core, 0x410c08, [(8, 0x80000), (16, 0x4000)],
    [⟨47, 0, .ro, false, 0⟩]⟩,
  ⟨"CAR_STAGE", .core, 0x410c10, [(8, 0x80000), (16, 0x4000), (8, 0x8)],
    [⟨36, 36, .ro, false, 0⟩, ⟨35, 33, .ro, false, 0⟩, ⟨32, 32, .ro, false, 0⟩, ⟨31, 0, .ro, false, 0⟩]⟩,
  ⟨"CAR_IMEM", .core, 0x410c50, [(8, 0x80000), (16, 0x4000)],
    [⟨47, 16, .ro, false, 0⟩, ⟨15, 0, .ctr, false, 0⟩]⟩,
  ⟨"SYN_CTRL", .part, 0x80300, [(16, 0x8000)],
    [⟨55, 33, .rw, true, 0⟩, ⟨2, 2, .rw, false, 0⟩, ⟨1, 1, .rw, false, 0⟩, ⟨0, 0, .rw, false, 0⟩]⟩,
  ⟨"SYN_WINDOW", .part, 0x80308, [(16, 0x8000)],
    [⟨54, 32, .rw, true, 0⟩, ⟨22, 0, .rw, true, 0⟩]⟩,
  ⟨"SYN_STEP", .part, 0x80310, [(16, 0x8000)],
    [⟨31, 0, .rw, true, 0⟩]⟩,
  ⟨"SYN_STATUS", .part, 0x80318, [(16, 0x8000)],
    [⟨63, 48, .ctr, false, 0⟩, ⟨47, 16, .ctr, false, 0⟩, ⟨8, 8, .ro, false, 0⟩, ⟨7, 7, .ro, false, 0⟩, ⟨6, 0, .ro, false, 0⟩]⟩,
  ⟨"SYN_VERSION_BASE", .part, 0x80320, [(16, 0x8000)],
    [⟨39, 21, .rwl, true, 0⟩]⟩,
  ⟨"SYN_VERSION_CTRL", .part, 0x80328, [(16, 0x8000)],
    [⟨63, 32, .rw, true, 0⟩, ⟨17, 17, .w1s, false, 0⟩, ⟨16, 16, .rwl, false, 0⟩, ⟨12, 0, .rwl, true, 0⟩]⟩,
  ⟨"SYN_SEED_KEY", .part, 0x80330, [(16, 0x8000)],
    [⟨63, 0, .rwl, true, 0⟩]⟩,
  ⟨"SYN_RIPPLE_BASE", .part, 0x80338, [(16, 0x8000)],
    [⟨39, 21, .rwl, true, 0⟩]⟩,
  ⟨"SYN_RIPPLE_CTRL", .part, 0x80340, [(16, 0x8000)],
    [⟨30, 16, .rwl, true, 0⟩, ⟨1, 1, .w1c, false, 0⟩, ⟨0, 0, .rw, false, 0⟩]⟩,
  ⟨"SYN_REPLAY_CTRL", .part, 0x80348, [(16, 0x8000)],
    [⟨63, 32, .rw, true, 0⟩, ⟨1, 1, .w1s, false, 0⟩, ⟨0, 0, .w1s, false, 0⟩]⟩,
  ⟨"SYN_REPLAY_RESULT", .part, 0x80350, [(16, 0x8000)],
    [⟨63, 32, .ro, false, 0⟩, ⟨15, 8, .ro, false, 0xff⟩, ⟨2, 0, .ro, false, 0⟩]⟩,
  ⟨"SYN_REPLAY_CORES", .part, 0x80358, [(16, 0x8000)],
    [⟨63, 32, .ro, false, 0⟩, ⟨15, 8, .ro, false, 0xff⟩, ⟨7, 0, .ro, false, 0xff⟩]⟩,
  ⟨"SYN_OUT_SEL", .global, 0x10100, [],
    [⟨5, 5, .ro, false, 0⟩, ⟨4, 4, .rw, false, 0⟩, ⟨3, 0, .rw, true, 0⟩]⟩,
  ⟨"OAS_STATUS", .global, 0x300000, [],
    [⟨31, 16, .ro, false, 0⟩, ⟨15, 8, .ro, false, 0xff⟩, ⟨2, 2, .ro, false, 0⟩, ⟨1, 1, .ro, false, 0⟩, ⟨0, 0, .ro, false, 0⟩]⟩]

/-- The register maps, part 3 (R428). -/
def regRows3 : List RRow := [
  ⟨"OAS_LINK_STATUS", .global, 0x300008, [],
    [⟨18, 16, .ro, false, 0⟩, ⟨15, 0, .ro, false, 0⟩]⟩,
  ⟨"OAS_LINK_ERR", .global, 0x300010, [],
    [⟨63, 32, .ctr, false, 0⟩, ⟨31, 0, .ctr, false, 0⟩]⟩,
  ⟨"OAS_COUNTS", .global, 0x300018, [],
    [⟨63, 48, .ro, false, 0⟩, ⟨47, 0, .ro, false, 0⟩]⟩,
  ⟨"OAS_SLOW_REGION", .part, 0x310000, [(16, 0x1000)],
    [⟨40, 32, .rwl, true, 0⟩, ⟨7, 0, .rwl, true, 0⟩]⟩,
  ⟨"OAS_MASTER_TABLE", .part, 0x310008, [(16, 0x1000)],
    [⟨39, 21, .rwl, true, 0⟩]⟩,
  ⟨"OAS_CTRL", .part, 0x310010, [(16, 0x1000)],
    [⟨63, 48, .rwl, true, 0⟩, ⟨16, 16, .rwl, false, 0⟩, ⟨12, 0, .rwl, true, 0⟩]⟩,
  ⟨"OAS_QUEUE", .part, 0x310018, [(16, 0x1000)],
    [⟨16, 16, .w1s, false, 0⟩, ⟨6, 0, .ro, false, 0⟩]⟩,
  ⟨"OAS_XFER", .part, 0x310020, [(16, 0x1000)],
    [⟨63, 30, .rw, true, 0⟩, ⟨29, 18, .rw, true, 0⟩, ⟨17, 16, .rw, true, 0⟩, ⟨15, 15, .rw, true, 0⟩, ⟨0, 0, .w1s, false, 0⟩]⟩,
  ⟨"OAS_XFER_STATUS", .part, 0x310028, [(16, 0x1000)],
    [⟨63, 32, .ro, false, 0⟩, ⟨31, 16, .ro, false, 0⟩, ⟨1, 0, .ro, false, 0⟩]⟩,
  ⟨"OAS_DIGEST_KEY", .part, 0x310030, [(16, 0x1000), (2, 0x8)],
    [⟨63, 0, .wo, true, 0⟩]⟩,
  ⟨"OAS_DIGEST_CTRL", .part, 0x310040, [(16, 0x1000)],
    [⟨1, 1, .ro, false, 0⟩, ⟨0, 0, .rw, false, 0⟩]⟩,
  ⟨"MEM_INTERLEAVE", .global, 0x2000, [],
    [⟨8, 8, .ro, false, 0⟩, ⟨5, 4, .rw, true, 0⟩, ⟨1, 0, .rw, true, 0⟩]⟩,
  ⟨"MEM_CAPACITY", .global, 0x2008, [],
    [⟨48, 32, .ro, false, 0⟩, ⟨25, 9, .ro, false, 0⟩, ⟨8, 0, .ro, false, 0x100⟩]⟩,
  ⟨"MEM_MAPOUT", .global, 0x2010, [],
    [⟨18, 17, .ro, false, 0⟩, ⟨16, 16, .w1s, false, 0⟩, ⟨8, 8, .rw, false, 0⟩, ⟨7, 0, .rw, true, 0⟩]⟩,
  ⟨"MEM_ZEROIZE", .global, 0x2018, [],
    [⟨50, 34, .ro, false, 0⟩, ⟨32, 32, .w1s, false, 0⟩, ⟨16, 0, .ro, false, 0⟩]⟩,
  ⟨"MEM_MAPPED_OUT", .global, 0x2020, [(4, 0x8)],
    [⟨63, 0, .ro, false, 0⟩]⟩,
  ⟨"MEM_CHAN_ERR", .global, 0x400100, [(8, 0x80000), (32, 0x8)],
    [⟨47, 32, .ctr, false, 0⟩, ⟨31, 16, .ctr, false, 0⟩, ⟨15, 0, .ctr, false, 0⟩]⟩,
  ⟨"CCH_STATUS", .global, 0x400800, [(8, 0x80000)],
    [⟨50, 32, .ro, false, 0⟩, ⟨31, 16, .ro, false, 0⟩]⟩,
  ⟨"CCH_ATOMIC_SAT", .global, 0x400808, [(8, 0x80000)],
    [⟨31, 0, .ctr, false, 0⟩]⟩,
  ⟨"CCH_ERR", .global, 0x400810, [(8, 0x80000)],
    [⟨31, 16, .ctr, false, 0⟩, ⟨15, 0, .ctr, false, 0⟩]⟩]

/-- The register maps, part 4 (R428). -/
def regRows4 : List RRow := [
  ⟨"MEM_REG", .part, 0x80100, [(16, 0x8000), (8, 0x8)],
    [⟨48, 48, .rwl, false, 0⟩, ⟨47, 32, .rwl, true, 0⟩, ⟨11, 0, .rwl, true, 0⟩]⟩,
  ⟨"MEM_PART_MAP", .part, 0x80140, [(16, 0x8000)],
    [⟨48, 32, .ro, false, 0⟩, ⟨16, 0, .ro, false, 0⟩]⟩,
  ⟨"MEM_PART_STATUS", .part, 0x80148, [(16, 0x8000)],
    [⟨31, 16, .ro, false, 0⟩, ⟨2, 2, .ro, false, 0⟩, ⟨1, 1, .w1c, false, 0⟩]⟩,
  ⟨"MEM_PART_WAIT", .part, 0x80150, [(16, 0x8000)],
    [⟨47, 0, .ro, false, 0⟩]⟩,
  ⟨"CCH_PIN_LIMIT", .part, 0x80158, [(16, 0x8000)],
    [⟨4, 0, .rwl, true, 0⟩]⟩,
  ⟨"THM_STACK", .global, 0x20100, [(4, 0x8)],
    [⟨63, 0, .ro, false, 0⟩]⟩,
  ⟨"THM_COUPLING", .global, 0x20120, [],
    [⟨63, 0, .ro, false, 0⟩]⟩,
  ⟨"THM_COUPLING_COUNT", .global, 0x20128, [],
    [⟨31, 16, .ctr, false, 0⟩, ⟨15, 0, .ctr, false, 0⟩]⟩,
  ⟨"DMA_CH_STATUS", .core, 0x411000, [(8, 0x80000), (16, 0x4000), (16, 0x20)],
    [⟨63, 48, .ro, false, 0⟩, ⟨47, 16, .ro, false, 0⟩, ⟨11, 10, .ro, false, 0⟩, ⟨9, 9, .ro, false, 0⟩, ⟨8, 8, .ro, false, 0⟩, ⟨2, 0, .ro, false, 0⟩]⟩,
  ⟨"DMA_CH_CTRL", .core, 0x411008, [(8, 0x80000), (16, 0x4000), (16, 0x20)],
    [⟨1, 1, .w1c, false, 0⟩, ⟨0, 0, .rw, false, 0⟩]⟩,
  ⟨"DMA_CH_PACE", .core, 0x411010, [(8, 0x80000), (16, 0x4000), (16, 0x20)],
    [⟨55, 48, .ro, true, 0⟩, ⟨47, 28, .ro, true, 0⟩, ⟨27, 8, .ro, true, 0⟩, ⟨1, 1, .ro, false, 0⟩, ⟨0, 0, .ro, false, 0⟩]⟩,
  ⟨"DMA_CH_BYTES", .core, 0x411018, [(8, 0x80000), (16, 0x4000), (16, 0x20)],
    [⟨47, 0, .ro, false, 0⟩]⟩,
  ⟨"DMA_DQ", .global, 0x400c00, [(8, 0x80000), (32, 0x8)],
    [⟨39, 24, .ro, false, 0⟩, ⟨23, 20, .ro, false, 0⟩, ⟨16, 16, .ro, false, 0⟩, ⟨3, 3, .ro, false, 0⟩, ⟨2, 2, .ro, false, 0⟩, ⟨1, 1, .w1s, false, 0⟩, ⟨0, 0, .w1s, false, 0⟩]⟩,
  ⟨"QUE_BLOCK", .global, 0x100000, [(256, 0x8)],
    [⟨8, 8, .ro, false, 0⟩, ⟨4, 4, .ro, false, 0⟩, ⟨3, 0, .ro, false, 0⟩]⟩,
  ⟨"QUE_SEL", .banked, 0x100800, [],
    [⟨15, 0, .rw, true, 0⟩]⟩,
  ⟨"QUE_SQ_BASE", .queue, 0x100808, [],
    [⟨63, 6, .rw, true, 0⟩]⟩,
  ⟨"QUE_CQ_BASE", .queue, 0x100810, [],
    [⟨63, 6, .rw, true, 0⟩]⟩,
  ⟨"QUE_CFG", .queue, 0x100818, [],
    [⟨63, 56, .rw, true, 0⟩, ⟨55, 48, .rw, true, 0⟩, ⟨42, 32, .rw, true, 0⟩, ⟨20, 16, .rw, true, 0⟩, ⟨12, 8, .rw, true, 0⟩, ⟨1, 1, .rw, false, 0⟩, ⟨0, 0, .rw, false, 0⟩]⟩,
  ⟨"QUE_STATE", .queue, 0x100820, [],
    [⟨63, 48, .ro, false, 0⟩, ⟨47, 32, .ro, false, 0⟩, ⟨31, 16, .ro, false, 0⟩, ⟨15, 0, .ro, false, 0⟩]⟩,
  ⟨"QUE_STATUS", .queue, 0x100828, [],
    [⟨63, 48, .ro, false, 0⟩, ⟨29, 29, .ro, false, 0⟩, ⟨28, 28, .ro, false, 0⟩, ⟨27, 27, .ro, false, 1⟩, ⟨16, 0, .ro, false, 0⟩]⟩]

/-- The register maps, part 5 (R428). -/
def regRows5 : List RRow := [
  ⟨"QUE_PORT_STATUS", .banked, 0x100830, [],
    [⟨63, 32, .ro, false, 0⟩, ⟨31, 16, .ro, false, 0⟩, ⟨1, 1, .ro, false, 0⟩, ⟨0, 0, .w1c, false, 0⟩]⟩,
  ⟨"FAB_CTRL", .global, 0x200000, [],
    [⟨63, 48, .rw, true, 0⟩, ⟨47, 32, .rw, true, 0⟩, ⟨31, 31, .rw, false, 0⟩, ⟨30, 28, .rw, false, 0⟩, ⟨27, 16, .rw, false, 0⟩, ⟨15, 8, .rw, true, 0⟩, ⟨1, 1, .rw, false, 0⟩, ⟨0, 0, .rw, false, 0⟩]⟩,
  ⟨"FAB_TIMERS", .global, 0x200008, [],
    [⟨63, 48, .rw, true, 0⟩, ⟨47, 40, .rw, true, 0⟩, ⟨39, 24, .rw, true, 0⟩, ⟨23, 0, .rw, true, 0⟩]⟩,
  ⟨"FAB_PORT_STATUS", .global, 0x200010, [(4, 0x8)],
    [⟨63, 32, .ro, false, 0⟩, ⟨1, 1, .ro, false, 0⟩, ⟨0, 0, .ro, false, 0⟩]⟩,
  ⟨"FAB_PORT_MAC", .global, 0x200030, [(4, 0x8)],
    [⟨47, 0, .rw, true, 0⟩]⟩,
  ⟨"FAB_PORT_GW", .global, 0x200050, [(4, 0x8)],
    [⟨47, 0, .rw, true, 0⟩]⟩,
  ⟨"FAB_PORT_IP_LO", .global, 0x200070, [(4, 0x10)],
    [⟨63, 0, .rw, true, 0⟩]⟩,
  ⟨"FAB_PORT_IP_HI", .global, 0x200078, [(4, 0x10)],
    [⟨63, 0, .rw, true, 0⟩]⟩,
  ⟨"FAB_COUNTS", .global, 0x2000b0, [],
    [⟨63, 48, .ctr, false, 0⟩, ⟨47, 32, .ctr, false, 0⟩, ⟨31, 16, .ctr, false, 0⟩, ⟨15, 0, .ctr, false, 0⟩]⟩,
  ⟨"FAB_AREA", .part, 0x210000, [(16, 0x1000)],
    [⟨48, 40, .rwl, true, 0⟩, ⟨39, 21, .rwl, true, 0⟩]⟩,
  ⟨"FAB_AREA_CTRL", .part, 0x210008, [(16, 0x1000)],
    [⟨44, 32, .rwl, true, 0⟩, ⟨31, 31, .rwl, false, 0⟩, ⟨16, 0, .rwl, true, 0⟩]⟩,
  ⟨"FAB_RX", .part, 0x210010, [(16, 0x1000)],
    [⟨58, 40, .rwl, true, 0⟩, ⟨39, 20, .rwl, true, 0⟩, ⟨19, 0, .rwl, true, 0⟩]⟩,
  ⟨"FAB_FLOW_CMD", .part, 0x210018, [(16, 0x1000)],
    [⟨33, 32, .ro, false, 0⟩, ⟨19, 18, .rw, true, 0⟩, ⟨16, 16, .w1s, false, 0⟩, ⟨15, 0, .rw, true, 0⟩]⟩,
  ⟨"FAB_PART_STATUS", .part, 0x210020, [(16, 0x1000)],
    [⟨63, 48, .ro, false, 0⟩, ⟨39, 32, .ro, false, 0⟩, ⟨16, 0, .ro, false, 0⟩]⟩,
  ⟨"HLT_CTRL", .global, 0x3000, [],
    [⟨7, 0, .rw, true, 0⟩]⟩,
  ⟨"HLT_STATUS", .global, 0x3008, [],
    [⟨63, 48, .ro, false, 0⟩, ⟨23, 16, .ro, false, 0⟩, ⟨15, 8, .ro, false, 0x80⟩, ⟨3, 1, .ro, false, 0⟩, ⟨0, 0, .ro, false, 0⟩]⟩,
  ⟨"HLT_CORE_STATE", .global, 0x3010, [(4, 0x8)],
    [⟨63, 0, .ro, false, 0⟩]⟩,
  ⟨"HLT_FENCE", .global, 0x3030, [],
    [⟨8, 8, .w1s, false, 0⟩, ⟨6, 0, .rw, true, 0⟩]⟩,
  ⟨"HLT_LOG_STATUS", .global, 0x3038, [],
    [⟨63, 32, .ro, false, 0⟩, ⟨8, 0, .ro, false, 0⟩]⟩,
  ⟨"HLT_LOG", .global, 0x8000, [(512, 0x40), (8, 0x8)],
    [⟨63, 0, .ro, false, 0⟩]⟩]

/-- The register maps, part 6 (R428). -/
def regRows6 : List RRow := [
  ⟨"HLT_DUMP_ADDR", .global, 0x3040, [],
    [⟨63, 6, .rw, true, 0⟩]⟩,
  ⟨"HLT_DUMP_CTRL", .global, 0x3048, [],
    [⟨17, 16, .ro, false, 0⟩, ⟨0, 0, .w1s, false, 0⟩]⟩,
  ⟨"HLT_SIROCCO", .part, 0x80400, [(16, 0x8000)],
    [⟨63, 48, .rw, false, 0⟩, ⟨47, 16, .ro, false, 0⟩, ⟨3, 2, .ro, false, 0⟩, ⟨0, 0, .w1s, false, 0⟩]⟩,
  ⟨"HLT_PAIR_CTRL", .part, 0x80408, [(16, 0x8000)],
    [⟨0, 0, .rw, false, 0⟩]⟩,
  ⟨"HLT_MIRAGE_CTRL", .part, 0x80410, [(16, 0x8000)],
    [⟨63, 52, .rwl, true, 0⟩, ⟨42, 32, .rwl, true, 0⟩, ⟨1, 1, .rwl, false, 0⟩, ⟨0, 0, .rwl, false, 0⟩]⟩,
  ⟨"HLT_MIRAGE_STATUS", .part, 0x80418, [(16, 0x8000)],
    [⟨63, 32, .ro, false, 0⟩, ⟨31, 24, .ro, false, 0⟩, ⟨4, 4, .w1s, false, 0⟩, ⟨3, 3, .ro, false, 0⟩, ⟨2, 2, .w1c, false, 0⟩, ⟨0, 0, .ro, false, 0⟩]⟩,
  ⟨"HLT_MIRAGE_EXCL", .part, 0x80420, [(16, 0x8000), (16, 0x8)],
    [⟨63, 0, .ro, false, 0xffffffffffffffff⟩]⟩,
  ⟨"HLT_ERR_RING", .part, 0x804a0, [(16, 0x8000)],
    [⟨63, 6, .rw, true, 0⟩]⟩,
  ⟨"HLT_ERR_CTRL", .part, 0x804a8, [(16, 0x8000)],
    [⟨42, 32, .rw, true, 0⟩, ⟨20, 16, .rw, true, 0⟩, ⟨1, 1, .rw, false, 0⟩, ⟨0, 0, .rw, false, 0⟩]⟩,
  ⟨"HLT_ERR_PTR", .part, 0x804b0, [(16, 0x8000)],
    [⟨63, 48, .ctr, false, 0⟩, ⟨47, 32, .ro, false, 0⟩, ⟨15, 0, .rw, false, 0⟩]⟩,
  ⟨"SEC_STATUS", .global, 0x40000, [],
    [⟨63, 48, .ro, false, 0⟩, ⟨47, 16, .ro, false, 0⟩, ⟨9, 8, .ro, false, 0⟩, ⟨7, 7, .ro, false, 0⟩, ⟨4, 4, .ro, false, 0⟩, ⟨3, 0, .ro, false, 0⟩]⟩,
  ⟨"SEC_ID_DIGEST", .global, 0x40008, [(6, 0x8)],
    [⟨63, 0, .ro, false, 0⟩]⟩,
  ⟨"SEC_MBX_CTRL", .banked, 0x40040, [],
    [⟨2, 2, .ro, false, 0⟩, ⟨1, 1, .ro, false, 0⟩, ⟨0, 0, .w1s, false, 0⟩]⟩,
  ⟨"SEC_MBX_REQ", .banked, 0x40080, [(8, 0x8)],
    [⟨63, 0, .rw, true, 0⟩]⟩,
  ⟨"SEC_MBX_RESP", .banked, 0x400c0, [(8, 0x8)],
    [⟨63, 0, .ro, false, 0⟩]⟩,
  ⟨"SEC_PART_STATUS", .part, 0x80000, [(16, 0x8000)],
    [⟨63, 48, .ro, false, 0⟩, ⟨39, 32, .ro, false, 0⟩, ⟨12, 12, .ro, false, 0⟩, ⟨8, 8, .ro, false, 0⟩, ⟨3, 3, .ro, false, 0⟩, ⟨2, 0, .ro, false, 0⟩]⟩,
  ⟨"SEC_PART_CORES", .part, 0x80008, [(16, 0x8000), (2, 0x8)],
    [⟨63, 0, .ro, false, 0⟩]⟩,
  ⟨"PWR_STATUS", .global, 0x10200, [],
    [⟨63, 48, .ro, false, 0⟩, ⟨9, 9, .w1c, false, 0⟩, ⟨8, 8, .ro, false, 0⟩, ⟨7, 6, .ro, false, 0⟩, ⟨3, 3, .ro, false, 1⟩, ⟨2, 2, .ro, false, 1⟩]⟩,
  ⟨"PWR_INPUT", .global, 0x10208, [],
    [⟨63, 48, .ro, false, 0⟩, ⟨47, 32, .ro, false, 0⟩, ⟨31, 16, .ro, false, 0⟩, ⟨15, 0, .ro, false, 0⟩]⟩,
  ⟨"PWR_LIMIT", .global, 0x10210, [],
    [⟨47, 32, .ro, false, 0x5dc⟩, ⟨15, 0, .rw, false, 0x5dc⟩]⟩]

/-- The register maps, part 7 (R428). -/
def regRows7 : List RRow := [
  ⟨"PWR_REMOVE", .global, 0x10218, [],
    [⟨2, 1, .ro, false, 0⟩, ⟨0, 0, .w1s, false, 0⟩]⟩,
  ⟨"PWR_RESET", .global, 0x10220, [],
    [⟨0, 0, .w1s, false, 0⟩]⟩,
  ⟨"THM_DIE", .global, 0x20000, [],
    [⟨63, 0, .ro, false, 0⟩]⟩,
  ⟨"THM_OTHER", .global, 0x20008, [],
    [⟨31, 24, .ro, false, 0⟩, ⟨23, 16, .ro, false, 0⟩, ⟨15, 8, .ro, false, 0⟩, ⟨7, 0, .ro, false, 0⟩]⟩,
  ⟨"THM_STATUS", .global, 0x20010, [],
    [⟨63, 48, .ro, false, 0⟩, ⟨39, 32, .ro, false, 0⟩, ⟨31, 16, .ro, false, 0⟩, ⟨2, 2, .ro, false, 0⟩, ⟨1, 1, .ro, false, 0⟩]⟩,
  ⟨"ID_DEVICE", .global, 0x0, [],
    [⟨58, 48, .ro, false, 0x4ab⟩, ⟨47, 32, .ro, false, 0x75⟩, ⟨31, 16, .ro, false, 0x75⟩, ⟨15, 0, .ro, false, 0x1d7a⟩]⟩,
  ⟨"ID_REVISION", .global, 0x8, [],
    [⟨63, 32, .ro, false, 0x10000⟩, ⟨11, 8, .ro, false, 1⟩, ⟨3, 0, .ro, false, 1⟩]⟩,
  ⟨"ID_CAPS", .global, 0x10, [],
    [⟨63, 60, .ro, false, 4⟩, ⟨59, 56, .ro, false, 2⟩, ⟨55, 48, .ro, false, 16⟩, ⟨47, 32, .ro, false, 0x100⟩, ⟨31, 16, .ro, false, 0x100⟩, ⟨15, 8, .ro, false, 0x80⟩, ⟨7, 0, .ro, false, 8⟩]⟩,
  ⟨"ID_PORT", .banked, 0x18, [],
    [⟨3, 1, .ro, false, 0⟩, ⟨0, 0, .ro, false, 0⟩]⟩]

/-- Every register map of the spec (R428). -/
def regRows : List RRow := regRows1 ++ regRows2 ++ regRows3 ++ regRows4 ++ regRows5 ++ regRows6 ++ regRows7

end Sys2Proof.Machine
end

