-- ==== Sys2Proof/Machine/Context.lean ====
section
/-!
DEFINITION. The contexts that the state holds beside the registers: accepted commands, descriptors and transfers, cache
lines, programs, launches, engines, flows, instances. Each is plain data with a named empty value.
-/

namespace Sys2Proof.Machine

/-- What the module sends out: writes to host memory, MSI-X vectors, frames, responses, pulses (in State.out, newest
first). -/
inductive Out
  /-- A write to host memory; `stream` is the selective IDE stream it uses, where it belongs to a TDI (R395). -/
  | hostWrite (port : Port) (stream : Option Nat) (addr : Nat) (data : List Byte)
  /-- An MSI-X message: the vector, and the address and data that its table entry holds (R427). -/
  | msix (port : Port) (vector addr data : Nat)
  /-- An XFT frame sent on a fabric port for a flow of partition p: what stands before the XFT header (R328, R331), the XFT
  header (R332), and what follows it but for the FCS: the encrypted payload and its tag (R337), or the payload of a HANDSHAKE. -/
  | xft (fport p flow : Nat) (encap hdr body : List Byte)
  | readData (data : List Byte)
  | response (channel : String) (fields : List Nat)
  | syncPulse
  | pinHeld (name : String)
deriving DecidableEq, Repr

/-- An error record before it is laid out (R373). `hw` is FLAGS.HW, `trunc` is FLAGS.TRUNCATED; `tile` is the tile that a stage
works on at the cause, where that is not the one of its work part (R209). -/
structure Rec where
  code : Nat
  cls : Nat := 1
  part : Nat := 0xFF
  core : Nat := 0xFF
  vcore : Nat := 0xFF
  unit : Nat := 0xFF
  seq : Nat := 0xFFFFFFFF
  detail : List Nat := []
  hw : Bool := false
  trunc : Bool := false
  tile : Option Nat := none
deriving DecidableEq, Repr

/-- The state of a frame (R278). UNBACKED is computed from R274. -/
inductive FState
  | free
  | zeroizing (p : Nat)
  | owned (p : Nat)
  | quarantined
deriving DecidableEq, Repr

/-- One page-map entry (R279). -/
structure PEntry where
  frame : Nat
  valid : Bool
deriving DecidableEq, Repr

/-- Who holds a pin on a line (R285). -/
inductive PinOwner
  | launch (p : Nat)
  | prefetch (p : Nat) (cdef : Option Nat)
deriving DecidableEq, Repr

/-- The partition that holds a pin. -/
def PinOwner.part : PinOwner → Nat
  | .launch p => p
  | .prefetch p _ => p

/-- One cached line (R284). The state's memory holds the current contents of every address; a dirty line keeps the
contents that DRAM still has in `dram`. -/
structure CLine where
  cached : Bool
  dirty : Bool
  dram : List Byte
  pins : List PinOwner
  used : Nat
deriving DecidableEq, Repr

/-- No line. -/
def CLine.empty : CLine := ⟨false, false, [], [], 0⟩

/-- How far an accepted host command has come (R317, R322, R324). -/
inductive CmdPhase
  | absent
  | accepted
  /-- A LAUNCH that waits to start (R133). -/
  | queued
  | running
  | aborted
  /-- A fault with this code has ended a copy, and accesses of it are still in flight (R321). -/
  | failing (code : Nat)
deriving DecidableEq, Repr

/-- An accepted host command without a completion record (R317, R318). -/
structure Cmd where
  phase : CmdPhase
  queue : Nat
  port : Port
  cid : Nat
  op : Nat
  fence : Bool
  prio : Nat
  raw : List Byte
  /-- Descriptors of the command that have not completed. -/
  left : Nat
  /-- Bytes written (DETAIL of copies). -/
  moved : Nat
  /-- DISCARDED summed over the aborted caravan instances of a launch (R208). -/
  discarded : Nat
deriving DecidableEq, Repr

/-- No command. -/
def Cmd.empty : Cmd := ⟨.absent, 0, .h0, 0, 0, false, 0, [], 0, 0, 0⟩

/-- A tensor descriptor (R142). -/
structure TDesc where
  base : Nat
  format : Nat
  rank : Nat
  flags : Nat
  dims : List Nat
  strides : List Nat
  auxBase : Nat
  auxStride : Nat
  scaleRef : Nat
  /-- Every reserved field, and every field above RANK, is 0. -/
  clean : Bool
deriving DecidableEq, Repr

/-- What bytes a transfer moves beside a plain copy: the gathers that the translator has the DMA engine make
(R66, R89, R93, R155, R159). `org` is the origin of rows, `kb` the first block, `h` the linear index over the higher
dimensions. -/
inductive Fill
  | plain
  /-- Rows of a tensor, packed one after another (R155 ROWS): row bytes, stride and the bytes of all rows. -/
  | rows (rowBytes stride total : Nat)
  /-- Packed rows put at their places in a tensor (R155 ROWS of STORE). -/
  | toRows (rowBytes stride total : Nat)
  /-- Row operands in per-k-step vectors of 256 elements (R66); `rowMajor` says that element (i, k) is tensor element
  [org + i][k], else [k][org + i]. -/
  | rowOp (t : TDesc) (rowMajor : Bool) (org k0 h holdT : Nat)
  /-- Column operands, 256 elements per k-step: tensor element [k][org + n]. -/
  | colOp (t : TDesc) (org k0 h : Nat)
  /-- Data blocks of codes, forward orientation, one granule each. -/
  | codes (t : TDesc) (org kb h : Nat)
  /-- Granules of codes, transposed orientation: reduction steps k0 to k0 + 31 in the first. -/
  | codesT (t : TDesc) (org k0 h : Nat)
  /-- Scale blocks, forward. -/
  | scales (t : TDesc) (org kb h : Nat)
  /-- Scale blocks, transposed. -/
  | scalesT (t : TDesc) (org k0 h : Nat)
  /-- The source range of a collective instance, into the receive queue that the cookie numbers (R344). -/
  | receive
deriving DecidableEq, Repr

/-- A DMA descriptor (R304). `bad` says that a reserved field is not 0. -/
structure Desc where
  src : Nat
  dst : Nat
  len : Nat
  srcSp : Nat
  dstSp : Nat
  prio : Nat
  chan : Nat
  lcore : Nat
  tag : Nat
  skew : Nat
  record : Bool
  cq : Nat
  cookie : Nat
  seq : Nat
  part : Nat
  firmware : Bool
  bad : Bool
  fill : Fill
  /-- Bytes by which a pre-skewed stream stands later in its range (R89). -/
  shift : Nat
  /-- The source granules are released at completion (REL of STORE). -/
  rel : Bool
  /-- The virtual core the transfer works for, 0xFF where it is a host command's; and its instruction. -/
  vcore : Nat
  iid : Nat
deriving DecidableEq, Repr

/-- A granted burst that has not landed: its size, its place in the order of issue, and the mesh endpoints that it runs
between (R20). -/
structure Flight where
  size : Nat
  order : Nat
  source : Nat
  target : Nat
deriving DecidableEq, Repr

/-- A transfer in a register set of a channel (R298). `landed` is how far its bursts have come, `bytes` what landed (R307). -/
structure Xfer where
  desc : Desc
  granted : Nat
  landed : Nat
  bytes : Nat
  /-- The granted bursts that have not landed, oldest first. -/
  flight : List Flight
  /-- No further burst is granted (R300). -/
  stopped : Bool
  /-- The code of the first fault, 0 if none. -/
  code : Nat
deriving DecidableEq, Repr

/-- The two register sets of a channel (R298). -/
structure Chan2 where
  active : Option Xfer
  shadow : Option Xfer
deriving DecidableEq, Repr

/-- Both sets empty. -/
def Chan2.empty : Chan2 := ⟨.none, .none⟩

/-- The grant state of a core's DMA engine: how often each ready channel was passed over, and the channel last granted at each
level (R301). -/
structure DmaEng where
  passed : SMap Nat
  last : SMap Nat
deriving DecidableEq, Repr

/-- No grant made yet. -/
def DmaEng.empty : DmaEng := ⟨[], []⟩

/-- A loaded program under a handle (R133). The image is kept as it was loaded; descriptors, entry tables, CONST and
caravan definitions are read from it. -/
structure Prog where
  /-- 0 empty, 1 loading, 2 loaded. -/
  state : Nat
  isNative : Bool
  image : List Byte
  /-- Bytes taken from the module area (R175 step 2). -/
  area : Nat
  /-- The address of the translation record (R176). -/
  recAddr : Nat
  /-- (physical core, runs on a gang led by it) for every virtual core (R134). -/
  place : List (Nat × Bool)
  live : Nat
  gangs : Nat
  /-- Marked for re-translation (R178). -/
  marked : Bool
  digest : List Byte
deriving DecidableEq, Repr

/-- An empty handle. -/
def Prog.empty : Prog := ⟨0, false, [], 0, 0, [], 0, 0, false, []⟩

/-- The running launch of a partition (R133, R171, R172). -/
structure Launch where
  seq : Nat
  handle : Nat
  entry : Nat
  params : List Nat
  tokens : SMap Nat
  /-- The non-idle virtual cores. -/
  active : List Nat
  /-- Those of them at END. -/
  ended : List Nat
  /-- The barriers that each has reached: BARRIER and STEP_END (R172, R236). -/
  barriers : SMap Nat
  /-- The code that ended the launch, 0 while it runs. -/
  code : Nat
  faultCore : Nat
  faultVcore : Nat
  discarded : Nat
  /-- It is placed in pairs (R362); the key of its digest tiles, and how many each virtual core has compared (R364, R365). -/
  paired : Bool
  pairKey : Nat
  pairTiles : SMap Nat
  /-- COLLs issued so far, by group. -/
  colls : SMap Nat
deriving DecidableEq, Repr

/-- Why a virtual core issues nothing further (R136, R171, R172, R225, R232, R236, R256, R349). -/
inductive Hold
  | free
  | token (t v : Nat)
  | barrier
  | stepEnd
  | microBatch (mb step : Nat)
  | oasisQueue
  | collective (group inst : Nat)
  | caravan (cdef : Nat)
deriving DecidableEq, Repr

/-- A stream definition (R152). -/
structure StreamDef where
  init : Int
  incs : List Int
deriving DecidableEq, Repr

/-- A loop nest being run: the counts and the counters, level 0 first (R154). -/
structure LoopCtx where
  counts : List Nat
  ctrs : List Nat
deriving DecidableEq, Repr

/-- The sequencer context of a virtual core. -/
structure VC where
  core : Nat
  gang : Bool
  hold : Hold
  /-- Ended its work of the launch. -/
  done : Bool
  streams : SMap (Option StreamDef)
  loopc : Option LoopCtx
  /-- The loop nest in which the CARAVAN stands, kept while its instance runs (R188). -/
  outer : Option LoopCtx
  /-- The loop nest of the stage body's fetch part, which runs ahead of its work part (R192, R199). -/
  fetchLoop : Option LoopCtx
  /-- The open micro-batch span (MB, STEP) of R225. -/
  span : Option (Nat × Nat)
  table : Option TableF
  /-- Instructions handed to a unit and not completed: their number and the parts of each still to complete. -/
  opened : SMap Nat
  /-- The descriptor + 1 that each of them writes (R170). -/
  writes : SMap Nat
  /-- The caravan tile that each of them belongs to (R187). -/
  ofTile : SMap Nat
  /-- Those of them that stage the operands of an OPB for the work part of a body, and retire with its pass (R192). -/
  fills : List Nat
  nextId : Nat
  /-- The version binding it waits for: descriptor and step (R232). -/
  bindWait : Option (Nat × Nat)
deriving DecidableEq, Repr

/-- No context. -/
def VC.empty : VC := ⟨0xFF, false, .free, false, [], .none, .none, .none, .none, .none, [], [], [], [], 0, .none⟩

/-- A pass in an engine queue (R72). The tensors are those the instruction resolved. -/
structure Pass where
  part : Nat
  vcore : Nat
  iid : Nat
  path : Nat
  width : Nat
  blocks : Nat
  slot : Nat
  acc : Bool
  accShift : Nat
  kb0 : Nat
  high : Nat
  holdT : Nat
  gang : Bool
  aBase : Nat
  aLen : Nat
  bBase : Nat
  bLen : Nat
  sBase : Nat
  sLen : Nat
  /-- A_REL, B_REL, S_REL: the ranges are released at completion (R76). -/
  aRel : Bool
  bRel : Bool
  sRel : Bool
  /-- The coded tensor (its codebook record's partition offset), activation scale record, weight scale record. -/
  codebook : Option Nat
  aScale : Option Nat
  wScale : Option Nat
  /-- The elements of the row operand that lie outside the tensor (R145): a row index and a k-step limit. -/
  rowsIn : Nat
  rowBase : Nat
  kIn : Nat
deriving DecidableEq, Repr

/-- Where a drain's output goes (R83, R161). -/
inductive DrainDest
  | local (x : Nat)
  | stream
  | tensor (desc : TDesc) (orow ocol high : Nat)
deriving DecidableEq, Repr

/-- A drain in an engine queue (R83). -/
structure Drain where
  part : Nat
  vcore : Nat
  iid : Nat
  slot : Nat
  format : Nat
  stats : Bool
  dest : DrainDest
  outScale : Option Nat
  /-- Gang core position 0 to 3 of the drained quarter. -/
  quarter : Nat
deriving DecidableEq, Repr

/-- The engine's queue holds passes and drains in program order (R73). -/
inductive EngItem
  | pass (x : Pass)
  | drain (x : Drain)
deriving DecidableEq, Repr

/-- What a slot records of the tile it holds (R82): its type and the bits of its unit. -/
structure SlotInfo where
  fp : Bool
  unit : Nat
deriving DecidableEq, Repr

/-- Nothing recorded. -/
def SlotInfo.empty : SlotInfo := ⟨false, 0⟩

/-- A granule on its way to a stage (R203): its tag, its data, the sender's granule that is cleared at landing, and its place in
the order of issue (R20). -/
structure Transit where
  tag : Nat
  data : List Byte
  clear : Option Nat
  order : Nat
deriving DecidableEq, Repr

/-- One stage of a running caravan instance (R183, R189, R203, R208). -/
structure StageCtx where
  vcore : Nat
  core : Nat
  /-- The stage's own X0 and slot 0 on its core (R192, R195), and its window in bank A (R190): first granule, count. -/
  xBase : Nat
  slotBase : Nat
  aBase : Nat
  aLen : Nat
  /-- Tiles whose body has ended. -/
  done : Nat
  /-- Work of tile DONE has been issued. -/
  part : Bool
  /-- Tiles entered (R192) and tiles whose fetch part has begun (R199). -/
  entered : Nat
  fetched : Nat
  /-- The tile being received, the bytes of it that have landed (kept for bank A), and the end marker. -/
  rxTile : Nat
  rxBytes : Nat
  rxData : List Byte
  ended : Bool
  /-- Tiles for which a position of this stage's receive window has been reserved (R191). -/
  reserved : Nat
  /-- Bytes of the tile being sent that no granule carries yet, how many the granules sent so far carry, the tile, and
  whether the end marker was sent. -/
  txBuf : List Byte
  txSent : Nat
  txTile : Nat
  txEnd : Bool
  /-- Granules on their way to this stage, oldest first. -/
  transit : List Transit
  /-- Granules (bank, first, count) that its fetch part has brought into staging (R207). -/
  brought : List (Nat × Nat × Nat)
  /-- Where the next S_STREAM reader of the tile goes on (R190). -/
  readPos : Nat
  /-- The body has no work part and hands its tiles over (R192), and the hand-overs of it that have landed. -/
  fetchOnly : Bool
  landed : Nat
  /-- The fetch part of tile `fetched` − 1 runs (R199). -/
  fetching : Bool
  /-- The context waits for its input tile, or for a free position in the next window (R216). -/
  winWait : Bool
  credWait : Bool
deriving DecidableEq, Repr

/-- A stage that nothing has begun. -/
def StageCtx.empty : StageCtx :=
  { vcore := 0, core := 0, xBase := 0, slotBase := 0, aBase := 0, aLen := 0, done := 0, part := false, entered := 0,
    fetched := 0, rxTile := 0, rxBytes := 0, rxData := [], ended := false, reserved := 0, txBuf := [], txSent := 0,
    txTile := 0, txEnd := false, transit := [], brought := [], readPos := 0, fetchOnly := false, landed := 0, fetching := false,
    winWait := false, credWait := false }

/-- DONE of R208: tiles whose body is complete, or, with no work part, whose hand-over landed. -/
def StageCtx.progress (x : StageCtx) : Nat := if x.fetchOnly then x.landed else x.done

/-- A running caravan instance (R183). -/
structure CarInst where
  handle : Nat
  tiles : Nat
  param : Nat
  stages : List StageCtx
deriving DecidableEq, Repr

/-- The instruction banks of a core (R212 to R215): the active bank and the virtual cores whose code it holds; and the
inactive bank's load: none, running or complete, for a virtual core. A virtual core stands under its key of R137, with its
partition and handle. `waiting` says that the core stands at a command boundary and waits for the load. -/
structure BankCtx where
  active : Nat
  code : List Nat
  loading : Option Nat
  ready : Option Nat
  waiting : Bool
deriving DecidableEq, Repr

/-- Bank 0 active, nothing loaded. -/
def BankCtx.empty : BankCtx := ⟨0, [], .none, .none, false⟩

/-- A micro-batch of a partition (R225 to R229): open, its step, whether an MB_END with SUSPEND = 0 has been executed, the
virtual cores inside a span of it, those that ended a span, and the bindings (version entry, slot). -/
structure MB where
  isOpen : Bool
  step : Nat
  closing : Bool
  inside : List Nat
  enders : List Nat
  bound : List (Nat × Nat)
deriving DecidableEq, Repr

/-- A micro-batch number that is not open. -/
def MB.empty : MB := ⟨false, 0, false, [], [], []⟩

/-- A boundary that is not yet taken (R237, R238): a step boundary or a micro-batch boundary, the virtual cores it holds,
whether it is ready, and whether Y + EARLIEST has been reached. -/
structure Pending where
  isStep : Bool
  holds : List Nat
  ready : Bool
  early : Bool
deriving DecidableEq, Repr

/-- A digest entry of a step record (R240, R242): command, virtual core, physical core, digest, tile checks. -/
structure DigestEntry where
  seq : Nat
  vcore : Nat
  core : Nat
  /-- The bytes of its digest tiles by instruction number × 4 + part, which is program order. -/
  tiles : SMap (List Byte)
deriving DecidableEq, Repr

/-- A transfer received on the fabric (R240 FABRIC): its flow and sequence number, the receiving command, the group and
where the data stands in the command's instance, and the data. -/
structure FabEntry where
  flow : Nat
  psn : Nat
  seq : Nat
  group : Nat
  inst : Nat
  origin : Nat
  phase : Nat
  off : Nat
  data : List Byte
deriving DecidableEq, Repr

/-- A step record (R240), open or closed: what its sections hold. `digestKey` is the first draw of the step (R242). -/
structure StepRec where
  step : Nat
  key : Nat
  counter : Nat
  scales : List Byte
  versions : List (Nat × Nat × Nat × Nat × Nat)
  /-- ORDER: (sequence number, queue, port, the 64 bytes of the command). -/
  order : List (Nat × Nat × Nat × List Byte)
  fabric : List FabEntry
  digests : List DigestEntry
  digestKey : Nat
  complete : Bool
  overflow : Bool
  /-- Place in the ring, in bytes from the record area's start, once closed; and its length. -/
  place : Nat
  length : Nat
deriving DecidableEq, Repr

/-- A running replay (R244): the record, SYN_STEP before it, and the index of the command being replayed. -/
structure Replay where
  record : StepRec
  stepBefore : Nat
  index : Nat
  digests : List DigestEntry
  abort : Bool
deriving DecidableEq, Repr

/-- What the training flow of a partition holds beside its registers. -/
structure TrainCtx where
  pending : List Pending
  /-- Within LATE_DROP of a boundary taken at its latest point (R238). -/
  lateDrop : Bool
  /-- Counter of the step generator (R241). -/
  counter : Nat
  ripple : Option StepRec
  closed : List StepRec
  /-- Where the next step record goes in the ring, in bytes. -/
  ringAt : Nat
  replay : Option Replay
  /-- Step + 1 whose update of a scale record ended on a fault and counts as done (R55). -/
  scaleDone : SMap Nat
deriving DecidableEq, Repr

/-- Nothing under way. -/
def TrainCtx.empty : TrainCtx := ⟨[], false, 0, .none, [], 0, .none, []⟩

/-- The unit contexts of a physical core: the engine (R73, R79), its translator's staging rings (R150), the vector unit
and gather/scatter unit's work in hand, and the instruction banks (R212). -/
structure EngCtx where
  queue : List EngItem
  filling : Option Pass
  draining : Option Drain
  /-- Output units of the running drain that are complete. -/
  units : Nat
  aNext : Nat
  bNext : Nat
  sNext : Nat
  /-- The passes whose operands a stage's fetch part has begun to stage, and which its work part has not come to (R192). -/
  made : List Pass
  /-- Granules that passes and drains of the command named: bank, first, count (R76). -/
  named : List (Nat × Nat × Nat)
  /-- The latched conversion of the running drain: unit, output scale, its inverse and zero point. -/
  conv : Nat × Nat × Nat × Int
  /-- The latched table context of the running pass: codebook record and z (R72). -/
  book : List Byte
  zero : Int
  /-- The parity of the step of the running drain, and of that of the running pass (R52, R53). -/
  par : Nat
  fillPar : Nat
deriving DecidableEq, Repr

/-- An idle engine. -/
def EngCtx.empty : EngCtx := ⟨[], .none, .none, 0, 0, 0, 0, [], [], (0, 0, 0, 0), [], 0, 0, 0⟩

/-- A request of INDEX_STREAM that the control core is serving (R174): tensor, next entry, entries left. -/
structure Feed where
  part : Nat
  vcore : Nat
  iid : Nat
  desc : Nat
  next : Nat
  left : Nat
deriving DecidableEq, Repr

/-- An instruction handed to the vector unit or the gather/scatter unit, its streamable fields resolved. -/
structure VJob where
  part : Nat
  vcore : Nat
  iid : Nat
  inst : Tynte
  /-- The fetch part of a stage body handed it over (R192). -/
  fetch : Bool
deriving DecidableEq, Repr

/-- The vector unit and the gather/scatter unit of a core: instructions in program order, the running one, the index
FIFO (R123), the requests that feed it, and the number of entries taken from it in this launch. -/
structure VecCtx where
  queue : List VJob
  run : Option VJob
  gsQueue : List VJob
  gsRun : Option VJob
  fifo : List Nat
  feeds : List Feed
  taken : Nat
  /-- What the running vector instruction latched at issue (R52): scale, its inverse, zero point, step parity. -/
  latch : Nat × Nat × Int × Nat
  /-- Entries that the running gather/scatter instruction has handled, and the segment numbers among them (R128). -/
  handled : Nat
  segs : List Nat
deriving DecidableEq, Repr

/-- Idle units. -/
def VecCtx.empty : VecCtx := ⟨[], .none, [], .none, [], [], 0, (0, 0, 0, 0), 0, []⟩

/-- The accumulator slots that R137 saved for one virtual core of one handle: slot, type and unit, and its words. -/
abbrev SavedSlots := List (Nat × SlotInfo × List Nat)

/-- An update request of a partition (R256, R257), or the one the oasis die works on. -/
structure OasReq where
  part : Nat
  vcore : Nat
  core : Nat
  seq : Nat
  record : Nat
  step : Nat
  eta : Nat
  lambda : Nat
  delta : Nat
  vt : TDesc
  wt : TDesc
deriving DecidableEq, Repr

/-- The request in hand: its target slot (plus 2 where that was EMPTY), and how far it has come (1 waiting for the slot, 2
writing); then what its pass found for the commit: E, AMAX, the clip count, NEXT_CB, the UNUSED mask and the digest. -/
structure OasAct where
  req : OasReq
  record : Nat
  slot : Nat
  phase : Nat
  e : Nat
  amax : Nat
  clip : Nat
  nextCb : List Byte
  unused : Nat
  /-- The digest key that stood at its start, where it digests inline; and the digest. -/
  key : Option Nat
  digest : Option Nat
deriving DecidableEq, Repr

/-- A master transfer that runs (R255): record, OP, FOFF, SLOT and the digest key that stood when it started. -/
structure OasXfer where
  record : Nat
  op : Nat
  foff : Nat
  slot : Nat
  key : Nat
deriving DecidableEq, Repr

/-- A frame that was sent and that not every receiver has acknowledged (R339). -/
structure TxFrame where
  psn : Nat
  /-- 0 DATA, else the CTRL code. -/
  ctrl : Nat
  tag : Nat
  inst : Nat
  op : Nat
  phase : Nat
  /-- The stream of the instance that a DATA frame belongs to, its place there and its size, in 64-byte units. -/
  key : Nat
  off : Nat
  units : Nat
  last : Bool
  /-- The payload of a CTRL frame; a DATA frame is read again from its source. -/
  args : List Byte
  /-- The port it was last sent on, 4 where none could take it. -/
  fport : Nat
  /-- Ranks that have not acknowledged it (MCAST); one entry on a unicast flow. -/
  waiting : List Nat
deriving DecidableEq, Repr

/-- What a receiver keeps of one sender's sequence numbers (R339): CUM_PSN, the numbers received above it, and the frames
accepted since the last ACK. -/
structure PeerRx where
  cum : Nat
  seen : List Nat
  sinceAck : Nat
deriving DecidableEq, Repr

/-- Nothing received. -/
def PeerRx.empty : PeerRx := ⟨0, [], 0⟩

/-- What the fabric block holds of a flow beside its record in memory (R334 to R340). -/
structure FlowCtx where
  /-- Keys are installed; on an MCAST flow also a group key that is held (R338), and its epoch. -/
  keyed : Bool
  epoch : Nat
  /-- The AES-256 key and the 32-bit salt under which it sends, and those under which it receives; on an MCAST flow the group
  key is both (R336, R337, R338). -/
  txKey : Nat
  txSalt : Nat
  rxKey : Nat
  rxSalt : Nat
  /-- Its handshake: 0 none, 1 waits to be one of the up to 64 that the security controller runs at once, 2 runs (R336). -/
  shake : Nat
  txCount : Nat
  /-- By sender's rank on an MCAST flow; key 0 on a unicast flow. -/
  rx : SMap PeerRx
  unacked : List TxFrame
  /-- CTRL frames that wait until fewer than 1,024 frames are unacknowledged (R339): code and arguments. -/
  held : List (Nat × List Byte)
  /-- Timeouts in a row without an advance of CUM_PSN. -/
  timeouts : Nat
  /-- Frames sent on each port, by which the entropy rises (R340). -/
  entropy : List Nat
  /-- Ports out of the rotation, and the port of the next frame (R340). -/
  out : List Nat
  turn : Nat
  /-- A REMOVE was sent: CLOSED follows without CLOSE (R419). -/
  removing : Bool
deriving DecidableEq, Repr

/-- A flow without keys. -/
def FlowCtx.empty : FlowCtx := ⟨false, 0, 0, 0, 0, 0, 0, 0, [], [], [], 0, [0, 0, 0, 0], [], 0, false⟩

/-- What an instance has of one incoming stream (R341), in 64-byte units: the ready position, the granted limit, and the
ranges that have landed, in rising order. -/
structure RxSt where
  ready : Nat
  limit : Nat
  parts : List (Nat × Nat)
deriving DecidableEq, Repr

/-- Nothing received. -/
def RxSt.empty : RxSt := ⟨0, 0, []⟩

/-- What an instance has of one outgoing stream (R341), in 64-byte units: the ready position told, the credit limit, and
how much is sent. -/
structure TxSt where
  ready : Nat
  limit : Nat
  sent : Nat
deriving DecidableEq, Repr

/-- Nothing sent. -/
def TxSt.empty : TxSt := ⟨0, 0, 0⟩

/-- A part of a stream (R346): exponents or values for an owner, or the output data of an origin. -/
inductive PieceKind
  | exps
  | vals
  | out
deriving DecidableEq, Repr

/-- A piece of a stream: its phase, what it is, the owner or origin (effective rank), and its size in 64-byte units. -/
structure Piece where
  phase : Nat
  kind : PieceKind
  rank : Nat
  units : Nat
deriving DecidableEq, Repr

/-- Values that an owner received: effective rank of the sender, 64-byte unit in the owner's segment, bytes. -/
abbrev Arrival := Nat × Nat × List Byte

/-- A collective instance in progress (R344 to R350). Its streams are numbered: r for the unicast stream to or from the
member of effective rank r; 65536 + r for the multicast stream of rank r; 131072 + r for receiver r's limit of the own
multicast stream. -/
structure Coll where
  part : Nat
  group : Nat
  inst : Nat
  /-- Which COLL on its group it is in its launch. -/
  nth : Nat
  tag : Nat
  core : Nat
  vcore : Nat
  seq : Nat
  iid : Nat
  op : Nat
  units : Nat
  fmt : Nat
  /-- Partition offsets of the source and destination ranges. -/
  src : Nat
  dst : Nat
  /-- TOKEN, where SIG_EN is 1. -/
  sig : Option Nat
  /-- Effective members: (flow, rank) by effective rank, and this member's effective rank (R369). -/
  members : List (Nat × Nat)
  me : Nat
  relay : Bool
  mcast : Nat
  frq : Option Nat
  /-- Bytes of the source that D14 has brought into the receive queue. -/
  avail : Nat
  arrivals : List Arrival
  rx : SMap RxSt
  tx : SMap TxSt
  /-- Effective ranks of detached receivers (R350). -/
  detached : List Nat
  /-- The member's own output is written: its segment's result, or its own data of an ALLGATHER. -/
  reduced : Bool
  /-- The sign codes of the source have been counted (R346). -/
  counted : Bool
  /-- It belongs to a replay: it sends nothing (R244). -/
  quiet : Bool
  /-- A collective of the Mirage check, which the control core runs (R367): the own unit. What it receives stays in `arrivals`. -/
  ctl : Option (List Byte)
deriving DecidableEq, Repr

/-- A running Sirocco run (R357 to R361): the tested set, the groups, the digests that came in, and the cores run again. -/
structure SirCtx where
  tested : List Nat
  groups : List (List Nat)
  digests : SMap (Option (Nat × Nat))
  again : List Nat
  rerun : Bool
deriving DecidableEq, Repr

/-- The Mirage check of a partition (R366, R367): the step checked, the last step with a check, and how far it has come: 0 none, 1
the leader's unit, 2 the contributions. -/
structure MirCtx where
  m : Nat
  lastTried : Option Nat
  digested : Bool
  /-- The digest keys of the present check and of the next one (R367). -/
  key : Nat
  next : Nat
  stage : Nat
deriving DecidableEq, Repr

/-- No check made. -/
def MirCtx.empty : MirCtx := ⟨0, .none, false, 0, 0, 0⟩

/-- A measurement log (R393): the kept entries, the chain value and the entry count. -/
structure MLog where
  kept : List (List Byte)
  ext : List Byte
  count : Nat
deriving DecidableEq, Repr

/-- An empty log. -/
def MLog.empty : MLog := ⟨[], List.replicate 48 0, 0⟩

/-- A selective IDE stream of a TDI (R394): programmed and active keys by direction (bit 0 receive, bit 1 transmit). -/
structure Ide where
  stream : Nat
  programmed : Nat
  active : Nat
deriving DecidableEq, Repr

/-- No stream. -/
def Ide.empty : Ide := ⟨0, 0, 0⟩

/-- What the SPDM responder holds of a transport (R392): the version negotiated, 0 before the first request; a secured session,
and how often its keys were updated; and a signed transcript that VENDOR_DEFINED_REQUEST may still ask the second signature
of. -/
structure Spdm where
  version : Nat
  session : Bool
  updates : Nat
  signed : Option (List Byte)
deriving DecidableEq, Repr

/-- A transport that has carried nothing. -/
def Spdm.empty : Spdm := ⟨0, false, 0, .none⟩

/-- What the security controller holds beside its registers (R387 to R401). -/
structure SecCtx where
  attempts : Nat
  deriving_ : Bool
  /-- The latest test-access nonce, and failures of TEST_UNLOCK. -/
  nonce : Option (List Byte)
  testFails : Nat
  /-- No identity until power cycle (R401). -/
  noIdentity : Bool
  fwLoaded : Bool
  fwDigest : List Byte
  nativeMin : Nat
  /-- The sections of the loaded firmware, each where R387 copies it: the management controller, the erg control cores, the
  security controller's firmware area. -/
  fwMgmt : List Byte
  fwErg : List Byte
  fwSec : List Byte
  helper : List Byte
  certs : List (List Byte)
  /-- Requests whose GO was given and that have no response yet, oldest first: the port and the 64 bytes. -/
  order : List (Port × List Byte)
deriving DecidableEq, Repr

/-- Nothing loaded. -/
def SecCtx.empty : SecCtx := ⟨0, false, .none, 0, false, false, [], 0, [], [], [], [], [[], []], []⟩

/-- Power and pins (R404 to R420): rails up, latched off until VIN has been removed, PERST# of each port asserted, the full
zeroization that runs after a reset or a relock (R293), the root clock lost and its record not yet written (R25), a removal
that is being prepared (R419), the test access port's instruction and boundary-scan register (R415), the MCTP endpoint ID and
the I3C dynamic address, 0 for none (R421). -/
structure PwrCtx where
  rails : Bool
  latched : Bool
  perst : List Bool
  zeroizing : Bool
  rootLost : Bool
  removing : Bool
  jtag : JtagInstr
  boundary : Nat
  eid : Nat
  i3c : Nat
deriving DecidableEq, Repr

/-- Rails up after power-on. -/
def PwrCtx.empty : PwrCtx := ⟨true, false, [false, false], false, false, false, .idcode, 0, 0, 0⟩

end Sys2Proof.Machine
end

