-- ==== Sys2Proof/Machine/State.lean ====
section
/-!
DEFINITION. The state of the block: the registers, the memories, the contexts of every unit, and the queue of commands
that wait (first in, first out).
-/

namespace Sys2Proof.Machine

/-- Why the machine stops with a fault. -/
inductive Fault
  /-- Raised by a command that names a device address which lies in neither tier (R272, R17): the spec says there is no
  such memory. Safe: the machine stops where the hardware has nothing to access. -/
  | noSuchDeviceAddress
deriving DecidableEq, Repr

/-- Why the machine has no meaning for a command. -/
inductive Refusal
  /-- Raised by the dispatcher for a command that has no meaning yet. Safe. -/
  | notModelled (mnemonic : String)
  /-- Raised by TEST_ACCESS_PORT_INSTRUCTION on a private instruction after the test modes were opened (R401, R415): the
  spec does not say what they do. Safe. -/
  | privateTestMode
deriving DecidableEq, Repr

/-- The state of the block. Every map is an `SMap` in its canonical form. -/
structure State where
  /-- The commands that wait, the next one first. -/
  pending : List Instr
  /-- How many free values have been drawn (the model's own field). -/
  free : Nat
  /-- Microseconds of the management clock (R373 TIME). -/
  timeUs : Nat
  /-- Register fields, XOR their power-up values; and the fields written since (R13, R14). -/
  regs : SMap Nat
  written : SMap Bool
  /-- What was sent out, newest first. -/
  out : List Out
  /-- Device memory by device address: both tiers (R17). -/
  mem : SMap Byte
  /-- Cached lines by line number, and the access count that orders replacement (R284). -/
  cache : SMap CLine
  tick : Nat
  /-- Lines that the running native image of a partition pins in a slice (R180, R285), by partition × 8 + erg. -/
  nativePins : SMap Nat
  /-- Frames, the state of a frame that is not listed, and the page map (R278, R279). -/
  frames : SMap FState
  frameBase : FState
  pageMap : SMap PEntry
  /-- A map-out that waits or runs (R276): its channel, FORCE, and whether its forced zeroization has been started. -/
  mapout : Option (Nat × Bool × Bool)
  /-- Token buckets by partition × 8 + erg (R282). -/
  tokens : SMap Nat
  /-- Level counters of R343. -/
  levels : SMap Nat
  /-- Bursts and hand-over granules issued so far, by which the mesh orders those of one pair of endpoints (R20). -/
  grants : Nat
  /-- How many accesses have had to wait for tokens that no refill brings (R282: RATE = 0; the model's own field). -/
  stalls : Nat
  /-- The partition + 1 that each channel of the fast tier served last (R283). -/
  chanServed : SMap Nat
  /-- Accepted host commands (R317). -/
  cmds : SMap Cmd
  /-- CIDs of the commands of each queue that committed, the latest first (R323). -/
  recent : SMap (List Nat)
  /-- The next sequence number of each partition (R317). -/
  seqs : SMap Nat
  /-- The queue that each port's block visits, and the commands taken in this visit (R317). -/
  visits : SMap (Nat × Nat)
  /-- DMA channels, engines, descriptor rings and device completion rings (R297 to R312). -/
  dma : SMap Chan2
  dmaEng : SMap DmaEng
  dqs : SMap (List Desc)
  dcqCount : SMap Nat
  /-- Records written to each DMA completion queue since it was configured (R307), and the queue that each feeder served
  last, by erg × 2 + feeder (R306). -/
  dcqWritten : SMap Nat
  feedLast : SMap Nat
  /-- Staging bytes, TAG and SKEW of granules, accumulator words, slots and engines (R65, R79, R82). -/
  stg : SMap Byte
  gtag : SMap Nat
  acc : SMap Nat
  slots : SMap SlotInfo
  engs : SMap EngCtx
  /-- Vector and gather/scatter units by core. -/
  vec : SMap VecCtx
  /-- Programs by partition × 64 + handle, launches by partition, virtual cores by partition × 128 + number. -/
  progs : SMap Prog
  launches : SMap (Option Launch)
  vcs : SMap VC
  /-- Saved slots (R137) by (partition × 64 + handle) × 128 + virtual core; and by core the mark of the virtual core that
  fills its slots, 0 for none. -/
  saved : SMap SavedSlots
  slotOwner : SMap Nat
  /-- Running caravan instances by partition × 4096 + definition (R183), and the instruction banks of each core (R212). -/
  caravans : SMap (Option CarInst)
  banks : SMap BankCtx
  /-- The tags of version slots that have been written (R231), by partition × 2^40 + the tag's partition offset. -/
  tags : SMap Bool
  /-- The shadow + 1 of each primary core whose launch runs paired (R363), and by primary core what its shadow makes different of
  the next bytes whose effect leaves the pair: a byte of them, and its value (R364). -/
  shadows : SMap Nat
  skewed : SMap (Option (Nat × Byte))
  /-- Micro-batches by partition × 2^32 + number, and the training flow of each partition. -/
  mbs : SMap MB
  train : SMap TrainCtx
  /-- Update requests by partition, the one in hand, the partition served last, and the transfers (R255). -/
  oasQueues : SMap (List OasReq)
  oasActive : Option OasAct
  oasTurn : Nat
  oasXfers : SMap (Option OasXfer)
  /-- Flows by partition × 65536 + flow, instances in the order of their COLLs, the round-robin flow of each partition. -/
  flows : SMap FlowCtx
  colls : List Coll
  creditTurn : SMap Nat
  epochs : SMap Nat
  /-- Codes of the first failure of each core (R354). -/
  failCode : SMap Nat
  /-- Thermal levels held (R292, R410), bit l - 1 for level l: of stack s at key s, of erg e at key 32 + e. -/
  heat : SMap Nat
  sirocco : SMap (Option SirCtx)
  sirSteps : SMap Nat
  mirage : SMap MirCtx
  /-- The port of a running diagnostic dump (R379). -/
  dump : Option Port
  sec : SecCtx
  mlogs : SMap MLog
  /-- PM_BASE and PM_SPAN of each partition that is not FREE (R280, R397), and its slow-tier key pair (R399), plus 1. -/
  span : SMap (Nat × Nat)
  slowKeys : SMap Nat
  ides : SMap Ide
  spdms : SMap Spdm
  pwr : PwrCtx
  /-- Records of CLASS 3 that GET_EVENT has not returned, oldest first (R414, R422): the eight words of each. -/
  unread : List (List Nat)
  /-- Passes through each partition's error ring, and unsignalled records of each queue. -/
  errWrap : SMap Bool
  unsig : SMap Nat
  /-- The MSI-X table of each port's function, by port × 8192 + 4-byte word, XOR what it holds after reset; and its pending
  bits, by port × 2048 + vector (R427). -/
  msixTable : SMap Nat
  msixPend : SMap Bool
  /-- The lower half of a register that each port holds (R11): offset and data. -/
  halves : SMap (Option (Nat × Nat))
  /-- The faulting code of each FAULTED partition (R290). -/
  faultCode : SMap Nat
deriving DecidableEq, Repr

/-- The module right after power-on (R8: every register at its After power-up value; log entry 3 names the values of
those the spec leaves undefined until written): memory with nothing listed, no command waiting. -/
def State.reset : State :=
  { pending := [], free := 0, timeUs := 0, regs := [], written := [], out := [], mem := [], cache := [], tick := 0, nativePins := [],
    frames := [], frameBase := .free, pageMap := [], mapout := none,
    tokens := [], levels := [], grants := 0, stalls := 0, chanServed := [], cmds := [], recent := [], seqs := [], visits := [], dma := [], dmaEng := [],
    dqs := [], dcqCount := [], dcqWritten := [], feedLast := [], stg := [], gtag := [], acc := [], slots := [], engs := [], vec := [], progs := [],
    launches := [], vcs := [], saved := [], slotOwner := [], caravans := [], banks := [], shadows := [], skewed := [], tags := [], mbs := [], train := [],
    oasQueues := [], oasActive := none, oasTurn := 15, oasXfers := [], flows := [], colls := [], creditTurn := [],
    epochs := [], failCode := [], heat := [], sirocco := [], sirSteps := [], mirage := [], dump := none, sec := SecCtx.empty,
    mlogs := [], span := [], slowKeys := [], ides := [], spdms := [], pwr := PwrCtx.empty, unread := [], errWrap := [],
    unsig := [], msixTable := [], msixPend := [], halves := [], faultCode := [] }

end Sys2Proof.Machine
end

