-- ==== Sys2Proof/Machine/Ops.lean ====
section
/-!
DEFINITION. The named operations over the state: register fields, bytes, error records, the fast tier and the shared
cache. No meaning touches the maps of the state but through these.
-/

namespace Sys2Proof.Machine

/-- What a meaning answers. -/
abbrev Res := Host.Outcome State Fault Refusal

/-! ### Register fields (R8) -/

/-- The value of a register field. -/
def State.get (s : State) (f : Fld) : Nat := SMap.get 0 s.regs f.id ^^^ f.rst

/-- The field set to a value, cut to its width. -/
def State.put (s : State) (f : Fld) (v : Nat) : State :=
  { s with regs := SMap.set 0 s.regs f.id ((v % 2 ^ f.w) ^^^ f.rst) }

/-- The field is not 0. -/
def State.on (s : State) (f : Fld) : Bool := s.get f != 0

/-- A counter that saturates at the maximum of its width (R433). -/
def State.bump (s : State) (f : Fld) (n : Nat) : State := s.put f (min (s.get f + n) (2 ^ f.w - 1))

/-- A counter that wraps to 0 (R433). -/
def State.bumpWrap (s : State) (f : Fld) (n : Nat) : State := s.put f (s.get f + n)

/-- Every field of a list set to one value. -/
def State.putAll (s : State) (fs : List Fld) (v : Nat) : State := fs.foldl (fun t f => t.put f v) s

/-- The field returned to its After power-up value. -/
def State.clear (s : State) (f : Fld) : State := s.put f f.rst

/-- A field "undefined until written" has been written (R13, R14). -/
def State.isWritten (s : State) (f : Fld) : Bool := SMap.get false s.written f.id

/-- The field counts as written. -/
def State.markWritten (s : State) (f : Fld) : State := { s with written := SMap.set false s.written f.id true }

/-- Every register whose offset lies in [lo, hi) returns to its power-up value and counts as unwritten. -/
def State.resetRange (s : State) (lo hi : Nat) : State :=
  let inn := fun k => decide (lo * 64 ≤ k) && decide (k < hi * 64)
  { s with regs := SMap.drop inn s.regs, written := SMap.drop inn s.written }

/-- One thing more sent out. -/
def State.emit (s : State) (o : Out) : State := { s with out := o :: s.out }

/-- A free value is drawn (log entry 2): the value, and the state with the count advanced. -/
def State.draw (s : State) : Nat × State := (Config.freeValue s.free, { s with free := s.free + 1 })

/-- The field takes a value that the spec leaves undefined. -/
def State.putFree (s : State) (f : Fld) : State := { s.put f (Config.freeValue s.free) with free := s.free + 1 }

/-! ### Bytes (R4: little-endian) -/

/-- The low n bytes of a number, lowest first. -/
def leBytes : Nat → Nat → List Byte
  | 0, _ => []
  | n + 1, v => BitVec.ofNat 8 v :: leBytes n (v / 256)

/-- The number that bytes spell, lowest first. -/
def leNat : List Byte → Nat
  | [] => 0
  | b :: r => b.toNat + 256 * leNat r

/-- Bytes [lo, lo + n) of a byte string as a number; what lies past its end counts as 0. -/
def fieldOf (bs : List Byte) (lo n : Nat) : Nat := leNat ((bs.drop lo).take n)

/-- n bytes from byte lo. -/
def sliceOf (bs : List Byte) (lo n : Nat) : List Byte := (bs.drop lo).take n

/-- Bits [lo + w - 1 : lo] of a number. -/
def bitsOf (v lo w : Nat) : Nat := v / 2 ^ lo % 2 ^ w

/-- Sign-extend the low w bits. -/
def sext (w v : Nat) : Int := if v % 2 ^ w < 2 ^ (w - 1) then ((v % 2 ^ w : Nat) : Int) else ((v % 2 ^ w : Nat) : Int) - 2 ^ w

/-- A signed value in w bits. -/
def ofInt (w : Nat) (x : Int) : Nat := (x % (2 ^ w : Int)).toNat

/-- Round up to a multiple of m. -/
def roundUp (x m : Nat) : Nat := (x + m - 1) / m * m

/-! ### Error records (R373 to R378) -/

/-- FLAGS.HW of a record (R378); the codes whose flag depends on the cause take it from the record. -/
def hwOf (r : Rec) : Bool :=
  [0x0128, 0x0129, 0x0630, 0x0640, 0x0641, 0x0720, 0x0721, 0x0722, 0x0730, 0x0940, 0x0A10, 0x0A21, 0x0A32,
    0x0C10].contains r.code ||
  ([0x0A11, 0x0A20, 0x0A40].contains r.code && r.hw)

/-- The eight 64-bit words of a record, with PHASE 0 (R373). A DETAIL list longer than six words is cut short and
TRUNCATED is set (R374). -/
def recWords (time : Nat) (r : Rec) : List Nat :=
  let flags := (if hwOf r then 2 else 0) + (if r.trunc || 6 < r.detail.length then 4 else 0)
  let d := (r.detail.take 6).map (· % 2 ^ 64)
  [ r.code % 65536 + 65536 * (r.cls % 256) + 2 ^ 24 * flags + 2 ^ 32 * (r.part % 256) + 2 ^ 40 * (r.core % 256)
      + 2 ^ 48 * (r.vcore % 256) + 2 ^ 56 * (r.unit % 256),
    r.seq % 2 ^ 32 + 2 ^ 32 * (time % 2 ^ 32) ] ++ d ++ List.replicate (6 - d.length) 0

/-- The words of a record written into module log slot i, from word w on. -/
def putLog (s : State) (i : Nat) : Nat → List Nat → State
  | _, [] => s
  | w, v :: r => putLog (s.put (Reg.HLT_LOG_RECORD i w) v) i (w + 1) r

/-- The owning port of partition p (R397). -/
def portOf (s : State) (p : Nat) : Port := Port.ofBit (s.get (Reg.SEC_PART_STATUS_PORT p))

/-- The IDE stream of partition p (R394). -/
def State.ide (s : State) (p : Nat) : Ide := SMap.get Ide.empty s.ides p
def State.setIde (s : State) (p : Nat) (x : Ide) : State := { s with ides := SMap.set Ide.empty s.ides p x }

/-- The stream that partition p's accesses to host memory use: its TDI's, while that has a transmit key (R395). -/
def streamOf (s : State) (p : Nat) : Option Nat :=
  if s.on (Reg.SEC_PART_STATUS_TDISP p) && bitsOf (s.ide p).active 1 1 == 1 then some (s.ide p).stream else none

/-- Bytes written to host memory for partition p. -/
def toHost (s : State) (port : Port) (p addr : Nat) (bs : List Byte) : State :=
  s.emit (.hostWrite port (streamOf s p) addr bs)

/-- Word k of entry v of the MSI-X table of a port's function: message address low and high, message data, and the vector control,
whose bit 0 masks the vector and is 1 after reset (PRESUMED: PCI Express; log entry 62). -/
def msixWord (s : State) (b : Port) (v k : Nat) : Nat :=
  SMap.get 0 s.msixTable (8192 * b.num + 4 * v + k) ^^^ (if k = 3 then 1 else 0)

/-- A vector is sent through the table of the port's function (R427): its message, or its pending bit while it is masked. -/
def sendMsix (s : State) (b : Port) (v : Nat) : State :=
  if msixWord s b v 3 % 2 = 1 then { s with msixPend := SMap.set false s.msixPend (2048 * b.num + v) true }
  else s.emit (.msix b v (msixWord s b v 0 + 2 ^ 32 * msixWord s b v 1) (msixWord s b v 2))

/-- A record written at TAIL of partition p's ring in host memory, or counted as dropped (R375). -/
def ringRecord (s : State) (p : Nat) (ws : List Nat) : State :=
  if s.on (Reg.HLT_ERR_CTRL_ENABLE p) then
    let size := 2 ^ s.get (Reg.HLT_ERR_CTRL_LOG p)
    let tail := s.get (Reg.HLT_ERR_PTR_TAIL p)
    if (tail + 1) % size = s.get (Reg.HLT_ERR_PTR_HEAD p) % size then s.bump (Reg.HLT_ERR_PTR_DROPPED p) 1
    else
      let wrapped := SMap.get false s.errWrap p
      let w0 := (ws.headD 0) + (if wrapped then 0 else 2 ^ 24)
      let bytes := (w0 :: ws.tail).flatMap (leBytes 8)
      let s := toHost s (portOf s p) p (s.get (Reg.HLT_ERR_RING_ADDR p) * 64 + tail * 64) bytes
      let s := s.put (Reg.HLT_ERR_PTR_TAIL p) ((tail + 1) % size)
      let s := if tail + 1 = size then { s with errWrap := SMap.set false s.errWrap p (!wrapped) } else s
      if s.on (Reg.HLT_ERR_CTRL_INT_EN p) then sendMsix s (portOf s p) (s.get (Reg.HLT_ERR_CTRL_VECTOR p)) else s
  else s

/-- The error record enters the module log, and the ring of the partition it is charged to (R375). A record of CLASS 3
becomes an unread event of the management controller (R414, R422). -/
def logRec (s : State) (r : Rec) : State :=
  let ws := recWords s.timeUs r
  let i := s.get Reg.HLT_LOG_STATUS_NEXT % 512
  let s := putLog s i 0 ws
  let s := (s.put Reg.HLT_LOG_STATUS_NEXT ((i + 1) % 512)).bumpWrap Reg.HLT_LOG_STATUS_TOTAL 1
  let s := if r.cls = 3 then { s with unread := s.unread ++ [ws] } else s
  if r.part < 16 then ringRecord s r.part ws else s

/-- A record written, and LAST_CODE of the registers that name the fault (R433). -/
def raise (s : State) (last : List Fld) (r : Rec) : State := (logRec s r).putAll last r.code

/-- LAST_CODE of a port (R326); and of the chapter of security: of the module, and of a partition where one is named (R402). -/
def portLast (b : Port) : List Fld := [Reg.QUE_PORT_STATUS_LAST_CODE b]
def secLast (p : Nat) : List Fld := Reg.SEC_STATUS_LAST_CODE :: (if p < 16 then [Reg.SEC_PART_STATUS_LAST_CODE p] else [])

/-- The LAST_CODE fields of the chapter that a code belongs to (R15, R433), where a command or a request of partition p ends
with it. -/
def chapterLast (p : Nat) (b : Port) (code : Nat) : List Fld :=
  match code / 256 with
  | 0x06 => [Reg.OAS_STATUS_LAST_CODE]
  | 0x07 => [Reg.MEM_PART_STATUS_LAST_CODE p]
  | 0x08 => portLast b
  | 0x09 => [Reg.FAB_PART_STATUS_LAST_CODE p]
  | 0x0A => [Reg.HLT_STATUS_LAST_CODE]
  | 0x0B => secLast p
  | 0x0C => [Reg.THM_STATUS_LAST_CODE, Reg.PWR_STATUS_LAST_CODE]
  | _ => []

/-- The record that a host access raises by itself (R439). -/
def accessRec (code part core : Nat) (w : HostWr) (bar off : Nat) : Rec :=
  { code := code, cls := 0, part := part, core := core, unit := w.port.num,
    detail := [off, bar + 256 * (match w.size with | .full => 8 | _ => 4) + 65536, w.data.toNat] }

/-! ### Partitions, cores and ergs -/

/-- Partition states of SEC_PART_STATUS.STATE (R397): 0 FREE, 1 CONFIG, 2 LOCKED, 3 RUN, 4 ERROR, 5 TEARDOWN. -/
def partState (s : State) (p : Nat) : Nat := s.get (Reg.SEC_PART_STATUS_STATE p)

/-- Core c belongs to partition p. -/
def inPart (s : State) (p c : Nat) : Bool := s.on (Reg.SEC_PART_CORES_CORE p c)

/-- The first number below n from i on that meets the test. -/
def findFrom (t : Nat → Bool) : Nat → Nat → Option Nat
  | 0, _ => none
  | n + 1, i => if t i then some i else findFrom t n (i + 1)

/-- The partition that core c belongs to. -/
def partOfCore (s : State) (c : Nat) : Option Nat := findFrom (fun p => inPart s p c) 16 0

/-- Health of a core: 0 Live, 1 Amber, 2 Grey (R354). -/
def coreState (s : State) (c : Nat) : Nat := s.get (Reg.HLT_CORE_STATE_STATE c)

/-- The cores of partition p that are Live, ascending. -/
def liveCores (s : State) (p : Nat) : List Nat := (List.range 128).filter fun c => inPart s p c && coreState s c == 0

/-- The cores of partition p that are not Grey, ascending. -/
def upCores (s : State) (p : Nat) : List Nat := (List.range 128).filter fun c => inPart s p c && coreState s c != 2

/-- Ochre mode (R371). -/
def ochre (s : State) : Bool := s.on Reg.HLT_STATUS_OCHRE

/-- SEC_STATUS.STAGE. -/
def stage (s : State) : Nat := s.get Reg.SEC_STATUS_STAGE

/-! ### The fast tier: interleave and frames (R272 to R280) -/

/-- The size of a frame and of a page, 2 MiB. -/
def frameBytes : Nat := 0x200000

/-- The bytes of one channel, 768 MiB. -/
def chanBytes : Nat := 0x30000000

/-- The bytes of an erg slot, 24 GiB. -/
def ergBytes : Nat := 0x600000000

/-- The end of the fast tier's device addresses. -/
def fastEnd : Nat := 0x3000000000

/-- The base and the size of the slow tier's window (R17). -/
def slowBase : Nat := 0x100000000000
def slowBytes : Nat := 0x4000000000

/-- A device address that lies in one of the tiers. -/
def isDevice (a : Nat) : Bool := a < fastEnd || (slowBase ≤ a && a < slowBase + slowBytes)

/-- Channels per interleave set (R273). -/
def waysOf (s : State) : Nat := 4 * 2 ^ s.get Reg.MEM_INTERLEAVE_WAYS

/-- The run of consecutive bytes of one channel (R273). -/
def granuleOf (s : State) : Nat := 256 * 4 ^ s.get Reg.MEM_INTERLEAVE_GRANULE

/-- The first channel of the interleave set that holds device address a. -/
def setBase (s : State) (a : Nat) : Nat := 32 * (a / ergBytes) + waysOf s * (a % ergBytes / (waysOf s * chanBytes))

/-- The channels of the set whose first channel is b that are not mapped out, ascending: `live` of R274. -/
def liveChans (s : State) (b : Nat) : List Nat :=
  ((List.range (waysOf s)).map (b + ·)).filter fun c => !s.on (Reg.MEM_MAPPED_OUT_OUT c)

/-- The offset of a device address from the start of its set slot. -/
def slotOff (s : State) (a : Nat) : Nat := a % ergBytes % (waysOf s * chanBytes)

/-- A device address of the fast tier that lies below its set's backed limit (R274). -/
def backedAddr (s : State) (a : Nat) : Bool :=
  a < fastEnd && slotOff s a < (liveChans s (setBase s a)).length * chanBytes

/-- The channel and the channel offset of a backed device address (R274). -/
def chanOf (s : State) (a : Nat) : Nat × Nat :=
  let live := liveChans s (setBase s a)
  let o := slotOff s a
  let g := o / granuleOf s
  (live.getD (g % live.length) 0, g / live.length * granuleOf s + o % granuleOf s)

/-- The state of frame f (R278); none stands for UNBACKED, and for every frame while VALID is 0. -/
def frameState (s : State) (f : Nat) : Option FState :=
  if s.on Reg.MEM_INTERLEAVE_VALID && backedAddr s (f * frameBytes) then some (SMap.get s.frameBase s.frames f) else none

/-- The frame set to a state, and the counts of R296 kept with it. -/
def setFrame (s : State) (f : Nat) (st : FState) : State :=
  let old := SMap.get s.frameBase s.frames f
  let cnt := fun (s : State) (x : FState) (up : Bool) =>
    let step := fun (s : State) (r : Fld) => if up then s.put r (s.get r + 1) else s.put r (s.get r - 1)
    match x with
    | .free => step s Reg.MEM_CAPACITY_FREE_FRAMES
    | .zeroizing _ => step s Reg.MEM_ZEROIZE_PENDING
    | .quarantined => step s Reg.MEM_ZEROIZE_QUARANTINED
    | .owned _ => s
  let s := cnt (cnt s old false) st true
  { s with frames := SMap.set s.frameBase s.frames f st }

/-- The partition that owns the frame of device address a. -/
def ownerOf (s : State) (a : Nat) : Option Nat :=
  match frameState s (a / frameBytes) with
  | some (.owned p) => some p
  | _ => none

/-- Address translation (R279): the device address of partition offset x. -/
def xlate (s : State) (p x : Nat) : Option Nat :=
  let n := x / frameBytes
  let e := SMap.get (⟨0, false⟩ : PEntry) s.pageMap (s.get (Reg.MEM_PART_MAP_PM_BASE p) + n)
  if n < s.get (Reg.MEM_PART_MAP_PAGES p) && e.valid && frameState s e.frame == some (.owned p)
  then some (e.frame * frameBytes + x % frameBytes) else none

/-- The device addresses of the n bytes from partition offset x. -/
def xlateAll (s : State) (p : Nat) : Nat → Nat → Option (List Nat)
  | _, 0 => some []
  | x, n + 1 =>
    match xlate s p x, xlateAll s p (x + 1) n with
    | some a, some r => some (a :: r)
    | _, _ => none

/-- Every page of the n bytes from partition offset x translates (R320). -/
def rangeOk (s : State) (p x n : Nat) : Bool :=
  (List.range (if n = 0 then 0 else (x + n - 1) / frameBytes - x / frameBytes + 1)).all fun i =>
    (xlate s p ((x / frameBytes + i) * frameBytes)).isSome

/-- The first of the n bytes from partition offset x whose page does not translate. -/
def firstBad (s : State) (p x n : Nat) : Option Nat :=
  (List.range (if n = 0 then 0 else (x + n - 1) / frameBytes - x / frameBytes + 1)).findSome? fun i =>
    let o := max x ((x / frameBytes + i) * frameBytes)
    if (xlate s p o).isNone then some o else none

/-- The DETAIL of an access that R279 refuses: offset, page and partition. -/
def pageDetail (p x : Nat) : List Nat := [x, x / frameBytes, p]

/-! ### The shared cache (R284) -/

/-- The bytes of memory from device address a on. -/
def rdDev (s : State) (a : Nat) : Nat → List Byte
  | 0 => []
  | n + 1 => SMap.get 0 s.mem a :: rdDev s (a + 1) n

/-- The way of line ln's set that replacement takes: the least recently used line that nothing pins (R284). -/
def victimOf (s : State) (ln : Nat) : Option Nat :=
  let same := fun (k : Nat) => k % 16384 == ln % 16384 && k * 64 / ergBytes == ln * 64 / ergBytes
  (s.cache.filter fun e => same e.1 && e.2.pins.isEmpty).foldl
    (fun best e => match best with
      | none => some e
      | some b => if e.2.used < b.2.used then some e else some b) none |>.map (·.1)

/-- Lines that native images pin in the slice of erg e, and the ways of each of its sets that they take: a contiguous run
falls evenly on the sets (R284). -/
def nativeLines (s : State) (e : Nat) : Nat := ((List.range 16).map fun p => SMap.get 0 s.nativePins (p * 8 + e)).foldl (· + ·) 0
def nativeWays (s : State) (e : Nat) : Nat := (nativeLines s e + 16383) / 16384

/-- PINNED_LINES of every slice. -/
def pinCounts (s : State) : State :=
  (List.range 8).foldl (fun s e => s.put (Reg.CCH_STATUS_PINNED_LINES e)
    ((s.cache.filter fun x => x.1 * 64 / ergBytes == e && !x.2.pins.isEmpty).length + nativeLines s e)) s

/-- How many ways of line ln's set are in use. -/
def waysUsed (s : State) (ln : Nat) : Nat :=
  (s.cache.filter fun e => e.1 % 16384 == ln % 16384 && e.1 * 64 / ergBytes == ln * 64 / ergBytes).length
    + nativeWays s (ln * 64 / ergBytes)

/-- One access to the line of a fast-tier address: hit, or fill after the replacement that room needs. A line that
becomes dirty keeps DRAM's contents beside it (R284, R290). -/
def touch (s : State) (a : Nat) (wr : Bool) : State :=
  if a < fastEnd then
    let ln := a / 64
    let old := SMap.get CLine.empty s.cache ln
    let s := if old.cached || waysUsed s ln < 24 then s else
      match victimOf s ln with
      | some v => { s with cache := SMap.set CLine.empty s.cache v CLine.empty }
      | none => s
    let dram := if wr && !old.dirty then rdDev s (ln * 64) 64 else old.dram
    let new : CLine := ⟨true, old.dirty || wr, dram, old.pins, s.tick⟩
    { s with cache := SMap.set CLine.empty s.cache ln new, tick := s.tick + 1 }
  else s

/-- Touch the line of every address of a list, once per run of one line. -/
def touchAll (s : State) (wr : Bool) : Nat → List Nat → State
  | _, [] => s
  | last, a :: r => if a / 64 + 1 = last then touchAll s wr last r else touchAll (touch s a wr) wr (a / 64 + 1) r

/-- Rails up and the root PLL locked: the module runs, and its management controller answers (R25, R26, R407, R421). -/
def clocked (s : State) : Bool := s.pwr.rails && s.on Reg.CLK_STATUS_ROOT_LOCK

/-- Every a-clock stands: after a thermal trip (R412), or once MATE_SENSE has opened (R420). -/
def aclocksStand (s : State) : Bool := s.on Reg.THM_STATUS_TRIPPED || !s.on Reg.PWR_STATUS_MATE_SENSE

/-- The token bucket (partition × 8 + erg) that DRAM traffic of device address a draws on: that of the frame's owner, where
it is enabled (R282). -/
def bucketKey (s : State) (a : Nat) : List Nat :=
  match ownerOf s a with
  | some p => if s.on (Reg.MEM_REG_ENABLE p (a / ergBytes)) then [p * 8 + a / ergBytes] else []
  | none => []

/-- The buckets that an access to the line of address a takes a token from: for the fill, and for the write-back of the
dirty line that replacement takes (R282, R283). -/
def touchKeys (s : State) (a : Nat) (fill : Bool) : List Nat :=
  if a < fastEnd && !(SMap.get CLine.empty s.cache (a / 64)).cached then
    (if fill then bucketKey s a else []) ++
      (if waysUsed s (a / 64) < 24 then [] else
        match victimOf s (a / 64) with
        | some v => if (SMap.get CLine.empty s.cache v).dirty then bucketKey s (64 * v) else []
        | none => [])
  else []

/-- A list of addresses begins with those of one whole line: a write of them needs no fill. -/
def wholeLine (a : Nat) (r : List Nat) : Bool := a % 64 == 0 && (a :: r).take 64 == (List.range 64).map (a + ·)

/-- The first address of a list at which DRAM must be read: its line is not cached, and is not written as a whole. -/
def firstFill (s : State) (wr : Bool) : Nat → List Nat → Option Nat
  | _, [] => none
  | last, a :: r =>
    if a / 64 + 1 ≠ last ∧ a < fastEnd ∧ !(SMap.get CLine.empty s.cache (a / 64)).cached ∧ !(wr && wholeLine a r) then some a
    else firstFill s wr (a / 64 + 1) r

/-- The buckets that an access to a list of addresses takes tokens from, once per token. A write that covers a line needs
no fill. -/
def tokenKeys (s : State) (wr : Bool) : Nat → List Nat → List Nat
  | _, [] => []
  | last, a :: r =>
    if a / 64 + 1 = last then tokenKeys s wr last r
    else touchKeys s a (!(wr && wholeLine a r))
      ++ tokenKeys (touch s a wr) wr (a / 64 + 1) r

/-- The depth of partition p's bucket for erg e (R282). -/
def bucketDepth (s : State) (p e : Nat) : Nat := max 16 (s.get (Reg.MEM_REG_BURST p e))

/-- The tokens that a refill brings bucket k (R282). -/
def bucketRate (s : State) (k : Nat) : Nat := s.get (Reg.MEM_REG_RATE (k / 8) (k % 8))

/-- The tokens that bucket k must hold before an access that takes the tokens of a list goes: all of them; or a full bucket
where they are more than it can hold and refills follow, since the access is then made burst by burst (log entry 45). -/
def needOf (s : State) (ks : List Nat) (k : Nat) : Nat :=
  if bucketRate s k = 0 then ks.count k else min (ks.count k) (bucketDepth s (k / 8) (k % 8))

/-- Every bucket of a list holds its tokens. -/
def mayTake (s : State) (ks : List Nat) : Bool := ks.all fun k => needOf s ks k ≤ SMap.get 0 s.tokens k

/-- The tokens taken. -/
def takeKeys (s : State) (ks : List Nat) : State :=
  { s with tokens := ks.foldl (fun m k => SMap.set 0 m k (SMap.get 0 m k - 1)) s.tokens }

/-- The partitions whose tokens are missing wait in this cycle (R283). -/
def dryParts (s : State) (ks : List Nat) : List Nat :=
  ((ks.filter fun k => SMap.get 0 s.tokens k < needOf s ks k).map (· / 8)).dedup
def waitParts (s : State) (ps : List Nat) : State := ps.dedup.foldl (fun s p => s.bumpWrap (Reg.MEM_PART_WAIT_CYCLES p) 1) s
def waitKeys (s : State) (ks : List Nat) : State := waitParts s (dryParts s ks)

/-- The tokens of bucket k that a list takes beyond those it holds, and the refills that bring them. -/
def shortOf (s : State) (ks : List Nat) (k : Nat) : Nat := ks.count k - SMap.get 0 s.tokens k
def refillsOf (s : State) (ks : List Nat) (k : Nat) : Nat := (shortOf s ks k + bucketRate s k - 1) / bucketRate s k

/-- The buckets that are enabled. -/
def bucketsOn (s : State) : List Nat := (List.range 128).filter fun k => s.on (Reg.MEM_REG_ENABLE (k / 8) (k % 8))

/-- Tokens taken by an access that is made as a whole (log entry 45): where they are missing, its bursts wait for the refills
that bring them, 64 c-cycles each, in which every other bucket is refilled too (R282, R283). Where no refill brings them the
access stalls. -/
def payTokens (s : State) (ks : List Nat) : State :=
  let dry := ks.dedup.filter fun k => shortOf s ks k != 0
  if dry.isEmpty then takeKeys s ks
  else
    let wait := fun (s : State) (p n : Nat) => s.bumpWrap (Reg.MEM_PART_WAIT_CYCLES p) n
    if dry.any fun k => bucketRate s k == 0 then
      { (dry.map (· / 8)).dedup.foldl (fun s p => wait s p 1) s with stalls := s.stalls + 1 }
    else
      let n := (dry.map (refillsOf s ks)).foldl max 0
      let fill := fun (m : SMap Nat) (k : Nat) =>
        SMap.set 0 m k (min (bucketDepth s (k / 8) (k % 8)) (SMap.get 0 s.tokens k + n * bucketRate s k - ks.count k))
      let t := { s with tokens := (bucketsOn s).foldl fill s.tokens }
      (dry.map (· / 8)).dedup.foldl
        (fun t p => wait t p (64 * (((dry.filter (· / 8 == p)).map (refillsOf s ks)).foldl max 0))) t

/-- An access to a list of addresses with the tokens that it takes. -/
def access (s : State) (wr : Bool) (as : List Nat) : State := touchAll (payTokens s (tokenKeys s wr 0 as)) wr 0 as

/-- The outcome `t` of a command, or `s` where an access of it stalls: the command waits, and the cycle counts (R282, R283). -/
def unlessStalled (s t : State) : State :=
  if s.stalls < t.stalls then
    (List.range 16).foldl (fun u p => u.put (Reg.MEM_PART_WAIT_CYCLES p) (t.get (Reg.MEM_PART_WAIT_CYCLES p))) s
  else t

/-- Bytes stored at device addresses, one address per byte. -/
def storeAt (s : State) (as : List Nat) (bs : List Byte) : State :=
  { s with mem := SMap.setAll 0 s.mem (as.zip bs) }

/-- A write of partition p at offset x through its page map and the cache; none where R279 refuses it. -/
def pWrite (s : State) (p x : Nat) (bs : List Byte) : Option State :=
  match xlateAll s p x bs.length with
  | some as => some (storeAt (access s true as) as bs)
  | none => none

/-- The bytes that partition p reads at offset x; none where R279 refuses it. -/
def pRead (s : State) (p x n : Nat) : Option (List Byte) :=
  match xlateAll s p x n with
  | some as => some (as.map fun a => SMap.get 0 s.mem a)
  | none => none

/-- A read of partition p as its slices see it (R284). -/
def pTouch (s : State) (p x n : Nat) : State :=
  match xlateAll s p x n with
  | some as => access s false as
  | none => s

/-- A read of a number at a partition offset, 0 where it is refused. -/
def pNat (s : State) (p x n : Nat) : Nat := leNat ((pRead s p x n).getD [])

/-- A write of a number at a partition offset; no change where it is refused. -/
def pPut (s : State) (p x n v : Nat) : State := (pWrite s p x (leBytes n v)).getD s

/-- A write by device address (the oasis die, firmware: R281). -/
def devWrite (s : State) (a : Nat) (bs : List Byte) : State :=
  let as := (List.range bs.length).map (a + ·)
  storeAt (access s true as) as bs

end Sys2Proof.Machine
end

