-- ==== Sys2Proof/Machine/Operands.lean ====
section
/-!
DEFINITION. The operand forms of the Tynte instructions: tensor descriptors and their elements (R142 to R145), stream
values (R151, R153), granule fields (R150), and the bytes that a transfer gathers (R66, R155, R159).
-/

namespace Sys2Proof.Machine

/-! ### Tensor descriptors -/

/-- A tensor descriptor from its 64 bytes (R142). -/
def tdescOf (b : List Byte) : TDesc :=
  let rank := fieldOf b 6 1
  let dims := (List.range 5).map fun i => fieldOf b (8 + 4 * i) 4
  let strides := (List.range 4).map fun i => fieldOf b (28 + 5 * i) 5
  { base := fieldOf b 0 5, format := fieldOf b 5 1, rank := rank, flags := fieldOf b 7 1, dims := dims,
    strides := strides, auxBase := fieldOf b 48 5, auxStride := fieldOf b 53 5, scaleRef := fieldOf b 58 2,
    clean := fieldOf b 60 4 == 0 && fieldOf b 7 1 < 16 && (dims.drop rank).all (· == 0)
      && (strides.drop (rank - 1)).all (· == 0) }

/-- Flags of a descriptor. -/
def TDesc.frozen (t : TDesc) : Bool := t.flags % 2 == 1
def TDesc.versioned (t : TDesc) : Bool := t.flags / 2 % 2 == 1
def TDesc.resident (t : TDesc) : Bool := t.flags / 4 % 2 == 1
def TDesc.writable (t : TDesc) : Bool := t.flags / 8 % 2 == 1

/-- Element size of a format in bytes (R143); 0 for a value that R143 does not list. -/
def elemSize (f : Nat) : Nat :=
  match f with
  | 0x01 => 1
  | 0x02 => 2
  | 0x03 => 4
  | 0x04 => 4
  | 0x05 => 16
  | 0x06 => 12
  | 0x07 => 8
  | 0x08 => 64
  | 0x09 => 8
  | 0x0A => 32
  | 0x0B => 2
  | _ => 0

/-- Code width of a coded format, 0 for the others. -/
def codeWidth (f : Nat) : Nat :=
  match f with
  | 0x05 => 4
  | 0x06 => 3
  | 0x07 => 2
  | _ => 0

/-- A coded tensor (R143). -/
def TDesc.coded (t : TDesc) : Bool := codeWidth t.format != 0

/-- Extent of a dimension; 1 at and above RANK. -/
def TDesc.dim (t : TDesc) (i : Nat) : Nat := if i < t.rank then t.dims.getD i 0 else 1

/-- Byte stride of dimension i, i from 1 (R142). -/
def TDesc.stride (t : TDesc) (i : Nat) : Nat := t.strides.getD (i - 1) 0

/-- Bytes spanned by dimensions 0 to i. -/
def TDesc.footprint (t : TDesc) : Nat → Nat
  | 0 => t.dim 0 * elemSize t.format
  | i + 1 => (t.dim (i + 1) - 1) * t.stride (i + 1) + t.footprint i

/-- Number of slices over the dimensions from 2 on. -/
def TDesc.highs (t : TDesc) : Nat := t.dim 2 * t.dim 3 * t.dim 4

/-- One past the highest byte of the tensor, its multipliers included (R144). -/
def TDesc.limit (t : TDesc) : Nat :=
  let body := t.base + t.footprint (t.rank - 1)
  if t.coded then max body (t.auxBase + 64 + 2 * t.dim 0 + (t.dim 1 * t.highs - 1) * t.auxStride) else body

/-- The checks of R144, for a partition of `cap` bytes. -/
def TDesc.ok (t : TDesc) (cap : Nat) : Bool :=
  elemSize t.format != 0 && 1 ≤ t.rank && t.rank ≤ 5 && t.clean
    && (List.range t.rank).all (fun i => t.dim i != 0)
    && t.base % 64 == 0 && t.auxBase % 64 == 0 && t.auxStride % 64 == 0 && t.strides.all (· % 64 == 0)
    && (List.range (t.rank - 1)).all (fun i => t.footprint i ≤ t.stride (i + 1))
    && (!t.coded || 2 ≤ t.rank)
    && t.limit ≤ 2 ^ 40 && t.limit ≤ cap
    && (t.scaleRef < 8192 || t.scaleRef == 0xFFFF)

/-- Byte offset of the higher coordinates of linear index h, dimension 2 fastest (R158). -/
def TDesc.highOff (t : TDesc) (h : Nat) : Nat :=
  h % t.dim 2 * t.stride 2 + h / t.dim 2 % t.dim 3 * t.stride 3 + h / t.dim 2 / t.dim 3 * t.stride 4

/-- Element [i1][i0] of slice h lies inside the extents (R145). -/
def TDesc.inside (t : TDesc) (i0 i1 h : Nat) : Bool := i0 < t.dim 0 && i1 < t.dim 1 && h < t.highs

/-- Partition offset of element [i1][i0] of slice h; of block (kb = i1, n = i0) for a coded tensor (R142, R143). -/
def TDesc.addr (t : TDesc) (i0 i1 h : Nat) : Nat :=
  t.base + i0 * elemSize t.format + i1 * t.stride 1 + t.highOff h

/-- Partition offset of the multiplier of block (kb, n) of slice h (R143). -/
def TDesc.mulAddr (t : TDesc) (kb n h : Nat) : Nat := t.auxBase + 64 + 2 * n + (kb + h * t.dim 1) * t.auxStride

/-! ### Streams (R151 to R154) and granule fields (R150) -/

/-- The value of a stream under loop counters (R153). -/
def streamValue (d : StreamDef) (ctrs : List Nat) : Int :=
  d.init + (List.zipWith (fun (i : Nat) (c : Int) => (i : Int) * c) ctrs d.incs).foldl (· + ·) 0

/-- The counters of a virtual core; every counter is 0 outside a loop. -/
def VC.ctrs (v : VC) : List Nat :=
  match v.loopc with
  | some l => l.ctrs
  | none => []

/-- The present value of stream S; none where it is undefined. -/
def VC.stream (v : VC) (i : Nat) : Option Int := (SMap.get none v.streams i).map fun d => streamValue d v.ctrs

/-- A streamable field of w bits: its value, or none where the stream's value does not fit (code 0x0333, R151). -/
def streamable (v : VC) (w f : Nat) : Option Nat :=
  if 2 ^ w - 4 ≤ f then
    match v.stream (f - (2 ^ w - 4)) with
    | some x => if 0 ≤ x ∧ x < (2 ^ w : Nat) then some x.toNat else none
    | none => none
  else some f

/-- What a granule field names (R150). -/
inductive Gran
  | x (g : Nat)
  | absent
  | bad
deriving DecidableEq, Repr

/-- The granule that a granule field names now. -/
def granule (v : VC) (f : Nat) : Gran :=
  if f < 896 then .x f
  else if f = 2047 then .absent
  else if 2040 ≤ f ∧ f ≤ 2043 then
    match v.stream (f - 2040) with
    | some x => if 0 ≤ x ∧ x < 896 then .x x.toNat else .bad
    | none => .bad
  else .bad

/-- The predicate of an instruction holds (R149): condition PCOND on the counter of level PLEV. -/
def predHolds (v : VC) (p : Pred) : Bool :=
  if p.pen then
    match v.loopc with
    | none => false
    | some l =>
      let i := l.ctrs.getD p.plev 0
      let n := l.counts.getD p.plev 1
      match p.pcond with
      | 0 => i == 0
      | 1 => i + 1 == n
      | 2 => i != 0
      | 3 => i + 1 != n
      | 4 => i % 2 == 0
      | 5 => i % 2 == 1
      | _ => false
  else true

/-! ### Programs: what a loaded image holds (R139, R140) -/

/-- The descriptor with index i of a loaded program; none for the null descriptor and beyond NDESC. -/
def Prog.desc (g : Prog) (i : Nat) : Option TDesc :=
  let nd := if g.isNative then fieldOf g.image 24 2 else fieldOf g.image 18 2
  let off := if g.isNative then fieldOf g.image 40 4 else fieldOf g.image 32 4
  if i < nd then some (tdescOf (sliceOf g.image (off + 64 * i) 64)) else none

/-- Bytes of the CONST section. -/
def Prog.constAt (g : Prog) (off n : Nat) : Nat :=
  fieldOf g.image ((if g.isNative then fieldOf g.image 48 4 else fieldOf g.image 40 4) + off) n

/-- Offset of the CODE and CARAVAN sections of a Tynte module. -/
def Prog.codeOff (g : Prog) : Nat := fieldOf g.image 24 4
def Prog.caravanOff (g : Prog) : Nat := fieldOf g.image 48 4

/-- VCORES, MIN_CORES and ENTRIES of a Tynte module. A native image has CORES in place of both (R180), of which each of its
GANGS, placed first and as a whole, takes four: it is never folded (R181; log entry 60). -/
def Prog.vcores (g : Prog) : Nat := fieldOf g.image 12 2 - if g.isNative then 3 * fieldOf g.image 14 1 else 0
def Prog.minCores (g : Prog) : Nat := if g.isNative then fieldOf g.image 12 2 else fieldOf g.image 14 2
def Prog.entries (g : Prog) : Nat := if g.isNative then fieldOf g.image 15 1 else fieldOf g.image 16 1

/-- The word at which virtual core v starts in entry e, 0xFFFF_FFFF where it is idle (R140). A native image names no
entry table; every core of it runs. -/
def Prog.start (g : Prog) (e v : Nat) : Nat :=
  if g.isNative then 0 else fieldOf g.image (g.codeOff + 8 * g.vcores + 4 * (e * g.vcores + v)) 4

/-- The virtual cores that run in entry e. -/
def Prog.activeIn (g : Prog) (e : Nat) : List Nat := (List.range g.vcores).filter fun v => g.start e v != 0xFFFFFFFF

/-! ### Gathered transfers (R66, R93, R155, R159) -/

/-- Where byte k of a transfer's data comes from: an offset in the source space, or nothing, which stores 0 (R145). `src`
is the descriptor's own source. Code blocks fill one 4 KiB granule each, scale blocks one of 512 bytes. -/
def fillAddr (fl : Fill) (src k : Nat) : Option Nat :=
  match fl with
  | .plain => some (src + k)
  | .receive => some (src + k)
  | .toRows _ _ _ => some (src + k)
  | .rows rb st total => if k < total then some (src + k / rb * st + k % rb) else none
  | .rowOp t rm org k0 h hold =>
    let es := elemSize t.format
    let el := fun (i kk : Nat) =>
      if rm then (if t.inside kk (org + i) h then some (t.addr kk (org + i) h) else none)
      else (if t.inside (org + i) kk h then some (t.addr (org + i) kk h) else none)
    if hold = 0 then (el (k / es % 256) (k0 + k / es / 256)).map (· + k % es)
    else
      let g := roundUp ((255 + hold) * es) 64
      let j := k % g / es
      if j < 256 then (el j (k0 + k / g * hold)).map (· + k % es)
      else if j < 255 + hold then (el 255 (k0 + k / g * hold + (j - 255))).map (· + k % es)
      else none
  | .colOp t org k0 h =>
    let es := elemSize t.format
    let i0 := org + k / es % 256
    let i1 := k0 + k / es / 256
    if t.inside i0 i1 h then some (t.addr i0 i1 h + k % es) else none
  | .codes t org kb h =>
    let es := elemSize t.format
    let j := k % 4096
    if j < 256 * es && t.inside (org + j / es) (kb + k / 4096) h then some (t.addr (org + j / es) (kb + k / 4096) h + j % es)
    else none
  | .scales t org kb h =>
    let j := k % 512
    if t.inside (org + j / 2) (kb + k / 512) h then some (t.mulAddr (kb + k / 512) (org + j / 2) h + j % 2) else none
  | .scalesT t org k0 h =>
    let kb := org / 32 + k / 2 % 8
    let n := k0 + k / 16
    if t.inside n kb h then some (t.mulAddr kb n h + k % 2) else none
  | .codesT t org k0 h =>
    let b := codeWidth t.format
    let j := k % 4096
    let n := k0 + 32 * (k / 4096) + j / (32 * b)
    let kb := org / 32 + j % (32 * b) / (4 * b)
    if j < 1024 * b && t.inside n kb h then some (t.addr n kb h + j % (4 * b)) else none

/-- Where byte k of a descriptor's data comes from, after the shift of a pre-skewed stream. -/
def descAddr (d : Desc) (k : Nat) : Option Nat := if k < d.shift then none else fillAddr d.fill d.src (k - d.shift)

/-- Byte k of a descriptor's data, read through `rd` (a byte of the source space). -/
def descByte (rd : Nat → Byte) (d : Desc) (k : Nat) : Byte :=
  match descAddr d k with
  | some a => rd a
  | none => 0

/-- Every source offset that bytes [k, k + n) of a descriptor read. -/
def descSources (d : Desc) (k n : Nat) : List Nat := (List.range n).filterMap fun i => descAddr d (k + i)

/-- Where byte k of a descriptor's data goes in the destination space; none where it is dropped. -/
def destAddr (d : Desc) (k : Nat) : Option Nat :=
  match d.fill with
  | .toRows rb st total => if k < total then some (d.dst + k / rb * st + k % rb) else none
  | _ => some (d.dst + k)

/-- How much the TAG rises from granule to granule: one block each on code and scale streams (R60). -/
def tagStep (fl : Fill) : Nat :=
  match fl with
  | .codes _ _ _ _ => 1
  | .codesT _ _ _ _ => 1
  | .scales _ _ _ _ => 1
  | .scalesT _ _ _ _ => 1
  | _ => 0

/-! ### Staging (R65, R66) -/

/-- Staging bank bases within a core: A, B, auxiliary. -/
def bankBase (bank : Nat) : Nat := if bank = 0 then 0 else if bank = 1 then 0xC0000 else 0x180000
def bankGran (bank : Nat) : Nat := if bank = 2 then 512 else 4096
def bankSize (bank : Nat) : Nat := if bank = 2 then 0x80000 else 0xC0000
def bankCount (bank : Nat) : Nat := bankSize bank / bankGran bank

/-- Key of byte x of a bank of core c; ranges wrap within the bank (R66). -/
def stgKey (c bank x : Nat) : Nat := c * 2 ^ 21 + bankBase bank + x % bankSize bank

/-- One staged byte. -/
def stgByte (s : State) (c bank x : Nat) : Byte := SMap.get 0 s.stg (stgKey c bank x)

/-- A number of n bytes in staging, lowest byte first. -/
def stgNat (s : State) (c bank x n : Nat) : Nat := leNat ((List.range n).map fun i => stgByte s c bank (x + i))

/-- Bytes written to staging from byte x of a bank. -/
def stgWrite (s : State) (c bank x : Nat) (bs : List Byte) : State :=
  { s with stg := SMap.setAll 0 s.stg (((List.range bs.length).map fun i => stgKey c bank (x + i)).zip bs) }

/-- The PRESENT bit of granule g of a bank (R65). -/
def presentFld (c bank g : Nat) : Fld :=
  if bank = 0 then Reg.ENG_PRESENT_A_PRESENT c (g % 192)
  else if bank = 1 then Reg.ENG_PRESENT_B_PRESENT c (g % 192)
  else Reg.ENG_PRESENT_X_PRESENT c (g % 1024)

/-- Key of a granule's TAG and SKEW. -/
def gtagKey (c bank g : Nat) : Nat := c * 4096 + bank * 1024 + g % bankCount bank

/-- The granule becomes present with its TAG and SKEW (R65). -/
def setPresent (s : State) (c bank g tag skew : Nat) : State :=
  { s.put (presentFld c bank g) 1 with gtag := SMap.set 0 s.gtag (gtagKey c bank g) (tag % 16 + 16 * (skew % 4)) }

/-- PRESENT of n granules from g cleared. -/
def clearPresent (s : State) (c bank : Nat) : Nat → Nat → State
  | _, 0 => s
  | g, n + 1 => clearPresent (s.put (presentFld c bank g) 0) c bank (g + 1) n

/-- PRESENT of every granule of core c cleared: nothing of its staging is there for an instruction to read. -/
def clearStaging (s : State) (c : Nat) : State :=
  clearPresent (clearPresent (clearPresent s c 0 0 192) c 1 0 192) c 2 0 1024

/-- Every one of n granules from g has PRESENT = v. -/
def presentAll (s : State) (c bank g n v : Nat) : Bool :=
  (List.range n).all fun i => s.get (presentFld c bank (g + i)) == v

/-- TAG and SKEW of a granule. -/
def tagOf (s : State) (c bank g : Nat) : Nat := SMap.get 0 s.gtag (gtagKey c bank g) % 16
def skewOf (s : State) (c bank g : Nat) : Nat := SMap.get 0 s.gtag (gtagKey c bank g) / 16

/-- The granules among n from g whose PRESENT is 0, as bank × 1024 + number (R75). -/
def absentOf (s : State) (c bank g n : Nat) : List Nat :=
  ((List.range n).filter fun i => s.get (presentFld c bank (g + i)) == 0).map fun i =>
    bank * 1024 + (g + i) % bankCount bank

end Sys2Proof.Machine
end

