-- ==== Sys2Proof/Machine/Codebook.lean ====
section
/-!
DEFINITION. Codebook records (R34 to R36), the quantizer to codes (R38, R39).
-/

namespace Sys2Proof.Machine

/-- A checked codebook: entries of codes 0, 1, 2, …, the code width and the tensor exponent. -/
structure Codebook where
  entries : List Int
  width : Nat
  e : Int
  custom : Bool
deriving DecidableEq, Repr

/-- The entries of the presets (R35), with their width. -/
def presetOf (n : Nat) : Option (List Int × Nat) :=
  match n with
  | 1 => some ([0, 1, 2, 3, 4, 6, 8, 12, 0, -1, -2, -3, -4, -6, -8, -12], 4)
  | 2 => some ([0, 1, 2, 3, 4, 5, 6, 7, -8, -7, -6, -5, -4, -3, -2, -1], 4)
  | 3 => some ([0, 1, 2, 3, 4, 5, 6, 7, 0, -1, -2, -3, -4, -5, -6, -7], 4)
  | 4 => some ([0, 1, 2, 3, -4, -3, -2, -1], 3)
  | 5 => some ([0, 1, -2, -1], 2)
  | _ => none

/-- The codebook of a 32-byte record, or none where the record breaks R34. -/
def codebookOf (b : List Byte) : Option Codebook :=
  let ent := (List.range 16).map fun i => sext 8 (fieldOf b i 1)
  let w := fieldOf b 16 1
  let pre := fieldOf b 17 1
  let e := sext 8 (fieldOf b 18 1)
  if fieldOf b 19 1 ≠ 0 ∨ fieldOf b 22 2 ≠ 0 ∨ fieldOf b 28 4 ≠ 0 then none
  else if w = 2 ∨ w = 3 ∨ w = 4 then
    if pre = 0 then
      if ent.getD 0 0 == 0 && (ent.drop (2 ^ w)).all (· == 0) && ((ent.take (2 ^ w)).drop 1).any (· != 0)
      then some ⟨ent.take (2 ^ w), w, e, true⟩ else none
    else
      match presetOf pre with
      | some (es, pw) => if pw = w then some ⟨es, w, e, false⟩ else none
      | none => none
  else none

/-- The largest magnitude of the entries, cmax of R39. -/
def Codebook.cmax (c : Codebook) : Nat := (c.entries.map Int.natAbs).foldl max 0

/-- Exact comparison of |v − x| with |v − y|, for v an fp32 value times 2^(−E) and integers x, y: the value as an
integer over 2^(-g). -/
def nearer (n : Int) (g : Nat) (x y : Int) : Ordering :=
  compare (n - x * 2 ^ g).natAbs (n - y * 2 ^ g).natAbs

/-- v = w × 2^(−E) as (integer, binary places): exact (R38). -/
def exactOf (w : Nat) (e : Int) : Int × Nat :=
  match dec32 w with
  | .fin n m x =>
    let k := x - e
    let v : Int := if n then -(m : Int) else m
    if 0 ≤ k then (v * 2 ^ k.toNat, 0) else (v, (-k).toNat)
  | _ => (0, 0)

/-- Code i is the lowest that carries its entry. -/
def Codebook.first (c : Codebook) (i : Nat) : Bool := !(c.entries.take i).contains (c.entries.getD i 0)

/-- The quantizer of R38: the code of an fp32 weight under multiplier m. Of the codes that carry one entry the lowest stands
for all; they are tried in ascending order, and a later one wins a tie only where it is even and the best so far is odd. -/
def chooseCode (c : Codebook) (w m : Nat) : Nat :=
  let v := exactOf w c.e
  let go := ((List.range c.entries.length).filter c.first).foldl (fun (best : Option (Nat × Int)) i =>
    let x := c.entries.getD i 0 * m
    match best with
    | none => some (i, x)
    | some (j, y) =>
      match nearer v.1 v.2 x y with
      | .lt => some (i, x)
      | .gt => some (j, y)
      | .eq => if x != y && i % 2 == 0 && j % 2 == 1 then some (i, x) else some (j, y)) none
  (go.map (·.1)).getD 0

/-- a × 2^(−E) ÷ cmax compared with an integer bound, exactly: a ≤ bound × cmax × 2^E. -/
def scaledLe (a : Nat) (e : Int) (bound cmax : Nat) : Bool :=
  match dec32 a with
  | .fin _ m x =>
    let g := min x e
    decide (m * 2 ^ (x - g).toNat ≤ bound * cmax * 2 ^ (e - g).toNat)
  | _ => true

/-- The tensor exponent of R39 for largest magnitude A: the smallest integer from −128 on that meets the bound. -/
def tensorExp (a cmax : Nat) : Int :=
  if dec32 a = .fin false 0 0 then 0
  else match (List.range 256).find? fun (i : Nat) => scaledLe a ((i : Int) - 128) 65535 cmax with
    | some i => (i : Int) - 128
    | none => 127

/-- The block multiplier of R39 for a block of largest magnitude a (an fp32 number not 0): rne_int(a × 2^(−E) ÷ cmax),
raised to 1. -/
def blockMul (a : Nat) (e : Int) (cmax : Nat) : Nat :=
  match dec32 a with
  | .fin _ m x =>
    let k := x - e
    let num := if 0 ≤ k then m * 2 ^ k.toNat else m
    let den := if 0 ≤ k then cmax else cmax * 2 ^ (-k).toNat
    let q := num / den
    let r := num % den
    let v := if den < 2 * r then q + 1 else if 2 * r < den then q else q + q % 2
    if v = 0 then 1 else v
  | _ => 1

/-- |v| exceeds cmax × m: the weight takes the outermost entry (R39). -/
def outermost (c : Codebook) (w m : Nat) : Bool :=
  let v := exactOf w c.e
  decide ((c.cmax * m : Nat) * 2 ^ v.2 < v.1.natAbs)

/-- The code of k-step j in a block's bit string (R33). -/
def codeAt (b : Nat) (bits : Nat) (j : Nat) : Nat := bitsOf bits (b * j) b

/-- Codes packed into the bytes of a block (R33). -/
def packCodes (b : Nat) (codes : List Nat) : List Byte :=
  leBytes (4 * b) (codes.foldr (fun c acc => c + 2 ^ b * acc) 0)

end Sys2Proof.Machine
end

