-- ==== Sys2Proof/Machine/Module.lean ====
section
/-!
DEFINITION. The Tynte module as LOAD_MODULE sees it: the decoder of instruction words (R147, R148, R152 to R168), the
checks of R139 to R174 in the order of R175, and placement (R134).
-/

namespace Sys2Proof.Machine

/-! ### Words -/

/-- The bits of w outside the ranges (low bit, width) are all 0. -/
def restZero (w : Nat) (used : List (Nat × Nat)) : Bool :=
  used.foldl (fun x r => x - bitsOf x r.1 r.2 * 2 ^ r.1) w == 0

/-- The predicate of word 0 (R147). -/
def predOf (w : Nat) : Pred := ⟨bitsOf w 10 1 == 1, bitsOf w 13 3, bitsOf w 11 2⟩

/-- Words of an instruction by opcode (R148); 0 for any other opcode. -/
def wordsOf (op : Nat) : Nat :=
  match op with
  | 0x00 => 1 | 0x01 => 1 | 0x02 => 2 | 0x03 => 1 | 0x04 => 4
  | 0x10 => 3 | 0x11 => 3 | 0x12 => 2 | 0x20 => 2 | 0x21 => 2
  | 0x30 => 4 | 0x31 => 3 | 0x40 => 3 | 0x50 => 3
  | 0x60 => 2 | 0x61 => 2 | 0x62 => 2 | 0x63 => 3 | 0x64 => 2
  | 0x70 => 2 | 0x80 => 1 | 0x81 => 1 | 0x82 => 1 | 0x83 => 2 | 0x84 => 2 | 0x85 => 2
  | 0x90 => 3 | 0xA0 => 2 | 0xB0 => 2
  | _ => 0

/-- The operation fields of an instruction whose words are w0 to w3 (0 beyond its length), with the bits it uses of each
word above bit 15 of word 0: the encodings of R152 to R168. -/
def fieldsOf (w0 w1 w2 w3 : Nat) : Option (Tynte × List (Nat × Nat) × List (Nat × Nat) × List (Nat × Nat)
    × List (Nat × Nat)) :=
  let b := bitsOf
  let all := [(0, 64)]
  match w0 % 256 with
  | 0x00 => some (.nop, [], [], [], [])
  | 0x01 => some (.endI, [], [], [], [])
  | 0x02 => some (.loop ⟨b w0 16 2, b w1 0 16, b w1 16 16, b w1 32 16, b w1 48 16⟩, [(16, 2)], all, [], [])
  | 0x03 => some (.endloop, [], [], [], [])
  | 0x04 =>
    let ip := b w0 18 1 == 1
    some (.stream ⟨b w0 16 2, ip, BitVec.ofNat 32 (b w1 0 32), BitVec.ofNat 32 (b w1 32 32), BitVec.ofNat 32 (b w2 0 32),
      BitVec.ofNat 32 (b w2 32 32), BitVec.ofNat 32 (b w3 0 32)⟩, [(16, 3)],
      (if ip then [(0, 2), (32, 32)] else all), all, [(0, 32)])
  | 0x10 => some (.load ⟨false, b w0 39 1 == 1, b w0 27 12, b w0 16 11, b w1 0 32, b w2 0 32⟩,
      [(16, 24)], [(0, 32)], [(0, 32)], [])
  | 0x11 => some (.store ⟨b w0 40 1 == 1, b w0 39 1 == 1, b w0 27 12, b w0 16 11, b w1 0 32, b w2 0 32⟩,
      [(16, 25)], [(0, 32)], [(0, 32)], [])
  | 0x12 => some (.prefetch ⟨b w0 16 12, b w0 28 1 == 1, b w1 0 32, b w1 32 32⟩, [(16, 13)], all, [], [])
  | 0x20 => some (.tableSetup ⟨b w0 40 5, b w0 28 12, b w0 16 12, b w1 0 12⟩, [(16, 29)], [(0, 12)], [], [])
  | 0x21 => some (.codebookSet ⟨b w0 16 12, b w1 0 32⟩, [(16, 12)], [(0, 32)], [], [])
  | 0x30 =>
    some (.opb ⟨b w0 45 12, b w0 33 12, b w0 26 7, b w0 25 1 == 1, b w0 23 2, b w0 22 1 == 1, b w0 19 3, b w0 16 3,
      b w1 32 32, b w1 0 32, b w2 16 6, b w2 0 16, b w3 0 32⟩, [(16, 41)], all, [(0, 22)], [(0, 32)])
  | 0x31 =>
    some (.drain ⟨b w0 36 11, b w0 24 12, b w0 23 1 == 1, b w0 21 2, b w0 20 1 == 1, b w0 18 2, b w0 16 2,
      b w1 32 32, b w1 0 32, b w2 0 32⟩, [(16, 31)], all, [(0, 32)], [])
  | 0x40 =>
    some (.vop ⟨b w0 30 1 == 1, b w0 29 1 == 1, b w0 28 1 == 1, b w0 26 2, b w0 24 2, b w0 16 8, b w1 33 11, b w1 22 11,
      b w1 11 11, b w1 0 11, BitVec.ofNat 32 (b w2 32 32), b w2 16 12, b w2 0 16⟩, [(16, 15)], [(0, 44)],
      [(0, 28), (32, 32)], [])
  | 0x50 =>
    some (.reduce ⟨b w0 57 1 == 1, b w0 55 2, b w0 54 1 == 1, b w0 43 11, b w0 32 11, b w0 31 1 == 1, b w0 30 1 == 1,
      b w0 23 7, b w0 21 2, b w0 20 1 == 1, b w0 16 4, b w1 32 32, b w1 0 32, b w2 44 20, b w2 32 12, b w2 0 32⟩,
      [(16, 42)], all, all, [])
  | 0x60 => some (.indexStream ⟨b w0 16 12, b w1 0 32, b w1 32 32⟩, [(16, 12)], all, [], [])
  | 0x61 => some (.gather ⟨b w0 28 11, b w0 16 12, b w1 0 32⟩, [(16, 23)], [(0, 32)], [], [])
  | 0x62 => some (.scatterAdd ⟨b w0 49 1 == 1, sext 9 (b w0 40 9), b w0 39 1 == 1, b w0 28 11, b w0 16 12, b w1 0 32⟩,
      [(16, 34)], [(0, 32)], [], [])
  | 0x63 =>
    some (.segmentReduce ⟨b w0 55 2, b w0 54 1 == 1, b w0 53 1 == 1, b w0 50 3, b w0 39 11, b w0 28 11, b w0 16 12,
      b w1 32 32, b w1 0 32, b w2 32 11, b w2 0 32⟩, [(16, 41)], all, [(0, 43)], [])
  | 0x64 => some (.anchorRead ⟨sext 9 (b w0 39 9), b w0 28 11, b w0 16 12, b w1 0 32, b w1 32 32⟩, [(16, 32)], all, [],
      [])
  | 0x70 => some (.quantCodes ⟨b w0 16 12, b w0 28 12, b w1 0 32, b w1 32 32⟩, [(16, 24)], all, [], [])
  | 0x80 => some (.signal (b w0 16 8), [(16, 8)], [], [], [])
  | 0x81 => some (.wait (b w0 16 8) (b w0 24 32), [(16, 40)], [], [], [])
  | 0x82 => some (.barrier, [], [], [], [])
  | 0x83 => some (.mbBegin (b w1 32 32) (b w1 0 32), [], all, [], [])
  | 0x84 => some (.mbEnd (b w1 32 32) (b w1 0 32), [], all, [], [])
  | 0x85 => some (.stepEnd (b w1 0 32), [], [(0, 32)], [], [])
  | 0x90 =>
    some (.coll ⟨b w0 44 16, b w0 32 12, b w0 20 12, b w0 16 4, b w1 32 32, b w1 0 32, b w2 40 1 == 1, b w2 32 8,
      b w2 0 32⟩, [(16, 44)], all, [(0, 41)], [])
  | 0xA0 => some (.caravan ⟨b w0 16 12, b w1 32 32, b w1 0 32⟩, [(16, 12)], all, [], [])
  | 0xB0 => some (.update ⟨b w0 28 12, b w0 16 12, b w1 32 32, b w1 0 32⟩, [(16, 24)], all, [], [])
  | _ => none

/-- One instruction at the front of a list of words: the instruction, its predicate and its length; none where R148
refuses the word (opcode, LEN, reserved bits). -/
def decodeTynte (ws : List Nat) : Option (Tynte × Pred × Nat) :=
  match ws with
  | [] => none
  | w0 :: r =>
    let n := wordsOf (w0 % 256)
    let p := predOf w0
    if n = 0 || bitsOf w0 8 2 + 1 != n || r.length + 1 < n then none
    else if !p.pen && (p.pcond != 0 || p.plev != 0) then none
    else
      match fieldsOf w0 (r.getD 0 0) (r.getD 1 0) (r.getD 2 0) with
      | none => none
      | some (t, u0, u1, u2, u3) =>
        if restZero w0 ((0, 16) :: u0) && (n < 2 || restZero (r.getD 0 0) u1) && (n < 3 || restZero (r.getD 1 0) u2)
            && (n < 4 || restZero (r.getD 2 0) u3)
        then some (t, p, n) else none

/-- Fields (value, low bit) put into a word. -/
def pack (fs : List (Nat × Nat)) : Nat := fs.foldr (fun x n => x.1 * 2 ^ x.2 + n) 0

/-- The opcode and the words above bit 15 of word 0 of an instruction: (value, low bit) of word 0, then the other words
(R148, R152 to R168). -/
def layout (t : Tynte) : Nat × List (Nat × Nat) × List Nat :=
  let n := BitVec.toNat (w := 32)
  let o := Bool.toNat
  match t with
  | .nop => (0x00, [], [])
  | .endI => (0x01, [], [])
  | .loop f => (0x02, [(f.nlev, 16)], [pack [(f.count0, 0), (f.count1, 16), (f.count2, 32), (f.count3, 48)]])
  | .endloop => (0x03, [], [])
  | .stream f => (0x04, [(f.s, 16), (o f.initParam, 18)],
      [pack [(n f.init, 0), (n f.inc0, 32)], pack [(n f.inc1, 0), (n f.inc2, 32)], n f.inc3])
  | .load f => (0x10, [(o f.rows, 39), (f.desc, 27), (f.gran, 16)], [f.off, f.count])
  | .store f => (0x11, [(o f.rel, 40), (o f.rows, 39), (f.desc, 27), (f.gran, 16)], [f.off, f.count])
  | .prefetch f => (0x12, [(f.desc, 16), (o f.pin, 28)], [pack [(f.off, 0), (f.count, 32)]])
  | .tableSetup f => (0x20, [(f.accShift, 40), (f.adesc, 28), (f.wdesc, 16)], [f.sdesc])
  | .codebookSet f => (0x21, [(f.desc, 16)], [f.constOff])
  | .opb f => (0x30, [(f.bdesc, 45), (f.adesc, 33), (f.holdT, 26), (o f.acc, 25), (f.slot, 23), (o f.tile, 22), (f.width, 19),
      (f.path, 16)], [pack [(f.arow, 0), (f.bcol, 32)], pack [(f.kb0, 0), (f.blocks, 16)], f.high])
  | .drain f => (0x31, [(f.xbase, 36), (f.outDesc, 24), (o f.tile, 23), (f.dest, 21), (o f.stats, 20), (f.format, 18),
      (f.slot, 16)], [pack [(f.orow, 0), (f.ocol, 32)], f.high])
  | .vop f => (0x40, [(o f.rel, 30), (o f.dStream, 29), (o f.sStream, 28), (f.fout, 26), (f.fin, 24), (f.op, 16)],
      [pack [(f.src1, 0), (f.src2, 11), (f.src3, 22), (f.dst, 33)], pack [(f.vectors, 0), (f.sdesc, 16), (n f.imm, 32)]])
  | .reduce f => (0x50, [(o f.min, 57), (f.fin, 55), (o f.rel, 54), (f.dst, 43), (f.src, 32), (o f.dStream, 31),
      (o f.sStream, 30), (f.k, 23), (f.mode, 21), (o f.corr, 20), (f.op, 16)],
      [pack [(f.count, 0), (f.pos0, 32)], pack [(f.rows, 0), (f.xdesc, 32), (f.xidx, 44)]])
  | .indexStream f => (0x60, [(f.idesc, 16)], [pack [(f.first, 0), (f.count, 32)]])
  | .gather f => (0x61, [(f.dst, 28), (f.tdesc, 16)], [f.count])
  | .scatterAdd f => (0x62, [(o f.rel, 49), (ofInt 9 f.anchor, 40), (o f.anchored, 39), (f.src, 28), (f.tdesc, 16)], [f.count])
  | .segmentReduce f => (0x63, [(f.fin, 55), (o f.rel, 54), (o f.part, 53), (f.op, 50), (f.dst, 39), (f.src, 28),
      (f.xdesc, 16)], [pack [(f.first, 0), (f.last, 32)], pack [(f.rows, 0), (f.rowlen, 32)]])
  | .anchorRead f => (0x64, [(ofInt 9 f.anchor, 39), (f.dst, 28), (f.tdesc, 16)], [pack [(f.row0, 0), (f.rows, 32)]])
  | .quantCodes f => (0x70, [(f.src, 16), (f.dst, 28)], [pack [(f.kb0, 0), (f.blocks, 32)]])
  | .signal k => (0x80, [(k, 16)], [])
  | .wait k v => (0x81, [(k, 16), (v, 24)], [])
  | .barrier => (0x82, [], [])
  | .mbBegin m k => (0x83, [], [pack [(k, 0), (m, 32)]])
  | .mbEnd m k => (0x84, [], [pack [(k, 0), (m, 32)]])
  | .stepEnd k => (0x85, [], [k])
  | .coll f => (0x90, [(f.group, 44), (f.ddesc, 32), (f.sdesc, 20), (f.op, 16)],
      [pack [(f.soff, 0), (f.doff, 32)], pack [(f.length, 0), (f.token, 32), (o f.sigEn, 40)]])
  | .caravan f => (0xA0, [(f.cdef, 16)], [pack [(f.tiles, 0), (f.param, 32)]])
  | .update f => (0xB0, [(f.vdesc, 28), (f.wdesc, 16)], [pack [(f.step, 0), (f.sched, 32)]])

/-- The words of an instruction as a module carries them (R147, R148). -/
def encodeTynte (t : Tynte) (p : Pred) : List Nat :=
  let (op, fs, ws) := layout t
  pack ([(op, 0), (ws.length, 8), (p.pen.toNat, 10), (p.plev, 11), (p.pcond, 13)] ++ fs) :: ws

/-! ### Checks of one instruction (step 4 of R175) -/

/-- A field marked streamable in w bits names a stream (R151). -/
def isStream (w f : Nat) : Bool := 2 ^ w - 4 ≤ f

/-- A granule field of R150; `none` allowed or not. -/
def granOk (f : Nat) (absentOk : Bool) : Bool := f < 896 || (2040 ≤ f && f ≤ 2043) || (absentOk && f == 2047)

/-- A DESC field that names a tensor. -/
def named (g : Prog) (i : Nat) : Bool := (g.desc i).isSome

/-- A DESC field that names a tensor or is null. -/
def namedOrNull (g : Prog) (i : Nat) : Bool := i == 0xFFF || named g i

/-- A DESC field names a tensor that meets a test. -/
def tensorIs (g : Prog) (i : Nat) (t : TDesc → Bool) : Bool :=
  match g.desc i with
  | some d => t d
  | none => false

/-- A writable tensor (R146). -/
def canWrite (g : Prog) (i : Nat) : Bool := tensorIs g i TDesc.writable

/-- An int8 tensor with a scale record. -/
def scaled8 (d : TDesc) : Bool := d.format == 1 && d.scaleRef != 0xFFFF

/-- The formats of a path's operands (R64, R159, R160): row operand, column operand. -/
def pathFormats (path a : Nat) (b : TDesc) : Bool :=
  match path with
  | 0 => a == 1 && b.coded
  | 1 => a == 1 && b.coded
  | 2 => a == 2 && b.coded
  | 3 => a == 2 && b.coded
  | 4 => a == 1 && b.format == 1
  | 5 => a == 1 && b.format == 2
  | 6 => a == 2 && b.format == 2
  | _ => false

/-- PATH and WIDTH pair as R72 states, and WIDTH is that of the coded tensor (R160). -/
def pathWidth (path width : Nat) (b : TDesc) : Bool :=
  if path ≤ 3 then
    (width == 2 || width == 3 || width == 4) && width == codeWidth b.format
      && !(path == 0 && width == 2) && !(path == 1 && width != 2)
  else width == 0

/-- The table context of an OPB names what its path needs (R157). -/
def tableOk (g : Prog) (path : Nat) (tab : Option TableF) : Bool :=
  match tab with
  | none => path == 6
  | some t =>
    (!(path ≤ 3) || tensorIs g t.wdesc TDesc.coded)
      && (!(path == 0 || path == 1 || path == 4 || path == 5) || tensorIs g t.adesc scaled8)
      && (!(path == 4) || tensorIs g t.sdesc scaled8)

/-- A schedule table that lies wholly within CONST (R169). -/
def scheduleOk (g : Prog) (off : Nat) : Bool :=
  let size := fieldOf g.image 44 4
  off % 8 == 0 && off + 16 ≤ size && 1 ≤ g.constAt (off + 4) 4 && g.constAt (off + 4) 4 ≤ 1048576
    && off + 16 + 8 * g.constAt (off + 4) 4 ≤ size

/-- COLL tensors by operation (R346, R349): formats of source and destination. -/
def collFormats (op s d : Nat) : Bool :=
  match op with
  | 0 => s == 8 && d == 0x0B
  | 1 => s == d && (s == 3 || s == 2 || s == 4)
  | 2 => s == d && (s == 3 || s == 2 || s == 0x0A)
  | 3 => s == d
  | 4 => s == d && (s == 3 || s == 2 || s == 4)
  | 5 => s == d
  | _ => false

/-- The format code of a record field IN_FMT (R186): as FIN of VOP. -/
def inFormat (f : Nat) : Nat := if f = 0 then 1 else if f = 1 then 2 else if f = 2 then 3 else 4

/-- The operand checks of R146 and R149 to R169 on one instruction, with the table context in effect: false gives code
0x0313. `row` is the format of the row operand that a stage receives into bank A (R190). A SEGMENT_REDUCE that takes its
emax from XDESC needs one (R166; DEDUCED, log entry 60). -/
def instrOk (g : Prog) (row : Option Nat) (tab : Option TableF) (t : Tynte) : Bool :=
  match t with
  | .load f => named g f.desc && granOk f.gran false
  | .store f => named g f.desc && canWrite g f.desc && granOk f.gran false
  | .prefetch f => named g f.desc
  | .tableSetup f => namedOrNull g f.adesc && namedOrNull g f.wdesc && namedOrNull g f.sdesc
  | .codebookSet f =>
    tensorIs g f.desc (fun d => d.coded && d.writable) && f.constOff + 32 ≤ fieldOf g.image 44 4
      && (codebookOf (sliceOf g.image (fieldOf g.image 40 4 + f.constOff) 32)).isSome
  | .opb f =>
    (match (if f.adesc = 0xFFF then row else (g.desc f.adesc).map TDesc.format), g.desc f.bdesc with
      | some a, some b => pathFormats f.path a b && pathWidth f.path f.width b
          && (f.path != 3 || (b.dim 0 % 32 == 0 && (isStream 32 f.bcol || f.bcol % 32 == 0)))
      | _, _ => false)
      && 1 ≤ f.blocks && f.blocks ≤ 32 && (f.holdT == 0 || (2 ≤ f.holdT && f.holdT ≤ 64))
      && !(f.tile && (f.path == 3 || f.holdT != 0)) && tableOk g f.path tab
  | .drain f =>
    f.dest ≤ 2 && !(f.stats && f.dest == 2) && !(f.tile && f.dest == 0)
      && (if f.dest == 0 then granOk f.xbase false else f.xbase == 2047)
      && (f.format != 0 || tensorIs g f.outDesc scaled8)
      && (if f.dest == 2 then canWrite g f.outDesc else namedOrNull g f.outDesc)
  | .vop f =>
    f.op ≤ 0x16 && 1 ≤ f.vectors && f.vectors ≤ 4096 && granOk f.dst true && granOk f.src1 true && granOk f.src2 true
      && granOk f.src3 true && namedOrNull g f.sdesc
      && (f.sStream || f.src1 != 2047)
      && (!(f.op == 3 || f.op == 0x0A || f.op == 0x15) || f.src3 != 2047)
      && (f.op == 0x15 || f.dStream || f.dst != 2047)
      && (f.fout != 0 || f.op == 0x14 || f.op == 0x16 || tensorIs g f.sdesc scaled8)
  | .reduce f =>
    f.op ≤ 10 && f.mode ≤ 2 && granOk f.src true && granOk f.dst true && (f.sStream || f.src != 2047)
      && (f.dStream || f.dst != 2047)
      && (if f.op == 7 || f.op == 8 then 1 ≤ f.k && f.k ≤ 64 else f.k == 0)
      && (if f.op == 9 then tensorIs g f.xdesc fun d => d.format == 4 && d.writable
          else f.xdesc == 0xFFF || tensorIs g f.xdesc fun d => d.format == 4)
  | .indexStream f => tensorIs g f.idesc fun d => d.format == 4
  | .gather f => named g f.tdesc && granOk f.dst false
  | .scatterAdd f => canWrite g f.tdesc && granOk f.src false && -149 ≤ f.anchor && f.anchor ≤ 127
  | .anchorRead f => (tensorIs g f.tdesc fun d => d.format == 9) && granOk f.dst false && -149 ≤ f.anchor && f.anchor ≤ 127
  | .segmentReduce f =>
    f.op ≤ 6 && granOk f.src false && granOk f.dst (f.op == 6) && 1 ≤ f.rowlen && f.rowlen ≤ 1024
      && (if f.op == 6 then tensorIs g f.xdesc fun d => d.format == 4 && d.writable
          else if f.part && (f.op == 1 || f.op == 5) then tensorIs g f.xdesc fun d => d.format == 4
          else f.xdesc == 0xFFF || tensorIs g f.xdesc fun d => d.format == 4)
  | .quantCodes f => (tensorIs g f.src fun d => d.format == 3) && tensorIs g f.dst fun d => d.coded && d.writable
  | .coll f =>
    f.op ≤ 5 && f.length != 0 && (f.ddesc == 0xFFF || canWrite g f.ddesc)
      && (match g.desc f.sdesc, g.desc f.ddesc with
        | some a, some b => collFormats f.op a.format b.format
        | some _, none => f.op == 5 && f.ddesc == 0xFFF
        | none, some _ => f.op == 5 && f.sdesc == 0xFFF
        | none, none => f.op == 5 && f.sdesc == 0xFFF && f.ddesc == 0xFFF)
  | .update f => named g f.vdesc && (tensorIs g f.wdesc fun d => d.coded && d.versioned) && scheduleOk g f.sched
  | .loop _ => true
  | .nop => true
  | .endI => true
  | .endloop => true
  | .stream _ => true
  | .signal _ => true
  | .wait _ _ => true
  | .barrier => true
  | .mbBegin _ _ => true
  | .mbEnd _ _ => true
  | .stepEnd _ => true
  | .caravan _ => true

/-! ### Control structure, static bounds, synchronization (step 5 of R175) -/

/-- The words of virtual core v's code. -/
def codeWords (g : Prog) (v : Nat) : List Nat :=
  let off := fieldOf g.image (g.codeOff + 8 * v) 4
  let len := fieldOf g.image (g.codeOff + 8 * v + 4) 3
  (List.range (len / 8)).map fun i => fieldOf g.image (g.codeOff + off + 8 * i) 8

/-- Every instruction from a word on, with its word index; none where one does not decode. The fuel is the number of
words. -/
def decodeAll : Nat → Nat → List Nat → Option (List (Nat × Tynte × Pred × Nat))
  | 0, _, [] => some []
  | 0, _, _ => none
  | k + 1, i, ws =>
    match ws with
    | [] => some []
    | _ =>
      match decodeTynte ws with
      | none => none
      | some (t, p, n) =>
        match decodeAll k (i + n) (ws.drop n) with
        | some r => some ((i, t, p, n) :: r)
        | none => none

/-- The word at which the first instruction stands that does not decode. -/
def badWord : Nat → Nat → List Nat → Nat
  | 0, i, _ => i
  | k + 1, i, ws =>
    match decodeTynte ws with
    | none => i
    | some (_, _, n) => badWord k (i + n) (ws.drop n)

/-- What the checks of instructions carry from one to the next: the table context (R157), and the tiles used so far (R160). -/
structure Lin where
  tab : Option TableF
  big : Bool
  small : Bool
deriving DecidableEq, Repr

/-- An OPB or DRAIN of a tile and a slot is seen. -/
def Lin.see (l : Lin) (tile : Bool) (slot : Nat) : Lin :=
  { l with big := l.big || tile, small := l.small || !tile || slot != 0 }

/-- The stream fields of an instruction: (width, value). -/
def streamFields (t : Tynte) : List (Nat × Nat) :=
  let gr := fun (f : Nat) => if 2040 ≤ f ∧ f ≤ 2043 then [(32, 2 ^ 32 - 4 + (f - 2040))] else []
  match t with
  | .load f => (32, f.off) :: gr f.gran
  | .store f => (32, f.off) :: gr f.gran
  | .prefetch f => [(32, f.off)]
  | .opb f => [(32, f.bcol), (32, f.arow), (16, f.kb0), (32, f.high)]
  | .drain f => [(32, f.ocol), (32, f.orow), (32, f.high)] ++ gr f.xbase
  | .vop f => gr f.dst ++ gr f.src1 ++ gr f.src2 ++ gr f.src3
  | .reduce f => (32, f.pos0) :: (gr f.src ++ gr f.dst)
  | .indexStream f => [(32, f.first)]
  | .gather f => gr f.dst
  | .scatterAdd f => gr f.src
  | .anchorRead f => (32, f.row0) :: gr f.dst
  | .segmentReduce f => [(32, f.first), (32, f.last)] ++ gr f.src ++ gr f.dst
  | .quantCodes f => [(32, f.kb0)]
  | .mbBegin a b => [(32, a), (32, b)]
  | .mbEnd a b => [(32, a), (32, b)]
  | .stepEnd a => [(32, a)]
  | .coll f => [(32, f.doff), (32, f.soff)]
  | .caravan f => [(32, f.param)]
  | .update f => [(32, f.step)]
  | _ => []

/-- The streams an instruction uses. -/
def streamsUsed (t : Tynte) : List Nat :=
  (streamFields t).filterMap fun f => if isStream f.1 f.2 then some (f.2 - (2 ^ f.1 - 4)) else none

/-- Instructions that take no predicate (R149). -/
def unpredicated (t : Tynte) : Bool :=
  match t with
  | .loop _ => true
  | .endloop => true
  | .stream _ => true
  | .endI => true
  | .barrier => true
  | _ => false

/-- The counts of a LOOP (R154). -/
def loopOk (f : LoopF) : Bool :=
  (List.range 4).all fun i => ([f.count0, f.count1, f.count2, f.count3].getD i 0 != 0) == decide (i ≤ f.nlev)

/-- Where a list of instructions stands: in a virtual core's code, or in a stage body whose input of the given format goes
to bank A. In a body the tile counter is loop level 3 (R188). -/
inductive Where_
  | code
  | body (row : Option Nat)
deriving DecidableEq, Repr

/-- The predicate is one that R149 allows. -/
def predOk (wh : Where_) (loop : Option (Nat × Nat)) (t : Tynte) (p : Pred) : Bool :=
  !p.pen || (!unpredicated t && p.pcond < 6 && ((wh != .code && p.plev == 3) || (match loop with
    | none => false
    | some (nl, _) => p.plev ≤ nl)))

/-- ACC_SHIFT is 0, or a pass that follows uses the integer code path (R157). -/
def shiftOk (f : TableF) (r : List (Nat × Tynte × Pred × Nat)) : Bool :=
  f.accShift == 0 || (r.takeWhile fun x => match x.2.1 with
    | .tableSetup _ => false
    | _ => true).any fun x => match x.2.1 with
      | .opb o => o.path ≤ 1
      | _ => false

/-- The checks of every instruction of one virtual core or one body (R148 to R169): the code of the first breach and its word.
`row` is the format of the row operand that a stage receives into bank A. -/
def instrCheck (g : Prog) (row : Option Nat) : Lin → List (Nat × Tynte × Pred × Nat) → Nat × Nat
  | _, [] => (0, 0)
  | l, (i, t, _, _) :: r =>
    let noRow := match t with
      | .opb f => f.adesc == 0xFFF && row.isNone
      | _ => false
    if noRow then (0x0410, i)
    else if !instrOk g row l.tab t then (0x0313, i)
    else
      match t with
      | .tableSetup f => if shiftOk f r then instrCheck g row { l with tab := some f } r else (0x0313, i)
      | .opb f =>
        let l := l.see f.tile f.slot
        if l.big && l.small then (0x0313, i) else instrCheck g row l r
      | .drain f =>
        let l := l.see f.tile f.slot
        if l.big && l.small then (0x0313, i) else instrCheck g row l r
      | _ => instrCheck g row l r

/-- Loops and predicates (R149, R154): the word of the first breach. The state is the open loop's NLEV and its first body
word. -/
def loopCheck (wh : Where_) : Option (Nat × Nat) → List (Nat × Tynte × Pred × Nat) → Option Nat
  | none, [] => none
  | some (_, b), [] => some (b - 2)
  | l, (i, t, p, n) :: r =>
    if !predOk wh l t p then some i
    else
      match t with
      | .loop f => if l.isSome || !loopOk f then some i else loopCheck wh (some (f.nlev, i + n)) r
      | .endloop =>
        match l with
        | none => some i
        | some (_, b) => if 1024 < i - b then some i else loopCheck wh none r
      | .stream _ => if l.isSome then some i else loopCheck wh l r
      | .barrier => if l.isSome then some i else loopCheck wh l r
      | .endI => if l.isSome then some i else loopCheck wh l r
      | _ => loopCheck wh l r

/-- The first use of a stream that is not defined at that point, up to END (R154). -/
def streamCheck : List Nat → List (Nat × Tynte × Pred × Nat) → Option Nat
  | _, [] => none
  | ss, (i, t, _, _) :: r =>
    if (streamsUsed t).any fun x => !ss.contains x then some i
    else
      match t with
      | .stream f => streamCheck (f.s :: ss) r
      | .endI => none
      | _ => streamCheck ss r

/-- The instructions from a start word up to END. -/
def fromStart (w : Nat) (is : List (Nat × Tynte × Pred × Nat)) : List (Nat × Tynte × Pred × Nat) :=
  let r := is.dropWhile fun x => x.1 != w
  r.take ((r.findIdx fun x => x.2.1 == .endI) + 1)

/-- R154 on the code that runs from a start word: it begins at an instruction, outside every loop body, uses no stream before
its definition there, and reaches END. The word of the first breach. -/
def startCheck (w : Nat) (is : List (Nat × Tynte × Pred × Nat)) : Option Nat :=
  let r := fromStart w is
  if !r.any fun x => x.2.1 == .endI then some w
  else match loopCheck .code none r with
    | some i => some i
    | none => streamCheck [] r

/-- The LINEAR or ROWS range of a LOAD or STORE lies inside the tensor (R155). -/
def moveInside (d : TDesc) (rows : Bool) (off count : Nat) : Bool :=
  if rows then off + count ≤ d.dim 1 else (off + count) * 64 ≤ roundUp (d.limit - d.base) 64

/-- Static bounds seen from immediate fields (R155): false gives 0x0317. -/
def staticOk (g : Prog) (t : Tynte) : Bool :=
  let chk := fun (f : MoveF) => isStream 32 f.off || tensorIs g f.desc fun d => moveInside d f.rows f.off f.count
  match t with
  | .load f => chk f
  | .store f => chk f
  | _ => true

/-- The iterations of a loop of the given counts in which a predicate holds, among the first m. -/
def holdsCount (counts : List Nat) (p : Pred) (m : Nat) : Nat :=
  ((List.range m).filter fun k =>
    let below := (counts.take p.plev).foldl (· * ·) 1
    let i := k / below % counts.getD p.plev 1
    predHolds { VC.empty with loopc := some ⟨counts, List.replicate p.plev 0 ++ [i]⟩ } p).length

/-- The first iteration in which a predicate holds. -/
def firstHold (counts : List Nat) (p : Pred) (m : Nat) : Option Nat :=
  (List.range m).find? fun k => holdsCount counts p (k + 1) == 1

/-- One instruction as the static counts see it: its phase, how often it runs, the loop it stands in (an id, 0 outside)
with the loop's counts. -/
structure Run where
  t : Tynte
  p : Pred
  phase : Nat
  loopId : Nat
  counts : List Nat
  pos : Nat
deriving DecidableEq, Repr

/-- Iterations of a run's loop; 1 outside a loop. -/
def Run.iters (x : Run) : Nat := x.counts.foldl (· * ·) 1

/-- How often a run is executed. -/
def Run.times (x : Run) : Nat := if x.p.pen then holdsCount x.counts x.p x.iters else x.iters

/-- A run of a loop body is executed in iteration k of its loop. -/
def holdsAt (x : Run) (k : Nat) : Bool :=
  let c0 := x.counts.getD 0 1
  let c1 := x.counts.getD 1 1
  let c2 := x.counts.getD 2 1
  predHolds { VC.empty with loopc := some ⟨x.counts, [k % c0, k / c0 % c1, k / c0 / c1 % c2, k / c0 / c1 / c2]⟩ } x.p

/-- The instructions from a start word to END, in program order (R154), with the phases that BARRIERs begin (R136); none where
END is not reached. -/
def walk : Nat → Nat → List Nat → Nat → List (Nat × Tynte × Pred × Nat) → Option (List Run)
  | _, _, _, _, [] => none
  | ph, lid, cs, pos, (_, t, p, _) :: r =>
    let here : Run := ⟨t, p, ph, lid, cs, pos⟩
    match t with
    | .endI => some [here]
    | .loop f => (walk ph (pos + 1) ([f.count0, f.count1, f.count2, f.count3].take (f.nlev + 1)) (pos + 1) r).map (here :: ·)
    | .endloop => (walk ph 0 [] (pos + 1) r).map (here :: ·)
    | .barrier => (walk (ph + 1) lid cs (pos + 1) r).map (here :: ·)
    | _ => (walk ph lid cs (pos + 1) r).map (here :: ·)

/-- A STEP_END, or a BARRIER: it ends a phase for R172 and R173 (R236). -/
def endsPhase (t : Tynte) : Bool :=
  match t with
  | .barrier => true
  | .stepEnd _ => true
  | _ => false

/-- The runs with every loop that holds a STEP_END written out, iteration by iteration: each of its rounds has phases of its
own. -/
def unrolled (rs : List Run) : List Run :=
  let phased := fun (id : Nat) => id != 0 && rs.any fun y => y.loopId == id && endsPhase y.t
  rs.flatMap fun x =>
    match x.t with
    | .loop _ =>
      let body := rs.filter fun y => y.loopId == x.pos + 1
      if phased (x.pos + 1) then
        (List.range ((body.head?.map Run.iters).getD 0)).flatMap fun k =>
          (body.filter fun y => holdsAt y k).map fun y => { y with p := ⟨false, 0, 0⟩, loopId := 0, counts := [] }
      else [x]
    | _ => if phased x.loopId then [] else [x]

/-- The runs with the phases that R172 and R173 count, and their places in the order. -/
def phasedRuns (rs : List Run) : List Run :=
  let us := unrolled rs
  us.zipIdx.map fun (x, i) => { x with pos := i, phase := ((us.take i).filter fun y => endsPhase y.t && y.times != 0).length }

/-- The instruction counts as a SIGNAL on a token (R173, R348). -/
def signalsOn (tok : Nat) (t : Tynte) : Bool :=
  match t with
  | .signal k => k == tok
  | .coll f => f.sigEn && f.token == tok
  | _ => false

/-- The SIGNALs on a token among runs that meet a test. -/
def signals (tok : Nat) (test : Run → Bool) (rs : List Run) : Nat :=
  ((rs.filter fun x => signalsOn tok x.t && test x).map Run.times).foldl (· + ·) 0

/-- SIGNALs of its own program that precede the first execution of a WAIT (R173). -/
def ownBefore (rs : List Run) (w : Run) (tok : Nat) : Nat :=
  let outside := signals tok (fun x => x.pos < w.pos && (x.loopId != w.loopId || w.loopId == 0)) rs
  match (if w.p.pen then firstHold w.counts w.p w.iters else some 0) with
  | none => 2 ^ 32
  | some k0 =>
    if w.loopId = 0 then outside
    else
      outside + ((rs.filter fun x => signalsOn tok x.t && x.loopId == w.loopId).map fun x =>
        let m := if x.pos < w.pos then k0 + 1 else k0
        if x.p.pen then holdsCount x.counts x.p m else m).foldl (· + ·) 0

/-- The WAITs of one entry are all covered (R173) and every virtual core passes the same number of BARRIERs (R172):
`progs` lists (virtual core, its runs). -/
def syncOk (progs : List (Nat × List Run)) : Bool :=
  let bars := progs.map fun x => ((x.2.filter fun r => endsPhase r.t).map Run.times).foldl (· + ·) 0
  bars.all (· == bars.headD 0) &&
  progs.all fun (v, rs) => rs.all fun w =>
    match w.t with
    | .wait tok val =>
      let earlier := ((progs.filter fun y => y.1 != v).map fun y => signals tok (fun x => x.phase < w.phase) y.2).foldl (· + ·) 0
      let below := ((progs.filter fun y => y.1 < v).map fun y => signals tok (fun x => x.phase == w.phase) y.2).foldl (· + ·) 0
      val ≤ earlier + below + ownBefore rs w tok
    | _ => true

/-- Index entries that one execution of an instruction feeds, and that it consumes (R174). -/
def indexFlow (t : Tynte) : Nat × Nat :=
  match t with
  | .indexStream f => (f.count, 0)
  | .gather f => (0, f.count)
  | .scatterAdd f => (0, f.count)
  | .segmentReduce f => (0, f.rows)
  | _ => (0, 0)

/-- A section of the header: (offset, size). -/
def sectionOf (g : Prog) (i : Nat) : Nat × Nat := (fieldOf g.image (24 + 8 * i) 4, fieldOf g.image (28 + 8 * i) 4)

/-- Header and sections of a Tynte module (R139, R140). A virtual-core table that reaches beyond the CODE section, an offset
or a length of code that is no multiple of 8 or lies outside it, and a reserved byte that is not 0 are breaches too: the rule
gives no code for them (DESIGN CHOICE, log entry 60). -/
def headerOk (g : Prog) (size : Nat) : Bool :=
  let im := g.image
  let secs := (List.range 4).map (sectionOf g)
  let vt := 8 * g.vcores + 4 * g.entries * g.vcores
  fieldOf im 0 4 == 0x544E5954 && fieldOf im 4 2 == 0x0100 && fieldOf im 6 2 == 128
    && fieldOf im 8 4 == size && size % 64 == 0 && 128 ≤ size && size ≤ 67108864
    && 1 ≤ g.vcores && g.vcores ≤ 128 && 1 ≤ g.minCores && g.minCores ≤ g.vcores
    && 1 ≤ g.entries && g.entries ≤ 64 && fieldOf im 17 1 == 0 && fieldOf im 18 2 ≤ 4095 && fieldOf im 20 4 == 0
    && fieldOf im 56 8 == 0 && (sectionOf g 1).2 == 64 * fieldOf im 18 2
    && (secs.all fun x => x.2 == 0 || (x.1 % 64 == 0 && 128 ≤ x.1 && x.1 + x.2 ≤ size))
    && (secs.zipIdx.all fun (x, i) => secs.zipIdx.all fun (y, j) =>
      i == j || x.2 == 0 || y.2 == 0 || x.1 + x.2 ≤ y.1 || y.1 + y.2 ≤ x.1)
    && (sectionOf g 0).2 != 0 && vt ≤ (sectionOf g 0).2
    && ((List.range g.vcores).all fun v =>
      let o := fieldOf im (g.codeOff + 8 * v) 4
      let n := fieldOf im (g.codeOff + 8 * v + 4) 3
      o % 8 == 0 && n % 8 == 0 && o + n ≤ (sectionOf g 0).2 && fieldOf im (g.codeOff + 8 * v + 7) 1 == 0)

/-- The result of the checks of steps 4 and 5: code 0, or a code with the virtual core and the word of the breach. -/
abbrev Check := Nat × Nat × Nat

/-- The first check that fails. -/
def firstFail : List Check → Check
  | [] => (0, 0, 0)
  | c :: r => if c.1 = 0 then firstFail r else c

/-- The descriptors meet R144 and R222. -/
def descsOk (g : Prog) (cap : Nat) : Bool :=
  (List.range (fieldOf g.image (if g.isNative then 24 else 18) 2)).all fun i => tensorIs g i fun d =>
    d.ok cap && (!d.frozen || (!d.versioned && !d.writable))

/-- An INT8 tensor that is a quantization destination has a scale record (R144, R161): false gives code 0x0312. A destination
that is no INT8 tensor is an operand's fault, not a descriptor's. -/
def int8DestOk (g : Prog) (is : List (Nat × Tynte × Pred × Nat)) : Bool :=
  let ok := fun (i : Nat) => match g.desc i with
    | some d => d.format != 1 || d.scaleRef != 0xFFFF
    | none => true
  is.all fun x => match x.2.1 with
    | .drain f => f.format != 0 || ok f.outDesc
    | .vop f => f.fout != 0 || f.op == 0x14 || f.op == 0x16 || ok f.sdesc
    | _ => true

/-- The instructions of virtual core v; nothing where a word does not decode. -/
def codeOf (g : Prog) (v : Nat) : List (Nat × Tynte × Pred × Nat) :=
  (decodeAll (codeWords g v).length 0 (codeWords g v)).getD []

/-- For every entry, the virtual cores that run in it with their instructions from the entry's start to END. -/
def entryRuns (g : Prog) : List (List (Nat × List Run)) :=
  (List.range g.entries).map fun e => (g.activeIn e).filterMap fun v =>
    (walk 0 0 [] 0 ((codeOf g v).dropWhile fun x => x.1 != g.start e v)).map fun r => (v, r)

/-- A check of every virtual core's code: the code and word of each breach. -/
def coresCheck (g : Prog) (f : Nat → List (Nat × Tynte × Pred × Nat) → Nat × Nat) : List Check :=
  (List.range g.vcores).map fun v => let (c, w) := f v (codeOf g v); (c, v, w)

/-- A breach of a rule at a word, as a code and the word. -/
def breach (code : Nat) : Option Nat → Nat × Nat
  | some w => (code, w)
  | none => (0, 0)

/-- Step 4 of R175 on the virtual cores' code: every word decodes (R148). -/
def wordsCheck (g : Prog) : List Check :=
  (List.range g.vcores).map fun v => match decodeAll (codeWords g v).length 0 (codeWords g v) with
    | none => (0x0313, v, badWord (codeWords g v).length 0 (codeWords g v))
    | some _ => (0, 0, 0)

/-- The first instruction whose range is seen to lie outside its tensor (R155). -/
def boundCheck (g : Prog) (is : List (Nat × Tynte × Pred × Nat)) : Option Nat :=
  (is.find? fun x => !staticOk g x.2.1).map (·.1)

/-- Step 5 of R175 on the virtual cores' code, but for index balance: control structure, static bounds, code size,
synchronization. -/
def flowCheck (g : Prog) : List Check :=
  coresCheck g (fun _ is => breach 0x0314 (loopCheck .code none is))
    ++ coresCheck g (fun v is => breach 0x0314 (((List.range g.entries).filter fun e => g.start e v != 0xFFFFFFFF).findSome?
      fun e => startCheck (g.start e v) is))
    ++ coresCheck g (fun _ is => breach 0x0317 (boundCheck g is))
    ++ (List.range g.vcores).map (fun v => if 32768 < fieldOf g.image (g.codeOff + 8 * v + 4) 3 then (0x0318, v, 0) else (0, 0, 0))
    ++ (entryRuns g).map fun rs => if syncOk (rs.map fun x => (x.1, phasedRuns x.2)) then (0, 0, 0) else (0x0315, 0, 0)

/-! ### Placement (R134, R135) -/

/-- Virtual core v is gang-eligible: an OPB of it uses a 512 × 512 tile. -/
def gangEligible (g : Prog) (v : Nat) : Bool :=
  if g.isNative then v < fieldOf g.image 14 1
  else match decodeAll (codeWords g v).length 0 (codeWords g v) with
    | none => false
    | some is => is.any fun x => match x.2.1 with
      | .opb f => f.tile
      | _ => false

/-- The complete gangs of a list of Live cores: the lead cores 4g, ascending. -/
def gangsOf (live : List Nat) : List Nat :=
  ((List.range 32).map (4 * ·)).filter fun c => [c, c + 1, c + 2, c + 3].all fun x => live.contains x

/-- Placement of n virtual cores, of which `elig` are gang-eligible, on the Live cores (R134). -/
def placeOn (n : Nat) (elig : Nat → Bool) (live : List Nat) : List (Nat × Bool) :=
  let el := (List.range n).filter elig
  let taken := el.zip (gangsOf live)
  let leads := taken.map (·.2)
  let rest := live.filter fun c => !leads.contains (c / 4 * 4)
  let base := if rest.isEmpty then leads else rest
  let others := (List.range n).filter fun v => !(taken.any fun x => x.1 == v)
  (List.range n).map fun v =>
    match taken.find? fun x => x.1 == v with
    | some x => (x.2, true)
    | none => (base.getD (others.idxOf v % base.length) 0, false)

end Sys2Proof.Machine
end

