-- ==== Sys2Proof/Machine/Ripple.lean ====
section
/-!
DEFINITION. The digest XD128 (R265), the step generator (R241), the Ripple record (R240, R242) and how a replay goes from
command to command (R244).
-/

namespace Sys2Proof.Machine

/-! ### XD128 (R265) -/

/-- The modulus 2^127 − 1. -/
def xdPrime : Nat := 2 ^ 127 - 1

/-- The 64-bit words of a byte string, the last padded with zero bytes. The fuel is the number of bytes. -/
def words64 : Nat → List Byte → List Nat
  | 0, _ => []
  | _, [] => []
  | f + 1, bs => leNat (bs.take 8) :: words64 f (bs.drop 8)

/-- XD128 under a 128-bit key. -/
def xd128 (key : Nat) (bs : List Byte) : Nat :=
  let r0 := key % xdPrime
  let r := if r0 < 2 then 2 else r0
  let h := (words64 bs.length bs).foldl (fun h m => (h + m + 2 ^ 64) * r % xdPrime) 0
  (h + bs.length) * r % xdPrime

/-! ### The step generator (R241): Philox4x32-10 -/

/-- One round (PRESUMED: the constants and the round of the published generator, which the spec names; log entry 9). -/
def philoxRound (k0 k1 : Nat) (x : Nat × Nat × Nat × Nat) : Nat × Nat × Nat × Nat :=
  let (a, b, c, d) := x
  let m := 0xD2511F53 * a
  let n := 0xCD9E8D57 * c
  ((n / 2 ^ 32 ^^^ b ^^^ k0) % 2 ^ 32, n % 2 ^ 32, (m / 2 ^ 32 ^^^ d ^^^ k1) % 2 ^ 32, m % 2 ^ 32)

/-- `n` rounds, the key growing from round to round. -/
def philoxRounds : Nat → Nat → Nat → Nat × Nat × Nat × Nat → Nat × Nat × Nat × Nat
  | 0, _, _, x => x
  | n + 1, k0, k1, x =>
    philoxRounds n ((k0 + 0x9E3779B9) % 2 ^ 32) ((k1 + 0xBB67AE85) % 2 ^ 32) (philoxRound k0 k1 x)

/-- The 128-bit block of a 64-bit key and a 128-bit counter. -/
def philox (key ctr : Nat) : Nat :=
  let (a, b, c, d) := philoxRounds 10 (key % 2 ^ 32) (key / 2 ^ 32 % 2 ^ 32)
    (ctr % 2 ^ 32, ctr / 2 ^ 32 % 2 ^ 32, ctr / 2 ^ 64 % 2 ^ 32, ctr / 2 ^ 96 % 2 ^ 32)
  a + 2 ^ 32 * b + 2 ^ 64 * c + 2 ^ 96 * d

/-- The training flow of partition p. -/
def State.tr (s : State) (p : Nat) : TrainCtx := SMap.get TrainCtx.empty s.train p
def State.setTr (s : State) (p : Nat) (t : TrainCtx) : State := { s with train := SMap.set TrainCtx.empty s.train p t }

/-- A draw of partition p's step generator advances its counter (R241). -/
def drawKey (s : State) (p : Nat) : Nat × State :=
  let t := s.tr p
  (philox (s.get (Reg.SYN_SEED_KEY_KEY p)) t.counter, s.setTr p { t with counter := (t.counter + 1) % 2 ^ 128 })

/-! ### Digest tiles (R242) -/

/-- Digests are taken: a step record is open, or a replay runs. -/
def digesting (s : State) (p : Nat) : Bool := (s.tr p).ripple.isSome || (s.tr p).replay.isSome

/-- Bytes added to a digest entry under an instruction's key. -/
def addTile (ds : List DigestEntry) (seq v c key : Nat) (bs : List Byte) : List DigestEntry :=
  if ds.any fun d => d.seq == seq && d.vcore == v then
    ds.map fun d => if d.seq == seq && d.vcore == v then
      { d with tiles := SMap.set [] d.tiles key (SMap.get [] d.tiles key ++ bs) } else d
  else ds ++ [⟨seq, v, c, SMap.set [] [] key bs⟩]

/-- A digest tile of part q of instruction iid of virtual core v, which runs on core c for command seq. -/
def digestTile (s : State) (p v c seq iid q : Nat) (bs : List Byte) : State :=
  let t := s.tr p
  let key := iid * 4 + q
  match t.replay, t.ripple with
  | some r, _ => s.setTr p { t with replay := some { r with digests := addTile r.digests seq v c key bs } }
  | none, some r => s.setTr p { t with ripple := some { r with digests := addTile r.digests seq v c key bs } }
  | none, none => s

/-- The tiles of an entry, one per instruction, in program order. The fuel is the number of parts. -/
def tilesOf : Nat → SMap (List Byte) → List (List Byte)
  | 0, _ => []
  | _, [] => []
  | f + 1, (k, b) :: m =>
    match m with
    | (j, c) :: r => if j / 4 = k / 4 then tilesOf f ((j, b ++ c) :: r) else b :: tilesOf f m
    | [] => [b]
def DigestEntry.list (d : DigestEntry) : List (List Byte) := tilesOf d.tiles.length d.tiles

/-- The 16-byte digest and the tile checks of an entry. -/
def DigestEntry.digest (d : DigestEntry) (key : Nat) : Nat := xd128 key d.list.flatten
def DigestEntry.checks (d : DigestEntry) (key : Nat) : List Nat := d.list.map fun b => xd128 key b % 2 ^ 32

/-! ### Step records in memory (R240) -/

/-- Zero bytes up to a multiple of 64. -/
def padTo64 (bs : List Byte) : List Byte := bs ++ List.replicate (roundUp bs.length 64 - bs.length) 0

/-- The six sections of a step record, each padded to 64 bytes (the placing of fields inside an entry is a DESIGN CHOICE,
log entry 10; so is the key under which the XD128 of a FABRIC entry is taken, which the rule does not name: the step's digest
key, log entry 61). -/
def StepRec.sections (r : StepRec) : List (List Byte) :=
  [ leBytes 8 r.key ++ leBytes 16 r.counter,
    r.scales,
    r.versions.flatMap fun (m, t, i, sl, tag) => leBytes 4 m ++ leBytes 4 t ++ leBytes 2 i ++ leBytes 2 sl ++ leBytes 4 tag,
    r.order.flatMap fun (seq, q, b, raw) =>
      leBytes 4 seq ++ leBytes 2 q ++ leBytes 1 b ++ List.replicate 57 0 ++ raw,
    r.fabric.flatMap fun f =>
      padTo64 (leBytes 2 f.flow ++ leBytes 2 0 ++ leBytes 4 f.psn ++ leBytes 4 f.seq ++ leBytes 4 f.data.length
        ++ leBytes 16 (xd128 r.digestKey f.data)) ++ padTo64 f.data,
    r.digests.flatMap fun d =>
      leBytes 4 d.seq ++ leBytes 1 d.vcore ++ leBytes 1 d.core ++ leBytes 2 0 ++ leBytes 4 d.list.length ++ leBytes 4 0
        ++ leBytes 16 (d.digest r.digestKey) ++ (d.checks r.digestKey).flatMap (leBytes 4) ].map padTo64

/-- The offsets and sizes of the sections, in 64-byte units from the header. -/
def sectionTable : Nat → List (List Byte) → List Byte
  | _, [] => []
  | at_, b :: r => leBytes 4 at_ ++ leBytes 4 (b.length / 64) ++ sectionTable (at_ + b.length / 64) r

/-- The bytes of a step record. What a record that overflowed leaves is not in the rule: its header alone, with a section table
of zeros (DESIGN CHOICE, log entry 61). -/
def StepRec.bytes (r : StepRec) : List Byte :=
  let secs := r.sections
  let body := if r.overflow then [] else secs.flatten
  leBytes 4 r.step ++ leBytes 1 (r.complete.toNat + 2 * r.overflow.toNat) ++ leBytes 3 0 ++ leBytes 4 ((128 + body.length) / 64)
    ++ leBytes 4 r.order.length ++ (if r.overflow then List.replicate 48 0 else sectionTable 2 secs)
    ++ List.replicate 64 0 ++ body

/-- A command accepted while the step's record is open (R240 ORDER). -/
def recordOrder (s : State) (p seq q b : Nat) (raw : List Byte) : State :=
  let t := s.tr p
  match t.ripple with
  | some r => s.setTr p { t with ripple := some { r with order := r.order ++ [(seq, q, b, raw)] } }
  | none => s

/-- A transfer received on the fabric (R240 FABRIC). -/
def recordFabric (s : State) (p : Nat) (f : FabEntry) : State :=
  let t := s.tr p
  match t.ripple with
  | some r => s.setTr p { t with ripple := some { r with fabric := r.fabric ++ [f] } }
  | none => s

/-- A binding made (R240 VERSIONS). -/
def recordBinding (s : State) (p : Nat) (x : Nat × Nat × Nat × Nat × Nat) : State :=
  let t := s.tr p
  match t.ripple with
  | some r => s.setTr p { t with ripple := some { r with versions := r.versions ++ [x] } }
  | none => s

/-! ### Replay (R244) -/

/-- The queue number under which replayed commands run: they have no completion record. -/
def replayQueue : Nat := 65536

/-- An accepted command from its 64 bytes (R318). -/
def cmdFrom (q : Nat) (b : Port) (raw : List Byte) : Cmd :=
  { phase := .accepted, queue := q, port := b, cid := fieldOf raw 4 4, op := fieldOf raw 0 1,
    fence := fieldOf raw 1 1 % 2 == 1, prio := bitsOf (fieldOf raw 1 1) 2 2, raw := raw, left := 0, moved := 0, discarded := 0 }

/-- The replay ends: SYN_STEP returns, and the result shows `st`. -/
def endReplay (s : State) (p : Nat) (r : Replay) (st : Nat) : State :=
  let s := s.setTr p { s.tr p with replay := none }
  (s.put (Reg.SYN_STEP_STEP p) r.stepBefore).put (Reg.SYN_REPLAY_RESULT_STATE p) st

/-- The command at the replay's index is accepted under the replay's queue; after the last the replay has matched. -/
def startReplayed (s : State) (p : Nat) (r : Replay) : State :=
  match r.record.order[r.index]? with
  | some (seq, _, b, raw) =>
    let c := { cmdFrom replayQueue (Port.ofBit b) raw with fence := false }
    let s := s.setTr p { s.tr p with replay := some r }
    { s with cmds := SMap.set Cmd.empty s.cmds (p * 2 ^ 32 + seq) c }
  | none => endReplay s p r 2

/-- The first difference of two entries: the tile. Tiles that one side lacks differ. -/
def firstTile (key : Nat) (a b : DigestEntry) : Option Nat :=
  let x := a.checks key
  let y := b.checks key
  match (List.range (max x.length y.length)).find? fun i => x[i]? != y[i]? with
  | some i => some i
  | none => if a.digest key != b.digest key then some 0 else none

/-- The first difference of a command: virtual core, tile, physical core in the record and now. -/
def firstDiff (key seq : Nat) (was now : List DigestEntry) : Option (Nat × Nat × Nat × Nat) :=
  (List.range 128).findSome? fun v =>
    let find := fun (l : List DigestEntry) => (l.find? fun d => d.seq == seq && d.vcore == v).getD ⟨seq, v, 0xFF, []⟩
    (firstTile key (find was) (find now)).map fun t => (v, t, (find was).core, (find now).core)

/-- A replayed command has ended: its digests are compared, and the next one starts (R244 steps 7 and 8). -/
def replayNext (s : State) (p seq : Nat) : State :=
  match (s.tr p).replay with
  | none => s
  | some r =>
    match firstDiff r.record.digestKey seq r.record.digests r.digests with
    | some (v, t, was, now) =>
      let s := endReplay s p r 3
      let s := (s.put (Reg.SYN_REPLAY_RESULT_SEQ p) seq).put (Reg.SYN_REPLAY_RESULT_VCORE p) v
      let s := (s.put (Reg.SYN_REPLAY_CORES_TILE p) t).put (Reg.SYN_REPLAY_CORES_REC_CORE p) was
      raise (s.put (Reg.SYN_REPLAY_CORES_NOW_CORE p) now) []
        { code := 0x0534, part := p, vcore := v, seq := seq, detail := [seq, v, t, was, now] }
    | none => if r.abort then endReplay s p r 5 else startReplayed s p { r with index := r.index + 1 }

end Sys2Proof.Machine
end

