-- ==== Sys2Proof/Machine/Cmd.lean ====
section
/-!
DEFINITION. Host commands from acceptance to completion record (R317 to R324), and the records of faults that end them.
-/

namespace Sys2Proof.Machine

/-- Where the accepted command of partition p with sequence number q stands. -/
def cmdKey (p q : Nat) : Nat := p * 2 ^ 32 + q

/-- The accepted command of partition p with sequence number q. -/
def State.cmd (s : State) (p q : Nat) : Cmd := SMap.get Cmd.empty s.cmds (cmdKey p q)

/-- The command set. -/
def State.setCmd (s : State) (p q : Nat) (c : Cmd) : State :=
  { s with cmds := SMap.set Cmd.empty s.cmds (cmdKey p q) c }

/-- The completion records of a queue that are written or reserved and not yet consumed (R317). -/
def cqHeld (s : State) (q : Nat) : Nat :=
  let size := 2 ^ s.get (Reg.QUE_CFG_CQ_LOG q)
  (s.get (Reg.QUE_STATE_CQ_TAIL q) + size - s.get (Reg.QUE_STATE_CQ_HEAD q)) % size + s.get (Reg.QUE_STATUS_INFLIGHT q)

/-- CQ_FULL and IDLE of a queue, as its counts stand. -/
def queueFlags (s : State) (q : Nat) : State :=
  let full := decide (2 ^ s.get (Reg.QUE_CFG_CQ_LOG q) - 1 ≤ cqHeld s q) && s.on (Reg.QUE_CFG_ENABLE q)
  (s.put (Reg.QUE_STATUS_CQ_FULL q) full.toNat).put (Reg.QUE_STATUS_IDLE q)
    (decide (s.get (Reg.QUE_STATUS_INFLIGHT q) = 0)).toNat

/-- A record of queue q signalled by its MSI-X vector according to aggregation (R321). -/
def signalRecord (s : State) (q : Nat) (port : Port) : State :=
  let n := SMap.get 0 s.unsig q + 1
  if s.on (Reg.QUE_CFG_INT_EN q) then
    let agg := s.get (Reg.QUE_CFG_AGG_COUNT q)
    if agg ≤ n then
      sendMsix { s with unsig := SMap.set 0 s.unsig q 0 } port (s.get (Reg.QUE_CFG_VECTOR q))
    else { s with unsig := SMap.set 0 s.unsig q n }
  else s

/-- The 32 bytes of a completion record (R321). -/
def completionBytes (c : Cmd) (seq code outcome abortResult phase sqHead : Nat) (detail : Nat) : List Byte :=
  leBytes 4 c.cid ++ leBytes 2 (if outcome = 1 then code else 0) ++ leBytes 1 (outcome + 128 * phase)
    ++ leBytes 1 abortResult ++ leBytes 2 sqHead ++ leBytes 2 0 ++ leBytes 4 seq ++ leBytes 8 detail ++ leBytes 8 0

/-- Outcomes of a completion record. -/
def completed : Nat := 0
def failed : Nat := 1
def aborted : Nat := 2

/-- The command ends with its completion record (R321): outcome, code, ABORT_RESULT and DETAIL. A replayed command has no
record, and the replay goes on (R244). -/
def finishCmd (s : State) (p seq outcome code abortResult detail : Nat) : State :=
  let c := s.cmd p seq
  let q := c.queue
  if q = replayQueue then replayNext (s.setCmd p seq Cmd.empty) p seq else
  let tail := s.get (Reg.QUE_STATE_CQ_TAIL q)
  let size := 2 ^ s.get (Reg.QUE_CFG_CQ_LOG q)
  let phase := s.get (Reg.QUE_STATUS_PHASE q)
  let bytes := completionBytes c seq code outcome abortResult phase (s.get (Reg.QUE_STATE_SQ_HEAD q)) detail
  let s := toHost s c.port p (s.get (Reg.QUE_CQ_BASE_ADDR q) * 64 + tail * 32) bytes
  let s := { s with recent := SMap.set [] s.recent q ((c.cid :: SMap.get [] s.recent q).take size) }
  let s := s.put (Reg.QUE_STATE_CQ_TAIL q) ((tail + 1) % size)
  let s := if tail + 1 = size then s.put (Reg.QUE_STATUS_PHASE q) (1 - phase) else s
  let s := s.put (Reg.QUE_STATUS_INFLIGHT q) (s.get (Reg.QUE_STATUS_INFLIGHT q) - 1)
  let s := if outcome = failed then s.put (Reg.QUE_STATUS_LAST_CODE q) code else s
  signalRecord (queueFlags (s.setCmd p seq Cmd.empty) q) q c.port

/-- The command ends without a record (R321: its host link is lost, or the module is reset). -/
def dropCmd (s : State) (p seq : Nat) : State :=
  let q := (s.cmd p seq).queue
  if q = replayQueue then s.setCmd p seq Cmd.empty else
  let s := s.put (Reg.QUE_STATUS_INFLIGHT q) (s.get (Reg.QUE_STATUS_INFLIGHT q) - 1)
  queueFlags (s.setCmd p seq Cmd.empty) q

/-- The command commits COMPLETED (R322). -/
def completeCmd (s : State) (p seq detail : Nat) : State := finishCmd s p seq completed 0 0 detail

/-- The command ends FAILED: its error record first, then its completion record (R321, R375). -/
def failCmd (s : State) (last : List Fld) (p seq : Nat) (r : Rec) (detail : Nat) : State :=
  finishCmd (raise s last { r with part := p, seq := seq }) p seq failed r.code 0 detail

/-- Copies report the bytes written in DETAIL (R321). -/
def isCopy (c : Cmd) : Bool := c.op == 1 || c.op == 2 || c.op == 3

/-- The sequence numbers of partition p's accepted commands, ascending. -/
def seqsOf (s : State) (p : Nat) : List Nat :=
  (s.cmds.filter fun e => e.1 / 2 ^ 32 == p).map fun e => e.1 % 2 ^ 32

/-- No earlier-accepted command of the same queue is still without its record (R318 FENCE). -/
def fenceClear (s : State) (p seq : Nat) : Bool :=
  !(s.cmd p seq).fence || (seqsOf s p).all fun q => !(q < seq && (s.cmd p q).queue == (s.cmd p seq).queue)

/-- Commands of a queue start in acceptance order (R318): none accepted earlier has not started. -/
def orderClear (s : State) (p seq : Nat) : Bool :=
  (seqsOf s p).all fun q => !(q < seq && (s.cmd p q).queue == (s.cmd p seq).queue && (s.cmd p q).phase == .accepted)

/-- The command is accepted, has opcode op, and may start (R318). -/
def mayStart (s : State) (p seq op : Nat) : Bool :=
  (s.cmd p seq).phase == .accepted && (s.cmd p seq).op == op && fenceClear s p seq && orderClear s p seq

/-! ### ABORT and copies (R323, R324) -/

/-- The target of an ABORT that waits for its target's record (R324), in `moved`; its result stands in `discarded`. -/
def abortsDone (s : State) (p seq : Nat) : State :=
  (seqsOf s p).foldl (fun (s : State) q =>
    let c := s.cmd p q
    if c.op == 0x20 && c.phase == .running && c.moved == seq then finishCmd s p q completed 0 c.discarded 0 else s) s

/-- Bursts of transfers of launch seq of partition p are still in flight. -/
def launchFlies (s : State) (p seq : Nat) : Bool :=
  s.dma.any fun e => (e.2.active.toList ++ e.2.shadow.toList).any fun y =>
    y.desc.part == p && y.desc.seq == seq && y.desc.vcore != 0xFF && !y.flight.isEmpty

/-- The transfer serves host command seq of p. -/
def ofCopy (p seq : Nat) (d : Desc) : Bool := d.part == p && d.seq == seq && d.vcore == 0xFF && !d.firmware

/-- Bursts of transfers of host command seq of p are still in flight. -/
def copyFlies (s : State) (p seq : Nat) : Bool :=
  s.dma.any fun e => (e.2.active.toList ++ e.2.shadow.toList).any fun y => ofCopy p seq y.desc && !y.flight.isEmpty

/-- The aborted launches and the failed copies of partition p none of whose accesses is in flight get their records, and their
ABORTs after them (R321, R324). -/
def settleLaunch (s : State) (p : Nat) : State :=
  (seqsOf s p).foldl (fun (s : State) q =>
    let c := s.cmd p q
    match c.phase with
    | .aborted =>
      if c.op == 0x13 && !launchFlies s p q then abortsDone (finishCmd s p q aborted 0 0 c.moved) p q else s
    | .failing code => if copyFlies s p q then s else abortsDone (finishCmd s p q failed code 0 c.moved) p q
    | _ => s) s

/-- A transfer of a host copy has ended: the command commits with its last, or an aborted one gets its record, and its
ABORT's after it (R322, R324). -/
def copyEnded (s : State) (d : Desc) : State :=
  let c := s.cmd d.part d.seq
  if d.vcore = 0xFF && !d.firmware then
    match c.phase with
    | .running =>
      if c.left ≤ 1 then completeCmd s d.part d.seq c.moved else s.setCmd d.part d.seq { c with left := c.left - 1 }
    | .aborted =>
      if c.left ≤ 1 then abortsDone (finishCmd s d.part d.seq aborted 0 0 c.moved) d.part d.seq
      else s.setCmd d.part d.seq { c with left := c.left - 1 }
    | _ => s
  else s

end Sys2Proof.Machine
end

