-- ==== Sys2Proof/Machine/Flow.lean ====
section
/-!
DEFINITION. Flows of the fabric (R334, R335), their records in the fabric area, and how a frame is sent on one (R332, R337,
R339, R340).
-/

namespace Sys2Proof.Machine

/-! ### Records (R334, R345, R351) -/

/-- Partition offset of the fabric area, of flow record f and of group record g (R351). -/
def fabBase (s : State) (p : Nat) : Nat := s.get (Reg.FAB_AREA_BASE p) * frameBytes
def flowAddr (s : State) (p f : Nat) : Nat := fabBase s p + 256 * f
def groupAddr (s : State) (p g : Nat) : Nat := fabBase s p + 0x1000000 + 64 * g
def flowFld (s : State) (p f o n : Nat) : Nat := pNat s p (flowAddr s p f + o) n
def groupFld (s : State) (p g o n : Nat) : Nat := pNat s p (groupAddr s p g + o) n

/-- STATE of a flow: 0 CLOSED, 1 HANDSHAKE, 2 UP, 3 FAILED, 4 CLOSING. -/
def flowState (s : State) (p f : Nat) : Nat := flowFld s p f 128 1

/-- The record's FLAGS.MCAST. -/
def isMcast (s : State) (p f : Nat) : Bool := flowFld s p f 70 1 / 2 % 2 == 1

/-- PEER_ADDR names plane n. -/
def onPlane (s : State) (p f n : Nat) : Bool := flowFld s p f (16 * n) 16 != 0

/-- The context of flow f of partition p. -/
def State.flow (s : State) (p f : Nat) : FlowCtx := SMap.get FlowCtx.empty s.flows (p * 65536 + f)
def State.setFlow (s : State) (p f : Nat) (x : FlowCtx) : State :=
  { s with flows := SMap.set FlowCtx.empty s.flows (p * 65536 + f) x }

/-- The n bytes of a record at partition offset x are read through their slices (R284); where R279 refuses the access, its
record is written, and the fields read as 0. -/
def readRecord (s : State) (p x n : Nat) : State :=
  match firstBad s p x n with
  | some y => raise s [Reg.MEM_PART_STATUS_LAST_CODE p] { code := 0x0710, cls := 0, part := p, detail := pageDetail p y }
  | none => pTouch s p x n

/-- The flow numbers of partition p's area. -/
def flowsOf (s : State) (p : Nat) : List Nat :=
  if s.on (Reg.FAB_AREA_CTRL_ENABLE p) then List.range (s.get (Reg.FAB_AREA_CTRL_FLOWS p)) else []

/-- Flow record f of partition p is looked up; no lookup where p has no such flow. -/
def lookFlow (s : State) (p f : Nat) : State :=
  if (flowsOf s p).contains f then readRecord s p (flowAddr s p f) 256 else s

/-- The group records of partition p that are VALID. -/
def groupsOf (s : State) (p : Nat) : List Nat :=
  if s.on (Reg.FAB_AREA_CTRL_ENABLE p) then
    (List.range (s.get (Reg.FAB_AREA_CTRL_GROUPS p))).filter fun g => groupFld s p g 2 1 % 2 == 1
  else []

/-- The group of partition p with a GROUP_TAG. -/
def groupOfTag (s : State) (p tag : Nat) : Option Nat := (groupsOf s p).find? fun g => groupFld s p g 0 2 == tag

/-- RELAY of group g, and the group whose MCAST_FLOW is f. -/
def isRelay (s : State) (p g : Nat) : Bool := groupFld s p g 2 1 / 2 % 2 == 1
def groupOfMcast (s : State) (p f : Nat) : Option Nat :=
  (groupsOf s p).find? fun g => !isRelay s p g && groupFld s p g 12 4 == f

/-- LIST of group g: the flow to rank r. -/
def listFlow (s : State) (p g r : Nat) : Nat := pNat s p (fabBase s p + groupFld s p g 16 4 + 4 * r) 4

/-- The ranks of group g but this member's own. -/
def peersOf (s : State) (p g : Nat) : List Nat := (List.range (groupFld s p g 4 4)).filter (· != groupFld s p g 8 4)

/-! ### Frames (R328, R331, R332, R337) -/

/-- The low n bytes of a number, highest first: the order of the protocols below XFT. -/
def beBytes (n v : Nat) : List Byte := (leBytes n v).reverse

/-- Zero bytes up to n. -/
def padTo (n : Nat) (bs : List Byte) : List Byte := bs ++ List.replicate (n - bs.length) 0

/-- The XFT header (R332). -/
def xftHeader (ty flags len op phase dst ent tag psn inst off count : Nat) : List Byte :=
  leBytes 1 (16 + ty) ++ leBytes 1 flags ++ leBytes 1 len ++ leBytes 1 (op % 16 + 16 * phase) ++ leBytes 3 dst ++ leBytes 1 0
    ++ leBytes 2 ent ++ leBytes 2 tag ++ leBytes 4 psn ++ leBytes 4 inst ++ leBytes 4 off ++ leBytes 8 count

/-- The 802.1Q tag that the module sends: PCP and VID (R328). -/
def vlanTag (s : State) : List Byte :=
  if s.on Reg.FAB_CTRL_VLAN_EN then beBytes 2 0x8100 ++ beBytes 2 (8192 * s.get Reg.FAB_CTRL_PCP + s.get Reg.FAB_CTRL_VID) else []

/-- The MAC header of a frame of port n. -/
def macHeader (s : State) (n dst ethertype : Nat) : List Byte :=
  beBytes 6 dst ++ beBytes 6 (s.get (Reg.FAB_PORT_MAC_ADDR n)) ++ vlanTag s ++ beBytes 2 ethertype

/-- The sum of the 16-bit words of bytes, and the checksum of UDP over IPv6 (R331: "checksum computed"; PRESUMED, log
entry 62). -/
def wordSum : List Byte → Nat
  | a :: b :: r => 256 * a.toNat + b.toNat + wordSum r
  | [a] => 256 * a.toNat
  | [] => 0
def udpChecksum (bs : List Byte) : Nat :=
  let fold := fun (v : Nat) => v % 65536 + v / 65536
  let c := 65535 - fold (fold (fold (wordSum bs)))
  if c = 0 then 0xFFFF else c

/-- The IPv6 and UDP headers before an XFT header and what follows it (R331). The traffic class and the flow label are 0. -/
def routedHeaders (source target dport ent : Nat) (body : List Byte) : List Byte :=
  let n := 8 + body.length
  let udp := beBytes 2 (0xC000 + ent % 2 ^ 14) ++ beBytes 2 dport ++ beBytes 2 n
  let sum := udpChecksum (beBytes 16 source ++ beBytes 16 target ++ beBytes 4 n ++ beBytes 4 17 ++ udp ++ body)
  beBytes 4 (6 * 2 ^ 28) ++ beBytes 2 n ++ [17, 64] ++ beBytes 16 source ++ beBytes 16 target ++ udp ++ beBytes 2 sum

/-- What stands before the XFT header of a frame of flow f on port n (R331): `body` is the header and all that follows it but
the FCS. -/
def encapsulation (s : State) (p f n ent : Nat) (body : List Byte) : List Byte :=
  let peer := flowFld s p f (16 * n) 16
  if s.on Reg.FAB_CTRL_ENCAP then
    macHeader s n (s.get (Reg.FAB_PORT_GW_ADDR n)) 0x86DD ++
      routedHeaders (s.get (Reg.FAB_PORT_IP_LO_ADDR n) + 2 ^ 64 * s.get (Reg.FAB_PORT_IP_HI_ADDR n)) peer
        (s.get Reg.FAB_CTRL_UDP_PORT) ent body
  else macHeader s n peer (s.get Reg.FAB_CTRL_ETHERTYPE)

/-- The IV of a frame (R337): the salt, or for MCAST the sender's rank, and the 64-bit TXCOUNT after it. -/
def frameIv (s : State) (p f : Nat) : Nat :=
  let x := s.flow p f
  let first := if isMcast s p f then ((groupOfMcast s p f).map fun g => groupFld s p g 8 4).getD 0 else x.txSalt
  first % 2 ^ 32 + 2 ^ 32 * x.txCount

/-! ### Sending (R332, R337, R340) -/

/-- The flow may send on port n: its link is up, the record names the plane, and n is in the rotation. -/
def portUsable (s : State) (p f n : Nat) : Bool :=
  s.on (Reg.FAB_PORT_STATUS_LINK_UP n) && onPlane s p f n && !(s.flow p f).out.contains n

/-- The port of the next frame of a flow. -/
def nextPort (s : State) (p f : Nat) : Option Nat :=
  (([0, 1, 2, 3] : List Nat).map fun k => ((s.flow p f).turn + k) % 4).find? (portUsable s p f)

/-- DST_FLOW of the frames of a flow. -/
def dstOf (s : State) (p f : Nat) : Nat := if isMcast s p f then 0xFFFFF else flowFld s p f 64 4 % 2 ^ 20

/-- A frame goes out on the next port: the state, and the port (4 where no port can take it). A HANDSHAKE is sent in clear and
under no key; every other frame is encrypted, and its tag follows (R337). -/
def emitFrame (s : State) (p f ty flags op phase tag psn inst off : Nat) (payload : List Byte) : State × Nat :=
  match nextPort s p f with
  | none => (s, 4)
  | some n =>
    let x := s.flow p f
    let j := x.entropy.getD n 0
    let ent := (flowFld s p f 68 2 + j) % 2 ^ 14
    let count := if ty = 4 then 0 else x.txCount
    let hdr := xftHeader ty flags (payload.length / 64) op phase (dstOf s p f) ent tag psn inst off count
    let body := if ty = 4 then payload else Config.gcm x.txKey (frameIv s p f) hdr payload
    let out : Out := .xft n p f (encapsulation s p f n ent (hdr ++ body)) hdr body
    let s := readRecord s p (flowAddr s p f) 256
    let s := s.setFlow p f
      { x with turn := (n + 1) % 4, entropy := x.entropy.set n (j + 1), txCount := if ty = 4 then x.txCount else x.txCount + 1 }
    (s.emit out, n)

/-- The payload of a CTRL frame (R332): its code, then the arguments. -/
def ctrlPayload (code : Nat) (args : List Byte) : List Byte := padTo 64 (leBytes 2 code ++ args)

/-- A sequenced frame is sent and kept until it is acknowledged; TX_PSN rises. -/
def sendSeq (s : State) (p f : Nat) (t : TxFrame) (payload : List Byte) : State :=
  let psn := flowFld s p f 132 4
  let s := pPut s p (flowAddr s p f + 132) 4 (psn + 1)
  let flags := t.last.toNat + (if isMcast s p f then 4 else 0)
  let (s, n) := emitFrame s p f (if t.ctrl = 0 then 0 else 5) flags t.op t.phase t.tag psn t.inst t.off payload
  let x := s.flow p f
  s.setFlow p f { x with unacked := x.unacked ++ [{ t with psn := psn, fport := n }] }

/-- A CTRL frame goes out. -/
def putCtrl (s : State) (p f code : Nat) (args : List Byte) : State :=
  let pay := ctrlPayload code args
  sendSeq s p f ⟨0, code, 0, 0, 0, 0, 0, 0, 1, false, pay, 4, [0]⟩ pay

/-- A CTRL frame on an UP flow: it waits while 1,024 frames are unacknowledged (R339). -/
def sendCtrl (s : State) (p f code : Nat) (args : List Byte) : State :=
  if flowState s p f = 2 then
    let x := s.flow p f
    if x.unacked.length < 1024 && x.held.isEmpty then putCtrl s p f code args
    else s.setFlow p f { x with held := x.held ++ [(code, args)] }
  else s

/-- The CTRL frames that waited go out as far as the window lets them. -/
def sendHeld : Nat → State → Nat → Nat → State
  | 0, s, _, _ => s
  | n + 1, s, p, f =>
    let x := s.flow p f
    match x.held with
    | [] => s
    | c :: r => if x.unacked.length < 1024 then sendHeld n (putCtrl (s.setFlow p f { x with held := r }) p f c.1 c.2) p f else s

/-- The arguments that name a group and an instance: GROUP_TAG at [3:2] as in GROUP_KEY, INST at [7:4]. -/
def instArgs (tag inst : Nat) : List Byte := leBytes 2 tag ++ leBytes 4 inst

/-! ### Handshakes (R335, R336) -/

/-- Messages of a handshake go out, `ns` in 64-byte units each, from message number m on. R336 says what they carry and not how it
is laid out: their bytes are free values (log entry 19). -/
def sendMessages (s : State) (p f : Nat) : Nat → List Nat → State
  | _, [] => s
  | m, n :: r =>
    let (v, s) := s.draw
    sendMessages (emitFrame s p f 4 0 0 0 0 0 0 m (leBytes (64 * n) v)).1 p f (m + 1) r

/-- Waiting handshakes begin while fewer than 64 run (R336), the lowest partition and flow first: the shares, the nonce and the
flow numbers go out. -/
def startShakes (s : State) : State :=
  let runs := (s.flows.filter fun e => e.2.shake == 2).length
  let next := (s.flows.filter fun e => e.2.shake == 1).take (64 - runs)
  next.foldl (fun (s : State) e =>
    let p := e.1 / 65536
    let f := e.1 % 65536
    sendMessages (s.setFlow p f { s.flow p f with shake := 2 }) p f 0 [27]) s

/-- The flow moves to a state, and FLOWS_UP with it. On leaving UP its keys are destroyed (R335); those of a CLOSING flow serve the
CLOSE frame and its acknowledgement, and go with it (DEDUCED from R335 and R337; log entry 18). A handshake that ends leaves
its place to the next. -/
def setFlowState (s : State) (p f v : Nat) : State :=
  let old := flowState s p f
  let up := Reg.FAB_PART_STATUS_FLOWS_UP p
  let s := pPut s p (flowAddr s p f + 128) 1 v
  let s := if (old = 2 ∨ old = 4) ∧ v ≠ 2 ∧ v ≠ 4 then s.setFlow p f FlowCtx.empty else s
  let s := if old = 2 ∧ v ≠ 2 then s.put up (s.get up - 1) else if v = 2 ∧ old ≠ 2 then s.put up (s.get up + 1) else s
  if (s.flow p f).shake ≠ 0 ∧ v ≠ 1 then startShakes (s.setFlow p f { s.flow p f with shake := 0 }) else s

/-- CTRL REMOVE on every UP flow of every partition (R419, R420). -/
def removeFrames (s : State) : State :=
  (List.range 16).foldl (fun s p => (flowsOf s p).foldl (fun s f => sendCtrl s p f 3 []) s) s

/-- The link of fabric port f goes down, with its record (R329). -/
def linkDown (s : State) (f : Nat) : State :=
  if s.on (Reg.FAB_PORT_STATUS_LINK_UP f) then
    raise (s.put (Reg.FAB_PORT_STATUS_LINK_UP f) 0) [] { code := 0x0940, cls := 3, unit := f }
  else s

/-- The fabric ports are brought down (R371, R419). -/
def portsDown (s : State) : State := ([0, 1, 2, 3] : List Nat).foldl linkDown s

end Sys2Proof.Machine
end

