-- ==== Sys2Proof/Machine/Stop.lean ====
section
/-!
DEFINITION. Launches and virtual cores: where they stand, how an instruction's parts complete, and how a launch stops
(R76, R95, R177, R206 to R210, R228, R349).
-/

namespace Sys2Proof.Machine

/-! ### Where things stand -/

/-- Key of virtual core v of partition p. -/
def vcKey (p v : Nat) : Nat := p * 128 + v

/-- Key of virtual core v of handle h of partition p, for its saved slots (R137) and its code (R212). -/
def savedKey (p h v : Nat) : Nat := (p * 64 + h) * 128 + v

/-- The context of virtual core v of partition p. -/
def State.vc (s : State) (p v : Nat) : VC := SMap.get VC.empty s.vcs (vcKey p v)

/-- The context set. -/
def State.setVc (s : State) (p v : Nat) (c : VC) : State := { s with vcs := SMap.set VC.empty s.vcs (vcKey p v) c }

/-- The engine of core c. -/
def State.eng (s : State) (c : Nat) : EngCtx := SMap.get EngCtx.empty s.engs c
def State.setEng (s : State) (c : Nat) (e : EngCtx) : State := { s with engs := SMap.set EngCtx.empty s.engs c e }

/-- The vector and gather/scatter units of core c. -/
def State.vu (s : State) (c : Nat) : VecCtx := SMap.get VecCtx.empty s.vec c
def State.setVu (s : State) (c : Nat) (e : VecCtx) : State :=
  ({ s with vec := SMap.set VecCtx.empty s.vec c e }).put (Reg.VEC_FIFO_LEVEL_LEVEL c) e.fifo.length

/-- The running launch of partition p. -/
def State.launch (s : State) (p : Nat) : Option Launch := SMap.get none s.launches p
def State.setLaunch (s : State) (p : Nat) (l : Option Launch) : State :=
  { s with launches := SMap.set none s.launches p l }

/-- The program of handle h. -/
def State.prog (s : State) (p h : Nat) : Prog := SMap.get Prog.empty s.progs (p * 64 + h)
def State.setProg (s : State) (p h : Nat) (g : Prog) : State := { s with progs := SMap.set Prog.empty s.progs (p * 64 + h) g }

/-- The program of the running launch. -/
def runProg (s : State) (p : Nat) : Prog :=
  match s.launch p with
  | some l => s.prog p l.handle
  | none => Prog.empty

/-- A caravan instance of partition p. -/
def State.car (s : State) (p d : Nat) : Option CarInst := SMap.get none s.caravans (p * 4096 + d)
def State.setCar (s : State) (p d : Nat) (i : Option CarInst) : State :=
  { s with caravans := SMap.set none s.caravans (p * 4096 + d) i }

/-- The caravan definitions of partition p with a running instance. -/
def carsOf (s : State) (p : Nat) : List Nat := ((SMap.keys s.caravans).filter fun k => k / 4096 == p).map (· % 4096)

/-- Micro-batch m of partition p. -/
def State.mb (s : State) (p m : Nat) : MB := SMap.get MB.empty s.mbs (p * 2 ^ 32 + m)
def State.setMb (s : State) (p m : Nat) (b : MB) : State := { s with mbs := SMap.set MB.empty s.mbs (p * 2 ^ 32 + m) b }

/-- The open micro-batches of partition p. -/
def openMbs (s : State) (p : Nat) : List Nat := ((SMap.keys s.mbs).filter fun k => k / 2 ^ 32 == p).map (· % 2 ^ 32)

/-- The sequence number of the running launch of partition p. -/
def launchSeq (s : State) (p : Nat) : Nat := ((s.launch p).map (·.seq)).getD 0

/-- A digest tile of the running launch (R242). -/
def launchTile (s : State) (p v c iid q : Nat) (bs : List Byte) : State := digestTile s p v c (launchSeq s p) iid q bs

/-- The cores on which the running launch of partition p works: those of its virtual cores and of their gangs. -/
def launchCores (s : State) (p : Nat) : List Nat :=
  match s.launch p with
  | none => []
  | some l => (l.active.flatMap fun v =>
      let c := s.vc p v
      if c.gang then [c.core, c.core + 1, c.core + 2, c.core + 3] else [c.core]).dedup

/-- The non-idle virtual cores that core c hosts, ascending. -/
def hostedOn (s : State) (p c : Nat) : List Nat :=
  match s.launch p with
  | some l => l.active.filter fun v => (s.vc p v).core == c
  | none => []

/-- Waiting LAUNCH commands of partition p in acceptance order (R133). -/
def waitingLaunches (s : State) (p : Nat) : List Nat :=
  (seqsOf s p).filter fun q => (s.cmd p q).op == 0x13 && ((s.cmd p q).phase == .accepted || (s.cmd p q).phase == .queued)

/-! ### Parts of an instruction -/

/-- A new instruction of a virtual core with n parts; `wr` is the descriptor + 1 that it writes, tau the tile of a caravan
body. Its number is the old `nextId`. -/
def VC.start (c : VC) (n wr tau : Nat) : VC :=
  { c with opened := SMap.set 0 c.opened c.nextId n, writes := SMap.set 0 c.writes c.nextId wr,
           ofTile := SMap.set 0 c.ofTile c.nextId tau, nextId := c.nextId + 1 }

/-- Nothing of the virtual core is under way. -/
def VC.quiet (c : VC) : Bool := c.opened.isEmpty

/-- Nothing of a caravan body's tiles up to tau is under way. -/
def VC.quietTo (c : VC) (tau : Nat) : Bool := c.opened.all fun e => tau < SMap.get 0 c.ofTile e.1

/-- An earlier instruction of the virtual core still writes descriptor d (R170). -/
def VC.writing (c : VC) (d : Nat) : Bool := c.writes.any fun e => e.2 == d + 1

/-- Core c, and in a paired launch its shadow (R363). -/
def withShadow (s : State) (c : Nat) : List Nat :=
  match SMap.get 0 s.shadows c with
  | 0 => [c]
  | n + 1 => [c, n]

/-- A counter of core c rises, and in a paired launch that of its shadow: one that saturates, and one that wraps. -/
def bumpPair (s : State) (f : Nat → Fld) (c n : Nat) : State := (withShadow s c).foldl (fun s d => s.bump (f d) n) s
def bumpPairWrap (s : State) (f : Nat → Fld) (c n : Nat) : State := (withShadow s c).foldl (fun s d => s.bumpWrap (f d) n) s

/-- A Tynte instruction retired on core c. -/
def retire (s : State) (c : Nat) : State := bumpPairWrap s Reg.SEQ_RETIRED_COUNT c 1

/-- One part of instruction i of a virtual core completes; the instruction retires with its last part. -/
def partDone (s : State) (p v i : Nat) : State :=
  let c := s.vc p v
  let n := SMap.get 0 c.opened i
  if n = 0 then s
  else if n = 1 then
    let c' : VC := { c with
      opened := SMap.set 0 c.opened i 0, writes := SMap.set 0 c.writes i 0, ofTile := SMap.set 0 c.ofTile i 0,
      fills := c.fills.erase i }
    if c.fills.contains i then s.setVc p v c' else retire (s.setVc p v c') c.core
  else s.setVc p v { c with opened := SMap.set 0 c.opened i (n - 1) }

/-! ### Units of a core -/

/-- PRESENT of the granules that a core's passes and drains named is cleared (R76). -/
def clearNamed (s : State) (c : Nat) : List (Nat × Nat × Nat) → State
  | [] => s
  | (b, g, n) :: r => clearNamed (clearPresent s c b g n) c r

/-- The engine registers of core c as its slots and queue stand. -/
def engFlags (s : State) (c : Nat) : State :=
  let e := s.eng c
  let s := s.put (Reg.ENG_STATUS_FILL_BUSY c) e.filling.isSome.toNat
  s.put (Reg.ENG_STATUS_DRAIN_BUSY c) e.draining.isSome.toNat

/-- The words of slot t of core c discarded, and the slot Free. -/
def freeSlot (s : State) (c t : Nat) : State :=
  let s := s.put (Reg.ENG_STATUS_SLOT_STATE c t) 0
  { s with slots := SMap.set SlotInfo.empty s.slots (c * 4 + t) SlotInfo.empty }

/-- A fault or an abort on core c (R95): the Filling slot and the Draining slot become Free, the queue is emptied, and
PRESENT of the granules its passes and drains named is cleared (R76), those of complete output units in the auxiliary bank
among them, though R95 leaves complete units as they are (DESIGN CHOICE, log entry 60). Full slots stay. -/
def abortEngine (s : State) (c : Nat) : State :=
  let e := s.eng c
  let s := match e.filling with
    | some x => freeSlot s c x.slot
    | none => s
  let s := match e.draining with
    | some x => freeSlot s c x.slot
    | none => s
  let s := (List.range 4).foldl (fun s t => if s.get (Reg.ENG_STATUS_SLOT_STATE c t) == 1 then freeSlot s c t else s) s
  let s := clearNamed s c e.named
  let s := s.setEng c { EngCtx.empty with aNext := e.aNext, bNext := e.bNext, sNext := e.sNext }
  let s := (s.put (Reg.ENG_STATUS_FILL_WAIT c) 0).put (Reg.ENG_STATUS_DRAIN_WAIT c) 0
  let s := ((s.put (Reg.ENG_STATUS_HOLD c) 0).put (Reg.ENG_STATUS_GANGED c) 0).put (Reg.ENG_STATUS_GANG_ROLE c) 0
  engFlags s c

/-- The vector and gather/scatter units of core c emptied; the index FIFO is fed no further (R207). -/
def abortVector (s : State) (c : Nat) : State :=
  let s := s.setVu c VecCtx.empty
  [Reg.VEC_STATUS_VEC_BUSY c, Reg.VEC_STATUS_VEC_WAIT c, Reg.VEC_STATUS_TOPK_BUSY c, Reg.VEC_STATUS_GS_BUSY c,
    Reg.VEC_STATUS_GS_WAIT c].foldl (fun s f => s.put f 0) s

/-- Key of channel n of core c. -/
def chKey (c n : Nat) : Nat := c * 16 + n
def State.chan (s : State) (c n : Nat) : Chan2 := SMap.get Chan2.empty s.dma (chKey c n)
def State.setChan (s : State) (c n : Nat) (x : Chan2) : State := { s with dma := SMap.set Chan2.empty s.dma (chKey c n) x }

/-- A loaded transfer gets no further burst. -/
def stopXfer (x : Xfer) : Xfer := { x with stopped := true }

/-- Key of descriptor queue n of erg e. -/
def dqKey (e n : Nat) : Nat := e * 32 + n
def dqRing (s : State) (k : Nat) : List Desc := SMap.get [] s.dqs k
def setDqRing (s : State) (k : Nat) (ds : List Desc) : State :=
  { s with dqs := SMap.set [] s.dqs k ds }.put (Reg.DMA_DQ_DEPTH (k / 32) (k % 32)) ds.length

/-- The transfers of a command stop: no further burst, and nothing of it stays in a ring (R300, R324). -/
def stopCopy (s : State) (p seq : Nat) : State :=
  let mine := ofCopy p seq
  let upd := fun (x : Option Xfer) => x.map fun y => if mine y.desc then stopXfer y else y
  let s := { s with dma := s.dma.map fun e => (e.1, ⟨upd e.2.active, upd e.2.shadow⟩) }
  (SMap.keys s.dqs).foldl (fun s k => setDqRing s k ((dqRing s k).filter fun d => !mine d)) s

/-- A fault ends a host copy (R300, R321): its error record and LAST_CODE now, its completion record once no access of it is in
flight. -/
def failCopy (s : State) (last : List Fld) (p seq : Nat) (r : Rec) : State :=
  let s := stopCopy (raise s last { r with part := p, seq := seq }) p seq
  settleLaunch (s.setCmd p seq { s.cmd p seq with phase := .failing r.code }) p

/-- The transfers of virtual cores of partition p stop at their next burst boundary, and their descriptors that wait in a
ring are dropped (R207 step 2, R324). -/
def stopDma (s : State) (p : Nat) : State :=
  let mine := fun (d : Desc) => d.part == p && !d.firmware && d.vcore != 0xFF
  let upd := fun (x : Option Xfer) => x.map fun y => if mine y.desc then stopXfer y else y
  let s := { s with dma := s.dma.map fun e => (e.1, ⟨upd e.2.active, upd e.2.shadow⟩) }
  (SMap.keys s.dqs).foldl (fun (s : State) k =>
    let left := (SMap.get [] s.dqs k).filter fun d => !mine d
    let s := s.put (Reg.DMA_DQ_DEPTH (k / 32) (k % 32)) left.length
    { s with dqs := SMap.set [] s.dqs k left }) s

/-- Pins of partition p for which `which` holds are released (R285). -/
def releasePins (s : State) (which : PinOwner → Bool) : State :=
  pinCounts { s with cache := s.cache.map fun e => (e.1, { e.2 with pins := e.2.pins.filter fun o => !which o }) }

/-- The lines of a native image of partition p are pinned no longer (R285). -/
def releaseNative (s : State) (p : Nat) : State := pinCounts { s with nativePins := SMap.drop (fun k => k / 8 == p) s.nativePins }

/-! ### The mesh (R20) -/

/-- A burst or a hand-over granule that was issued before `order` between the same two endpoints has not landed: the mesh delivers
it first. -/
def meshOlder (s : State) (order source target : Nat) : Bool :=
  (s.dma.any fun e => (((e.2.active.map (·.flight)).getD []).any fun f => f.order < order && f.source == source && f.target == target))
    || s.caravans.any fun e => e.2.any fun i => (i.stages.zip i.stages.tail).any fun (x, y) =>
      x.core == source && y.core == target && y.transit.any (·.order < order)

/-! ### Caravans (R207 to R210) -/

/-- The stage of an instance that a virtual core carries. -/
def stageAt (i : CarInst) (v : Nat) : Option Nat := i.stages.findIdx? fun x => x.vcore == v

/-- Stage k of an instance, with a placeholder beyond its end. -/
def CarInst.stage (i : CarInst) (k : Nat) : StageCtx := i.stages.getD k StageCtx.empty

/-- The instance and the stage in which virtual core v of partition p stands: definition, instance, stage number. -/
def inCar (s : State) (p v : Nat) : Option (Nat × CarInst × Nat) :=
  match (s.vc p v).hold with
  | .caravan d =>
    match s.car p d with
    | some i => (stageAt i v).map fun k => (d, i, k)
    | none => none
  | _ => none

/-- DISCARDED of R208: tiles for which some stage had begun a fetch or a hand-over and no stage had issued work. -/
def discardedOf (i : CarInst) : Nat :=
  let begun := (i.stages.map fun x => max x.fetched (max x.done x.rxTile + (if x.rxBytes != 0 then 1 else 0))).foldl max 0
  let worked := ((i.stages.filter fun x => !x.fetchOnly).map fun x => x.done + (if x.part then 1 else 0)).foldl max 0
  begun - worked

/-- The six DETAIL words of R209. -/
def carDetail (d : Nat) (i : CarInst) (stage core tile expected received : Nat) : List Nat :=
  let parts := (i.stages.zipIdx.map fun (x, k) => if x.part then 2 ^ k else 0).foldl (· + ·) 0
  let done := (i.stages.map fun x => leBytes 4 x.progress).flatten ++ List.replicate (32 - 4 * i.stages.length) 0
  let bytes := leBytes 2 d ++ leBytes 1 stage ++ leBytes 1 core ++ leBytes 4 tile ++ leBytes 2 expected
    ++ leBytes 2 received ++ leBytes 2 (discardedOf i) ++ leBytes 1 parts ++ leBytes 1 0 ++ done
  (List.range 6).map fun k => fieldOf bytes (8 * k) 8

/-- CAR_STATUS and CAR_STAGEs of the instance's cores at its end: `aborted` publishes DISCARDED. -/
def carEnded (s : State) (i : CarInst) (aborted : Bool) : State :=
  let cores := (i.stages.map (·.core)).dedup
  let s := i.stages.zipIdx.foldl (fun (s : State) (x, k) =>
    ((s.put (Reg.CAR_STAGE_DONE x.core k) x.progress).put (Reg.CAR_STAGE_PARTIAL x.core k) x.part.toNat).put
      (Reg.CAR_STAGE_AHEAD x.core k) (if aborted then x.fetched - x.entered else 0)) s
  cores.foldl (fun (s : State) c =>
    let s := if aborted then s.put (Reg.CAR_STATUS_DISCARDED c) (discardedOf i) else s
    let s := [Reg.CAR_STATUS_ACTIVE c, Reg.CAR_STATUS_FETCH_AHEAD c, Reg.CAR_STATUS_WIN_WAIT c,
      Reg.CAR_STATUS_CREDIT_WAIT c, Reg.CAR_STATUS_DRAINING c, Reg.CAR_STATUS_HOLD c].foldl (fun s f => s.put f 0) s
    s.bumpWrap (Reg.CAR_INSTANCES_COUNT c) 1) s

/-- The receive window and the send range of a stage: bank, first granule, granules (R189, R190). -/
def handRanges (g : Prog) (d k : Nat) (x : StageCtx) : List (Nat × Nat × Nat) :=
  let f := fun (o : Nat) => fieldOf g.image (g.caravanOff + fieldOf g.image (g.caravanOff + 8 + 4 * d) 4 + 64 + 64 * k + o) 2
  let ring : Nat → List (Nat × Nat × Nat) := fun o => if f o = 0xFFFF then [] else [(2, x.xBase + f o, f (o + 2))]
  [(0, x.aBase, x.aLen)] ++ ring 10 ++ ring 14

/-- The instance of definition d ends by abort (R207): granules in transit are discarded, every window and send range of its
stages and what their fetch parts brought into staging is cleared, the pins of its PREFETCHes are released. -/
def abortCar (s : State) (p d : Nat) : State :=
  match s.car p d with
  | none => s
  | some i =>
    let s := carEnded s i true
    let g := s.prog p i.handle
    let s := i.stages.zipIdx.foldl (fun (s : State) (x, k) =>
      (handRanges g d k x ++ x.brought).foldl (fun s r => clearPresent s x.core r.1 r.2.1 r.2.2) s) s
    let s := releasePins s fun o => o == .prefetch p (some d)
    s.setCar p d none

/-- Every instance of partition p but `own` is abandoned: with `log`, a record 0x0431 carries the caravan detail of each
(R209), and LAST_CODE of each of its cores takes the code, since no core of it raised the cause (DESIGN CHOICE, log entry 60). The number of discarded tiles is answered with the state. -/
def abortCars (s : State) (p seq : Nat) (own : Option Nat) (log : Bool) : State × Nat :=
  (carsOf s p).foldl (fun (x : State × Nat) d =>
    match x.1.car p d with
    | none => x
    | some i =>
      let s := if log && own != some d && !i.stages.isEmpty then
          raise x.1 ((i.stages.map (·.core)).dedup.map fun c => Reg.CAR_STATUS_LAST_CODE c)
            { code := 0x0431, part := p, seq := seq, detail := carDetail d i 0xFF 0xFF 0xFFFFFFFF 0 0 }
        else x.1
      (abortCar s p d, x.2 + discardedOf i)) (s, 0)

/-! ### Micro-batches (R227, R228) -/

/-- Partition offset of version entry i (R230). -/
def versionAddr (s : State) (p i : Nat) : Nat := s.get (Reg.SYN_VERSION_BASE_BASE p) * frameBytes + 32 * i

/-- A field of n bytes at byte o of version entry i. -/
def versionField (s : State) (p i o n : Nat) : Nat := pNat s p (versionAddr s p i + o) n

/-- REFS of a slot of a version entry changed by a function. -/
def setRefs (s : State) (p i slot : Nat) (f : Nat → Nat) : State :=
  pPut s p (versionAddr s p i + 16 + 2 * slot) 2 (f (versionField s p i (16 + 2 * slot) 2))

/-- A micro-batch boundary that has come about: with MB_SYNC = 1 it is pending, and holds virtual cores (R237). -/
def mbBoundary (s : State) (p : Nat) (holds : List Nat) : State :=
  if s.on (Reg.SYN_CTRL_MB_SYNC p) then
    let t := s.tr p
    s.setTr p { t with pending := t.pending ++ [⟨false, holds, false, false⟩] }
  else s

/-- Micro-batch m closes: its bindings are released (R227, R232), and its close is a boundary that holds the virtual cores
`holds` (R237). A virtual core that has executed its MB_END while another is still inside runs on, and holds only from the close:
the rule does not say from when it holds (DESIGN CHOICE, log entry 61). -/
def closeMb (s : State) (p m : Nat) (holds : List Nat) : State :=
  let b := s.mb p m
  let s := b.bound.foldl (fun s x => setRefs s p x.1 x.2 (· - 1)) s
  let s := s.setMb p m MB.empty
  mbBoundary (s.put (Reg.SYN_STATUS_OPEN_MB p) (openMbs s p).length) p holds

/-- The micro-batches in whose spans a virtual core of the launch stands are closed (R228). -/
def closeSpans (s : State) (p : Nat) (vs : List Nat) : State :=
  vs.foldl (fun s v =>
    match (s.vc p v).span with
    | some (m, _) => if (s.mb p m).isOpen then closeMb s p m [] else s
    | none => s) s

/-! ### Collective instances of a launch (R349) -/

/-- INSTANCES of partition p (R351): those that hold one of the 64 receive queues; the others wait for one (R344). -/
def instCount (s : State) (p : Nat) : State :=
  s.put (Reg.FAB_PART_STATUS_INSTANCES p) (s.colls.filter fun x => x.part == p && x.frq.isSome).length

/-- CTRL ABORT of an instance to every other member. -/
def tellAbort (s : State) (x : Coll) : State :=
  if x.quiet then s else x.members.zipIdx.foldl (fun (s : State) (m, r) =>
    if r = x.me then s else sendCtrl s x.part m.1 1 (instArgs x.tag x.inst)) s

/-- The transfers of D14 that fill the instance's receive queue stop. -/
def stopFill (s : State) (x : Coll) (q : Nat) : State :=
  let mine := fun (d : Desc) => d.part == x.part && d.fill == .receive && d.cookie == q
  let upd := fun (y : Option Xfer) => y.map fun z => if mine z.desc then stopXfer z else z
  let k := chKey x.core 14
  let c := SMap.get Chan2.empty s.dma k
  let s := { s with dma := SMap.set Chan2.empty s.dma k ⟨upd c.active, upd c.shadow⟩ }
  setDqRing s (dqKey (x.core / 16) 16) ((dqRing s (dqKey (x.core / 16) 16)).filter fun d => !mine d)

/-- An instance leaves: its receive queue is free again, and where it had a source range the pacing of D14. -/
def dropColl (s : State) (x : Coll) : State :=
  let s := { s with colls := s.colls.filter fun y => !(y.part == x.part && y.group == x.group && y.inst == x.inst) }
  let s := match x.frq with
    | some q =>
      let s := { s with levels := SMap.set 0 s.levels q 0 }
      if x.op != 5 || x.me == 0 then
        let s := stopFill s x q
        ((s.put (Reg.DMA_CH_PACE_ENABLE x.core 14) 0).put (Reg.DMA_CH_PACE_RUN x.core 14) 0).put
          (Reg.DMA_CH_STATUS_PACED x.core 14) 0
      else s
    | none => s
  instCount s x.part

/-- The instances of a stopped launch end, and the other members are told (DEDUCED from R349: a member whose instance
fails sends ABORT). -/
def dropColls (s : State) (p seq : Nat) : State :=
  (s.colls.filter fun x => x.part == p && x.seq == seq && x.ctl.isNone).foldl (fun s x => dropColl (tellAbort s x) x) s

/-! ### The Mirage check -/

/-- The Mirage check's context of partition p. -/
def State.mir (s : State) (p : Nat) : MirCtx := SMap.get MirCtx.empty s.mirage p
def State.setMir (s : State) (p : Nat) (x : MirCtx) : State := { s with mirage := SMap.set MirCtx.empty s.mirage p x }

/-- The instances of partition p's Mirage check leave. -/
def dropCtl (s : State) (p : Nat) : State := { s with colls := s.colls.filter fun x => !(x.part == p && x.ctl.isSome) }

/-- The Mirage check of partition p ends at its step. -/
def mirageEnd (s : State) (p : Nat) : State :=
  let x := s.mir p
  ((dropCtl s p).setMir p { x with lastTried := some x.m, stage := 0 }).put (Reg.HLT_MIRAGE_STATUS_RUNNING p) 0

/-- The Mirage check of partition p is not completed (R368): states do not change. -/
def mirageFail (s : State) (p code : Nat) : State :=
  raise (mirageEnd s p) [Reg.HLT_STATUS_LAST_CODE] { code := 0x0A33, cls := 0, part := p, detail := [code] }

/-! ### The end of a launch -/

/-- SEQ_STATUS of a core on which no launch runs. -/
def seqIdle (s : State) (c : Nat) : State :=
  let s := (s.put (Reg.SEQ_STATUS_RUNNING c) 0).put (Reg.SEQ_STATUS_VCORE c) 0xFF
  [Reg.SEQ_STATUS_WAIT_TOKEN c, Reg.SEQ_STATUS_WAIT_BARRIER c, Reg.SEQ_STATUS_SAVING c, Reg.CAR_STATUS_RENDEZVOUS c].foldl
    (fun s f => s.put f 0) s

/-- The DETAIL of a LAUNCH's completion record (R321). -/
def launchDetail (discarded v c : Nat) : Nat := discarded % 65536 + 65536 * (v % 256) + 2 ^ 24 * (c % 256)

/-- What a launch leaves when it ends in any way: idle sequencers, no contexts, no pins of it. -/
def clearLaunch (s : State) (p : Nat) : State :=
  let cores := launchCores s p
  let vs := match s.launch p with
    | some l => l.active
    | none => []
  let s := cores.foldl (fun (s : State) c => (clearNamed s c (s.eng c).named).setEng c { s.eng c with named := [] }) s
  let s := ((List.range 128).filter fun c => inPart s p c || cores.contains c).foldl (fun s c => seqIdle s c) s
  let s := vs.foldl (fun s v => s.setVc p v VC.empty) s
  let s := { s with shadows := SMap.drop (fun k => cores.contains k) s.shadows, skewed := SMap.drop (fun k => cores.contains k) s.skewed }
  let s := releaseNative (releasePins s fun o => o.part == p) p
  s.setLaunch p none

/-- The work of the launch stops in the next a-cycle on every virtual core (R177, R95, R207). Boundaries that are pending then are
dropped and HOLDING falls to 0: what becomes of them no rule says (DESIGN CHOICE, log entry 61). Answers DISCARDED. -/
def haltLaunch (s : State) (p : Nat) (own : Option Nat) (log : Bool) : State × Nat :=
  match s.launch p with
  | none => (s, 0)
  | some l =>
    let cores := launchCores s p
    let (s, n) := abortCars s p l.seq own log
    let s := cores.foldl (fun s c => abortVector (abortEngine s c) c) s
    let s := stopDma s p
    let s := closeSpans (s.setTr p { s.tr p with pending := [] }) p l.active
    let s := dropColls s p l.seq
    (clearLaunch (s.put (Reg.SYN_STATUS_HOLDING p) 0) p, l.discarded + n)

/-- A fault stops the command that runs on partition p (R177): its record, then the launch's end FAILED. With no launch
the record alone is written. `own` names the caravan definition whose stage raised it. -/
def stopCar (s : State) (last : List Fld) (p : Nat) (r : Rec) (own : Option Nat) : State :=
  match s.launch p with
  | none => raise s last { r with part := p }
  | some l =>
    let s := raise s last { r with part := p, seq := l.seq }
    let (s, n) := haltLaunch s p own true
    finishCmd s p l.seq failed r.code 0 (launchDetail n r.vcore r.core)

/-- A fault outside any caravan stage, or inside one: the instance in which virtual core r.vcore carries a stage is the
cause. The record then carries the values that the raising rule names (R374), and after them the caravan detail (R209). -/
def stopLaunch (s : State) (last : List Fld) (p : Nat) (r : Rec) : State :=
  match inCar s p r.vcore with
  | some (d, i, k) =>
    let x := i.stage k
    stopCar s last p { r with detail := r.detail ++ carDetail d i k x.core (r.tile.getD x.done) 0 0 } (some d)
  | none => stopCar s last p r none

/-- A launch aborted by the host (R324): no error record, and DISCARDED in its completion record (R209), which is written once
none of its accesses is in flight. -/
def abortLaunch (s : State) (p : Nat) : State :=
  match s.launch p with
  | none => s
  | some l =>
    let (s, n) := haltLaunch s p none false
    let c := s.cmd p l.seq
    settleLaunch (s.setCmd p l.seq { c with phase := .aborted, moved := launchDetail n 0xFF 0xFF }) p

/-- The launch ends without a record of its own (teardown, R398; loss of the link, R325). -/
def killLaunch (s : State) (p : Nat) : State := (haltLaunch s p none false).1

/-! ### Completion of a launch (R322) -/

/-- Every virtual core is at END with nothing under way, no instance of its launch runs and no boundary holds it. -/
def launchOver (s : State) (p : Nat) (l : Launch) : Bool :=
  l.active.all (fun v => (s.vc p v).done && (s.vc p v).quiet) && (carsOf s p).isEmpty
    && !(s.colls.any fun x => x.part == p && x.seq == l.seq && x.ctl.isNone)

/-- The launch commits COMPLETED where R322 lets it. -/
def tryCommit (s : State) (p : Nat) : State :=
  match s.launch p with
  | none => s
  | some l =>
    if launchOver s p l then
      finishCmd (clearLaunch s p) p l.seq completed 0 0 (launchDetail l.discarded 0xFF 0xFF)
    else s

end Sys2Proof.Machine
end

