-- ==== Sys2Proof/Machine/Caravan.lean ====
section
/-!
DEFINITION. Caravans (chapter "Caravans and Streaming"): definitions as a module carries them, receive windows and send
ranges, hand-overs with their tags, the start and the end of an instance, instruction-memory banks.
-/

namespace Sys2Proof.Machine

/-! ### Definitions (R185, R186) -/

/-- NDEF; 0 where the module has no CARAVAN section. -/
def ndef (g : Prog) : Nat := if (sectionOf g 3).2 = 0 then 0 else fieldOf g.image g.caravanOff 2

/-- Offset of definition d in the image. -/
def carDefOff (g : Prog) (d : Nat) : Nat := g.caravanOff + fieldOf g.image (g.caravanOff + 8 + 4 * d) 4

/-- STAGES of definition d. -/
def carStages (g : Prog) (d : Nat) : Nat := fieldOf g.image (carDefOff g d) 1

/-- A field of stage record k: n bytes at byte o. -/
def stageFld (g : Prog) (d k o n : Nat) : Nat := fieldOf g.image (carDefOff g d + 64 + 64 * k + o) n

/-- The fields of a stage record. -/
def stVcore (g : Prog) (d k : Nat) : Nat := stageFld g d k 0 1
def stInToA (g : Prog) (d k : Nat) : Bool := stageFld g d k 1 1 % 2 == 1
def stWinBase (g : Prog) (d k : Nat) : Nat := stageFld g d k 10 2
def stWinLen (g : Prog) (d k : Nat) : Nat := stageFld g d k 12 2
def stSendBase (g : Prog) (d k : Nat) : Nat := stageFld g d k 14 2
def stSendLen (g : Prog) (d k : Nat) : Nat := stageFld g d k 16 2
def stSendPos (g : Prog) (d k : Nat) : Nat := stageFld g d k 18 2
def stAuxUse (g : Prog) (d k : Nat) : Nat := stageFld g d k 20 2
def stInBytes (g : Prog) (d k : Nat) : Nat := stageFld g d k 24 4
def stOutBytes (g : Prog) (d k : Nat) : Nat := stageFld g d k 28 4

/-- Granules of one receive position, and the positions of the window: one where the translator places it in bank A
(R189, R190; the number there is the translator's choice). -/
def winPos (g : Prog) (d k : Nat) : Nat := (stInBytes g d k + 511) / 512
def winCount (g : Prog) (d k : Nat) : Nat := if stInToA g d k then 1 else stWinLen g d k / winPos g d k
def sendCount (g : Prog) (d k : Nat) : Nat := stSendLen g d k / stSendPos g d k

/-- The instructions of stage k's body; none where one does not decode. -/
def bodyOf (g : Prog) (d k : Nat) : Option (List (Nat × Tynte × Pred × Nat)) :=
  let off := carDefOff g d + stageFld g d k 4 4
  let n := stageFld g d k 8 2 / 8
  decodeAll n 0 ((List.range n).map fun i => fieldOf g.image (off + 8 * i) 8)

/-- The accumulator slots that a body names, ascending, and their number: the translator maps them onto as many slots of the
core (R195, R196). -/
def slotsUsed (g : Prog) (d k : Nat) : List Nat :=
  (List.range 4).filter fun t => ((bodyOf g d k).getD []).any fun x => match x.2.1 with
    | .opb f => f.slot == t
    | .drain f => f.slot == t
    | _ => false
def bodySlots (g : Prog) (d k : Nat) : Nat := (slotsUsed g d k).length

/-- The loop nest of the part of a body that runs: of its fetch part, or of its work part, or of code outside a body. -/
def VC.nest (c : VC) (fetch : Bool) : Option LoopCtx := if fetch then c.fetchLoop else c.loopc
def VC.setNest (c : VC) (fetch : Bool) (l : Option LoopCtx) : VC :=
  if fetch then { c with fetchLoop := l } else { c with loopc := l }

/-- The context in which a body instruction is evaluated: loop level 3 counts tiles, and S3 starts from PARAM. -/
def bodyVc (c : VC) (i : CarInst) (tau : Nat) (fetch : Bool) : VC :=
  let l := (c.nest fetch).getD ⟨[1, 1, 1], [0, 0, 0]⟩
  let pad := fun (d : Nat) (xs : List Nat) => xs ++ List.replicate (3 - xs.length) d
  let s3 := (SMap.get none c.streams 3).map fun d => { d with init := (i.param : Int) }
  { c with loopc := some ⟨pad 1 l.counts ++ [i.tiles], pad 0 l.ctrs ++ [tau]⟩, streams := SMap.set none c.streams 3 s3 }

/-- A GATHER of stage k's body whose DST field is `dst` belongs to the fetch part (R192): its destination lies in the send range.
Where a stream names it, its first value in the instance says so (DESIGN CHOICE, log entry 61: the translator divides a body
once). -/
def gatherFetches (s : State) (p : Nat) (g : Prog) (i : CarInst) (d k dst : Nat) : Bool :=
  match granule (bodyVc { s.vc p (stVcore g d k) with loopc := none } i 0 false) dst with
  | .x n => stSendBase g d k != 0xFFFF && stSendBase g d k ≤ n && n < stSendBase g d k + stSendLen g d k
  | _ => false

/-- Stage k's body has a work part (R192): an instruction other than those of control, LOAD, PREFETCH, INDEX_STREAM and
GATHERs into the send range. -/
def hasWork (s : State) (p : Nat) (g : Prog) (i : CarInst) (d k : Nat) : Bool :=
  ((bodyOf g d k).getD []).any fun x => match x.2.1 with
    | .nop | .endI | .loop _ | .endloop | .load _ | .prefetch _ | .indexStream _ => false
    | .gather f => !gatherFetches s p g i d k f.dst
    | _ => true

/-- PATH and HOLD_T of the OPB that takes its row operand from the stage's input (ADESC = 0xFFF), R190. -/
def inPath (g : Prog) (d k : Nat) : Nat × Nat :=
  match ((bodyOf g d k).getD []).find? fun x => match x.2.1 with
    | .opb f => f.adesc == 0xFFF
    | _ => false with
  | some (_, .opb f, _) => (f.path, f.holdT)
  | _ => (0, 0)

/-- The stages of definition d as an instance starts: on each core, lower stages come first in the auxiliary bank, the
slots and bank A (R195). -/
def freshStages (s : State) (p : Nat) (g : Prog) (i : CarInst) (d : Nat) : List StageCtx :=
  (List.range (carStages g d)).map fun k =>
    let v := stVcore g d k
    let c := (s.vc p v).core
    let lower := (List.range k).filter fun j => (s.vc p (stVcore g d j)).core == c
    let aLen := fun (j : Nat) => if stInToA g d j then (stInBytes g d j + 4095) / 4096 else 0
    { StageCtx.empty with
      vcore := v, core := c, xBase := (lower.map (stAuxUse g d)).foldl (· + ·) 0,
      slotBase := (lower.map (bodySlots g d)).foldl (· + ·) 0, fetchOnly := k + 1 < carStages g d && !hasWork s p g i d k,
      aBase := (lower.map aLen).foldl (· + ·) 0, aLen := aLen k, ended := k == 0 }

/-- Stage k changed. -/
def CarInst.mapStage (i : CarInst) (k : Nat) (f : StageCtx → StageCtx) : CarInst :=
  { i with stages := i.stages.zipIdx.map fun (x, j) => if j == k then f x else x }

/-! ### A body's granules and counters (R188, R189) -/

/-- The tile an instruction of a body works on: fetch instructions the tile whose fetch part began last, the others the
tile after DONE (R192, R199). -/
def tileOf (x : StageCtx) (fetch : Bool) : Nat := if fetch then x.fetched - 1 else x.done

/-- A granule that a body names: relative to the tile's window or send position, then to the stage's own X0. -/
def bodyGran (g : Prog) (d k : Nat) (x : StageCtx) (tau n : Nat) : Nat :=
  let win := stWinBase g d k
  let snd := stSendBase g d k
  let m :=
    if win != 0xFFFF && win ≤ n && n < win + stWinLen g d k then n + tau % winCount g d k * winPos g d k
    else if snd != 0xFFFF && snd ≤ n && n < snd + stSendLen g d k then n + tau % sendCount g d k * stSendPos g d k
    else n
  x.xBase + m

/-! ### Publishing and sending -/

/-- CAR_STATUS and CAR_STAGEs as the instance stands. -/
def carPublish (s : State) (i : CarInst) : State :=
  i.stages.zipIdx.foldl (fun (s : State) (x, k) =>
    let s := (s.put (Reg.CAR_STAGE_DONE x.core k) x.progress).put (Reg.CAR_STAGE_PARTIAL x.core k) x.part.toNat
    let s := s.put (Reg.CAR_STAGE_AHEAD x.core k) (x.fetched - x.entered)
    let here := i.stages.filter fun y => y.core == x.core
    let s := s.put (Reg.CAR_STATUS_FETCH_AHEAD x.core) (here.any fun y => y.fetching && y.entered < y.fetched).toNat
    let s := s.put (Reg.CAR_STATUS_WIN_WAIT x.core) (here.any (·.winWait)).toNat
    let s := s.put (Reg.CAR_STATUS_CREDIT_WAIT x.core) (here.any (·.credWait)).toNat
    s.put (Reg.CAR_STATUS_DRAINING x.core) (here.all fun y => y.progress == i.tiles).toNat) s

/-- The granules of position `pos` of stage k's receive window are all absent. -/
def posFree (s : State) (g : Prog) (d k : Nat) (x : StageCtx) (pos : Nat) : Bool :=
  if stInToA g d k then presentAll s x.core 0 x.aBase x.aLen 0
  else presentAll s x.core 2 (x.xBase + stWinBase g d k + pos * winPos g d k) (winPos g d k) 0

/-- The position of tile tau in the next stage's window is reserved, or can be now (R191). -/
def canReserve (s : State) (g : Prog) (d : Nat) (i : CarInst) (k tau : Nat) : Bool :=
  let x := i.stage (k + 1)
  tau < x.reserved ||
    (tau == x.reserved && (tau < winCount g d (k + 1) || tau < x.rxTile + winCount g d (k + 1))
      && posFree s g d (k + 1) x (tau % winCount g d (k + 1)))

/-- The reservation made. -/
def reserve (i : CarInst) (k tau : Nat) : CarInst :=
  i.mapStage (k + 1) fun x => { x with reserved := max x.reserved (tau + 1) }

/-- A hand-over tag (R203) of a granule with n bytes of tile tau. -/
def tagBits (tau n : Nat) (last : Bool) : Nat := tau % 2048 + 2048 * (n / 64 - 1) + (if last then 16384 else 0)

/-- Granules set out for stage k, in one event with the same place in the order of issue. -/
def setOut (i : CarInst) (k : Nat) (gs : List Transit) : CarInst := i.mapStage k fun y => { y with transit := y.transit ++ gs }

/-- The instance as an event leaves it that may have sent granules. -/
def sentCar (s : State) (p d : Nat) (i : CarInst) : State := { s.setCar p d (some i) with grants := s.grants + 1 }

/-- Full granules of the bytes that wait are sent while more bytes follow; with `fin` the rest goes as the tile's last
granule (R191, R203). The fuel is the number of bytes. -/
def cutGranules (order : Nat) : Nat → Nat → List Byte → Bool → List Transit × List Byte
  | 0, _, bs, _ => ([], bs)
  | f + 1, tau, bs, fin =>
    if 512 < bs.length then
      let (r, q) := cutGranules order f tau (bs.drop 512) fin
      (⟨tagBits tau 512 false, bs.take 512, none, order⟩ :: r, q)
    else if fin && !bs.isEmpty then ([⟨tagBits tau bs.length true, bs, none, order⟩], [])
    else ([], bs)

/-- Stage k sends bytes of tile tau, and with `fin` ends the tile's hand-over. -/
def carSend (order : Nat) (i : CarInst) (k tau : Nat) (bs : List Byte) (fin : Bool) : CarInst :=
  let x := i.stage k
  let buf := x.txBuf ++ bs
  let (gs, q) := cutGranules order buf.length tau buf fin
  let i := i.mapStage k fun x =>
    { x with txBuf := q, txSent := if fin then 0 else x.txSent + (gs.map fun y => y.data.length).foldl (· + ·) 0,
             txTile := if fin then tau + 1 else tau }
  setOut (reserve i k tau) (k + 1) gs

/-- Granule j of the tile that stage k's send range is sending. -/
def sendAt (g : Prog) (d k : Nat) (x : StageCtx) (j : Nat) : Nat :=
  x.xBase + stSendBase g d k + x.txTile % sendCount g d k * stSendPos g d k + j

/-- The next granule of stage k's send range may go but for a position in the next window (R191): it is present and not on its way
already, and the next one of its position is present, or the body has finished the tile, so that it is the tile's last. -/
def sendReady (s : State) (g : Prog) (d : Nat) (i : CarInst) (k : Nat) : Bool :=
  let x := i.stage k
  let j := x.txSent / 512
  let at_ := sendAt g d k x
  stSendBase g d k != 0xFFFF && x.txTile < i.tiles && presentAll s x.core 2 (at_ j) 1 1
    && !((i.stage (k + 1)).transit.any fun y => y.clear == some (at_ j))
    && ((j + 1 < stSendPos g d k && presentAll s x.core 2 (at_ (j + 1)) 1 1) || x.txTile < x.done)

/-- The granules of stage k's send range that may go now, each once the position is reserved (R191). The fuel bounds them. -/
def sendRange : Nat → State → Prog → Nat → CarInst → Nat → CarInst
  | 0, _, _, _, i, _ => i
  | f + 1, s, g, d, i, k =>
    let x := i.stage k
    let tau := x.txTile
    let out := stOutBytes g d k
    let j := x.txSent / 512
    let at_ := sendAt g d k x
    if !sendReady s g d i k || !canReserve s g d i k tau then i
    else
      let last := !(j + 1 < stSendPos g d k && presentAll s x.core 2 (at_ (j + 1)) 1 1)
      let n := if out ≤ 512 * j then 512 else min 512 (out - 512 * j)
      let data := (List.range n).map fun b => stgByte s x.core 2 (512 * at_ j + b)
      let i := i.mapStage k fun x =>
        { x with txSent := if last then 0 else x.txSent + 512, txTile := if last then tau + 1 else tau }
      sendRange f s g d (setOut (reserve i k tau) (k + 1) [⟨tagBits tau n last, data, some (at_ j), s.grants⟩]) k

/-- The end marker of every stage that has sent its last tile (R203). -/
def sendEnds (order : Nat) (i : CarInst) : CarInst :=
  (List.range (i.stages.length - 1)).foldl (fun i k =>
    let x := i.stage k
    if x.done == i.tiles && x.txTile == i.tiles && !x.txEnd then
      setOut (i.mapStage k fun x => { x with txEnd := true }) (k + 1) [⟨32768 + i.tiles % 2048, [], none, order⟩]
    else i) i

/-- A stage whose send range has a granule to go and no position to go to waits for credit (R216). -/
def rangeWaits (s : State) (g : Prog) (d : Nat) (i : CarInst) (k : Nat) : CarInst :=
  if stSendBase g d k = 0xFFFF then i
  else i.mapStage k fun x => { x with credWait := sendReady s g d i k && !canReserve s g d i k x.txTile }

/-- What the stream ports can send now is sent. -/
def carPump (s : State) (p d : Nat) : State :=
  match s.car p d with
  | none => s
  | some i =>
    let g := s.prog p i.handle
    let i := (List.range (i.stages.length - 1)).foldl (fun i k => rangeWaits s g d (sendRange (stSendLen g d k + 2) s g d i k) k) i
    let i := sendEnds s.grants i
    carPublish (sentCar s p d i) i

/-- Every instance of partition p is pumped. -/
def carPumpAll (s : State) (p : Nat) : State := (carsOf s p).foldl (fun s d => carPump s p d) s

/-- A work-part instruction of virtual core v may issue on core c: its input tile has wholly arrived (R200), and R211 does
not hold issue. Outside a caravan it may. -/
def stageGo (s : State) (p v c : Nat) : Bool :=
  match inCar s p v with
  | none => true
  | some (_, i, k) => (k == 0 || (i.stage k).done < (i.stage k).rxTile) && !s.on (Reg.CAR_STATUS_HOLD c)

/-- The stage that virtual core v stands in, which names its context on a core (R195); 0 outside a caravan. -/
def stageNo (s : State) (p v : Nat) : Nat := ((inCar s p v).map fun x => x.2.2).getD 0

/-- The item of a unit's queue that comes up for issue, with the others (R195): program order holds within each context,
and of the oldest items of the contexts that are wanted the one of the lowest stage that is ready comes first, and else
the one of the lowest stage. -/
def pickItem {α : Type} (stage : α → Nat) (want ready : α → Bool) (xs : List α) : Option (α × List α) :=
  let heads := xs.zipIdx.filter fun x => want x.1 && !(xs.take x.2).any fun y => stage y == stage x.1
  let lowest := fun (l : List (α × Nat)) => l.foldl (fun (b : Option (α × Nat)) x =>
    match b with
    | none => some x
    | some y => if stage x.1 < stage y.1 then some x else b) none
  let best := match lowest (heads.filter fun x => ready x.1) with
    | some x => some x
    | none => lowest heads
  best.map fun x => (x.1, xs.eraseIdx x.2)

/-- A work-part instruction of the stage issues: the stage enters the tile (R192). -/
def carEnter (s : State) (p v : Nat) : State :=
  match inCar s p v with
  | none => s
  | some (d, i, k) =>
    let ranged := stSendBase (s.prog p i.handle) d k != 0xFFFF
    let i := i.mapStage k fun x =>
      { x with part := true, entered := max x.entered (x.done + 1), winWait := false, credWait := x.credWait && ranged }
    carPublish (s.setCar p d (some i)) i

/-- Granules of bank b that the fetch part of virtual core v's stage has brought into staging (R207). -/
def carBrought (s : State) (p v b first n : Nat) : State :=
  match inCar s p v with
  | none => s
  | some (d, i, k) => s.setCar p d (some (i.mapStage k fun x =>
    if x.brought.contains (b, first, n) then x else { x with brought := (b, first, n) :: x.brought }))

/-- The tile of a stage on which instruction iid of virtual core v works (R209); none outside a caravan. -/
def tileOfPart (s : State) (p v iid : Nat) : Option Nat :=
  if (inCar s p v).isSome then some (SMap.get 0 (s.vc p v).ofTile iid) else none

/-- Bytes leave a stage on the stream network (R191). -/
def carOut (s : State) (p v : Nat) (bs : List Byte) : State :=
  match inCar s p v with
  | none => s
  | some (d, i, k) =>
    sentCar s p d (carSend s.grants i k (i.stage k).done bs false)

/-- The stream network grants credit for the whole result of virtual core v's instruction (R84, R100, R191). -/
def carRoom (s : State) (p v : Nat) : Bool :=
  match inCar s p v with
  | none => false
  | some (d, i, k) => k + 1 < i.stages.length && canReserve s (s.prog p i.handle) d i k (i.stage k).done

/-- What a work-part instruction of virtual core v that cannot issue waits for (R216): its input tile, and where it `sends`
a free position in the next window. -/
def carWaits (s : State) (p v : Nat) (sends : Bool) : State :=
  match inCar s p v with
  | none => s
  | some (d, i, k) =>
    let i := i.mapStage k fun x =>
      { x with winWait := x.winWait || (k != 0 && x.rxTile ≤ x.done), credWait := x.credWait || (sends && !carRoom s p v) }
    carPublish (s.setCar p d (some i)) i

/-- The credit taken at issue (R191). -/
def carTake (s : State) (p v : Nat) : State :=
  match inCar s p v with
  | none => s
  | some (d, i, k) => s.setCar p d (some (reserve i k (i.stage k).done))

/-- The input tile of virtual core v's stage has wholly arrived (R200). -/
def tileIn (s : State) (p v : Nat) : Bool :=
  match inCar s p v with
  | none => false
  | some (_, i, k) => (i.stage k).done < (i.stage k).rxTile

/-- The next n bytes of the current input tile, for an S_STREAM reader (R190). -/
def tileBytes (s : State) (p v n : Nat) : List Byte :=
  match inCar s p v with
  | none => []
  | some (d, i, k) =>
    let g := s.prog p i.handle
    let x := i.stage k
    let base := 512 * (x.xBase + stWinBase g d k + x.done % winCount g d k * winPos g d k) + x.readPos
    (List.range n).map fun b => stgByte s x.core 2 (base + b)

/-- The reader's position moves on; with `rel` every granule that it read from is released. -/
def tileRead (s : State) (p v n : Nat) (rel : Bool) : State :=
  match inCar s p v with
  | none => s
  | some (d, i, k) =>
    let g := s.prog p i.handle
    let x := i.stage k
    let g0 := x.xBase + stWinBase g d k + x.done % winCount g d k * winPos g d k + x.readPos / 512
    let s := if rel then clearPresent s x.core 2 g0 ((x.readPos + n + 511) / 512 - x.readPos / 512) else s
    s.setCar p d (some (i.mapStage k fun x => { x with readPos := x.readPos + n }))

/-! ### Landing (R204, R205) -/

/-- The tag that a correct granule carries in the next place of a stage that has received `got` bytes of tile tau. -/
def expectedTag (tiles inBytes tau got : Nat) : Nat :=
  if tau = tiles then 32768 + tiles % 2048
  else tagBits tau (min 512 (inBytes - got)) (decide (inBytes ≤ got + 512))

/-- The tile in bank A, in the row-operand layout of R66: rows are transposed on the paths that R159 says. Under row hold the
bytes that arrive are those of the layout of R93 (DESIGN CHOICE, log entry 60: R190 counts them so and says no more). -/
def toRows (path holdT : Nat) (data : List Byte) (es : Nat) : List Byte :=
  if path = 5 ∨ path = 6 ∨ holdT ≠ 0 then data
  else
    let k := data.length / (256 * es)
    (List.range data.length).map fun b =>
      let el := b / es
      data.getD ((el % 256 * k + el / 256) * es + b % es) 0

/-- A granule that stage k expects is written where its tile is received, and counted (R204). -/
def landGranule (s : State) (p d : Nat) (i : CarInst) (k : Nat) (data : List Byte) : State :=
  let g := s.prog p i.handle
  let x := i.stage k
  let full := decide (stInBytes g d k ≤ x.rxBytes + 512)
  let es := if stageFld g d k 22 1 = 0 then 1 else if stageFld g d k 22 1 = 1 then 2 else 4
  let s :=
    if stInToA g d k then
      if full then
        let s := stgWrite s x.core 0 (4096 * x.aBase) (toRows (inPath g d k).1 (inPath g d k).2 (x.rxData ++ data) es)
        (List.range x.aLen).foldl (fun s j => setPresent s x.core 0 (x.aBase + j) 0 0) s
      else s
    else
      let n := x.xBase + stWinBase g d k + x.rxTile % winCount g d k * winPos g d k + x.rxBytes / 512
      setPresent (stgWrite s x.core 2 (512 * n) data) x.core 2 n 0 0
  let i := if full && (i.stage (k - 1)).fetchOnly then
      i.mapStage (k - 1) fun y => { y with landed := y.landed + 1, entered := max y.entered (y.landed + 1) }
    else i
  s.setCar p d (some (i.mapStage k fun x =>
    { x with winWait := x.winWait && !full, rxTile := if full then x.rxTile + 1 else x.rxTile, rxBytes := if full then 0 else x.rxBytes + 512,
             rxData := if full || !stInToA g d k then [] else x.rxData ++ data }))

/-- HAND_OVER_GRANULE_LAND: the oldest granule in transit to a stage lands; `fault` is the tag it carries instead of the
one it was sent with, where the hardware failed. Of the end marker END alone is checked (R204). -/
def execHandOverGranuleLand (p : Part) (d k : Nat) (fault : Option Nat) (s : State) : Res :=
  match s.car p d with
  | none => .next s
  | some i =>
    let g := s.prog p i.handle
    let x := i.stage k
    match x.transit with
    | [] => .next s
    | t :: rest =>
      let tag := fault.getD t.tag
      if meshOlder s t.order (i.stage (k - 1)).core x.core then .next s else
      let s := match t.clear with
        | some n => clearPresent s (i.stage (k - 1)).core 2 n 1
        | none => s
      let want := expectedTag i.tiles (stInBytes g d k) x.rxTile x.rxBytes
      let i := i.mapStage k fun x => { x with transit := rest }
      if (if want ≥ 32768 then tag < 32768 else tag != want) then
        .next (stopCar (s.setCar p d (some i)) [Reg.CAR_STATUS_LAST_CODE x.core] p
          { code := 0x0420, core := x.core, vcore := x.vcore,
            detail := carDetail d i k x.core x.rxTile want tag } (some d))
      else if want ≥ 32768 then .next (s.setCar p d (some (i.mapStage k fun x => { x with ended := true })))
      else
        .next (carPump (landGranule s p d i k t.data) p d)

/-! ### Instances (R198 to R202) -/

/-- The participants of definition d of the running launch. -/
def participants (g : Prog) (d : Nat) : List Nat := (List.range (carStages g d)).map (stVcore g d)

/-- FETCH_PART_START (R199): the fetch part of the next tile begins after that of the one before, at most four tiles ahead. -/
def execFetchPartStart (p : Part) (d k : Nat) (s : State) : Res :=
  match s.car p d with
  | none => .next s
  | some i =>
    let x := i.stage k
    if k < i.stages.length && !x.fetching && x.fetched < i.tiles && (x.fetched < 4 || x.fetched < x.entered + 4) then
      let i := i.mapStage k fun x => { x with fetched := x.fetched + 1, fetching := true }
      let s := s.setVc p x.vcore { s.vc p x.vcore with fetchLoop := none }
      .next (carPublish (s.setCar p d (some i)) i)
    else .next s

/-- END of a stage's fetch part: every fetch instruction of the tile has been issued. -/
def carFetchEnd (s : State) (p v d : Nat) (i : CarInst) (k : Nat) : State :=
  if (i.stage k).fetching && (s.vc p v).fetchLoop.isNone then
    let i := i.mapStage k fun x => { x with fetching := false }
    carPublish (s.setCar p d (some i)) i
  else s

/-- The conditions of R201. -/
def carOver (s : State) (p d : Nat) (i : CarInst) : Bool :=
  let g := s.prog p i.handle
  !i.stages.isEmpty && i.stages.zipIdx.all fun (x, k) =>
    x.done == i.tiles && x.ended && x.transit.isEmpty && (s.vc p x.vcore).quiet
      && (handRanges g d k x).all (fun r => presentAll s x.core r.1 r.2.1 r.2.2 0)
      && (List.range (bodySlots g d k)).all fun t => s.get (Reg.ENG_STATUS_SLOT_STATE x.core (x.slotBase + t)) == 0

/-- The instance ends (R201): its participants retire their CARAVAN and go on, in the loop nest where they stood, and its
PREFETCHes' pins are released. -/
def closeCar (s : State) (p d : Nat) (i : CarInst) : State :=
  let s := carEnded s i false
  let s := i.stages.foldl (fun (s : State) x =>
    let c := s.vc p x.vcore
    retire (s.setVc p x.vcore { c with hold := .free, loopc := c.outer, outer := none, fetchLoop := none }) x.core) s
  let s := i.stages.foldl (fun (s : State) x =>
    s.put (Reg.SEQ_STATUS_VCORE x.core) (((i.stages.filter fun y => y.core == x.core).map (·.vcore)).foldl min x.vcore)) s
  let s := releasePins s fun o => o == .prefetch p (some d)
  s.setCar p d none

/-- CARAVAN_INSTANCE_END (R201): the participants continue past CARAVAN. -/
def execCaravanInstanceEnd (p : Part) (d : Nat) (s : State) : Res :=
  match s.car p d with
  | none => .next s
  | some i =>
    if carOver s p d i then
      .next (tryCommit (closeCar s p d i) p)
    else .next s

/-- A caravan tile's END (R154, R187): the body ends the tile once nothing of it is under way, and its held last granule
goes. -/
def carTileEnd (s : State) (p v d : Nat) (i : CarInst) (k : Nat) : State :=
  let g := s.prog p i.handle
  let x := i.stage k
  if (s.vc p v).quietTo x.done && (s.vc p v).loopc.isNone && x.done < i.tiles && (stInBytes g d k == 0 || x.done < x.rxTile) then
    let tau := x.done
    let streams := !x.txBuf.isEmpty
    let i := if streams then carSend s.grants i k tau [] true else i
    let i := i.mapStage k fun x =>
      { x with done := tau + 1, part := false, entered := if x.fetchOnly then x.entered else max x.entered (tau + 1), readPos := 0,
               txTile := if k + 1 < i.stages.length && !streams && stSendBase g d k == 0xFFFF then tau + 1 else x.txTile }
    carPump (retire (s.setCar p d (some i)) x.core) p d
  else s

/-! ### Instruction-memory banks (R212 to R215) -/

/-- The banks of core c. -/
def State.bank (s : State) (c : Nat) : BankCtx := SMap.get BankCtx.empty s.banks c
def State.setBank (s : State) (c : Nat) (b : BankCtx) : State := { s with banks := SMap.set BankCtx.empty s.banks c b }

/-- The virtual cores whose code goes into one bank with that of virtual core v of handle h: v, and the participants of its
caravan definitions that the running launch places on the same core (R195, R215), as keys of R137. -/
def bankKeys (s : State) (key : Nat) : List Nat :=
  let p := key / 8192
  let h := key / 128 % 64
  let v := key % 128
  let g := s.prog p h
  let mates := (hostedOn s p (s.vc p v).core).filter fun w => w != v && (List.range (ndef g)).any fun d =>
    (participants g d).contains v && (participants g d).contains w
  key :: mates.map (savedKey p h)

/-- A load of the inactive bank for a key begins. -/
def loadBank (s : State) (c key : Nat) (waits : Bool) : State :=
  (s.setBank c { s.bank c with loading := some key, ready := none, waiting := waits }).put (Reg.SEQ_STATUS_RELOAD c) 1

/-- BANK_LOAD (R212): a load aimed at the active bank is refused with status 0x0440 and counted. -/
def execBankLoad (c : Core) (bank : Nat) (v : Vcore) (s : State) : Res :=
  let b := s.bank c
  let p := (partOfCore s c).getD 0
  if bank % 2 = b.active then
    .next ((s.bump (Reg.CAR_IMEM_BUSY c) 1).emit (.response "BANK_LOAD" [0x0440]))
  else .next (loadBank s c (savedKey p (((s.launch p).map (·.handle)).getD 0) v) b.waiting)

/-- The virtual core of its partition's launch that core c runs, with the key of its code. -/
def runningOn (s : State) (c : Nat) : Option (Nat × Nat × Nat) :=
  (partOfCore s c).bind fun p => (s.launch p).bind fun l =>
    let v := s.get (Reg.SEQ_STATUS_VCORE c)
    if v = 0xFF then none else some (p, v, savedKey p l.handle v)

/-- The control core loads the inactive bank with core c's next program while the present one runs (R136, R215): of the
virtual cores that the core hosts, those not yet ended, the next in ascending order whose code is not in the active bank. -/
def preload (s : State) (c : Nat) : State :=
  match runningOn s c with
  | none => s
  | some (p, v, key) =>
    let b := s.bank c
    let h := key / 128 % 64
    let others := (hostedOn s p c).filter fun w => !(s.vc p w).done && !b.code.contains (savedKey p h w)
    match ((others.filter fun w => v < w) ++ others).head? with
    | none => s
    | some w =>
      let k := savedKey p h w
      if !b.code.contains key || b.loading == some k || b.ready == some k then s else loadBank s c k false

/-- The banks switch: the inactive bank's complete load becomes active, and the next program begins to load. -/
def switchBank (s : State) (c : Nat) : State :=
  let b := s.bank c
  let s := s.setBank c ⟨1 - b.active, (b.ready.map (bankKeys s)).getD b.code, none, none, false⟩
  preload ((s.put (Reg.SEQ_STATUS_ACTIVE_BANK c) (1 - b.active)).bumpWrap (Reg.CAR_IMEM_SWITCHES c) 1) c

/-- At a command boundary core c goes on with the code of a key (R213): where the active bank holds it, at once; where the
inactive bank holds it, after the switch; else the core waits for its load. -/
def wantCode (s : State) (c key : Nat) : State :=
  let b := s.bank c
  if b.code.contains key then preload (s.setBank c { b with waiting := false }) c
  else match b.ready, b.loading with
    | some k, _ => if (bankKeys s k).contains key then switchBank s c else loadBank s c key true
    | none, some k => if (bankKeys s k).contains key then s.setBank c { b with waiting := true } else loadBank s c key true
    | none, none => loadBank s c key true

/-- Nothing of handle h of partition p stays in any bank. -/
def dropCode (s : State) (p h : Nat) : State :=
  let mine := fun (k : Nat) => k / 128 == p * 64 + h
  (List.range 128).foldl (fun (s : State) c =>
    let b := s.bank c
    let left := b.loading.filter fun k => !mine k
    (s.setBank c { b with code := b.code.filter fun k => !mine k, loading := left, ready := b.ready.filter fun k => !mine k }).put
      (Reg.SEQ_STATUS_RELOAD c) left.isSome.toNat) s

/-- BANK_LOAD_COMPLETE (R213): the load is complete, and a core that waits for it at a command boundary switches. -/
def execBankLoadComplete (c : Core) (s : State) : Res :=
  let b := s.bank c
  match b.loading with
  | none => .next s
  | some v =>
    let s := (s.setBank c { b with loading := none, ready := some v }).put (Reg.SEQ_STATUS_RELOAD c) 0
    .next (if b.waiting then switchBank s c else s)

/-- Core c stands at a command boundary (R213): no launch runs on it; or nothing of its virtual cores is under way, and the
one that it runs has ended, holds at the end of its phase, or has just been turned to. A core that runs a caravan instance
does not (R215). -/
def atBoundary (s : State) (c : Nat) : Bool :=
  match runningOn s c with
  | none => true
  | some (p, v, key) =>
    let x := s.vc p v
    s.vcs.all (fun e => e.2.core != c || e.2.quiet) && s.get (Reg.CAR_STATUS_ACTIVE c) == 0
      && (x.done || x.hold == .barrier || x.hold == .stepEnd || !(s.bank c).code.contains key)

/-- The load of the inactive bank is of core c's next program: of the virtual core that it has turned to, or, where the core
has nothing more to run, of any. -/
def nextProgram (s : State) (c key : Nat) : Bool :=
  match runningOn s c with
  | none => true
  | some (p, v, k) => (s.vc p v).done || (bankKeys s key).contains k

/-- BANK_SWITCH (R213): at a command boundary the banks switch to a complete load of the next program; the core waits for one
that still runs. -/
def execBankSwitch (c : Core) (s : State) : Res :=
  let b := s.bank c
  if atBoundary s c then
    match b.ready, b.loading with
    | some k, _ => .next (if nextProgram s c k then switchBank s c else s)
    | none, some _ => .next (s.setBank c { b with waiting := true })
    | none, none => .next s
  else .next s

end Sys2Proof.Machine
end

