-- ==== Sys2Proof/Machine/Fence.lean ====
section
/-!
DEFINITION. What many chapters share: the parts of master records and update requests that end with a code (R252, R262,
R263), flows that close (R335), cores that turn Amber or Grey (R354, R355), and Ochre mode (R371).
-/

namespace Sys2Proof.Machine

/-! ### Master records and update requests -/

/-- Partition offset of master record i (R252), and its fields. -/
def masterAddr (s : State) (p i : Nat) : Nat := s.get (Reg.OAS_MASTER_TABLE_BASE p) * frameBytes + 128 * i
def masterFld (s : State) (p i o n : Nat) : Nat := pNat s p (masterAddr s p i + o) n
def setMaster (s : State) (p i o n v : Nat) : State := pPut s p (masterAddr s p i + o) n v

/-- The state of a version slot: bits 1:0 and 3:2 of STATE (R230), and its tag. -/
def slotState (s : State) (p i slot : Nat) : Nat := versionField s p i 6 1 / 4 ^ slot % 4
def setSlotState (s : State) (p i slot v : Nat) : State :=
  let old := versionField s p i 6 1
  pPut s p (versionAddr s p i + 6) 1 (old - old / 4 ^ slot % 4 * 4 ^ slot + v * 4 ^ slot)
def slotTag (s : State) (p i slot : Nat) : Nat := versionField s p i (8 + 4 * slot) 4

/-- The partition offset of the tag of a slot, and whether it has been written (R231). -/
def tagAddr (s : State) (p i slot : Nat) : Nat := versionAddr s p i + 8 + 4 * slot
def tagWritten (s : State) (p i slot : Nat) : Bool := SMap.get false s.tags (p * 2 ^ 40 + tagAddr s p i slot)

/-- The tags that a write of n bytes at partition offset x touches have been written. -/
def noteTags (s : State) (p x n : Nat) : State :=
  let first := (x - versionAddr s p 0) / 32
  let near := ((List.range (n / 32 + 2)).map (first + ·)).filter (· < s.get (Reg.SYN_VERSION_CTRL_ENTRIES p))
  let hit := (near.flatMap fun i => [tagAddr s p i 0, tagAddr s p i 1]).filter fun a => x < a + 4 && a < x + n
  { s with tags := hit.foldl (fun m a => SMap.set false m (p * 2 ^ 40 + a) true) s.tags }

/-- The VALID version entry whose BASE is b (R231). -/
def versionOf (s : State) (p b : Nat) : Option Nat :=
  (List.range (s.get (Reg.SYN_VERSION_CTRL_ENTRIES p))).find? fun i =>
    versionField s p i 5 1 % 2 == 1 && versionField s p i 0 5 == b

/-- The VALID master record whose WBASE is b (R253). -/
def masterOf (s : State) (p b : Nat) : Option Nat :=
  (List.range (s.get (Reg.OAS_CTRL_RECORDS p))).find? fun i => masterFld s p i 5 1 % 2 == 1 && masterFld s p i 0 5 == b

/-- The waiting requests of partition p. -/
def oasQueue (s : State) (p : Nat) : List OasReq := SMap.get [] s.oasQueues p
def oasDepth (s : State) (p : Nat) : Nat :=
  (oasQueue s p).length + (match s.oasActive with
    | some x => if x.req.part = p then 1 else 0
    | none => 0)
def setOasQueue (s : State) (p : Nat) (q : List OasReq) : State :=
  let s := { s with oasQueues := SMap.set [] s.oasQueues p q }
  s.put (Reg.OAS_QUEUE_DEPTH p) (oasDepth s p)

/-- A request ends with a code (R263): its record, with what else its rule adds, LAST_CODE of the master record and of the code's
chapter, and the end of its launch if that still runs. Its record carries what R263 says also where its virtual core stands in
a caravan by then: no stage raised it. -/
def endRequest (s : State) (r : OasReq) (code rec_ : Nat) (more : List Nat := []) (hw : Bool := false) : State :=
  let mstep := masterFld s r.part rec_ 8 4
  let s := setMaster s r.part rec_ 44 2 code
  let e : Rec := { code := code, core := r.core, vcore := r.vcore, seq := r.seq, detail := [rec_, r.step, mstep] ++ more,
                   hw := hw }
  let last := chapterLast r.part (portOf s r.part) code
  if (s.launch r.part).any fun l => l.seq == r.seq then stopCar s last r.part e none
  else raise s last { e with part := r.part }

/-- The oasis die has nothing in hand. -/
def oasIdle (s : State) : State :=
  match s.oasActive with
  | none => s
  | some x =>
    let s := { s with oasActive := none }
    let s := s.put (Reg.OAS_QUEUE_DEPTH x.req.part) (oasDepth s x.req.part)
    let s := s.put Reg.OAS_STATUS_CORRECTING 0
    (s.put Reg.OAS_STATUS_BUSY (!s.oasXfers.isEmpty).toNat).put Reg.OAS_STATUS_ACTIVE_P 0xFF

/-- A RETIRING target returns to the state it held when it was chosen: READY with its old tag, or EMPTY (R233, R262). -/
def giveBack (s : State) (x : OasAct) : State :=
  match versionOf s x.req.part x.req.wt.base with
  | none => s
  | some i =>
    let s := setSlotState s x.req.part i (x.slot % 2) (if x.slot < 2 then 1 else 0)
    setMaster s x.req.part x.record 6 1 0

/-- Every request of partition p that has not reached WRITING ends with a code (R263); with code 0 silently (R398). -/
def cancelRequests (s : State) (p code : Nat) (hw : Bool := false) : State :=
  let q := oasQueue s p
  let s := setOasQueue s p []
  let fin := fun (s : State) (r : OasReq) (i : Nat) => if code = 0 then s else endRequest s r code i [] hw
  let s := match s.oasActive with
    | some x =>
      if x.req.part == p && x.phase != 2 then fin (oasIdle (giveBack s x)) x.req x.record
      else s
    | none => s
  q.foldl (fun s r => fin s r r.record) s

/-! ### Core health (R354, R355) -/

/-- The list L of R134: the partition's cores that are not Grey (R353 counts Amber as Live). -/
def placeList (s : State) (p : Nat) : List Nat := upCores s p

/-- The pairs of R362: (primary, shadow). -/
def pairsOf : List Nat → List (Nat × Nat)
  | a :: b :: r => (a, b) :: pairsOf r
  | _ => []

/-- Core c takes part in the running launch of partition p, as a core, in a gang, or as a shadow (R355, R363). -/
def inLaunch (s : State) (p c : Nat) : Bool :=
  let cores := launchCores s p
  cores.contains c || cores.any fun d => SMap.get 0 s.shadows d == c + 1

/-- The core's staging, presence records, slots, index FIFO and instruction banks are cleared (R355 step 2, R398). -/
def clearCore (s : State) (c : Nat) : State :=
  let s := clearStaging s c
  let s := (List.range 4).foldl (fun s t => freeSlot s c t) s
  let s := { s with stg := SMap.drop (fun k => k / 2 ^ 21 == c) s.stg, gtag := SMap.drop (fun k => k / 4096 == c) s.gtag,
                    acc := SMap.drop (fun k => k / 2 ^ 18 == c) s.acc, slotOwner := SMap.set 0 s.slotOwner c 0 }
  ((s.setEng c EngCtx.empty).setVu c VecCtx.empty).setBank c BankCtx.empty

/-- Both register sets of a channel are dropped at once (R308): IDLE, or DISABLED where `off` holds it. -/
def dropChannel (s : State) (c n : Nat) (off : Bool) : State :=
  let s := s.setChan c n Chan2.empty
  let s := (s.put (Reg.DMA_CH_STATUS_STATE c n) (if off then 4 else 0)).put (Reg.DMA_CH_STATUS_SHADOW c n) 0
  let s := if off then s.put (Reg.DMA_CH_CTRL_DISABLE c n) 1 else s
  (s.put (Reg.DMA_CH_CTRL_HALTED c n) 0).putFree (Reg.DMA_CH_BYTES_MOVED c n)

/-- The descriptors that a core's channels hold. -/
def loadedOn (s : State) (c : Nat) : List Desc :=
  (List.range 16).flatMap fun n =>
    let x := s.chan c n
    (x.active.map fun y => [y.desc]).getD [] ++ (x.shadow.map fun y => [y.desc]).getD []

/-- The module stops with a fault: the launch of partition p whose work stands on the cores `cs` (R177, R210). -/
def stopOnCore (s : State) (p c : Nat) (hostFence : Bool) : State :=
  let v := match s.launch p with
    | some l => (l.active.find? fun v => (s.vc p v).core == c).getD 0xFF
    | none => 0xFF
  let own := (carsOf s p).find? fun d => match s.car p d with
    | some i => i.stages.any fun x => x.core == c
    | none => false
  match own with
  | some d =>
    let i := (s.car p d).getD ⟨0, 0, 0, []⟩
    let k := (i.stages.findIdx? fun x => x.core == c).getD 0
    stopCar s [Reg.CAR_STATUS_LAST_CODE c] p
      { code := 0x0430, core := c, vcore := (i.stage k).vcore,
        detail := carDetail d i k c (i.stage k).done 0 0 } (some d)
  | none =>
    stopLaunch s [Reg.HLT_STATUS_LAST_CODE] p { code := 0x0A20, core := c, vcore := v, hw := !hostFence }

/-- Host copies with a transfer on the core's channels stop with 0x0A20. -/
def stopCopies (s : State) (c : Nat) (hostFence : Bool) : State :=
  ((loadedOn s c).filter fun d => d.vcore == 0xFF && !d.firmware).foldl (fun s d =>
    if (s.cmd d.part d.seq).phase == .running then
      failCopy s [Reg.HLT_STATUS_LAST_CODE] d.part d.seq { code := 0x0A20, core := c, hw := !hostFence }
    else copyEnded s d) s

/-- What the end of transfers leaves to record (R321, R324), in every partition. -/
def settleAll (s : State) : State := (List.range 16).foldl settleLaunch s

/-- AMBER_COUNT and LIVE_COUNT. -/
def healthCounts (s : State) : State :=
  let n := fun (x : Nat) => ((List.range 128).filter fun c => coreState s c == x).length
  (s.put Reg.HLT_STATUS_AMBER_COUNT (n 1)).put Reg.HLT_STATUS_LIVE_COUNT (128 - n 2)

/-- Ochre mode is entered, on the first cause (R371). -/
def enterOchre (s : State) (reason : Nat) (hw : Bool) : State :=
  if ochre s then s else
    let s := (s.put Reg.HLT_STATUS_OCHRE 1).put Reg.HLT_STATUS_OCHRE_REASON reason
    let s := raise s [Reg.HLT_STATUS_LAST_CODE] { code := 0x0A40, cls := 3, detail := [reason], hw := hw }
    let s := (List.range 16).foldl (fun s p =>
      let s := if (s.launch p).isSome then
          stopCar s [Reg.HLT_STATUS_LAST_CODE] p { code := 0x0A40, hw := hw } none else s
      let s := cancelRequests s p 0x0A40 hw
      let s := s.put (Reg.HLT_SIROCCO_STATE p) 0
      let s := (dropCtl s p).put (Reg.HLT_MIRAGE_STATUS_RUNNING p) 0
      { s with sirocco := SMap.set none s.sirocco p none }) s
    portsDown (removeFrames s)

/-- Core c turns Grey (R355): `code` is the event's code, `port` the fencing port of a host fence. Ochre mode is judged
by the caller, once. -/
def turnGrey (s : State) (c code : Nat) (fence : Option Nat) : State :=
  if coreState s c = 2 then s else
    let works := inLaunch s ((partOfCore s c).getD 0xFF) c
    let s := s.put (Reg.HLT_CORE_STATE_STATE c) 2
    let host := fence.isSome
    let part := (partOfCore s c).getD 0xFF
    let s := raise s [Reg.HLT_STATUS_LAST_CODE]
      { code := 0x0A11, cls := 3, part := part, core := c, hw := !host,
        detail := [code, SMap.get 0 s.failCode c, fence.getD 0] }
    let s := if part < 16 then
        let s := if works then stopOnCore s part c host else s
        let s := (List.range 64).foldl (fun (s : State) h =>
          let g := s.prog part h
          if g.state = 2 then s.setProg part h { g with marked := true } else s) s
        s
      else s
    let s := stopCopies s c host
    let s := (List.range 16).foldl (fun s n => dropChannel s c n true) s
    settleAll (healthCounts (clearCore s c))

/-- LIVE_COUNT is judged against MIN_LIVE (R355 step 5). -/
def judgeLive (s : State) (hw : Bool) : State :=
  if s.isWritten Reg.HLT_CTRL_MIN_LIVE && s.get Reg.HLT_STATUS_LIVE_COUNT < s.get Reg.HLT_CTRL_MIN_LIVE
  then enterOchre s 1 hw else s

/-- Core c turns Amber with its record. -/
def turnAmber (s : State) (c code : Nat) : State :=
  let s := s.put (Reg.HLT_CORE_STATE_STATE c) 1
  let s := raise s [Reg.HLT_STATUS_LAST_CODE]
    { code := 0x0A10, cls := 3, part := (partOfCore s c).getD 0xFF, core := c,
      detail := [code, SMap.get 0 s.failCode c, 0] }
  healthCounts { s with failCode := SMap.set 0 s.failCode c code }

/-- An attributed failure of core c (R354): Live to Amber, Amber to Grey. -/
def attributed (s : State) (c code : Nat) : State :=
  if coreState s c = 0 then turnAmber s c code
  else if coreState s c = 1 then judgeLive (turnGrey s c code none) true
  else s

/-- A Sirocco run is requested (R357): pending, unless one is pending or running. -/
def requestSirocco (s : State) (p : Nat) : State :=
  if s.get (Reg.HLT_SIROCCO_STATE p) = 0 then s.put (Reg.HLT_SIROCCO_STATE p) 1 else s

/-- Groups of three, the remainder in the last (R359). -/
def triosOf : Nat → List Nat → List (List Nat)
  | 0, _ => []
  | n + 1, l => if l.length < 6 then [l] else l.take 3 :: triosOf n (l.drop 3)

/-- A Sirocco run of partition p begins (R357 to R359), or is refused where the tested set is too small. What the cores
compute is the firmware's; their digests come with SIROCCO_JUDGE. Staging contents do not survive. -/
def siroccoBegin (s : State) (p : Nat) : State :=
  let cores := upCores s p
  if cores.length < 3 then
    raise (s.put (Reg.HLT_SIROCCO_STATE p) 0) [Reg.HLT_STATUS_LAST_CODE] { code := 0x0A12, part := p }
  else
    let s := (drawKey (drawKey s p).2 p).2
    let k := s.get (Reg.HLT_SIROCCO_RUNS p) % cores.length
    let groups := triosOf cores.length (cores.drop k ++ cores.take k)
    let s := cores.foldl clearStaging s
    { s with sirocco := SMap.set none s.sirocco p (some ⟨cores, groups, [], [], false⟩) }.put (Reg.HLT_SIROCCO_STATE p) 2

/-- The paired mismatch of R365 between a primary and its shadow. -/
def pairedMismatch (s : State) (p v c shadow : Nat) (detail : List Nat) : State :=
  let s := stopLaunch s [Reg.HLT_STATUS_LAST_CODE] p
    { code := 0x0A21, core := c, vcore := v, detail := detail ++ [c + 256 * shadow] }
  let amber := fun (s : State) (x : Nat) => if coreState s x = 0 then turnAmber s x 0x0A21 else s
  requestSirocco (amber (amber s c) shadow) p

/-- The bytes of a digest tile of virtual core v of core c before their effect leaves the core (R364): in a paired launch the digest
of the shadow's bytes is compared with that of the primary's, and where they differ the launch stops, and the answer is false
(R365). The shadow makes the same bytes but for what an event has said (log entry 63). -/
def pairTile (s : State) (p v c : Nat) (bs : List Byte) : State × Bool :=
  match SMap.get 0 s.shadows c, s.launch p with
  | sh + 1, some l =>
    let n := SMap.get 0 l.pairTiles v
    let s := s.setLaunch p (some { l with pairTiles := SMap.set 0 l.pairTiles v (n + 1) })
    match SMap.get none s.skewed c with
    | none => (s, true)
    | some (i, b) =>
      let s := { s with skewed := SMap.set none s.skewed c none }
      let own := xd128 l.pairKey bs
      let its := xd128 l.pairKey (bs.set i b)
      if own = its then (s, true)
      else (pairedMismatch s p v c sh [n, own % 2 ^ 64, own / 2 ^ 64, its % 2 ^ 64, its / 2 ^ 64], false)
  | _, _ => (s, true)

/-! ### Steps of the a-clock (R22 to R24, R91, R211, R411) -/

/-- The slowest step requested of core c by coupling, die temperature and power control (R292, R411). -/
def requested (s : State) (c : Nat) : Nat :=
  max (max (s.get (Reg.THM_COUPLING_REQ (c / 4))) (s.get (Reg.THM_STATUS_DIE_REQ (c / 16)))) (s.get Reg.PWR_STATUS_PWR_REQ)

/-- The cores that a caravan instance of partition p runs on, gangs whole. -/
def instCores (s : State) (p d : Nat) : List Nat :=
  ((s.car p d).map fun i => i.stages.flatMap fun x =>
    if (s.vc p x.vcore).gang then (List.range 4).map (x.core / 4 * 4 + ·) else [x.core]).getD []

/-- The four cores of every gang that runs. -/
def gangCores (s : State) : List (List Nat) :=
  (List.range 16).flatMap fun p => match s.launch p with
    | some l => (l.active.filter fun v => (s.vc p v).gang).map fun v => (List.range 4).map ((s.vc p v).core / 4 * 4 + ·)
    | none => []

/-- The pairs of every paired launch (R363). -/
def pairCores (s : State) : List (List Nat) := s.shadows.map fun e => [e.1, e.2 - 1]

/-- The groups of cores that change their step together. -/
def stepGroups (s : State) : List (List Nat) :=
  gangCores s ++ pairCores s ++ (List.range 16).flatMap fun p => (carsOf s p).map fun d => instCores s p d

/-- A set of cores grown by every group that meets it. -/
def growGroup (gs : List (List Nat)) : Nat → List Nat → List Nat
  | 0, cs => cs
  | n + 1, cs =>
    let more := (gs.filter fun g => g.any cs.contains).flatMap id
    if more.all cs.contains then cs else growGroup gs n ((List.range 128).filter fun c => cs.contains c || more.contains c)

/-- The cores that change their step together with core c, itself among them. -/
def stepGroup (s : State) (c : Nat) : List Nat := growGroup (stepGroups s) 128 [c]

/-- Every core of a list takes the slowest step requested among them. -/
def takeStep (s : State) (cs : List Nat) : State :=
  let st := (cs.map (requested s)).foldl max 0
  cs.foldl (fun (s : State) c => s.put (Reg.CLK_ACLK_STEP_STEP c) st) s

end Sys2Proof.Machine
end

