-- ==== Sys2Proof/Machine/RegBase.lean ====
section
/-!
DEFINITION. How a host write of a register is judged (R8 to R14, R314, R430, R438, R439) before it acts: by STAGE, by the
owner of the page, by Ochre mode, half by half, field by field.
-/

namespace Sys2Proof.Machine

/-! ### Which register (R428) -/

/-- The indexes of a register of an array at distance r from its first. -/
def idxOf : List (Nat × Nat) → Nat → Option (List Nat)
  | [], r => if r = 0 then some [] else none
  | (n, st) :: ds, r => if r / st < n then (idxOf ds (r % st)).map (r / st :: ·) else none

/-- The register map at a BAR0 offset, and its indexes. -/
def findReg (off : Nat) : Option (RRow × List Nat) :=
  regRows.findSome? fun r => if r.base ≤ off then (idxOf r.dims (off - r.base)).map fun i => (r, i) else none

/-- The partition and the core whose pages hold a register. -/
def regPart (s : State) (r : RRow) (i : List Nat) : Option Nat :=
  match r.kind with
  | .part => some (i.getD 0 0)
  | .core => partOfCore s (16 * i.getD 0 0 + i.getD 1 0)
  | _ => none
def regCore (r : RRow) (i : List Nat) : Option Nat :=
  match r.kind with
  | .core => some (16 * i.getD 0 0 + i.getD 1 0)
  | _ => none

/-- The partition has an owning port: it is neither FREE nor in TEARDOWN (R430). -/
def owned (s : State) (p : Nat) : Bool := partState s p != 0 && partState s p != 5

/-- The block of queue q is assigned to port b (R313). -/
def queueOf (s : State) (b : Port) (q : Nat) : Bool :=
  s.on (Reg.QUE_BLOCK_ASSIGNED (q / 256)) && s.get (Reg.QUE_BLOCK_PORT (q / 256)) == b.num

/-- The partition of queue q. -/
def queuePart (s : State) (q : Nat) : Nat := s.get (Reg.QUE_BLOCK_PARTITION (q / 256))

/-- A field of a register map as it stands in the register file. -/
def FRow.fld (f : FRow) (key : Nat) : Fld := ⟨key, f.lo, f.hi - f.lo + 1, f.rst⟩

/-! ### The value written (R11) -/

/-- The fields that a write of size z sets, with their values; `held` is the lower half that the port holds for the
register, `cur` a field's present value. -/
def written (fs : List FRow) (z : Size) (data : Nat) (held : Option Nat) (cur : FRow → Nat) : List (FRow × Nat) :=
  match z with
  | .full => fs.map fun f => (f, bitsOf data f.lo (f.hi - f.lo + 1))
  | .low => (fs.filter fun f => f.hi < 32).map fun f => (f, bitsOf data f.lo (f.hi - f.lo + 1))
  | .high => (fs.filter fun f => 32 ≤ f.hi).map fun f =>
      if 32 ≤ f.lo then (f, bitsOf (data % 2 ^ 32 * 2 ^ 32) f.lo (f.hi - f.lo + 1))
      else
        let low := match held with
          | some h => bitsOf h f.lo (32 - f.lo)
          | none => cur f % 2 ^ (32 - f.lo)
        (f, low + 2 ^ (32 - f.lo) * (data % 2 ^ (f.hi - 31)))

/-- The lower half that port b holds after a write. -/
def holdHalf (s : State) (off : Nat) (w : HostWr) : State :=
  { s with halves := SMap.set none s.halves w.port.num (match w.size with
      | .low => some (off, w.data.toNat % 2 ^ 32)
      | _ => none) }

/-! ### Ochre mode and STAGE 4 (R438) -/

/-- The registers in which a write takes effect in Ochre mode and in STAGE 4. -/
def ochreOk (name : String) : Bool :=
  ["SEC_MBX_REQ", "SEC_MBX_CTRL", "QUE_SEL", "QUE_SQ_BASE", "QUE_CQ_BASE", "QUE_CFG", "HLT_ERR_RING", "HLT_ERR_CTRL",
    "HLT_ERR_PTR", "HLT_DUMP_ADDR", "HLT_DUMP_CTRL", "MEM_ZEROIZE", "OAS_XFER", "PWR_LIMIT", "PWR_REMOVE",
    "PWR_RESET"].contains name

/-- A field that acts in every register: W1C fields, and counters written 0. -/
def ochreField (x : FRow × Nat) : Bool := x.1.acc == .w1c || (x.1.acc == .ctr && x.2 == 0)

/-- The field's write would change something. -/
def changes (cur : FRow → Nat) (x : FRow × Nat) : Bool :=
  match x.1.acc with
  | .ro => false
  | .w1c => false
  | .w1s => x.2 != 0
  | .wo => true
  | .ctr => x.2 != 0
  | _ => x.2 != cur x.1

/-- The module takes only the writes of R438. -/
def restricted (s : State) : Bool := ochre s || stage s == 4

/-! ### Judging a write -/

/-- A write that takes effect: the register's key in the register file, its indexes, and its fields' values. -/
structure Wr where
  name : String
  key : Nat
  idx : List Nat
  part : Nat
  core : Nat
  vals : List (FRow × Nat)
  off : Nat
  w : HostWr
deriving DecidableEq, Repr

/-- The value that the write gives the field at bit lo; none where it leaves the field alone. -/
def Wr.val (x : Wr) (lo : Nat) : Option Nat := (x.vals.find? fun v => v.1.lo == lo).map (·.2)

/-- The write gives the field at bit lo the value 1. -/
def Wr.one (x : Wr) (lo : Nat) : Bool := x.val lo == some 1

/-- A record of R439 with the values that its rule adds. -/
def regRecord (s : State) (last : List Fld) (code part core off : Nat) (w : HostWr) (more : List Nat) : State :=
  let r := accessRec code part core w 0 (off + (if w.size = .high then 4 else 0))
  raise s last { r with detail := r.detail ++ more }

/-- The record of R439 for a write that takes effect but for what its register's rule refuses. -/
def wrRecord (s : State) (last : List Fld) (code : Nat) (x : Wr) (more : List Nat) : State :=
  regRecord s last code x.part x.core x.off x.w more

/-- A host write of the register at a BAR0 offset is judged: the records it raises, and the fields it sets. RWL fields are
kept here to the stored value after LOCK (R8). -/
def judge (s : State) (off : Nat) (w : HostWr) : State × Option Wr :=
  match findReg off with
  | none => (s, none)
  | some (r, i) =>
    if stage s = 0 then (s, none)
    else
      let held := match SMap.get none s.halves w.port.num with
        | some (o, d) => if o = off then some d else none
        | none => none
      let s := holdHalf s off w
      let core := (regCore r i).getD 0xFF
      let refuse := fun (s : State) (code part : Nat) => (regRecord s (portLast w.port) code part core off w [], (none : Option Wr))
      let sel := s.get (Reg.QUE_SEL_QUEUE w.port)
      let part := (regPart s r i).getD 0xFF
      let charged := if r.kind == .queue then queuePart s sel else if part < 16 && partState s part = 0 then 0xFF else part
      if r.kind == .queue && !s.isWritten (Reg.QUE_SEL_QUEUE w.port) then refuse s 0x0801 0xFF
      else if r.kind == .queue && !queueOf s w.port sel then
        refuse s 0x0815 (if s.on (Reg.QUE_BLOCK_ASSIGNED (sel / 256)) then queuePart s sel else 0xFF)
      else if part < 16 && !(owned s part && portOf s part == w.port) then refuse s 0x0815 charged
      else if r.kind == .core && part = 0xFF && r.name == "DMA_CH_CTRL" then refuse s 0x0815 0xFF
      else
        let key := match r.kind with
          | .queue => queueBase sel + (off - 0x100800)
          | .banked => off + bankOff w.port
          | _ => off
        let cur := fun (f : FRow) => s.get (f.fld key)
        let vals := written r.fields w.size w.data.toNat held cur
        let locked := part < 16 && s.on (Reg.SEC_PART_STATUS_LOCK part)
        let (s, vals) :=
          if restricted s && !ochreOk r.name then
            (if vals.any fun x => !ochreField x && changes cur x then
                regRecord s [Reg.HLT_STATUS_LAST_CODE] 0x0A41 charged core off w [] else s, vals.filter ochreField)
          else (s, vals)
        let bad := locked && vals.any fun x => x.1.acc == .rwl &&
          (x.2 != cur x.1 || (x.1.undef && !s.isWritten (x.1.fld key)))
        let s := if bad then regRecord s [Reg.SEC_STATUS_LAST_CODE, Reg.SEC_PART_STATUS_LAST_CODE part] 0x0B33 charged core off w [] else s
        let vals := if locked then vals.filter fun x => x.1.acc != .rwl else vals
        (s, some ⟨r.name, key, i, charged, core, vals, off, w⟩)

/-- One field stored as its access code says (R8); a W1S field is left to the action it requests. -/
def storeField (s : State) (key : Nat) (x : FRow × Nat) : State :=
  let f := x.1.fld key
  match x.1.acc with
  | .ro => s
  | .w1s => s
  | .w1c => if x.2 = 1 then s.put f 0 else s
  | _ => (s.put f x.2).markWritten f

/-- Every field of a write stored but those at the low bits listed, which the register's own rule treats. -/
def storeBut (s : State) (x : Wr) (los : List Nat) : State :=
  (x.vals.filter fun v => !los.contains v.1.lo).foldl (fun s v => storeField s x.key v) s

/-- The write as its access codes say. -/
def storeAll (s : State) (x : Wr) : State := storeBut s x []

/-- Every field of a list has been written. -/
def allWritten (s : State) (fs : List Fld) : Bool := fs.all fun f => s.isWritten f

/-- The state after a host write: judged, then given to the register's own rule. -/
def hostWrite (s : State) (off : Nat) (w : HostWr) (act : State → Wr → State) : State :=
  match judge s off w with
  | (s, some x) => act s x
  | (s, none) => s

end Sys2Proof.Machine
end

