-- ==== Sys2Proof/Machine/MemOps.lean ====
section
/-!
DEFINITION. What every access to the fast tier shares: token buckets (R282, R283), errors found in DRAM and in the cache
(R288 to R291), and pins (R285).
-/

namespace Sys2Proof.Machine

/-- The erg whose slot holds device address a: its home slice (R284). -/
def sliceOfAddr (a : Nat) : Nat := a / ergBytes

/-- The line of device address a is cached. -/
def cachedAt (s : State) (a : Nat) : Bool := (SMap.get CLine.empty s.cache (a / 64)).cached

/-! ### Token buckets (R282, R283) -/

/-- The bucket of partition p for erg e. -/
def bucket (s : State) (p e : Nat) : Nat := SMap.get 0 s.tokens (p * 8 + e)
def setBucket (s : State) (p e n : Nat) : State := { s with tokens := SMap.set 0 s.tokens (p * 8 + e) n }

/-- A bucket never holds more than its depth: what a lowered BURST cuts off is lost. -/
def capBucket (s : State) (p e : Nat) : State := setBucket s p e (min (bucket s p e) (bucketDepth s p e))

/-! ### Errors (R288 to R291) -/

/-- LAST_CODE of the slice that holds a, and of partition p. -/
def memLast (p a : Nat) : List Fld := [Reg.CCH_STATUS_LAST_CODE (sliceOfAddr a), Reg.MEM_PART_STATUS_LAST_CODE p]

/-- A dirty line's data is lost: the line leaves the cache without write-back, and memory reads as DRAM held it. -/
def loseLine (s : State) (ln : Nat) : State :=
  let c := SMap.get CLine.empty s.cache ln
  let s := { s with cache := SMap.set CLine.empty s.cache ln CLine.empty }
  if c.dirty then storeAt s ((List.range 64).map (64 * ln + ·)) c.dram else s

/-- What the memory finds at device address a: the counters, and the code of a refused access. DRAM is read only where the line is
not cached. -/
def memFindAt (s : State) (a : Nat) (ev : MemKind) : State × Nat :=
  let ch := (chanOf s a).1
  let e := sliceOfAddr a
  let line := SMap.get CLine.empty s.cache (a / 64)
  match ev with
  | .corrected => (if line.cached then s else s.bump (Reg.MEM_CHAN_ERR_CORRECTED e (ch % 32)) 1, 0)
  | .retried n => (if line.cached then s else s.bump (Reg.MEM_CHAN_ERR_CRC_RETRIES e (ch % 32)) (min n 8), 0)
  | .crcFailed => if line.cached then (s, 0) else
      ((s.bump (Reg.MEM_CHAN_ERR_CRC_RETRIES e (ch % 32)) 8).bump (Reg.MEM_CHAN_ERR_UNCORRECTABLE e (ch % 32)) 1, 0x0720)
  | .uncorrectable => if line.cached then (s, 0) else (s.bump (Reg.MEM_CHAN_ERR_UNCORRECTABLE e (ch % 32)) 1, 0x0720)
  | .cacheCorrected => (s.bump (Reg.CCH_ERR_CORRECTED e) 1, 0)
  | .cacheUncorrectable =>
    if !line.cached then (s, 0)
    else if line.dirty then ((loseLine s (a / 64)).bump (Reg.CCH_ERR_UNCORRECTABLE e) 1, 0x0722)
    else (s.bump (Reg.CCH_ERR_CORRECTED e) 1, 0)

/-- What the memory finds in an access whose byte i lies at device address `at_ i`: the counters, the code that refuses the
access, and the byte at which it does. -/
def findAll (s : State) (at_ : Nat → Option Nat) : List (Nat × MemKind) → State × Nat × Nat
  | [] => (s, 0, 0)
  | (i, k) :: r =>
    match at_ i with
    | some a =>
      if a < fastEnd then
        match memFindAt s a k with
        | (t, 0) => findAll t at_ r
        | (t, code) => (t, code, i)
      else findAll s at_ r
    | none => findAll s at_ r
def memFinds (s : State) (at_ : Nat → Option Nat) (ev : MemEvent) : State × Nat × Nat := findAll s at_ ev.finds

/-- A write meets no error of DRAM before it lands (R290). -/
def writeEvent (ev : MemEvent) : MemEvent :=
  ⟨ev.finds.filter fun e => e.2 != .uncorrectable && e.2 != .crcFailed⟩

/-- Byte i of an access to n bytes from offset x, or to the offsets of a list. -/
def span (x n : Nat) (i : Nat) : Option Nat := if i < n then some (x + i) else none
def among (xs : List Nat) (i : Nat) : Option Nat := xs[i]?

/-- The DETAIL of a refused access (R289): device address, channel, and the offset of a partition requester. -/
def memDetail (s : State) (a : Nat) (x : Option Nat) : List Nat :=
  [a, (chanOf s a).1] ++ (x.map fun y => [y]).getD []

/-- What the memory finds where partition p reads byte i at offset `at_ i`: the counters, and the code and DETAIL of a refused
access. -/
def readFinds (s : State) (p : Nat) (at_ : Nat → Option Nat) (ev : MemEvent) : State × Nat × List Nat :=
  match (at_ 0).map fun x => (x, xlate s p x) with
  | some (x, none) => (s, 0x0710, pageDetail p x)
  | _ =>
    let (t, code, i) := memFinds s (fun i => (at_ i).bind (xlate s p)) ev
    let x := (at_ i).getD 0
    (t, code, memDetail s ((xlate s p x).getD 0) (some x))

/-- The code that refuses a list of device addresses, with its DETAIL (R17, R275, R278, R281); `slow` says that the
requester may reach the oasis window. -/
def devRefusal (s : State) (slow : Bool) (as : List Nat) : Option (Nat × List Nat) :=
  match as.find? fun a => slowBase ≤ a && a < slowBase + slowBytes && !slow with
  | some a => some (0x0711, [a])
  | none =>
    if (as.any fun a => a < fastEnd) && !s.on Reg.MEM_INTERLEAVE_VALID then some (0x0701, [])
    else (as.find? fun a => a < fastEnd && (ownerOf s a).isNone).map fun a => (0x0710, [a])

/-- The code that refuses the offsets of partition p, with its DETAIL (R275, R279). -/
def partRefusal (s : State) (p : Nat) (xs : List Nat) : Option (Nat × List Nat) :=
  if xs.isEmpty then none
  else if !s.on Reg.MEM_INTERLEAVE_VALID then some (0x0701, [])
  else (xs.find? fun x => (xlate s p x).isNone).map fun x => (0x0710, pageDetail p x)

/-- Partition p becomes FAULTED with a code, where it is not FAULTED already; its running launch stops with the faulting
code (R290). -/
def becomeFaulted (s : State) (p code : Nat) : State :=
  let s := if s.on (Reg.MEM_PART_STATUS_FAULTED p) then s else
    { s with faultCode := SMap.set 0 s.faultCode p code }.put (Reg.MEM_PART_STATUS_FAULTED p) 1
  if (s.launch p).isSome then
    stopLaunch s [Reg.MEM_PART_STATUS_LAST_CODE p] p { code := SMap.get 0 s.faultCode p }
  else s

/-- After the access that found a loss was refused (R291): its line's owner becomes FAULTED. -/
def afterLoss (s : State) (a code : Nat) : State :=
  if code = 0x0722 then
    match ownerOf s a with
    | some p => becomeFaulted s p 0x0722
    | none => s
  else s

/-- The faulting code that refuses launches, loads and oasis requests of partition p, 0 where it is not FAULTED. -/
def faultedCode (s : State) (p : Nat) : Nat :=
  if s.on (Reg.MEM_PART_STATUS_FAULTED p) then SMap.get 0 s.faultCode p else 0

/-! ### Pins (R285) -/

/-- Pinned ways of the set of line ln, and the bytes that partition p pins in its slice. -/
def pinnedWays (s : State) (ln : Nat) : Nat :=
  (s.cache.filter fun e => e.1 % 16384 == ln % 16384 && e.1 * 64 / ergBytes == ln * 64 / ergBytes
    && !e.2.pins.isEmpty).length + nativeWays s (ln * 64 / ergBytes)
def pinnedBytes (s : State) (p ln : Nat) : Nat :=
  64 * ((s.cache.filter fun e => e.1 * 64 / ergBytes == ln * 64 / ergBytes && e.2.pins.any fun o => o.part == p).length
    + SMap.get 0 s.nativePins (p * 8 + ln * 64 / ergBytes))

/-- One line pinned; none where a limit of R285 would be passed. -/
def pinLine (s : State) (o : PinOwner) (ln : Nat) : Option State :=
  let old := SMap.get CLine.empty s.cache ln
  if old.pins.isEmpty && 18 ≤ pinnedWays s ln then none
  else if !(old.pins.any fun q => q.part == o.part) && s.get (Reg.CCH_PIN_LIMIT_LIMIT o.part) * 0x100000 < pinnedBytes s o.part ln + 64
  then none
  else
    let s := access s false [64 * ln]
    let c := SMap.get CLine.empty s.cache ln
    let c := { c with pins := if c.pins.contains o then c.pins else o :: c.pins }
    some { s with cache := SMap.set CLine.empty s.cache ln c }

/-- Every line of a list pinned, or none. -/
def pinAll (s : State) (o : PinOwner) : List Nat → Option State
  | [] => some s
  | ln :: r => match pinLine s o ln with
    | some s => pinAll s o r
    | none => none

/-- A request that pins partition offsets [x, x + n): a code, and the state (unchanged where the code is not 0). -/
def pinRange (s : State) (p : Nat) (o : PinOwner) (x n : Nat) : Nat × State :=
  if !s.isWritten (Reg.CCH_PIN_LIMIT_LIMIT p) || !s.on Reg.MEM_INTERLEAVE_VALID then (0x0701, s)
  else
    let units := (List.range ((x + n + 63) / 64 - x / 64)).map fun k => (x / 64 + k) * 64
    match units.mapM (xlate s p) with
    | none => (0x0710, s)
    | some as =>
      match pinAll s o (as.map (· / 64)) with
      | some t => (0, pinCounts t)
      | none => (0x0712, s)

/-- Every line of partition offsets [x, x + n) is pinned (R285: the tensor is resident). -/
def residentRange (s : State) (p x n : Nat) : Bool :=
  (List.range ((x + n + 63) / 64 - x / 64)).all fun k =>
    match xlate s p ((x / 64 + k) * 64) with
    | some a => !(SMap.get CLine.empty s.cache (a / 64)).pins.isEmpty
    | none => false

end Sys2Proof.Machine
end

