-- ==== Sys2Proof/Machine/Approx.lean ====
section
/-!
DEFINITION. The approximated functions of R103 on fp32 bit patterns. The spec fixes each as a function of its operand
(R104) and bounds its error in ulps (R103); which value inside the bound it delivers is free (Config, log entry 6). The
exact values are computed here to some 70 significant bits, in fixed point with 96 binary places.
-/

namespace Sys2Proof.Machine

/-! ### Exact values -/

/-- One with 96 binary places, and ln 2 (rounded down). -/
def fix1 : Int := 2 ^ 96
def fixLn2 : Int := 54916777467707473351141471128

/-- The product of two numbers with 96 binary places. -/
def fixMul (x y : Int) : Int := x * y / 2 ^ 96

/-- ± m × 2^e with 96 binary places, rounded toward minus infinity. -/
def fixOf (neg : Bool) (m : Nat) (e : Int) : Int :=
  let v : Int := if neg then -(m : Int) else m
  if 0 ≤ e + 96 then v * 2 ^ (e + 96).toNat else v / 2 ^ (-(e + 96)).toNat

/-- The exponential series of r / 2^96 from the term `t` with number i on; the fuel is the number of terms. -/
def expSeries (r : Int) : Nat → Nat → Int → Int
  | 0, _, _ => 0
  | n + 1, i, t => t + expSeries r n (i + 1) (fixMul t r / (i + 1 : Nat))

/-- e^x for x with 96 binary places: significand with 96 binary places and a power of two. -/
def expFix (x : Int) : Int × Int :=
  let k := x / fixLn2
  (expSeries (x - k * fixLn2) 32 0 fix1, k)

/-- The value n / d to 100 binary places beyond the quotient's own size. -/
def ratio (neg : Bool) (n d : Nat) (e : Int) : FV :=
  let up := 100 + Nat.log2 d
  .fin neg (n * 2 ^ up / d) (e - up)

/-- A significand and a power of two as a value. -/
def ofExp (x : Int × Int) : FV := .fin false x.1.toNat (x.2 - 96)

/-- Significand and power of two as a number with 96 binary places, where the power is not negative. -/
def wide (x : Int × Int) : Nat := x.1.toNat * 2 ^ x.2.toNat

/-- e^x, capped where it is out of the range of fp32 in any case. -/
def expV (n : Bool) (m : Nat) (e : Int) : FV :=
  if 2 ^ 10 * fix1 ≤ (fixOf n m e).natAbs then .fin false 1 (if n then -1000 else 1000) else ofExp (expFix (fixOf n m e))

/-- 1 ÷ (1 + e^(−x)) for x with 96 binary places. -/
def sigmoidV (x : Int) : FV :=
  if 2 ^ 9 * fix1 ≤ (x.natAbs : Int) then (if x < 0 then .fin false 1 (-700) else .fin false 1 0)
  else
    let t := wide (expFix x.natAbs)
    ratio false (if x < 0 then 2 ^ 96 else t) (2 ^ 96 + t) 0

/-- tanh x: by its series below 2^(−12), else from e^(2|x|). -/
def tanhV (n : Bool) (m : Nat) (e : Int) : FV :=
  let a := fixOf false m e
  if a < 2 ^ 84 then
    let u := fixMul a a
    .fin n (m * (fix1 - u / 3 + 2 * fixMul u u / 15).toNat) (e - 96)
  else if 2 ^ 7 * fix1 ≤ a then .fin n 1 0
  else
    let t := wide (expFix (2 * a))
    ratio n (t - 2 ^ 96) (t + 2 ^ 96) 0

/-- The series of the area hyperbolic tangent of z / 2^96 from the term with number i on: `t` is z to that power. -/
def atanhSeries (z2 : Int) : Nat → Nat → Int → Int
  | 0, _, _ => 0
  | n + 1, i, t => t / (2 * i + 1 : Nat) + atanhSeries z2 n (i + 1) (fixMul t z2)

/-- ln x of a positive value: x = s × 2^k with 1 ≤ s < 2, and ln s = 2 artanh((s − 1) ÷ (s + 1)). -/
def logV (m : Nat) (e : Int) : FV :=
  let l := Nat.log2 m
  let s := fixOf false m (-(l : Int))
  let z := (s - fix1) * 2 ^ 96 / (s + fix1)
  FV.ofScaled (2 * atanhSeries (fixMul z z) 40 0 z + ((l : Int) + e) * fixLn2) (-96)

/-- 1 ÷ √x of a positive value. -/
def rsqrtV (m : Nat) (e : Int) : FV :=
  let (m, e) := if e % 2 = 0 then (m, e) else (2 * m, e - 1)
  .fin false (Nat.sqrt (2 ^ 240 / m)) (-(e / 2) - 120)

/-- 2 × 0.7978846 × (x + 0.044715 x³), the argument of the logistic form of GELU, with 96 binary places. -/
def geluArg (x : Int) : Int :=
  let cube := fixMul x (fixMul x x)
  2 * 7978846 * (x + 44715 * cube / 1000000) / 10000000

/-- x × logistic(w). -/
def gate (n : Bool) (m : Nat) (e w : Int) : FV := FV.mul (.fin n m e) (sigmoidV w)

/-- GELU and SILU; beyond ± 512 the logistic factor is 0 or 1 in any case. -/
def geluV (n : Bool) (m : Nat) (e : Int) : FV :=
  gate n m e (if 2 ^ 9 * fix1 ≤ fixOf false m e then (if n then -(2 ^ 10 * fix1) else 2 ^ 10 * fix1) else geluArg (fixOf n m e))
def siluV (n : Bool) (m : Nat) (e : Int) : FV := gate n m e (fixOf n m e)

/-! ### The bound (R103) -/

/-- The exponent of one ulp of fp32 at a value. -/
def ulpExp (m : Nat) (e : Int) : Int := max ((Nat.log2 m : Int) + e) (-126) - 23

/-- fp32 bits as a value, an infinity as 2^128: the number next above the largest finite one. -/
def numOf (b : Nat) : FV :=
  match dec32 b with
  | .inf n => .fin n 1 128
  | v => v

/-- The fp32 number b lies within n ulps of the exact value ± m × 2^e. Some 70 bits of that value are known: a 2^20-th of an ulp
is kept for their error, so that what passes lies within the bound (log entry 6). -/
def within (n : Nat) (b : Nat) (neg : Bool) (m : Nat) (e : Int) : Bool :=
  match numOf b with
  | .fin a k f =>
    let u := ulpExp m e - 20
    let g := min u (min e f)
    decide ((FV.at a k f g - FV.at neg m e g).natAbs ≤ (n * 2 ^ 20 - 1) * 2 ^ (u - g).toNat)
  | _ => false

/-- What an approximated function delivers: the free value where it lies within n ulps of the exact value, else the number
nearest that value; a zero has the exact value's sign (R440). -/
def approx (n free : Nat) (v : FV) : Nat :=
  match v with
  | .fin neg m e =>
    if m ≠ 0 ∧ within n (free % 2 ^ 32) neg m e then
      (match dec32 (free % 2 ^ 32) with
        | .fin _ 0 _ => enc32 (.fin neg 0 0)
        | w => enc32 w)
    else enc32 v
  | v => enc32 v

/-- The value of an approximated function with bound n: the table of R440 at its special operands, else the free value
inside the bound about the exact value. -/
def special (f : Nat → Nat) (n : Nat) (exact : Bool → Nat → Int → FV) (negInf posInf : Nat) (zero : Bool → Nat)
    (neg : Option Nat) (a : Nat) : Nat :=
  match dec32 a with
  | .nan => nan32
  | .inf true => negInf
  | .inf false => posInf
  | .fin s 0 _ => zero s
  | .fin true m e => neg.getD (approx n (f a) (exact true m e))
  | .fin false m e => approx n (f a) (exact false m e)

/-- Signed zero and one half. -/
def zero32 (neg : Bool) : Nat := if neg then 2 ^ 31 else 0
def half32 : Nat := 0x3F000000

def fRecip : Nat → Nat :=
  special Config.recip 1 (fun n m e => FV.div (.fin n 1 0) (.fin false m e)) (zero32 true) (zero32 false) inf32 none
def fRsqrt : Nat → Nat := special Config.rsqrt 1 (fun _ => rsqrtV) nan32 (zero32 false) inf32 (some nan32)
def fExp : Nat → Nat := special Config.exp 2 expV (zero32 false) (inf32 false) (fun _ => one32) none
def fLog : Nat → Nat := special Config.log 2 (fun _ => logV) nan32 (inf32 false) (fun _ => inf32 true) (some nan32)
def fTanh : Nat → Nat := special Config.tanh 4 tanhV (f32neg one32) one32 zero32 none
def fSigmoid : Nat → Nat :=
  special Config.sigmoid 4 (fun n m e => sigmoidV (fixOf n m e)) (zero32 false) one32 (fun _ => half32) none
def fGelu : Nat → Nat := special Config.gelu 4 geluV (zero32 true) (inf32 false) zero32 none
def fSilu : Nat → Nat := special Config.silu 4 siluV (zero32 true) (inf32 false) zero32 none

end Sys2Proof.Machine
end

