-- ==== Sys2Proof/Machine/Scale.lean ====
section
/-!
DEFINITION. Scale records: the checks at issue (R50, R51), the values an instruction latches (R52, R56), observation
(R41, R53), and the step update (R55, R57, R58). The records are bytes of the partition's fast-tier memory.
-/

namespace Sys2Proof.Machine

/-- Partition offset of scale record i (R50). -/
def scaleAddr (s : State) (p i : Nat) : Nat := s.get (Reg.ENG_SCALE_BASE_BASE p) * frameBytes + 256 * i

/-- A field of n bytes at byte o of scale record i. -/
def scaleField (s : State) (p i o n : Nat) : Nat := pNat s p (scaleAddr s p i + o) n

/-- A positive, normal, finite fp32 number. -/
def posNormal (b : Nat) : Bool := f32normal b && b / 2 ^ 31 % 2 == 0

/-- INIT = 1, H from 1 to 16, FLOOR and INIT_SCALE positive and normal (R51). -/
def scaleValid (s : State) (p i : Nat) : Bool :=
  scaleField s p i 9 1 % 2 == 1 && 1 ≤ scaleField s p i 10 1 && scaleField s p i 10 1 ≤ 16
    && posNormal (scaleField s p i 12 4) && posNormal (scaleField s p i 16 4)

/-- The refusal where partition p has no scale record i at all, else 0 (R50, R51). -/
def scaleAbsent (s : State) (p i : Nat) : Nat :=
  if !s.on (Reg.ENG_SCALE_CTRL_ENABLE p) || !s.isWritten (Reg.ENG_SCALE_BASE_BASE p)
    || !s.isWritten (Reg.ENG_SCALE_CTRL_RECORDS p) then 0x0101
  else if s.get (Reg.ENG_SCALE_CTRL_RECORDS p) ≤ i then 0x0113
  else 0

/-- The refusal of an instruction that uses scale record i, 0 where it may use it (R50, R51). -/
def scaleCode (s : State) (p i : Nat) : Nat :=
  if scaleAbsent s p i != 0 then scaleAbsent s p i
  else if !rangeOk s p (scaleAddr s p i) 256 then 0x0710
  else if !scaleValid s p i then 0x0112
  else 0

/-- The refusal of the first of several records. -/
def scalesCode (s : State) (p : Nat) : List Nat → Nat
  | [] => 0
  | i :: r => if scaleCode s p i = 0 then scalesCode s p r else scaleCode s p i

/-- The record's STEP is not more than one step behind SYN_STEP (R58); an update that ended on a fault counts as done
(R55), and a record that is not there or cannot be read holds nothing back: the instruction meets the refusal itself. -/
def scaleFresh (s : State) (p i : Nat) : Bool :=
  scaleAbsent s p i != 0 || s.get (Reg.SYN_STEP_STEP p) ≤ scaleField s p i 24 4 + 1
    || s.get (Reg.SYN_STEP_STEP p) ≤ SMap.get 0 (s.tr p).scaleDone i || !rangeOk s p (scaleAddr s p i) 256

/-- SCALE, INV_SCALE and ZP as an instruction latches them; the INIT values while COUNT = 0 (R52, R56). -/
def scaleLatch (s : State) (p i : Nat) : Nat × Nat × Int :=
  if scaleField s p i 21 1 = 0 then
    (scaleField s p i 16 4, f32div one32 (scaleField s p i 16 4), sext 8 (scaleField s p i 20 1))
  else (scaleField s p i 0 4, scaleField s p i 4 4, sext 8 (scaleField s p i 8 1))

/-- What a set of quantizations folds into a record: the highest and lowest keys, saturations and non-finite values. -/
structure Obs where
  hi : Nat
  lo : Nat
  sat : Nat
  nonfin : Nat
deriving DecidableEq, Repr

/-- Nothing observed. -/
def Obs.empty : Obs := ⟨0, 0xFFFFFFFF, 0, 0⟩

/-- One more pre-quantization value (R53, R41): non-finite values are not folded. -/
def Obs.fold (o : Obs) (x : Nat) (sat nonfin : Bool) : Obs :=
  let c : Obs := ⟨o.hi, o.lo, o.sat + sat.toNat, o.nonfin + nonfin.toNat⟩
  if f32finite x then { c with hi := max o.hi (keyOf x), lo := min o.lo (keyOf x) } else c

/-- The fold of an instruction whose step has parity `par` into its record, by the atomics of R53. -/
def observe (s : State) (p i par : Nat) (o : Obs) : State :=
  let a := scaleAddr s p i
  let hi := scaleField s p i (40 + 8 * par) 4
  let lo := scaleField s p i (44 + 8 * par) 4
  let s := pPut s p (a + 40 + 8 * par) 4 (max hi o.hi)
  let s := pPut s p (a + 44 + 8 * par) 4 (min lo o.lo)
  let s := pPut s p (a + 32) 4 (min (2 ^ 32 - 1) (scaleField s p i 32 4 + o.sat))
  pPut s p (a + 36) 4 (min (2 ^ 32 - 1) (scaleField s p i 36 4 + o.nonfin))

/-- The new scale and zero point from hi and lo (R55 step 4, R57). `g` is the headroom factor. -/
def newScale (asym : Bool) (hi lo g floor : Nat) : Nat × Int :=
  if !asym then
    let amax := f32max (f32abs hi) (f32abs lo)
    if dec32 amax = .fin false 0 0 then (floor, 0)
    else (f32max (f32div (f32mul amax g) (i32 127)) floor, 0)
  else if f32eq hi lo then
    let z0 := rneInt (f32div (f32neg hi) floor)
    let exact := match dec32 hi, dec32 floor with
      | .fin n m e, .fin _ k f =>
        let g0 := min e f
        decide (FV.at (!n) m e g0 = z0 * FV.at false k f g0)
      | _, _ => false
    if exact && -128 ≤ z0 && z0 ≤ 127 then (floor, z0)
    else (f32scale (f32abs hi) (-6), if hi / 2 ^ 31 % 2 = 1 then 64 else -64)
  else
    let span := f32mul (f32sub hi lo) g
    let sc := f32max (f32div span (i32 255)) floor
    let mid := f32scale (f32add hi lo) (-1)
    (sc, clampI (-128) 127 (rneInt (f32div (f32neg mid) sc)))

/-- The most recent n ring entries before position head, newest first: (HI, LO). -/
def histOf (s : State) (p i head : Nat) : Nat → List (Nat × Nat)
  | 0 => []
  | n + 1 =>
    let j := (head + 15 - (n : Nat) + 16) % 16
    (scaleField s p i (128 + 8 * j) 4, scaleField s p i (132 + 8 * j) 4) :: histOf s p i head n

/-- Step 5 of R55: STEP := t, and the observation pair of t's parity reset. -/
def scaleStep5 (s : State) (p i t : Nat) : State :=
  let a := scaleAddr s p i
  let par := t % 2
  let s := pPut s p (a + 24) 4 t
  let s := pPut s p (a + 40 + 8 * par) 4 0
  pPut s p (a + 44 + 8 * par) 4 0xFFFFFFFF

/-- An update that meets a fault ends with a record of CLASS 0 and counts as done (R55). -/
def scaleFault (s : State) (p i t code : Nat) : State :=
  let s := s.setTr p { s.tr p with scaleDone := SMap.set 0 (s.tr p).scaleDone i (t + 1) }
  logRec s { code := code, cls := 0, part := p, detail := [i] }

/-- The update of record i for step t (R55). -/
def scaleUpdate (s : State) (p i t : Nat) : State :=
  let a := scaleAddr s p i
  let par := t % 2
  if !rangeOk s p a 256 then scaleFault s p i t 0x0710
  else if !scaleValid s p i then
    scaleStep5 (logRec s { code := 0x0112, cls := 0, part := p, detail := [i] }) p i t
  else if scaleField s p i (40 + 8 * par) 4 = 0 then scaleStep5 s p i t
  else
    let hiV := unKey (scaleField s p i (40 + 8 * par) 4)
    let loV := unKey (scaleField s p i (44 + 8 * par) 4)
    let head := scaleField s p i 22 1 % 16
    let s := pPut s p (a + 128 + 8 * head) 4 hiV
    let s := pPut s p (a + 132 + 8 * head) 4 loV
    let s := pPut s p (a + 22) 1 ((head + 1) % 16)
    let cnt := min 16 (scaleField s p i 21 1 + 1)
    let s := pPut s p (a + 21) 1 cnt
    let ent := histOf s p i ((head + 1) % 16) (min (scaleField s p i 10 1) cnt)
    let hi := (ent.map (·.1)).foldl f32max (inf32 true)
    let lo := (ent.map (·.2)).foldl f32min (inf32 false)
    let g := enc32 (FV.ofScaled (64 + scaleField s p i 11 1) (-6))
    let (sc, z) := newScale (scaleField s p i 9 1 / 2 % 2 == 1) hi lo g (scaleField s p i 12 4)
    let s := pPut s p a 4 sc
    let s := pPut s p (a + 4) 4 (f32div one32 sc)
    let s := pPut s p (a + 8) 1 (ofInt 8 z)
    scaleStep5 s p i t

/-- The accumulator unit u of R46: none where it leaves the normal fp32 range (0x0114). -/
def unitOf (path : Nat) (sA sW : Nat) (e : Int) (accShift : Nat) : Option Nat :=
  let u := if path ≤ 1 then f32scale sA (e + accShift)
    else if path = 4 then f32mul sA sW
    else if path = 5 then sA
    else one32
  if posNormal u then some u else none

/-- The value x of an accumulator word (R49): fp32(fp32(acc) × u), or fp32(acc × u) of a float slot. -/
def accValue (fp : Bool) (u w : Nat) : Nat := f32mul (if fp then w else i32 (sext 32 w)) u

end Sys2Proof.Machine
end

