-- ==== Sys2Proof/Machine/Flags.lean ====
section
/-!
DEFINITION. The values that the vector unit's lanes compute, and the counts that go with them (R103 to R106, R162, R440):
saturations, non-finite operands, and the observations of int8 results.
-/

namespace Sys2Proof.Machine

/-- What a lane holds: an integer, or fp32 bits. -/
inductive Lane
  | i (x : Int)
  | f (b : Nat)
deriving DecidableEq, Repr

/-- A lane's value as fp32 (R162: int8 exactly, int32 by R29). -/
def Lane.fp : Lane → Nat
  | .i x => i32 x
  | .f b => enc32 (dec32 b)

/-- The operand is a NaN or an infinity (R105). -/
def Lane.bad : Lane → Nat
  | .i _ => 0
  | .f b => if f32finite b then 0 else 1

/-- Bytes of an element of format FIN or FOUT: 0 INT8, 1 BF16, 2 FP32, 3 INT32. -/
def laneSize (f : Nat) : Nat := if f = 0 then 1 else if f = 1 then 2 else 4

/-- A source element. -/
def laneOf (f : Nat) (v : Nat) : Lane :=
  match f with
  | 0 => .i (sext 8 v)
  | 1 => .f (bfTo32 v)
  | 2 => .f (v % 2 ^ 32)
  | _ => .i (sext 32 v)

/-- The counts of an instruction: VEC_SAT_COUNT, VEC_NONFINITE_COUNT, and the observation of int8 results. -/
structure Tally where
  sat : Nat
  bad : Nat
  obs : Obs
deriving DecidableEq, Repr

/-- Nothing counted. -/
def Tally.empty : Tally := ⟨0, 0, Obs.empty⟩

/-! ### Lane operations (R103, R162) -/

/-- An operation on integers where both operands are integers, else on fp32. -/
def both (fi : Int → Int → Int) (ff : Nat → Nat → Nat) (a b : Lane) : Lane :=
  match a, b with
  | .i x, .i y => .i (fi x y)
  | a, b => .f (ff a.fp b.fp)

/-- 1.0 or 0.0. -/
def truth (b : Bool) : Lane := .f (if b then one32 else 0)

/-- The result of VOP operation `op` on one lane; SIGN, EXPSUM and STATS_MERGE have results of their own shape. -/
def laneOp (op : Nat) (a b c : Lane) : Lane :=
  match op with
  | 0x00 => both (· + ·) f32add a b
  | 0x01 => both (· - ·) f32sub a b
  | 0x02 => both (· * ·) f32mul a b
  | 0x03 => .f (f32fma a.fp b.fp c.fp)
  | 0x04 => both max f32max a b
  | 0x05 => both min f32min a b
  | 0x06 => .f (f32abs a.fp)
  | 0x07 => .f (f32neg a.fp)
  | 0x08 => truth (f32lt a.fp b.fp)
  | 0x09 => truth (f32eq a.fp b.fp)
  | 0x0A => if dec32 a.fp = .fin false 0 0 ∨ dec32 a.fp = .fin true 0 0 then c else b
  | 0x0B => .f (fRecip a.fp)
  | 0x0C => .f (fRsqrt a.fp)
  | 0x0D => .f (fExp a.fp)
  | 0x0E => .f (fLog a.fp)
  | 0x0F => .f (fTanh a.fp)
  | 0x10 => .f (fSigmoid a.fp)
  | 0x11 => .f (fGelu a.fp)
  | 0x12 => .f (fSilu a.fp)
  | _ => a

/-- How many operands an operation has. -/
def laneArity (op : Nat) : Nat :=
  if op = 0x03 || op = 0x0A then 3
  else if op ≤ 0x05 || op = 0x08 || op = 0x09 then 2 else 1

/-- An int32 result (R105): the bits, saturations, and the NaN or infinity of the value written. -/
def toInt32 (v : Lane) : Nat × Nat × Nat :=
  match v with
  | .i x => (ofInt 32 (sat32 x), (decide (sat32 x ≠ x)).toNat, 0)
  | .f b =>
    if f32isNan b then (0, 0, 1)
    else
      let x := rneInt b
      (ofInt 32 (sat32 x), (decide (sat32 x ≠ x)).toNat, if f32finite b then 0 else 1)

/-- A lane's result written in format FOUT: its bits, and the tally. `inv` and `z` quantize an int8 result (R40, R53). -/
def writeLane (fout : Nat) (inv : Nat) (z : Int) (v : Lane) (t : Tally) : Nat × Tally :=
  match fout with
  | 0 =>
    let (q, sat, nf) := quant8 v.fp inv z
    (ofInt 8 q, { t with obs := t.obs.fold v.fp sat nf })
  | 1 => (toBf v.fp, t)
  | 2 => (v.fp, t)
  | _ => let (b, sat, bad) := toInt32 v; (b, { t with sat := t.sat + sat, bad := t.bad + bad })

/-- The sign code of R106. -/
def signCode (b : Nat) : Nat :=
  match dec32 b with
  | .nan => 0
  | .inf n => if n then 3 else 1
  | .fin n m _ => if m = 0 then 0 else if n then 3 else 1

/-! ### Sums (R111, R113, R120) -/

/-- The fixed tree of R86 over a list: adjacent pairs are added, an odd one passes up. The fuel is its depth. -/
def pairUp {α : Type} (f : α → α → α) : List α → List α
  | a :: b :: r => f a b :: pairUp f r
  | l => l
def treeFold {α : Type} (f : α → α → α) (d : α) : Nat → List α → α
  | 0, l => l.headD d
  | n + 1, l => treeFold f d n (pairUp f l)

/-- The depth of the tree over n parts. -/
def depthOf (n : Nat) : Nat := Nat.log2 n + 1

/-- A list in runs of k; the fuel is its length. -/
def runsOf {α : Type} (k : Nat) : Nat → List α → List (List α)
  | 0, _ => []
  | n + 1, l => if l.isEmpty then [] else l.take k :: runsOf k n (l.drop k)

/-- Lane j of a sequence of vectors. -/
def laneSeq (vs : List (List Nat)) (j : Nat) : List Nat := vs.filterMap fun v => v[j]?

/-- The fast sum of one core (R111): lanes in sequence, then the tree. A lane that receives nothing holds −0.0. -/
def fastSum (xs : List Nat) : Nat :=
  let vs := runsOf 256 xs.length xs
  treeFold f32add 0 8 ((List.range 256).map fun j =>
    match laneSeq vs j with
    | [] => 2 ^ 31
    | a :: r => r.foldl f32add a)

/-- The fast sum of parts in part order (R111). -/
def partsSum (xs : List Nat) : Nat := treeFold f32add 0 (depthOf xs.length) xs

/-- The exponent of the largest finite non-zero magnitude, where there is one (R113 step 1). -/
def emaxOf (xs : List Nat) : Option Int :=
  xs.foldl (fun (e : Option Int) x =>
    if f32normal x then some (match e with
      | some y => max y (expOf x)
      | none => expOf x)
    else e) none

/-- A reproducible partial record (R116): the accumulator, EMAX, and the flags. -/
structure Repro where
  acc : Int
  emax : Option Int
  flags : Nat
deriving DecidableEq, Repr

/-- The integer of a finite value under emax (R113 step 2). -/
def reproInt (emax : Int) (x : Nat) : Int :=
  match dec32 x with
  | .fin n m e =>
    let v : Int := if n then -(m : Int) else m
    let k := e + 150 - emax
    if 0 ≤ k then v * 2 ^ k.toNat else rneShift v (-k).toNat
  | _ => 0

/-- What a part has seen: NaN, +infinity, −infinity. -/
def seenFlags (xs : List Nat) : Nat :=
  let any := fun (t : FV) => (xs.any fun x => dec32 x == t).toNat
  any .nan + 2 * any (.inf false) + 4 * any (.inf true)

/-- A part's record under a given emax (R113). -/
def reproOf (emax : Option Int) (xs : List Nat) : Repro :=
  ⟨(xs.map fun x => match emax with
      | some e => reproInt e x
      | none => 0).foldl (· + ·) 0, emax, seenFlags xs⟩

/-- Two records added; none where their EMAX differ (R116). -/
def reproAdd (a b : Repro) : Option Repro :=
  match a.emax, b.emax with
  | some x, some y => if x = y then some ⟨a.acc + b.acc, some x, a.flags ||| b.flags⟩ else none
  | some x, none => some ⟨a.acc + b.acc, some x, a.flags ||| b.flags⟩
  | none, y => some ⟨a.acc + b.acc, y, a.flags ||| b.flags⟩

/-- The sum of records, 0x0212 (none) where they do not match. -/
def reproSum : List Repro → Option Repro
  | [] => some ⟨0, none, 0⟩
  | r :: rs => match reproSum rs with
    | some t => reproAdd r t
    | none => none

/-- The result of a reproducible sum (R113 step 4, R114). -/
def reproResult (r : Repro) : Nat :=
  if r.flags % 2 = 1 || r.flags / 2 = 3 then nan32
  else if r.flags = 2 then inf32 false
  else if r.flags = 4 then inf32 true
  else match r.emax with
    | some e => if r.acc = 0 then 0 else enc32 (FV.ofScaled r.acc (e - 150))
    | none => 0

/-- The 32 bytes of a record, and a record from them (R116). -/
def reproBytes (r : Repro) : List Byte :=
  leBytes 24 (ofInt 192 r.acc) ++ leBytes 2 (match r.emax with
    | some e => ofInt 16 e
    | none => 0x8000) ++ leBytes 1 r.flags ++ leBytes 5 0
def reproFrom (b : List Byte) : Repro :=
  ⟨sext 192 (fieldOf b 0 24), if fieldOf b 24 2 = 0x8000 then none else some (sext 16 (fieldOf b 24 2)),
    fieldOf b 26 1 % 8⟩

/-- Count, mean and m2 of MEANVAR (R120), as fp32 bits beside the exact count. -/
structure MV where
  n : Nat
  mean : Nat
  m2 : Nat
deriving DecidableEq, Repr

/-- One more value. -/
def MV.step (a : MV) (x : Nat) : MV :=
  let d := f32sub x a.mean
  let n := a.n + 1
  let mean := f32add a.mean (f32div d (i32 n))
  ⟨n, mean, f32add a.m2 (f32mul d (f32sub x mean))⟩

/-- Two parts combined. -/
def MV.join (a b : MV) : MV :=
  let n := a.n + b.n
  if n = 0 then ⟨0, 0, 0⟩
  else
    let d := f32sub b.mean a.mean
    ⟨n, f32add a.mean (f32mul d (f32div (i32 b.n) (i32 n))),
      f32add (f32add a.m2 b.m2) (f32mul (f32mul d d) (f32div (f32mul (i32 a.n) (i32 b.n)) (i32 n)))⟩

/-- The 16 bytes of a result with correction CORR, and of a partial (R163). -/
def MV.result (a : MV) (corr : Bool) : List Byte :=
  let var := if a.n = 0 || (a.n = 1 && corr) then nan32 else f32div a.m2 (i32 (if corr then (a.n : Int) - 1 else a.n))
  leBytes 4 a.n ++ leBytes 4 (if a.n = 0 then nan32 else a.mean) ++ leBytes 4 var ++ leBytes 4 0
def MV.bytes (a : MV) : List Byte := leBytes 4 a.n ++ leBytes 4 a.mean ++ leBytes 4 a.m2 ++ leBytes 4 0

/-- MEANVAR of one core: lanes in sequence, then the tree. -/
def meanVar (xs : List Nat) : MV :=
  let vs := runsOf 256 xs.length xs
  treeFold MV.join ⟨0, 0, 0⟩ 8 ((List.range 256).map fun j => (laneSeq vs j).foldl MV.step ⟨0, 0, 0⟩)

/-! ### Top-k (R108 to R110) -/

/-- Entry a comes before entry b in the order of selection. -/
def better (min : Bool) (a b : Nat × Nat) : Bool :=
  let x := keyOf (enc32 (dec32 a.1))
  let y := keyOf (enc32 (dec32 b.1))
  if x = y then a.2 < b.2 else if min then x < y else y < x

/-- An entry put at its place in a list of at most k. -/
def insertTop (min : Bool) (k : Nat) (e : Nat × Nat) (l : List (Nat × Nat)) : List (Nat × Nat) :=
  let front := l.takeWhile fun x => !better min e x
  (front ++ e :: l.drop front.length).take k

/-- The k best of (value, position) entries; NaNs are never selected. -/
def topK (min : Bool) (k : Nat) (es : List (Nat × Nat)) : List (Nat × Nat) :=
  es.foldl (fun l e => if f32isNan e.1 then l else insertTop min k e l) []

/-- The list as it is written: k values, then k positions, padded (R108). -/
def topBytes (k : Nat) (l : List (Nat × Nat)) : List Byte :=
  let l := l ++ List.replicate (k - l.length) (nan32, 0xFFFFFFFF)
  l.flatMap (fun e => leBytes 4 (enc32 (dec32 e.1))) ++ l.flatMap fun e => leBytes 4 e.2

end Sys2Proof.Machine
end

