-- ==== Sys2Proof/Machine/Xft.lean ====
section
/-!
DEFINITION. Collective instances (R341, R346 to R349): their streams and pieces, what they compute, and how an instance
sends what it has ready. Sending goes on by itself: every event that makes room or data sends what it can.
-/

namespace Sys2Proof.Machine

/-! ### Shape of an instance (R346, R347, R369) -/

/-- G' of R369. -/
def Coll.size (x : Coll) : Nat := x.members.length

/-- The first unit of segment r. -/
def Coll.segLo (x : Coll) (r : Nat) : Nat := r * x.units / x.size

/-- The units that rank r owns. -/
def Coll.segLen (x : Coll) (r : Nat) : Nat := if x.op = 4 then x.units else x.segLo (r + 1) - x.segLo r

/-- The unit of the source at which the values for owner r begin. -/
def Coll.srcAt (x : Coll) (r : Nat) : Nat := if x.op = 4 then r * x.units else x.segLo r

/-- The elements are floats: the exponents phase of R346 has one byte for each. -/
def Coll.floats (x : Coll) : Bool := x.fmt == 2 || x.fmt == 3

/-- Units of the exponents for owner r, padded to whole units; integers and records have none (log entry 17). -/
def Coll.expsLen (x : Coll) (r : Nat) : Nat := if x.floats then (x.segLen r * 64 / elemSize x.fmt + 63) / 64 else 0

/-- Units and place of the output data of origin o, and its phase. -/
def Coll.outLen (x : Coll) (o : Nat) : Nat :=
  match x.op with
  | 0 => 8 * x.segLen o
  | 1 => x.segLen o
  | 2 => x.segLen o
  | 3 => x.units
  | 5 => if o = 0 then x.units else 0
  | _ => 0
def Coll.outAt (x : Coll) (o : Nat) : Nat :=
  match x.op with
  | 0 => 8 * x.segLo o
  | 1 => x.segLo o
  | 2 => x.segLo o
  | 3 => o * x.units
  | _ => 0
def Coll.outPhase (x : Coll) : Nat :=
  match x.op with
  | 0 => 1
  | 1 => 1
  | 2 => 2
  | _ => 0

/-- What every member sends to owner b. -/
def Coll.toOwner (x : Coll) (b : Nat) : List Piece :=
  match x.op with
  | 0 => [⟨0, .vals, b, x.segLen b⟩]
  | 1 => [⟨0, .vals, b, x.segLen b⟩]
  | 2 => [⟨0, .exps, b, x.expsLen b⟩, ⟨1, .vals, b, x.segLen b⟩]
  | 4 => [⟨0, .exps, b, x.expsLen b⟩, ⟨1, .vals, b, x.segLen b⟩]
  | _ => []

/-- The output data of origin o. -/
def Coll.outPiece (x : Coll) (o : Nat) : Piece := ⟨x.outPhase, .out, o, x.outLen o⟩

/-- What rank a forwards to rank b in the chain of R347: its own output, and that of every rank but b's, the nearest
first. -/
def Coll.relayed (x : Coll) (a b : Nat) : List Piece :=
  if x.relay && (a + 1) % x.size == b then (List.range (x.size - 1)).map fun j => x.outPiece ((a + x.size - j) % x.size) else []

/-- The unicast stream from rank a to rank b, and the multicast stream of rank a. -/
def Coll.unicast (x : Coll) (a b : Nat) : List Piece := x.toOwner b ++ x.relayed a b
def Coll.multicast (x : Coll) (a : Nat) : List Piece := if x.relay then [] else [x.outPiece a]

/-- The incoming and the outgoing stream of a number. -/
def Coll.rxPieces (x : Coll) (k : Nat) : List Piece := if k < 65536 then x.unicast k x.me else x.multicast (k - 65536)
def Coll.txPieces (x : Coll) (k : Nat) : List Piece := if k < 65536 then x.unicast x.me k else x.multicast x.me

/-- Units of a stream. -/
def unitsIn (ps : List Piece) : Nat := ps.foldl (fun n p => n + p.units) 0

/-- The parts of pieces that units [off, off + n) of a stream cover: piece, first unit in it, units. -/
def slices : List Piece → Nat → Nat → List (Piece × Nat × Nat)
  | [], _, _ => []
  | p :: r, off, n =>
    if p.units ≤ off then slices r (off - p.units) n
    else if off + n ≤ p.units then [(p, off, n)]
    else (p, off, p.units - off) :: slices r 0 (off + n - p.units)

/-- Members that receive this member's multicast stream (R350). -/
def Coll.attached (x : Coll) : List Nat := (List.range x.size).filter fun r => r != x.me && !x.detached.contains r

/-- Every unicast stream's number, and the ranks' multicast streams. -/
def Coll.rxKeys (x : Coll) : List Nat :=
  ((List.range x.size).filter (· != x.me)).flatMap fun r => [r, 65536 + r]
def Coll.txKeys (x : Coll) : List Nat := (List.range x.size).filter (· != x.me) ++ [65536]

/-- Units of the source range and of the destination range (R346). -/
def Coll.needSrc (x : Coll) : Bool := x.op != 5 || x.me == 0
def Coll.needDst (x : Coll) : Bool := x.op != 5 || x.me != 0
def srcUnits (op g u : Nat) : Nat := if op = 4 then g * u else u
def dstUnits (op g u : Nat) : Nat := if op = 0 then 8 * u else if op = 3 then g * u else u

/-! ### Ranges that have landed -/

/-- A range added to a list of disjoint ranges in rising order. -/
def addRange : Nat → Nat → List (Nat × Nat) → List (Nat × Nat)
  | lo, hi, [] => [(lo, hi)]
  | lo, hi, (a, b) :: r =>
    if hi < a then (lo, hi) :: (a, b) :: r
    else if b < lo then (a, b) :: addRange lo hi r
    else addRange (min lo a) (max hi b) r

/-- Units landed, and those of them without a gap from the start. -/
def landedUnits (x : RxSt) : Nat := x.parts.foldl (fun n r => n + (r.2 - r.1)) 0
def landedPrefix (x : RxSt) : Nat :=
  match x.parts with
  | (0, b) :: _ => b
  | _ => 0

def Coll.rxAt (x : Coll) (k : Nat) : RxSt := SMap.get RxSt.empty x.rx k
def Coll.setRx (x : Coll) (k : Nat) (y : RxSt) : Coll := { x with rx := SMap.set RxSt.empty x.rx k y }
def Coll.txAt (x : Coll) (k : Nat) : TxSt := SMap.get TxSt.empty x.tx k
def Coll.setTx (x : Coll) (k : Nat) (y : TxSt) : Coll := { x with tx := SMap.set TxSt.empty x.tx k y }

/-! ### Data -/

/-- What a control core's instance has received of rank r's output (R367). -/
def Coll.heard (x : Coll) (r : Nat) : List Byte := ((x.arrivals.find? fun a => a.1 == r).map (·.2.2)).getD []

/-- Bytes of the source and of the destination by 64-byte unit: of the source those that D14 brought into the receive queue
(R344). A control core's instance has one unit of each rank, and none in memory. -/
def Coll.srcBytes (s : State) (x : Coll) (u n : Nat) : List Byte :=
  match x.ctl with
  | some bs => bs
  | none => (pRead s x.part (x.src + 64 * u) (64 * n)).getD (List.replicate (64 * n) 0)
def Coll.dstBytes (s : State) (x : Coll) (u n : Nat) : List Byte :=
  match x.ctl with
  | some _ => x.heard u
  | none => (pRead s x.part (x.dst + 64 * u) (64 * n)).getD (List.replicate (64 * n) 0)

/-- The elements of a byte string, as numbers of their size. -/
def elemsOf (size : Nat) (bs : List Byte) : List Nat := (runsOf size bs.length bs).map leNat

/-- Float elements as fp32 bits. -/
def floatsOf (fmt : Nat) (bs : List Byte) : List Nat :=
  if fmt = 2 then (elemsOf 2 bs).map bfTo32 else elemsOf 4 bs

/-- The exponent byte of a float (log entry 17): its biased exponent where it is finite and not 0, else 0. -/
def expByte (x : Nat) : Byte := BitVec.ofNat 8 (if f32normal x then x / 2 ^ 23 % 256 else 0)

/-- The bytes of units [off, off + n) of an outgoing piece, read from where they come from (R339). -/
def Coll.pieceBytes (s : State) (x : Coll) (p : Piece) (off n : Nat) : List Byte :=
  match p.kind with
  | .vals => x.srcBytes s (x.srcAt p.rank + off) n
  | .exps =>
    let es := (floatsOf x.fmt (x.srcBytes s (x.srcAt p.rank) (x.segLen p.rank))).map expByte
    ((padTo (64 * p.units) es).drop (64 * off)).take (64 * n)
  | .out =>
    if p.rank = x.me ∧ (x.op = 3 ∨ x.op = 5) then x.srcBytes s off n
    else x.dstBytes s (x.outAt p.rank + off) n

/-- The bytes of memory that units [off, off + n) of an outgoing piece come from: partition offset and length. The own source comes
through the receive queue at first. -/
def Coll.pieceSpan (x : Coll) (p : Piece) (off n : Nat) : Nat × Nat :=
  match p.kind with
  | .vals => (x.src + 64 * (x.srcAt p.rank + off), 64 * n)
  | .exps => (x.src + 64 * x.srcAt p.rank, 64 * x.segLen p.rank)
  | .out =>
    if p.rank = x.me ∧ (x.op = 3 ∨ x.op = 5) then (x.src + 64 * off, 64 * n) else (x.dst + 64 * (x.outAt p.rank + off), 64 * n)

/-- The piece comes from the destination range in memory. -/
def Coll.fromDst (x : Coll) (p : Piece) : Bool := x.ctl.isNone && p.kind == .out && !(p.rank == x.me && (x.op == 3 || x.op == 5))

/-- Parts of an outgoing stream are read from memory through their slices (R284). -/
def Coll.touchParts (s : State) (x : Coll) (ps : List (Piece × Nat × Nat)) : State :=
  if x.ctl.isSome then s else ps.foldl (fun (s : State) (p, off, n) => pTouch s x.part (x.pieceSpan p off n).1 (x.pieceSpan p off n).2) s

/-- The first offset that R279 refuses where parts of a stream are read again from their source (R339). -/
def Coll.badPart (s : State) (x : Coll) (ps : List (Piece × Nat × Nat)) : Option Nat :=
  if x.ctl.isSome then none else ps.findSome? fun (p, off, n) => firstBad s x.part (x.pieceSpan p off n).1 (x.pieceSpan p off n).2

/-- Values put in the order of their place. -/
def byPlace (e : Nat × List Byte) : List (Nat × List Byte) → List (Nat × List Byte)
  | [] => [e]
  | y :: r => if e.1 < y.1 then e :: y :: r else y :: byPlace e r

/-- The values of rank r for this member's own segment. -/
def Coll.valuesOf (s : State) (x : Coll) (r : Nat) : List Byte :=
  if r = x.me then x.srcBytes s (x.srcAt x.me) (x.segLen x.me)
  else (((x.arrivals.filter fun a => a.1 == r).foldl (fun l a => byPlace a.2 l) []).flatMap (·.2)).take (64 * x.segLen x.me)

/-- The sign codes of bytes, four to a byte (R106), and their meaning. -/
def signCodes (bs : List Byte) : List Nat := bs.flatMap fun b => (List.range 4).map fun j => bitsOf b.toNat (2 * j) 2
def signOf (c : Nat) : Int := if c = 1 then 1 else if c = 3 then -1 else 0

/-- Position by position, the elements of several lists. -/
def columns {α : Type} : List (List α) → List (List α)
  | [] => []
  | [l] => l.map fun a => [a]
  | l :: r => List.zipWith List.cons l (columns r)

/-- Sums saturated to [lo, hi], in w bits and n bytes each; and how many saturated. -/
def satSums (lo hi : Int) (n w : Nat) (xs : List (List Int)) : List Byte × Nat :=
  let sums := (columns xs).map fun c => c.foldl (· + ·) 0
  (sums.flatMap fun v => leBytes n (ofInt w (clampI lo hi v)), (sums.filter fun v => v != clampI lo hi v).length)

/-- Step 4 of R113 to the format of the destination. -/
def reproTo (fmt : Nat) (r : Repro) : List Byte :=
  if fmt = 2 then
    let v := reproResult r
    leBytes 2 (if r.flags != 0 || r.acc == 0 then toBf v else match r.emax with
      | some e => encBf (FV.ofScaled r.acc (e - 150))
      | none => 0)
  else leBytes 4 (reproResult r)

/-- Values added in the order in which they came, own first (R346, log entry 17). -/
def addInto (fmt : Nat) (acc : List Nat) (u : Nat) (bs : List Byte) : List Nat :=
  let i := u * 64 / elemSize fmt
  let vs := floatsOf fmt bs
  acc.take i ++ List.zipWith f32add (acc.drop i) vs ++ acc.drop (i + vs.length)

/-- The result of this member's own segment, and the saturations in it; none where records carry different EMAX (R346). -/
def Coll.segResult (s : State) (x : Coll) : Option (List Byte × Nat) :=
  let all := (List.range x.size).map (x.valuesOf s)
  if x.op = 0 then some (satSums (-32768) 32767 2 16 (all.map fun b => (signCodes b).map signOf))
  else if x.fmt = 4 then some (satSums (-2147483648) 2147483647 4 32 (all.map fun b => (elemsOf 4 b).map (sext 32)))
  else if x.op = 1 then
    let own := floatsOf x.fmt (x.valuesOf s x.me)
    let sum := x.arrivals.foldl (fun acc a => addInto x.fmt acc a.2.1 a.2.2) own
    some (sum.flatMap (fun v => if x.fmt = 2 then leBytes 2 (toBf v) else leBytes 4 v), 0)
  else if x.fmt = 0x0A then
    ((columns (all.map fun b => (runsOf 32 b.length b).map reproFrom)).mapM reproSum).map fun rs => (rs.flatMap reproBytes, 0)
  else
    some ((columns (all.map (floatsOf x.fmt))).flatMap (fun c => reproTo x.fmt (reproOf (emaxOf c) c)), 0)

/-! ### What is ready (R341, R347) -/

/-- Units of the source that are at hand. -/
def Coll.have (x : Coll) : Nat := x.avail / 64

/-- How many units of an outgoing piece are ready. -/
def Coll.pieceReady (x : Coll) (p : Piece) : Nat :=
  match p.kind with
  | .vals => min p.units (x.have - x.srcAt p.rank)
  | .exps => if x.srcAt p.rank + x.segLen p.rank ≤ x.have then p.units else 0
  | .out =>
    if p.rank = x.me then
      (if x.op = 3 ∨ x.op = 5 then min p.units x.have else if x.reduced then p.units else 0)
    else
      let prev := (x.me + x.size - 1) % x.size
      let before := unitsIn ((x.rxPieces prev).takeWhile (· != p))
      min p.units (landedPrefix (x.rxAt prev) - before)

/-- The ready position of a stream. -/
def Coll.readyIn (x : Coll) : List Piece → Nat
  | [] => 0
  | p :: r => if x.pieceReady p = p.units then p.units + x.readyIn r else x.pieceReady p

/-- The credit limit of an outgoing stream: of the multicast stream the lowest among the attached receivers (R350). -/
def Coll.limitOf (x : Coll) (k : Nat) : Nat :=
  if k < 65536 then (x.txAt k).limit
  else (x.attached.map fun r => (x.txAt (131072 + r)).limit).foldl min (unitsIn (x.txPieces k))

/-- The flow of an outgoing stream. -/
def Coll.flowTo (x : Coll) (k : Nat) : Nat := if k < 65536 then ((x.members[k]?).map (·.1)).getD 0 else x.mcast

/-! ### Instances in the state -/

/-- Instance i of group g of partition p. -/
def State.coll (s : State) (p g i : Nat) : Option Coll := s.colls.find? fun x => x.part == p && x.group == g && x.inst == i

/-- The instance as it now is. -/
def putColl (s : State) (x : Coll) : State :=
  { s with colls := s.colls.map fun y => if y.part = x.part ∧ y.group = x.group ∧ y.inst = x.inst then x else y }

/-- An instance fails (R349): the other members are told where `tell`, and its launch stops, or its Mirage check is not completed.
LAST_CODE is that of the code's chapter (R296, R351). -/
def failColl (s : State) (x : Coll) (code : Nat) (detail : List Nat) (tell : Bool) : State :=
  let s := if tell then tellAbort s x else s
  if x.ctl.isSome then mirageFail s x.part code else
  stopLaunch (dropColl s x) (chapterLast x.part (portOf s x.part) code) x.part { code := code, core := x.core, vcore := x.vcore, detail := detail }

/-- A code that ends an instance, with its DETAIL. -/
abbrev CollFault := Option (Nat × List Nat)

/-- Bytes that the fabric writes for an instance at a partition offset, or the refusal of R279. -/
def collWrite (s : State) (x : Coll) (at_ : Nat) (bs : List Byte) : CollFault × State :=
  if x.ctl.isSome then (none, s) else
  match pWrite s x.part at_ bs with
  | some s => (none, s)
  | none => (some (0x0710, pageDetail x.part ((firstBad s x.part at_ bs.length).getD at_)), s)

/-! ### Sending (R339, R341) -/

/-- Frames of a stream sent as far as its limit, its data and the window of 1,024 frames let it. -/
def sendStream : Nat → State → Coll → Nat → State × Coll
  | 0, s, x, _ => (s, x)
  | n + 1, s, x, k =>
    let t := x.txAt k
    let f := x.flowTo k
    let lim := min (x.limitOf k) t.ready
    if lim ≤ t.sent || 1024 ≤ (s.flow x.part f).unacked.length || flowState s x.part f != 2 then (s, x)
    else
      match slices (x.txPieces k) t.sent (min 128 (lim - t.sent)) with
      | [] => (s, x)
      | (p, off, m) :: _ =>
        let ends := t.sent + m == unitsIn (x.txPieces k) && (k == 65536 || unitsIn (x.txPieces 65536) == 0)
        let fr : TxFrame := ⟨0, 0, x.tag, x.inst, x.op, p.phase, k, t.sent, m, ends, [], 4,
          if k < 65536 then [0] else x.attached.map fun r => ((x.members[r]?).map (·.2)).getD 0⟩
        let u := if x.fromDst p then x.touchParts s [(p, off, m)] else s
        sendStream n (sendSeq u x.part f fr (x.pieceBytes s p off m)) (x.setTx k { t with sent := t.sent + m }) k

/-- REQ of an outgoing stream: its ready position. -/
def sendReq (s : State) (x : Coll) (k ready : Nat) : State :=
  (emitFrame s x.part (x.flowTo k) 2 (if k < 65536 then 0 else 4) x.op 0 x.tag 0 x.inst ready []).1

/-- GRANT of an incoming stream on flow f: its credit limit; FLAGS.MCAST says that it is the multicast one (log entry 18). -/
def sendGrant (s : State) (x : Coll) (f k limit : Nat) : State :=
  (emitFrame s x.part f 3 (if k < 65536 then 0 else 4) x.op 0 x.tag 0 x.inst limit []).1

/-- One outgoing stream goes on: REQ for a new ready position, then the frames. -/
def driveStream (s : State) (x : Coll) (k : Nat) : State × Coll :=
  let t := x.txAt k
  let ready := x.readyIn (x.txPieces k)
  let (s, x) := if t.ready < ready then (sendReq s x k ready, x.setTx k { t with ready := ready }) else (s, x)
  sendStream (min (x.limitOf k) ready - t.sent) s x k

/-- Every value for the own segment is at hand. -/
def Coll.allValues (x : Coll) : Bool :=
  x.srcAt x.me + x.segLen x.me ≤ x.have &&
    ((List.range x.size).filter (· != x.me)).all fun r => unitsIn (x.toOwner x.me) ≤ landedPrefix (x.rxAt r)

/-- The member's own output, once it can be had (R346): what ends the instance, the state, the instance. -/
def ownOutput (s : State) (x : Coll) : CollFault × State × Coll :=
  let put := fun (bs : List Byte) (n : Nat) =>
    match collWrite s x (x.dst + 64 * x.outAt x.me) bs with
    | (none, s) => (none, s.bump Reg.FAB_COUNTS_NUMERIC n, { x with reduced := true })
    | (some e, s) => (some e, s, x)
  if x.reduced || x.op == 5 then (none, s, x)
  else if x.op = 3 then if x.units ≤ x.have then put (x.srcBytes s 0 x.units) 0 else (none, s, x)
  else if x.allValues then
    match x.segResult s with
    | none => (some (0x0912, []), s, x)
    | some (bs, n) => put bs n
  else (none, s, x)

/-- Sign codes 0b10 found in the source are counted, once it has been read (R346). -/
def countCodes (s : State) (x : Coll) : State × Coll :=
  if x.op = 0 ∧ !x.counted ∧ x.units ≤ x.have then
    (s.bump Reg.FAB_COUNTS_NUMERIC ((signCodes (x.srcBytes s 0 x.units)).filter (· == 2)).length, { x with counted := true })
  else (s, x)

/-- The instance goes on as far as it can: its own output, then its streams. -/
def pumpColl (s : State) (p g i : Nat) : State :=
  match s.coll p g i with
  | none => s
  | some x =>
    let (s, x) := countCodes s x
    match ownOutput s x with
    | (some e, s, x) => failColl (putColl s x) x e.1 e.2 true
    | (none, s, x) =>
      if x.quiet then putColl s x
      else
        let (s, x) := x.txKeys.foldl (fun (y : State × Coll) k => driveStream y.1 y.2 k) (s, x)
        putColl s x

/-- Every instance of partition p goes on. -/
def pumpAll (s : State) (p : Nat) : State :=
  (s.colls.filter fun x => x.part == p).foldl (fun s x => pumpColl s x.part x.group x.inst) s

/-! ### Data that lands (R339, R346) -/

/-- The slices of received data put in place: values are kept, outputs are written to the destination. -/
def landSlices (s : State) (x : Coll) (rank : Nat) : List (Piece × Nat × Nat) → List Byte → CollFault × State × Coll
  | [], _ => (none, s, x)
  | (p, off, n) :: r, bs =>
    let here := bs.take (64 * n)
    match p.kind with
    | .exps => landSlices s x rank r (bs.drop (64 * n))
    | .vals => landSlices s { x with arrivals := x.arrivals ++ [(rank, off, here)] } rank r (bs.drop (64 * n))
    | .out =>
      match collWrite s x (x.dst + 64 * (x.outAt p.rank + off)) here with
      | (none, s) =>
        let x := if x.ctl.isSome then { x with arrivals := x.arrivals ++ [(p.rank, off, here)] } else x
        landSlices s x rank r (bs.drop (64 * n))
      | (some e, s) => (some e, s, x)

/-- Data of stream k lands at unit `off`: what ends the instance, the state, the instance. -/
def landData (s : State) (x : Coll) (k off : Nat) (bs : List Byte) : CollFault × State × Coll :=
  let n := bs.length / 64
  if unitsIn (x.rxPieces k) < off + n then (some (0x0913, []), s, x)
  else
    let y := x.rxAt k
    let x := x.setRx k { y with parts := if n = 0 then y.parts else addRange off (off + n) y.parts }
    landSlices s x (k % 65536) (slices (x.rxPieces k) off n) bs

end Sys2Proof.Machine
end

