-- ==== Sys2Proof/Machine/Dma.lean ====
section
/-!
DEFINITION. The DMA engines (R298 to R312): descriptors and feeders, bursts and their priority, paced channels, landings,
the ends of transfers, and the two ways to stop them.
-/

namespace Sys2Proof.Machine

/-! ### Descriptor rings (R441, R304) -/

/-- A descriptor enters a ring. -/
def pushDescOn (s : State) (k : Nat) (d : Desc) : State := setDqRing s k (dqRing s k ++ [d])

/-- A descriptor of partition p for core c enters DQ p of the core's erg. -/
def pushDesc (s : State) (p c : Nat) (d : Desc) : State := pushDescOn s (dqKey (c / 16) p) d

/-- The virtual core of the running launch of p that stands on core c, by itself or with its gang; 0xFF where none does. -/
def vcoreOn (s : State) (p c : Nat) : Nat :=
  match s.launch p with
  | some l => (l.active.find? fun v =>
      (s.vc p v).core == c || ((s.vc p v).gang && (s.vc p v).core ≤ c && c < (s.vc p v).core + 4)).getD 0xFF
  | none => 0xFF

/-- A descriptor from its 64 bytes (R304), for a ring of erg e. It works for the launch whose number it carries, where that
launch runs. -/
def descOf (s : State) (e : Nat) (b : List Byte) : Desc :=
  let route := fieldOf b 20 2
  let part := bitsOf (fieldOf b 36 1) 0 4
  let core := 16 * e + bitsOf route 12 4
  let mine := (s.launch part).any fun l => l.seq == fieldOf b 32 4
  { src := fieldOf b 0 8, dst := fieldOf b 8 8, len := fieldOf b 16 4, srcSp := bitsOf route 0 3, dstSp := bitsOf route 3 3,
    prio := bitsOf route 6 2, chan := bitsOf route 8 4, lcore := bitsOf route 12 4, tag := bitsOf (fieldOf b 22 1) 0 4,
    skew := bitsOf (fieldOf b 22 1) 4 2, record := bitsOf (fieldOf b 23 1) 0 1 == 1, cq := fieldOf b 24 1,
    cookie := fieldOf b 28 4, seq := fieldOf b 32 4, part := part, firmware := bitsOf (fieldOf b 36 1) 7 1 == 1,
    bad := bitsOf (fieldOf b 22 1) 6 2 != 0 || bitsOf (fieldOf b 23 1) 1 7 != 0 || 63 < fieldOf b 24 1
      || fieldOf b 25 3 != 0 || bitsOf (fieldOf b 36 1) 4 3 != 0 || (b.drop 37).any (· != 0),
    fill := .plain, shift := 0, rel := false, vcore := if mine then vcoreOn s part core else 0xFF, iid := 2 ^ 32 }

/-- The words of a descriptor, for the record of R312. -/
def descWords (d : Desc) : List Nat :=
  [d.src, d.dst,
    d.len + 2 ^ 32 * (d.srcSp + 8 * d.dstSp + 64 * d.prio + 256 * d.chan + 4096 * d.lcore)
      + 2 ^ 48 * (d.tag + 16 * d.skew) + 2 ^ 56 * d.record.toNat,
    d.cq + 2 ^ 32 * d.cookie, d.seq + 2 ^ 32 * (d.part + 128 * d.firmware.toNat), 0, 0, 0]

/-! ### Feeders (R299, R305, R306) -/

/-- The descriptor serves a launch: a translated program or a native image. -/
def Desc.ofLaunch (d : Desc) : Bool := d.vcore != 0xFF && !d.firmware

/-- The channels a native image may use beside D0 to D11: those its DMA_MASK names (R180). -/
def nativeMask (s : State) (p : Nat) : Nat :=
  let g := runProg s p
  if g.isNative then fieldOf g.image 26 2 else 0

/-- The checks of R305 on a descriptor of queue n of erg e. -/
def descRefused (s : State) (e n : Nat) (d : Desc) : Bool :=
  let core := 16 * e + d.lcore
  let paced := d.firmware && 14 ≤ d.chan
  let spaceOk := fun (sp : Nat) =>
    sp == 0 || (sp == 1 && (d.ofLaunch || d.firmware)) || (sp == 2 && !d.ofLaunch && !d.firmware)
      || (sp == 3 && (d.firmware || paced))
  let chanOk := if d.firmware then 12 ≤ d.chan
    else if d.ofLaunch then d.chan < 12 || (d.chan < 14 && bitsOf (nativeMask s d.part) d.chan 1 == 1)
    else d.chan == 12 || d.chan == 13
  d.bad || 3 < d.srcSp || 3 < d.dstSp || !spaceOk d.srcSp || !spaceOk d.dstSp || !chanOk
    || (!d.firmware && n < 16 && !inPart s d.part core) || (d.prio == 3 && !d.firmware)

/-- The transfers of host command seq of p that a channel holds. -/
def copyLoaded (s : State) (p seq : Nat) : Nat :=
  (s.dma.flatMap fun e => (e.2.active.toList ++ e.2.shadow.toList).filter fun y => ofCopy p seq y.desc).length

/-- A fault of a transfer stops the command it serves (R305, R309, R312, R289): the launch, the host copy, or nothing
where firmware made it; where the command has ended, a record of CLASS 0 stands alone (R300). -/
def descFault (s : State) (last : List Fld) (c : Nat) (d : Desc) (code : Nat) (detail : List Nat) : State :=
  let r : Rec := { code := code, core := c, vcore := d.vcore, unit := d.chan, seq := d.seq, detail := detail,
                   tile := if d.vcore = 0xFF then none else tileOfPart s d.part d.vcore d.iid }
  if d.vcore != 0xFF then
    if (s.launch d.part).any fun l => l.seq == d.seq then stopLaunch s last d.part r
    else raise s last { r with cls := 0, part := d.part }
  else if d.firmware then raise s last { r with part := 0xFF }
  else if (s.cmd d.part d.seq).phase == .running then
    failCopy s last d.part d.seq r
  else raise s last { r with cls := 0, part := d.part }

/-- LAST_CODE of a channel. -/
def chLast (c n : Nat) : List Fld := [Reg.DMA_CH_STATUS_LAST_CODE c n]

/-- STATE of a channel: 0 IDLE, 1 RUNNING, 2 PACE_HOLD, 3 HALTED, 4 DISABLED. -/
def chState (s : State) (c n : Nat) : Nat := s.get (Reg.DMA_CH_STATUS_STATE c n)

/-- The level counter that paces a channel, in 64-byte units. -/
def levelOf (s : State) (c n : Nat) : Nat := SMap.get 0 s.levels (s.get (Reg.DMA_CH_PACE_LEVEL_SRC c n))

/-- Firmware's write of DMA_CHn_PACE (R302, R303, R343): ENABLE is refused where LOW is not below HIGH, where a field has
never been written, or where no counter has that number. -/
def paceWrite (s : State) (c n : Nat) (src low high : Option Nat) (enable : Bool) : State :=
  let set := fun (s : State) (f : Fld) (v : Option Nat) => match v with
    | some v => (s.put f v).markWritten f
    | none => s
  let s := set (set (set s (Reg.DMA_CH_PACE_LEVEL_SRC c n) src) (Reg.DMA_CH_PACE_LOW c n) low) (Reg.DMA_CH_PACE_HIGH c n) high
  let k := s.get (Reg.DMA_CH_PACE_LEVEL_SRC c n)
  if !enable then
    ((s.put (Reg.DMA_CH_PACE_ENABLE c n) 0).put (Reg.DMA_CH_PACE_RUN c n) 0).put (Reg.DMA_CH_STATUS_PACED c n) 0
  else if !allWritten s [Reg.DMA_CH_PACE_LEVEL_SRC c n, Reg.DMA_CH_PACE_LOW c n, Reg.DMA_CH_PACE_HIGH c n]
      || s.get (Reg.DMA_CH_PACE_HIGH c n) ≤ s.get (Reg.DMA_CH_PACE_LOW c n) || (64 ≤ k && k != 255) then
    raise (s.put (Reg.DMA_CH_PACE_ENABLE c n) 0) (chLast c n) { code := 0x0801, cls := 0, core := c, unit := n }
  else (s.put (Reg.DMA_CH_PACE_ENABLE c n) 1).put (Reg.DMA_CH_STATUS_PACED c n) 1

/-- A transfer becomes active (R312): the alignment check of SRC, DST and LENGTH, a staging address being a granule
number. -/
def activate (s : State) (c n : Nat) (x : Xfer) (shadow : Option Xfer) : State :=
  let s := s.setChan c n ⟨some x, shadow⟩
  let s := (s.put (Reg.DMA_CH_STATUS_PRIO c n) x.desc.prio).put (Reg.DMA_CH_STATUS_SHADOW c n) shadow.isSome.toNat
  let s := s.put (Reg.DMA_CH_BYTES_MOVED c n) 0
  let d := x.desc
  if (d.srcSp != 1 && d.src % 64 != 0) || (d.dstSp != 1 && d.dst % 64 != 0) || d.len % 64 != 0 || d.len = 0 then
    let s := (s.put (Reg.DMA_CH_STATUS_STATE c n) 3).put (Reg.DMA_CH_CTRL_HALTED c n) 1
    descFault s (chLast c n) c d 0x0811 (descWords d)
  else
    let held := s.on (Reg.DMA_CH_PACE_ENABLE c n)
      && (chState s c n == 2 || s.get (Reg.DMA_CH_PACE_HIGH c n) * 16 ≤ levelOf s c n)
    (s.put (Reg.DMA_CH_STATUS_STATE c n) (if held then 2 else 1)).put (Reg.DMA_CH_PACE_RUN c n)
      (s.on (Reg.DMA_CH_PACE_ENABLE c n) && !held).toNat

/-- A fresh transfer of a descriptor. -/
def Xfer.fresh (d : Desc) : Xfer := ⟨d, 0, 0, 0, [], false, 0⟩

/-- The head of ring n of erg e is refused or loaded by a visit; else the queue is passed over (R306): it is empty, stopped,
unbound, or its head waits for its channel or for a completion record. -/
def headReady (s : State) (e n : Nat) : Bool :=
  match dqRing s (dqKey e n) with
  | [] => false
  | d :: _ =>
    let c := 16 * e + d.lcore
    !(s.on (Reg.DMA_DQ_STOPPING e n) || s.on (Reg.DMA_DQ_STOPPED e n) || (n < 16 && !s.on (Reg.DMA_DQ_BOUND e n)))
      && (descRefused s e n d || !(chState s c d.chan == 4 || s.on (Reg.DMA_CH_CTRL_DISABLE c d.chan)
        || (s.chan c d.chan).shadow.isSome || (d.record && 1023 ≤ SMap.get 0 s.dcqCount (e * 64 + d.cq))))

/-- The head of a ring is checked and loaded into an empty set of its channel; where it must wait, nothing changes. -/
def feed (s : State) (e n : Nat) : State :=
  let k := dqKey e n
  match dqRing s k with
  | [] => s
  | d :: rest =>
    let c := 16 * e + d.lcore
    let q := e * 64 + d.cq
    if !headReady s e n then s
    else if descRefused s e n d then descFault (setDqRing s k rest) (chLast c d.chan) c d 0x0820 (descWords d)
    else
      let x := s.chan c d.chan
      let s := setDqRing s k rest
      let s := if d.record then { s with dcqCount := SMap.set 0 s.dcqCount q (SMap.get 0 s.dcqCount q + 1) } else s
      if x.active.isNone then activate s c d.chan (Xfer.fresh d) none
      else (s.setChan c d.chan ⟨x.active, some (Xfer.fresh d)⟩).put (Reg.DMA_CH_STATUS_SHADOW c d.chan) 1

/-- The queue that feeder f of erg e serves next: round-robin after the one served last, passing over those that have nothing
to load (R306). -/
def nextQueue (s : State) (e f : Nat) : Option Nat :=
  ((List.range 16).map fun i => 16 * f + (SMap.get 15 s.feedLast (e * 2 + f) + 1 + i) % 16).find? (headReady s e)

/-- One visit of feeder f of erg e. -/
def visit (s : State) (e f : Nat) : State :=
  match nextQueue s e f with
  | some n => feed { s with feedLast := SMap.set 15 s.feedLast (e * 2 + f) (n % 16) } e n
  | none => s

/-- DESCRIPTOR_LOAD (R306): a visit of the feeder that serves queue n. `given` is a descriptor that firmware or a native image
has put at the end of ring n by itself. -/
def execDescriptorLoad (e : Erg) (n : Nat) (given : Option (List Byte)) (s : State) : Res :=
  if n < 32 && clocked s then
    let s := match given with
      | some b => pushDescOn s (dqKey e n) (descOf s e b)
      | none => s
    .next (visit s e (n / 16))
  else .next s

/-! ### Bursts (R300, R301) -/

/-- The byte offset of a staging address in its bank, and the bank. -/
def stgBank (x : Nat) : Nat := bitsOf x 11 2
def stgOff (x : Nat) : Nat := bitsOf x 0 11 * bankGran (stgBank x)

/-- The size of the next burst: up to the next 1 KiB boundary of the destination. -/
def burstSize (x : Xfer) : Nat :=
  let at_ := (if x.desc.dstSp = 1 then stgOff x.desc.dst else x.desc.dst) + x.granted
  min (1024 - at_ % 1024) (x.desc.len - x.granted)

/-- The partition offsets or device addresses that a burst reads and writes in the fast tier, as device addresses. -/
def burstReads (s : State) (x : Xfer) (k n : Nat) : List Nat :=
  if x.desc.srcSp = 0 then (descSources x.desc k n).filterMap (xlate s x.desc.part)
  else if x.desc.srcSp = 3 then descSources x.desc k n else []
def burstWrites (s : State) (x : Xfer) (k n : Nat) : List Nat :=
  if x.desc.dstSp = 0 then ((List.range n).filterMap fun i => destAddr x.desc (k + i)).filterMap (xlate s x.desc.part)
  else if x.desc.dstSp = 3 && x.desc.fill != .receive then ((List.range n).map (x.desc.dst + k + ·)).filter (· < fastEnd)
  else []

/-- The token buckets that a burst draws on (R282). -/
def burstKeys (s : State) (x : Xfer) (k n : Nat) : List Nat :=
  tokenKeys s false 0 (burstReads s x k n) ++ tokenKeys s true 0 (burstWrites s x k n)

/-- The mesh endpoint of a side of a burst (R20): core c (0 to 127), the slice of an erg (128 on), a host port (136, 137), the
oasis die (138), the fabric block (139). `as` are its addresses in memory. -/
def endpoint (s : State) (c : Nat) (d : Desc) (sp : Nat) (as : List Nat) : Nat :=
  if sp = 1 then c
  else if sp = 2 then 136 + (portOf s d.part).num
  else match as with
    | a :: _ => if a < fastEnd then 128 + a / ergBytes else 138
    | [] => 139

/-- The destination can take the burst (R300): staging granules that are absent (R67), tokens, host credit. -/
def burstFits (s : State) (c : Nat) (x : Xfer) (n : Nat) (credit : Bool) : Bool :=
  let d := x.desc
  let stg := d.dstSp != 1 ||
    (let b := stgBank d.dst
     let o := stgOff d.dst + x.granted
     presentAll s c b (o / bankGran b) ((o + n + bankGran b - 1) / bankGran b - o / bankGran b) 0)
  let host := (d.dstSp != 2 && d.srcSp != 2) || credit
  stg && host && mayTake s (burstKeys s x x.granted n)

/-- A channel's burst is ready (R300). -/
def chReady (s : State) (c n : Nat) (credit : Bool) : Bool :=
  match (s.chan c n).active with
  | some x => chState s c n == 1 && !x.stopped && x.granted < x.desc.len && burstFits s c x (burstSize x) credit
  | none => false

/-- The channel that a burst slot grants (R301): aging, then the highest level, then round-robin. -/
def granted (s : State) (c : Nat) (ready : List Nat) : Option Nat :=
  let e := SMap.get DmaEng.empty s.dmaEng c
  let level := fun (n : Nat) => s.get (Reg.DMA_CH_STATUS_PRIO c n)
  let aged := ready.filter fun n => 64 ≤ SMap.get 0 e.passed n
  let low := (aged.map level).foldl min 3
  match aged.find? fun n => level n == low with
  | some n => some n
  | none =>
    let top := (ready.map level).foldl max 0
    let here := ready.filter fun n => level n == top
    let last := SMap.get 16 e.last top
    match here.find? fun n => last < n && last != 16 with
    | some n => some n
    | none => here.head?

/-- A burst slot has gone to channel n (R301): the slots for which the ready channels were passed over, and the channel
served last at this level. -/
def slotGone (s : State) (c n : Nat) (ready : List Nat) : State :=
  let e := SMap.get DmaEng.empty s.dmaEng c
  let passed := (List.range 16).foldl (fun m k =>
    SMap.set 0 m k (if ready.contains k && k != n then SMap.get 0 e.passed k + 1 else 0)) e.passed
  { s with dmaEng := SMap.set DmaEng.empty s.dmaEng c ⟨passed, SMap.set 16 e.last (s.get (Reg.DMA_CH_STATUS_PRIO c n)) n⟩,
           grants := s.grants + 1 }

/-- A paced channel's level rises by a burst of b bytes; at HIGH the channel pauses (R303). -/
def paceUp (s : State) (c n b : Nat) : State :=
  if s.on (Reg.DMA_CH_PACE_ENABLE c n) then
    let k := s.get (Reg.DMA_CH_PACE_LEVEL_SRC c n)
    let v := SMap.get 0 s.levels k + b / 64
    let s := { s with levels := SMap.set 0 s.levels k v }
    if s.get (Reg.DMA_CH_PACE_HIGH c n) * 16 ≤ v then
      (s.put (Reg.DMA_CH_STATUS_STATE c n) 2).put (Reg.DMA_CH_PACE_RUN c n) 0
    else s
  else s

/-- The partitions whose next burst of core c lacks tokens wait in this cycle, each once (R283). -/
def burstWaits (s : State) (c : Nat) (credit : Bool) : State :=
  waitParts s ((List.range 16).flatMap fun n =>
    match (s.chan c n).active with
    | some x =>
      if chState s c n == 1 && !x.stopped && x.granted < x.desc.len && !chReady s c n credit
      then dryParts s (burstKeys s x x.granted (burstSize x)) else []
    | none => [])

/-- The next burst of a transfer of core c as it is granted. -/
def flightOf (s : State) (c : Nat) (x : Xfer) : Flight :=
  let n := burstSize x
  ⟨n, s.grants, endpoint s c x.desc x.desc.srcSp (burstReads s x x.granted n),
    endpoint s c x.desc x.desc.dstSp (burstWrites s x x.granted n)⟩

/-- BURST_GRANT (R301): one burst slot of core c. `credit` says whether the port has flow-control credit. -/
def execBurstGrant (c : Core) (credit : Bool) (s : State) : Res :=
  let ready := (List.range 16).filter fun n => chReady s c n credit
  if !clocked s then .next s else
  let s := burstWaits s c credit
  match granted s c ready with
  | none => .next s
  | some n =>
    match (s.chan c n).active with
    | none => .next s
    | some x =>
      let f := flightOf s c x
      let s := takeKeys (slotGone s c n ready) (burstKeys s x x.granted (burstSize x))
      let s := s.setChan c n ⟨some { x with granted := x.granted + burstSize x, flight := x.flight ++ [f] },
        (s.chan c n).shadow⟩
      .next (paceUp s c n (burstSize x))

/-- Channel n of core c is paced: the one kind of requester that reaches the oasis window over a channel (R17, R281). -/
def isPaced (s : State) (c n : Nat) : Bool := 14 ≤ n && s.on (Reg.DMA_CH_PACE_ENABLE c n)

/-- What refuses the device addresses of a burst of core c, with its DETAIL. -/
def devCode (s : State) (c : Nat) (d : Desc) (a n : Nat) : Nat × List Nat :=
  let as := (List.range n).map (a + ·)
  match as.find? fun a => !isDevice a with
  | some a => (0x0710, [a])
  | none => (devRefusal s (isPaced s c d.chan) as).getD (0, [])

/-- The data of bytes [k, k + n) of a transfer: the code of a refused access with its DETAIL, or the bytes. -/
def burstData (s : State) (c : Nat) (x : Xfer) (k n : Nat) (host : Option (List Byte)) : Nat × List Nat × List Byte :=
  let d := x.desc
  if d.srcSp = 0 then
    match partRefusal s d.part (descSources d k n) with
    | some (code, detail) => (code, detail, [])
    | none =>
      (0, [], (List.range n).map fun i =>
        descByte (fun o => SMap.get 0 s.mem ((xlate s d.part o).getD 0)) d (k + i))
  else if d.srcSp = 1 then
    (0, [], (List.range n).map fun i => stgByte s c (stgBank d.src) (stgOff d.src + k + i))
  else if d.srcSp = 2 then
    match host with
    | some bs => if bs.length = n then (0, [], bs) else (0x0812, [], [])
    | none => (0x0812, [], [])
  else
    let r := devCode s c d (d.src + k) n
    if r.1 = 0 then (0, [], rdDev s (d.src + k) n) else (r.1, r.2, [])

/-- A paced burst lands in a receive queue (R344): the instance that is bound to it has more bytes at hand. -/
def frqLand (s : State) (d : Desc) (n : Nat) : State :=
  { s with colls := s.colls.map fun x =>
      if x.part = d.part ∧ x.frq = some d.cookie then { x with avail := x.avail + n } else x }

/-- The granules that bytes [k, k + n) of a staging transfer fill: the first, and how many. -/
def landSpan (d : Desc) (k n : Nat) : Nat × Nat :=
  let g := bankGran (stgBank d.dst)
  let o := stgOff d.dst
  let first := (o + k) / g
  (first, (if k + n = d.len then (o + d.len + g - 1) / g else (o + k + n) / g) - first)

/-- The granules that become present as bytes [k, k + n) of a staging transfer land (R305). -/
def landPresent (s : State) (c : Nat) (d : Desc) (k n : Nat) : State :=
  let b := stgBank d.dst
  let (first, m) := landSpan d k n
  (List.range m).foldl (fun s i => setPresent s c b (first + i)
    (d.tag + tagStep d.fill * (first + i - stgOff d.dst / bankGran b)) d.skew) s

/-- The data of a burst written to its destination: a code with its DETAIL, and the state. What a stopped transfer of a launch
brings into staging is discarded: it becomes no granule's (R207). -/
def burstStore (s : State) (c : Nat) (x : Xfer) (k : Nat) (bs : List Byte) : Nat × List Nat × State :=
  let d := x.desc
  if d.dstSp = 0 then
    let to_ := (List.range bs.length).map fun i => destAddr d (k + i)
    match partRefusal s d.part (to_.filterMap id) with
    | some (code, detail) => (code, detail, s)
    | none =>
      let cells := (to_.zip bs).filterMap fun (o, b) => o.bind fun o => (xlate s d.part o).map fun a => (a, b)
      let s := storeAt (touchAll s true 0 (cells.map (·.1))) (cells.map (·.1)) (cells.map (·.2))
      (0, [], match d.fill with
        | .toRows _ _ _ => (to_.filterMap id).foldl (fun s o => noteTags s d.part o 1) s
        | _ => noteTags s d.part (d.dst + k) bs.length)
  else if d.dstSp = 1 then
    let t := stgWrite s c (stgBank d.dst) (stgOff d.dst + k) bs
    (0, [], if x.stopped && d.vcore != 0xFF then t else landPresent t c d k bs.length)
  else if d.dstSp = 2 then (0, [], toHost s (portOf s d.part) d.part (d.dst + k) bs)
  else if d.fill = .receive then (0, [], frqLand s d bs.length)
  else
    let r := devCode s c d (d.dst + k) bs.length
    let as := (List.range bs.length).map (d.dst + k + ·)
    (r.1, r.2, if r.1 = 0 then storeAt (touchAll s true 0 as) as bs else s)

/-- Where byte i of a burst lies in memory, with its offset for a partition requester: of the bytes it reads first, then of those
it writes. -/
def burstAt (s : State) (x : Xfer) (k n i : Nat) : Option (Nat × Option Nat) :=
  let d := x.desc
  let part := fun (o : Option Nat) => o.bind fun o => (xlate s d.part o).map fun a => (a, some o)
  if i < n then
    if d.srcSp = 0 then part (among (descSources d k n) i) else if d.srcSp = 3 then some (d.src + k + i, none) else none
  else if d.dstSp = 0 then part (destAddr d (k + (i - n)))
  else if d.dstSp = 3 ∧ d.fill ≠ .receive then some (d.dst + k + (i - n), none)
  else none

/-- What the memory can find in a burst of n bytes: a write meets no error of DRAM before it lands (R290). -/
def burstEvent (n : Nat) (ev : MemEvent) : MemEvent :=
  ⟨(ev.finds.filter fun e => e.1 < n) ++ (writeEvent ⟨ev.finds.filter fun e => n ≤ e.1⟩).finds⟩

/-- A burst or a granule was issued before the oldest burst of a transfer between the same two endpoints, and has not landed: the
mesh delivers it first (R20). -/
def olderFlight (s : State) (x : Xfer) : Bool :=
  match x.flight with
  | [] => false
  | f :: _ => meshOlder s f.order f.source f.target

/-- The channel of the fast tier that the oldest granted burst of a transfer reads, and the partition whose frame it is. -/
def fillOf (s : State) (x : Xfer) : Option (Nat × Nat) :=
  match x.flight with
  | [] => none
  | f :: _ =>
    let a := match firstFill s false 0 (burstReads s x x.landed f.size) with
      | some a => some a
      | none => firstFill s true 0 (burstWrites s x x.landed f.size)
    a.bind fun a => (ownerOf s a).map fun p => ((chanOf s a).1, p)

/-- A channel of the fast tier serves bursts round-robin by partition (R283): another partition's burst that could land comes first.
A burst that runs over several channels takes its turn at the first (DESIGN CHOICE, log entry 45). -/
def notItsTurn (s : State) (x : Xfer) : Bool :=
  match fillOf s x with
  | none => false
  | some (ch, p) =>
    let turn := fun (q : Nat) => (q + 16 - SMap.get 0 s.chanServed ch % 16) % 16
    s.dma.any fun e => e.2.active.toList.any fun y => !olderFlight s y && (fillOf s y).any fun z => z.1 == ch && turn z.2 < turn p

/-- The channel has served the burst. -/
def served (s : State) (x : Xfer) : State :=
  match fillOf s x with
  | some (ch, p) => { s with chanServed := SMap.set 0 s.chanServed ch (p + 1) }
  | none => s

/-- What a burst that has landed sets going: granules brought into a stage's staging and what they complete in its send range
(R191, R207), collective instances, and the records that waited for it (R321, R324). -/
def afterLand (s : State) (d : Desc) (k n : Nat) (stopped : Bool) : State :=
  let s := if d.dstSp = 1 ∧ d.vcore ≠ 0xFF ∧ !stopped then
      carPumpAll (carBrought s d.part d.vcore (stgBank d.dst) (landSpan d k n).1 (landSpan d k n).2) d.part
    else if d.fill = .receive then pumpAll s d.part else s
  settleLaunch s d.part

/-- BURST_LAND (R300): the oldest granted burst of a channel lands. `host` is what host memory answered to a read, `ev`
what the fast tier found. -/
def execBurstLand (c : Core) (n : DmaCh) (host : Option (List Byte)) (ev : MemEvent) (s : State) : Res :=
  match (s.chan c n).active with
  | none => .next s
  | some x =>
    if !clocked s || olderFlight s x || notItsTurn s x then .next s else
    match x.flight with
    | [] => .next s
    | f :: rest =>
      let b := f.size
      let d := x.desc
      let k := x.landed
      let shadow := (s.chan c n).shadow
      let s := served s x
      let m := if d.srcSp = 0 then (descSources d k b).length else b
      let (s, found, i) := memFinds s (fun i => (burstAt s x k m i).map (·.1)) (burstEvent m ev)
      let (a, off) := (burstAt s x k m i).getD (0, none)
      let (code, detail, data) := burstData s c x k b host
      let (code, detail) := if found != 0 then (found, memDetail s a off) else (code, detail)
      let (code, detail, s) := if code != 0 then (code, detail, s) else
        let s := if d.srcSp = 0 || d.srcSp = 3 then touchAll s false 0 (burstReads s x k b) else s
        burstStore s c x k data
      let x := { x with flight := rest, landed := k + b, bytes := x.bytes + (if code = 0 then b else 0),
                        stopped := x.stopped || code != 0, code := if x.code = 0 then code else x.code }
      let s := s.setChan c n ⟨some x, shadow⟩
      if code != 0 then
        let last := chLast c n ++ (if code / 256 = 7 && !d.firmware then [Reg.MEM_PART_STATUS_LAST_CODE d.part] else [])
          ++ (if found != 0 then [Reg.CCH_STATUS_LAST_CODE (sliceOfAddr a)] else [])
        .next (settleLaunch (afterLoss (descFault s last c d code detail) a found) d.part)
      else
        let s := s.put (Reg.DMA_CH_BYTES_MOVED c n) (s.get (Reg.DMA_CH_BYTES_MOVED c n) + b)
        let cmd := s.cmd d.part d.seq
        let s := if d.vcore = 0xFF && !d.firmware && cmd.phase != .absent then
            s.setCmd d.part d.seq { cmd with moved := cmd.moved + b } else s
        .next (afterLand s d k b x.stopped)

/-! ### The end of a transfer (R298, R307, R322) -/

/-- The shadow set is promoted, or the channel is idle. -/
def promote (s : State) (c n : Nat) : State :=
  match (s.chan c n).shadow with
  | some y => activate s c n y none
  | none =>
    let s := s.setChan c n Chan2.empty
    (s.put (Reg.DMA_CH_STATUS_STATE c n) 0).put (Reg.DMA_CH_STATUS_SHADOW c n) 0

/-- A DMA completion record as values (R307): queue, position in its ring of 1,024, COOKIE, SEQ, CODE, SOURCE, PHASE and BYTES;
the control core frees its place by reading it. -/
def dmaRecord (s : State) (c n : Nat) (x : Xfer) : State :=
  let d := x.desc
  if d.record then
    let q := c / 16 * 64 + d.cq
    let k := SMap.get 0 s.dcqWritten q
    let s := s.emit (.response "DMA_CQ" [q, k % 1024, d.cookie, d.seq, x.code, n + 16 * (c % 16), (k / 1024 + 1) % 2, x.bytes])
    { s with dcqCount := SMap.set 0 s.dcqCount q (SMap.get 0 s.dcqCount q - 1), dcqWritten := SMap.set 0 s.dcqWritten q (k + 1) }
  else s

/-- The bytes of a STORE (R242). -/
def storeBytes (s : State) (c : Nat) (d : Desc) : List Byte :=
  let n := match d.fill with
    | .toRows _ _ n => n
    | _ => d.len
  (List.range n).map fun i => stgByte s c (stgBank d.src) (stgOff d.src + i)

/-- TRANSFER_COMPLETE (R298): the last burst has landed; the completion record, the command's progress, the promotion. -/
def execTransferComplete (c : Core) (n : DmaCh) (s : State) : Res :=
  match (s.chan c n).active with
  | none => .next s
  | some x =>
    if clocked s && chState s c n != 3 && x.flight.isEmpty && (x.landed = x.desc.len || x.stopped) then
      let d := x.desc
      let s := (dmaRecord s c n x).bumpWrap (Reg.DMA_CH_STATUS_COMPLETED c n) 1
      let s := promote s c n
      if x.stopped then .next (settleLaunch (copyEnded s d) d.part)
      else if d.vcore != 0xFF then
        let s := if d.srcSp = 1 && d.dstSp = 0 then launchTile s d.part d.vcore c d.iid 0 (storeBytes s c d) else s
        let s := if d.rel then clearPresent s c (stgBank d.src) (bitsOf d.src 0 11)
            ((d.len + bankGran (stgBank d.src) - 1) / bankGran (stgBank d.src)) else s
        .next (tryCommit (partDone s d.part d.vcore d.iid) d.part)
      else .next (copyEnded s d)
    else .next s

/-- PACE_RESUME (R303): the level of a paced channel's target has fallen to `level`. -/
def execPaceResume (c : Core) (n : DmaCh) (level : Nat) (s : State) : Res :=
  if !clocked s then .next s else
  let k := s.get (Reg.DMA_CH_PACE_LEVEL_SRC c n)
  let s := { s with levels := SMap.set 0 s.levels k (min level (SMap.get 0 s.levels k)) }
  if chState s c n = 2 && s.on (Reg.DMA_CH_PACE_ENABLE c n) && levelOf s c n < s.get (Reg.DMA_CH_PACE_LOW c n) * 16 then
    .next ((s.put (Reg.DMA_CH_STATUS_STATE c n) (if (s.chan c n).active.isSome then 1 else 0)).put (Reg.DMA_CH_PACE_RUN c n) 1)
  else .next s

/-! ### Stops (R308 to R312) -/

/-- The offset of DMA_CHn_CTRL of core c, and of DMA_DQn of erg e. -/
def chCtrlOff (c n : Nat) : Nat := coreBase c + 0x1008 + 0x20 * n
def dqOff (e n : Nat) : Nat := 0x400C00 + 0x80000 * e + 8 * n

/-- The completion record reserved for a descriptor is free again. -/
def freeRecord (s : State) (c : Nat) (d : Desc) : State :=
  let q := c / 16 * 64 + d.cq
  if d.record then { s with dcqCount := SMap.set 0 s.dcqCount q (SMap.get 0 s.dcqCount q - 1) } else s

/-- Both sets of a channel are dropped; their commands end with code 0x0813 (R308, R309). -/
def disableChannel (s : State) (c n : Nat) : State :=
  let x := s.chan c n
  let ds := ((x.active.map fun y => [y]).getD []) ++ ((x.shadow.map fun y => [y]).getD [])
  let s := dropChannel s c n true
  ds.foldl (fun (s : State) y =>
    let s := freeRecord s c y.desc
    if (s.cmd y.desc.part y.desc.seq).phase == .aborted && y.desc.vcore == 0xFF then copyEnded s y.desc
    else if y.stopped then settleLaunch s y.desc.part
    else descFault s (chLast c n) c y.desc 0x0813 []) s

/-- A write of DMA_CHn_CTRL (R308, R309, R311, R312). The channels of a Grey core stay DISABLED (R355). -/
def chCtrl (c n : Nat) (s : State) (x : Wr) : State :=
  let off := s.on (Reg.DMA_CH_CTRL_DISABLE c n)
  if x.one 0 then (if off then s else disableChannel s c n)
  else
    let s := if x.val 0 == some 0 && off && coreState s c != 2 then
        (s.put (Reg.DMA_CH_CTRL_DISABLE c n) 0).put (Reg.DMA_CH_STATUS_STATE c n) 0 else s
    if x.one 1 && s.on (Reg.DMA_CH_CTRL_HALTED c n) then
      let s := match (s.chan c n).active with
        | some y => freeRecord s c y.desc
        | none => s
      promote (s.put (Reg.DMA_CH_CTRL_HALTED c n) 0) c n
    else s

/-- DMA_CH_DISABLE (R308). -/
def execDmaChDisable (c : Core) (n : DmaCh) (w : HostWr) (s : State) : Res :=
  .next (hostWrite s (chCtrlOff c n) w (chCtrl c n))

/-- DMA_CH_HALTED_CLEAR (R312). -/
def execDmaChHaltedClear (c : Core) (n : DmaCh) (w : HostWr) (s : State) : Res :=
  .next (hostWrite s (chCtrlOff c n) w (chCtrl c n))

/-- The descriptors of queue n of erg e that channels hold. -/
def dqLoaded (s : State) (e n : Nat) : Bool :=
  (List.range 16).any fun l => (loadedOn s (16 * e + l)).any fun d =>
    if n < 16 then d.part == n && !d.firmware && inPart s n (16 * e + l) else d.firmware || !inPart s d.part (16 * e + l)

/-- A write of DMA_DQn (R310). -/
def dqCtrl (e n : Nat) (w : HostWr) (s : State) (x : Wr) : State :=
  if !x.one 0 && !x.one 1 then s
  else if !s.on (Reg.DMA_DQ_BOUND e n) || !owned s (s.get (Reg.DMA_DQ_PARTITION e n))
      || portOf s (s.get (Reg.DMA_DQ_PARTITION e n)) != w.port then
    regRecord s (portLast w.port) 0x0815 0xFF 0xFF (dqOff e n) w []
  else
    let s := if x.one 1 then
        ((s.put (Reg.DMA_DQ_STOPPED e n) 0).put (Reg.DMA_DQ_STOPPING e n) 0).put (Reg.DMA_DQ_STOP e n) 0 else s
    if x.one 0 && !s.on (Reg.DMA_DQ_STOPPED e n) then
      (s.put (Reg.DMA_DQ_STOPPING e n) 1).put (Reg.DMA_DQ_STOP e n) 1 else s

/-- DQ_STOP (R310). -/
def execDqStop (e : Erg) (n : Nat) (w : HostWr) (s : State) : Res :=
  if n < 32 then .next (hostWrite s (dqOff e n) w (dqCtrl e n w)) else .next s

/-- DQ_RESUME (R310). -/
def execDqResume (e : Erg) (n : Nat) (w : HostWr) (s : State) : Res :=
  if n < 32 then .next (hostWrite s (dqOff e n) w (dqCtrl e n w)) else .next s

/-- DQ_STOPPED (R310). -/
def execDqStopped (e : Erg) (n : Nat) (s : State) : Res :=
  if n < 32 && clocked s && s.on (Reg.DMA_DQ_STOPPING e n) && !dqLoaded s e n then
    .next (((s.put (Reg.DMA_DQ_STOPPING e n) 0).put (Reg.DMA_DQ_STOP e n) 0).put (Reg.DMA_DQ_STOPPED e n) 1)
  else .next s

end Sys2Proof.Machine
end

