-- ==== Sys2Proof/Machine/Engine.lean ====
section
/-!
DEFINITION. The outer-product engine (R63 to R98): passes and drains from issue to completion, accumulator slots, gangs,
row hold and scale tags.
-/

namespace Sys2Proof.Machine

/-! ### Pass parameters -/

/-- Paths with an int8 row operand, with a bf16 row operand, on codes, with an integer accumulator (R64). -/
def rowInt8 (path : Nat) : Bool := path == 0 || path == 1 || path == 4 || path == 5
def codePath (path : Nat) : Bool := path ≤ 3
def intAcc (path : Nat) : Bool := path == 0 || path == 1 || path == 4

/-- Bytes of one element of the row operand and of one k-step of the column operand (R66). -/
def rowSize (path : Nat) : Nat := if rowInt8 path then 1 else 2
def colStep (path width : Nat) : Nat := if codePath path then 32 * width else if path = 4 then 256 else 512

/-- Bytes of the row operand of one pass (R66, R93). -/
def aBytes (path blocks holdT : Nat) : Nat :=
  let es := rowSize path
  if holdT = 0 then 8192 * blocks * es else 32 * blocks / holdT * roundUp ((255 + holdT) * es) 64

/-- Granules of the A range of a pass: per block, or the stream of groups under row hold (R66, R93). -/
def aGranules (path blocks holdT : Nat) : Nat :=
  (aBytes path blocks holdT + 4095) / 4096

/-- Granules of the B range. -/
def bGranules (path blocks : Nat) : Nat :=
  if codePath path then blocks else blocks * (if path = 4 then 2 else 4)

/-- Granules of the auxiliary range: one scale block per block on the code paths. -/
def sGranules (path blocks : Nat) : Nat := if codePath path then blocks else 0

/-- The checks of R72, R93 and R94 on a pass that comes up: its code, 0 where it may issue. A ganged pass with row hold is
refused with 0x0123, as R72 and R94 have it, where R90 has 0x0127 (DESIGN CHOICE, log entry 60); which code comes first
where several rows are broken is the model's choice (log entry 60). A pass that lacks a tensor of its table context, or the scale
record of one, is a native image's (R157). -/
def passCode (x : Pass) (book : Option Codebook) : Nat :=
  let wOk := if codePath x.path then
      (match book with
        | some b => b.width == x.width
        | none => false)
        && (match x.path with
          | 0 => x.width == 3 || x.width == 4
          | 1 => x.width == 2
          | _ => 2 ≤ x.width && x.width ≤ 4)
    else true
  if 6 < x.path || !wOk || x.blocks = 0 || 32 < x.blocks || 31 < x.accShift || (1 < x.path && x.accShift != 0)
    || 192 < x.aLen || 192 < x.bLen || 1024 < x.sLen || (x.gang && x.path == 3) || (rowInt8 x.path && x.aScale.isNone)
    || (x.path == 4 && x.wScale.isNone) then 0x0127
  else if x.holdT != 0 && (x.holdT < 2 || 64 < x.holdT || 32 * x.blocks % x.holdT != 0 || x.path == 1 || x.path == 3
    || x.gang) then 0x0123
  else 0

/-! ### Gangs (R88 to R90) -/

/-- The cores of a pass: the four of the gang, or one. -/
def passCores (c : Nat) (x : Pass) : List Nat := if x.gang then [c, c + 1, c + 2, c + 3] else [c]

/-- A gang of four Live cores of one partition (R88; Amber counts as Live, R353). -/
def gangOk (s : State) (c : Nat) : Bool :=
  c % 4 == 0 && ([c, c + 1, c + 2, c + 3] : List Nat).all fun x => coreState s x != 2 && partOfCore s x == partOfCore s c

/-- The operands that core position k of a gang stages: row operands, column operands, and whether they are pre-skewed. -/
def stagesRow (k : Nat) : Bool := k == 0 || k == 2
def stagesCol (k : Nat) : Bool := k == 0 || k == 1

/-- Granules that core position k of a pass reads: (bank, first, count, pre-skewed). The ranges released at completion are
those whose release bit is 1 (R76). -/
def passRanges (x : Pass) (k : Nat) : List (Nat × Nat × Nat × Bool) :=
  if x.gang then
    (if stagesRow k then [(0, x.aBase, x.aLen + (if k = 2 then 1 else 0), k == 2)] else [])
      ++ (if stagesCol k then [(1, x.bBase, x.bLen + (if k = 1 then 1 else 0), k == 1)] else [])
      ++ (if x.sLen = 0 then [] else [(2, x.sBase, x.sLen, false)])
  else [(0, x.aBase, x.aLen, false), (1, x.bBase, x.bLen, false)] ++ (if x.sLen = 0 then [] else [(2, x.sBase, x.sLen, false)])

/-- The release bit of a bank's range. -/
def Pass.rel (x : Pass) (bank : Nat) : Bool := if bank = 0 then x.aRel else if bank = 1 then x.bRel else x.sRel

/-- The ranges of a pass at core position k as they are named (R76). -/
def namedRanges (x : Pass) (k : Nat) : List (Nat × Nat × Nat) := (passRanges x k).map fun r => (r.1, r.2.1, r.2.2.1)

/-- The granules that a pass of core c names on each of its cores, which the command's end clears (R76). -/
def namePass (s : State) (c : Nat) (x : Pass) : State :=
  (passCores c x).zipIdx.foldl (fun (s : State) (d, k) =>
    s.setEng d { s.eng d with named := namedRanges x k ++ (s.eng d).named }) s

/-- A pass enters the queue of core c. -/
def addPass (s : State) (c : Nat) (x : Pass) : State := s.setEng c { s.eng c with queue := (s.eng c).queue ++ [.pass x] }

/-- Every granule of every range of a pass is present (R73). -/
def passPresent (s : State) (c : Nat) (x : Pass) : Bool :=
  (passCores c x).zipIdx.all fun (d, k) => (passRanges x k).all fun r => presentAll s d r.1 r.2.1 r.2.2.1 1

/-- SKEW is 1 exactly on the pre-skewed ranges (R89). -/
def skewOk (s : State) (c : Nat) (x : Pass) : Bool :=
  (passCores c x).zipIdx.all fun (d, k) => (passRanges x k).all fun r =>
    (List.range r.2.2.1).all fun i => skewOf s d r.1 (r.2.1 + i) == (if r.2.2.2 then 1 else 0)

/-! ### The arithmetic of a pass (R42 to R45, R68 to R71, R93) -/

/-- Where the operands of a quarter lie: row operand core and byte, column operand core and byte, own core. -/
structure Lanes where
  rowCore : Nat
  rowByte : Nat
  colCore : Nat
  colByte : Nat
  own : Nat
deriving DecidableEq, Repr

/-- The lanes of core position k. A pre-skewed stream stands one k-step slot later in its range (R89). -/
def lanesOf (c : Nat) (x : Pass) (k : Nat) : Lanes :=
  if x.gang then
    let r := if k < 2 then 0 else 2
    let n := k % 2
    ⟨c + r, 4096 * x.aBase + (if r = 2 then 256 * rowSize x.path else 0), c + n,
      4096 * x.bBase + (if n = 1 then colStep x.path x.width else 0), c + k⟩
  else ⟨c, 4096 * x.aBase, c, 4096 * x.bBase, c⟩

/-- Byte of row i at k-step j in the row-operand stream (R66, R93). -/
def rowOffset (x : Pass) (j i : Nat) : Nat :=
  let es := rowSize x.path
  if x.holdT = 0 then (256 * j + i) * es
  else j / x.holdT * roundUp ((255 + x.holdT) * es) 64 + (i + j % x.holdT) * es

/-- The row operand element that row i uses at k-step j lies inside the tensor (R145, R159). -/
def rowIn (x : Pass) (quarter j i : Nat) : Bool :=
  let k0 := 32 * x.kb0
  let (i', k) := if x.holdT = 0 then (i, k0 + j)
    else let m := i + j % x.holdT
      if m < 256 then (m, k0 + j / x.holdT * x.holdT) else (255, k0 + j / x.holdT * x.holdT + (m - 255))
  x.rowBase + 256 * (quarter / 2) + i' < x.rowsIn && k < x.kIn

/-- The integer row operand a − z of row i at k-step j, 0 outside the tensor (R145). -/
def rowInt (s : State) (x : Pass) (l : Lanes) (z : Int) (quarter j i : Nat) : Int :=
  if rowIn x quarter j i then sext 8 (stgNat s l.rowCore 0 (l.rowByte + rowOffset x j i) 1) - z else 0

/-- The bf16 row operand as fp32 bits. -/
def rowBf (s : State) (x : Pass) (l : Lanes) (j i : Nat) : Nat := bfTo32 (stgNat s l.rowCore 0 (l.rowByte + rowOffset x j i) 2)

/-- The code of column n at k-step j: forward layout, one granule per block; transposed layout, 32 × b bytes per step
(R66). -/
def colCode (s : State) (x : Pass) (l : Lanes) (j n : Nat) : Nat :=
  let b := x.width
  let base := l.colByte + 4096 * (j / 32)
  if x.path = 3 then codeAt b (stgNat s l.colCore 1 (base + 32 * b * (j % 32) + n / 32 * (4 * b)) (4 * b)) (n % 32)
  else codeAt b (stgNat s l.colCore 1 (base + 4 * b * n) (4 * b)) (j % 32)

/-- The int8 or bf16 column operand of column n at k-step j. -/
def colInt (s : State) (l : Lanes) (j n : Nat) : Int := sext 8 (stgNat s l.colCore 1 (l.colByte + 256 * j + n) 1)
def colBf (s : State) (l : Lanes) (j n : Nat) : Nat := bfTo32 (stgNat s l.colCore 1 (l.colByte + 512 * j + 2 * n) 2)

/-- The block multiplier of column n for block q (R66), forward; of reduction step j and group g, transposed. -/
def mulOf (s : State) (x : Pass) (l : Lanes) (q n : Nat) : Nat := stgNat s l.own 2 (512 * (x.sBase + q) + 2 * n) 2
def mulOfT (s : State) (x : Pass) (l : Lanes) (j g : Nat) : Nat :=
  stgNat s l.own 2 (512 * (x.sBase + j / 32) + 16 * (j % 32) + 2 * g) 2

/-- An fp32 sum of terms in order, each addition rounded; it starts from +0 (R77, R78). -/
def fsum (xs : List Nat) : Nat := xs.foldl f32add 0

/-- Key of accumulator word (i, n) of slot t of core c. -/
def accKey (c t i n : Nat) : Nat := c * 2 ^ 18 + t * 2 ^ 16 + 256 * i + n

/-- The integer partial of block q for cell (i, n). -/
def partialInt (s : State) (x : Pass) (l : Lanes) (z : Int) (book : Codebook) (quarter q i n : Nat) : Int :=
  ((List.range 32).map fun j =>
    let k := 32 * q + j
    rowInt s x l z quarter k i * (if x.path = 4 then colInt s l k n else book.entries.getD (colCode s x l k n) 0)).foldl
    (· + ·) 0

/-- The float value t of block q that enters the accumulator (R44, R45, R71). -/
def partialFloat (s : State) (x : Pass) (l : Lanes) (z : Int) (book : Codebook) (quarter q i n : Nat) : Nat :=
  let ks := (List.range 32).map (32 * q + ·)
  let entry := fun (k : Nat) => i32 (book.entries.getD (colCode s x l k n) 0)
  match x.path with
  | 2 => f32scale (f32mul (fsum (ks.map fun k => f32mul (rowBf s x l k i) (entry k))) (i32 (mulOf s x l q n))) book.e
  | 3 => f32scale (fsum (ks.map fun k => f32mul (f32mul (rowBf s x l k i) (i32 (mulOfT s x l k (n / 32)))) (entry k))) book.e
  | 5 => fsum (ks.map fun k => f32mul (i32 (rowInt s x l z quarter k i)) (colBf s l k n))
  | _ => fsum (ks.map fun k => f32mul (rowBf s x l k i) (colBf s l k n))

/-- One flush into a word: the new word, and whether sat32 clamped (R42, R43). The first flush of a tile that starts
stores the value itself (R80). -/
def flushInt (old : Option Nat) (p : Int) (m sh : Nat) : Nat × Bool :=
  let r := rneShift (p * m) sh
  let v := match old with
    | none => r
    | some w => sext 32 w + r
  (ofInt 32 (sat32 v), sat32 v != v)

/-- The word of cell (i, n) after all blocks of the pass, and its clamps. -/
def cellAfter (s : State) (x : Pass) (l : Lanes) (z : Int) (book : Codebook) (quarter i n : Nat) : Nat × Nat :=
  let old := if x.acc then some (SMap.get 0 s.acc (accKey l.own x.slot i n)) else none
  let r := (List.range x.blocks).foldl (fun (r : Option Nat × Nat) q =>
    if intAcc x.path then
      let (w, c) := flushInt r.1 (partialInt s x l z book quarter q i n) (if x.path = 4 then 1 else mulOf s x l q n) x.accShift
      (some w, r.2 + c.toNat)
    else
      let t := partialFloat s x l z book quarter q i n
      (some (match r.1 with
        | none => t
        | some w => f32add w t), r.2)) (old, 0)
  (r.1.getD 0, r.2)

/-- The tile of one core computed: every cell, and the clamps counted (R43). -/
def runTile (s : State) (x : Pass) (l : Lanes) (z : Int) (book : Codebook) (quarter : Nat) : State :=
  let after := fun (k : Nat) => cellAfter s x l z book quarter (k / 256) (k % 256)
  let words := (List.range 65536).map fun k => (accKey l.own x.slot (k / 256) (k % 256), (after k).1)
  let clamps := ((List.range 65536).map fun k => (after k).2).foldl (· + ·) 0
  let t := { s with acc := SMap.setAll 0 s.acc words }
  bumpPair t Reg.ENG_ACC_SAT_COUNT_COUNT l.own clamps

/-- The first block whose tags differ (R60): block, expected, data tag (of column core `cc`), scale tag. -/
def tagFault (s : State) (cc c : Nat) (x : Pass) : Option (Nat × Nat × Nat × Nat) :=
  if codePath x.path then
    (List.range x.blocks).findSome? fun q =>
      let want := (x.kb0 + q) % 16
      let d := tagOf s cc 1 (x.bBase + q)
      let t := tagOf s c 2 (x.sBase + q)
      if d = want ∧ t = want then none else some (q, want, d, t)
  else none

/-! ### Stops -/

/-- The engine's fault stops the command (R72, R83, R95). LAST_CODE is that of the core that the record names: for a refusal
of a ganged pass the lead core alone (DESIGN CHOICE, log entry 60). -/
def engFault (s : State) (c p v code : Nat) (detail : List Nat) : State :=
  stopLaunch s (Reg.ENG_STATUS_LAST_CODE c :: chapterLast p (portOf s p) code) p
    { code := code, core := c, vcore := v, detail := detail }

/-- An access of an instruction that the memory refuses stops the command (R279, R289, R291): `last` is LAST_CODE of the unit, and
`tile` the tile that a stage works on, where that is not the one of its work part. -/
def recordStops (s : State) (last : Fld) (c p v : Nat) (code : Nat) (detail : List Nat) (tile : Option Nat := none) : State :=
  let a := detail.headD 0
  let lasts := last :: if code = 0x0710 then [Reg.MEM_PART_STATUS_LAST_CODE p] else memLast p a
  afterLoss (stopLaunch s lasts p { code := code, core := c, vcore := v, detail := detail, tile := tile }) a code

/-- Slot states: 0 Free, 1 Filling, 2 Full, 3 Draining (R79). -/
def slotSt (s : State) (c t : Nat) : Nat := s.get (Reg.ENG_STATUS_SLOT_STATE c t)

/-! ### Issue of passes (R73, R79 to R82) -/

/-- The codebook record that a pass latches. -/
def bookBytes (s : State) (p : Nat) (x : Pass) : List Byte :=
  match x.codebook with
  | some o => (pRead s p o 32).getD []
  | none => []

/-- The latched context of a pass: the refusal code, the codebook, z and the unit u (R46, R50, R51, R157). -/
def passContext (s : State) (p : Nat) (x : Pass) : Nat × Option Codebook × Int × Nat :=
  let book := codebookOf (bookBytes s p x)
  let code := scalesCode s p ((x.aScale.map fun i => [i]).getD [] ++ (x.wScale.map fun i => [i]).getD [])
  let a := (x.aScale.map (scaleLatch s p)).getD (one32, one32, 0)
  let w := (x.wScale.map (scaleLatch s p)).getD (one32, one32, 0)
  if codePath x.path && x.codebook.isSome && book.isNone then (0x0111, none, 0, 0)
  else if code != 0 then (code, book, 0, 0)
  else
    match unitOf x.path a.1 w.1 ((book.map (·.e)).getD 0) x.accShift with
    | none => (0x0114, book, 0, 0)
    | some u => (0, book, a.2.2, u)

/-- The records a pass or drain uses are not behind (R58). -/
def freshAll (s : State) (p : Nat) (is : List (Option Nat)) : Bool :=
  is.all fun o => match o with
    | some i => scaleFresh s p i
    | none => true

/-- The outcome of R80 for a pass on one core: a code, or 0 to go on, or 1 to wait. -/
def passSlot (s : State) (c : Nat) (x : Pass) (u : Nat) (cont : Bool) : Nat :=
  let st := slotSt s c x.slot
  let info := SMap.get SlotInfo.empty s.slots (c * 4 + x.slot)
  if x.acc then
    if st = 1 then (if cont then 0 else 0x0124)
    else if st = 2 then (if info = ⟨!intAcc x.path, u⟩ then 0 else 0x0126)
    else if st = 0 then 0x0126 else 0x0124
  else if st = 0 then 0 else if st = 3 then 1 else 0x0124

/-- The pass at the head of core c's queue issues (R73, R80, R81): what it latches, and on each of its cores the slot
Filling and the ranges named. -/
def startPass (s : State) (c : Nat) (x : Pass) (rest : List EngItem) (z : Int) (u : Nat) : State :=
  let par := s.get (Reg.SYN_STEP_STEP x.part) % 2
  let s := s.setEng c
    { s.eng c with queue := rest, filling := some x, book := bookBytes s x.part x, zero := z, fillPar := par }
  (passCores c x).zipIdx.foldl (fun (s : State) (d, k) =>
    let s := s.put (Reg.ENG_STATUS_SLOT_STATE d x.slot) 1
    let s := { s with slots := SMap.set SlotInfo.empty s.slots (d * 4 + x.slot) ⟨!intAcc x.path, u⟩ }
    let s := (s.put (Reg.ENG_STATUS_GANGED d) x.gang.toNat).put (Reg.ENG_STATUS_GANG_ROLE d) (if x.gang then k else 0)
    let s := (s.put (Reg.ENG_STATUS_FILL_BUSY d) 1).put (Reg.ENG_STATUS_FILL_WAIT d) 0
    s.put (Reg.ENG_STATUS_HOLD d) (x.holdT != 0).toNat) s

/-- The partition and the virtual core of an item. -/
def EngItem.part : EngItem → Nat
  | .pass x => x.part
  | .drain x => x.part
def EngItem.vcore : EngItem → Nat
  | .pass x => x.vcore
  | .drain x => x.vcore

/-- The partition offsets of the records that a pass reads at issue. -/
def passReads (s : State) (x : Pass) : List Nat :=
  x.codebook.toList ++ (x.aScale.toList ++ x.wScale.toList).map (scaleAddr s x.part)

/-- The bytes of records of 32 bytes, and the tokens that reading them takes (R282). -/
def recordOffs (xs : List Nat) : List Nat := xs.flatMap fun o => (List.range 32).map (o + ·)
def recordKeys (s : State) (p : Nat) (xs : List Nat) : List Nat :=
  tokenKeys s false 0 ((recordOffs xs).filterMap (xlate s p))

/-- Core d of a pass of core c holds it back: an earlier item of its own queue, or a slot that drains (R79, R81). -/
def coreWaits (s : State) (c d : Nat) (x : Pass) : Bool :=
  (d != c && !(s.eng d).queue.isEmpty) || (!x.acc && slotSt s d x.slot == 3)

/-- A pass of core c has to wait: for its port, a slot or a queue of one of its cores, its operands (R73), its scale records
(R58), tokens (R282) or its stage. -/
def passWaits (s : State) (c : Nat) (x : Pass) : Bool :=
  (s.eng c).filling.isSome || !passPresent s c x || !freshAll s x.part [x.aScale, x.wScale] || !stageGo s x.part x.vcore c
    || ((passCores c x).any fun d => coreWaits s c d x) || !mayTake s (recordKeys s x.part (passReads s x))

/-- The pass of core c that comes up for issue (R73, R195), with the rest of the queue. -/
def nextPass (s : State) (c : Nat) : Option (Pass × List EngItem) :=
  match pickItem (fun (it : EngItem) => stageNo s it.part it.vcore)
      (fun it => match it with
        | .pass _ => true
        | .drain _ => false)
      (fun it => match it with
        | .pass x => !passWaits s c x
        | .drain _ => false) (s.eng c).queue with
  | some (.pass x, rest) => some (x, rest)
  | _ => none

/-- A pass waits to issue in this cycle (R75): on each of its cores whose fill port is free and on which no earlier item
stands before it, FILL_WAIT is 1 and the cycle counts. -/
def passWaiting (s : State) (c : Nat) (x : Pass) : State :=
  (passCores c x).foldl (fun (s : State) d =>
    if (if d = c then (s.eng c).filling.isNone else s.get (Reg.ENG_STATUS_FILL_BUSY d) == 0 && (s.eng d).queue.isEmpty)
    then (s.put (Reg.ENG_STATUS_FILL_WAIT d) 1).bumpWrap (Reg.ENG_WAIT_CYCLES_CYCLES d) 1
    else s.put (Reg.ENG_STATUS_FILL_WAIT d) 0) s

/-- What the memory finds where an instruction of p reads its records at issue (R288, R289): byte i of the event is byte i of the
records, one after another. Tokens that are missing leave the instruction waiting (none). -/
def recordReads (s : State) (p : Nat) (xs : List Nat) (ev : MemEvent) : Option (State × Nat × List Nat) :=
  if !mayTake s (recordKeys s p xs) then none
  else
    let (t, code, detail) := readFinds s p (among (recordOffs xs)) ev
    some (if code = 0 then access t false ((recordOffs xs).filterMap (xlate s p)) else t, code, detail)

/-- The DETAIL of a refusal of a pass or a drain: of 0x0710 the first offset of its records that R279 refuses. -/
def recordDetail (s : State) (p code : Nat) (xs : List Nat) : List Nat :=
  if code = 0x0710 then ((xs.findSome? fun o => firstBad s p o 32).map (pageDetail p)).getD [] else []

/-- PASS_ISSUE: the pass that comes up for issue issues where R73, R79 and R81 let it; it is refused with its code where a
check of it fails; else it waits (R75). -/
def issuePass (c : Core) (ev : MemEvent) (s : State) : Res :=
  match nextPass s c with
  | some (x, rest) =>
    let p := x.part
    let cores := passCores c x
    let bad := fun (code : Nat) => Host.Outcome.next (engFault s c p x.vcore code (recordDetail s p code (passReads s x)))
    let (code, book, z, u) := passContext s p x
    let wait := Host.Outcome.next (carWaits (passWaiting s c x) p x.vcore false)
    let e := s.eng c
    if cores.any fun d => !s.isWritten (Reg.ENG_ISSUE_TIMEOUT_LIMIT d) then bad 0x0101
    else if x.gang && !gangOk s c then bad 0x0122
    else if (x.codebook.bind fun o => firstBad s p o 32).isSome then bad 0x0710
    else if code = 0x0111 then bad code
    else if passCode x book != 0 then bad (passCode x book)
    else if !freshAll s p [x.aScale, x.wScale] then wait
    else if code != 0 then bad code
    else
      let slots := cores.map fun d => passSlot s d x u ((e.filling.map (·.slot)) == some x.slot)
      match if cores.any fun d => d != c && !(s.eng d).queue.isEmpty then none else slots.find? fun k => k > 1 with
      | some k => bad k
      | none =>
        if passWaits s c x then wait
        else if !skewOk s c x then bad 0x0121
        else
          match recordReads s p (passReads s x) ev with
          | none => wait
          | some (t, 0, _) => .next (carEnter (startPass t c x rest z u) p x.vcore)
          | some (t, code, d) => .next (recordStops t (Reg.ENG_STATUS_LAST_CODE c) c p x.vcore code d)
  | none => .next s

/-- PASS_ISSUE (R73). -/
def execPassIssue (x : IssueEv) (s : State) : Res := issuePass x.core x.ev s

/-- What the error check found in an instruction of core c (R96, R102): none to go on, or the state after the stop. -/
def sramEvent (s : State) (c p v : Nat) (last : List Fld) (ev : SramEvent) : State × Bool :=
  match ev with
  | .ok => (s, false)
  | .stgCorrected => (s.bump (Reg.ENG_SRAM_ERR_STG_CORRECTED c) 1, false)
  | .accCorrected => (s.bump (Reg.ENG_SRAM_ERR_ACC_CORRECTED c) 1, false)
  | .stgUncorrectable b r =>
    (attributed (stopLaunch s last p { code := 0x0128, core := c, vcore := v, detail := [b, r] }) c 0x0128, true)
  | .accUncorrectable t r =>
    (attributed (stopLaunch s last p { code := 0x0129, core := c, vcore := v, detail := [t, r] }) c 0x0129, true)
  | .shadowDiffers i b =>
    (if SMap.get 0 s.shadows c = 0 then s else { s with skewed := SMap.set none s.skewed c (some (i, b)) }, false)

/-- What the error checks found in an instruction, core by core, until one stops the command. -/
def sramEvents (s : State) (p v : Nat) (last : Nat → List Fld) : List (Nat × SramEvent) → State × Bool
  | [] => (s, false)
  | (c, ev) :: r =>
    let (t, stop) := sramEvent s c p v (last c) ev
    if stop then (t, true) else sramEvents t p v last r

/-- The tiles of the pass x of core c after its blocks, on each of its cores. `e` holds what the pass latched. -/
def runTiles (s : State) (c : Nat) (x : Pass) (e : EngCtx) : State :=
  let book := (codebookOf e.book).getD ⟨[], 4, 0, false⟩
  (passCores c x).zipIdx.foldl (fun s (_, k) => runTile s x (lanesOf c x k) e.zero book (if x.gang then k else 0)) s

/-- The pass x of core c has made its last write (R71, R76): on each of its cores the words, the slot Full, the released
ranges absent. -/
def endPass (s : State) (c : Nat) (x : Pass) (e : EngCtx) : State :=
  let s := (passCores c x).zipIdx.foldl (fun (s : State) (d, k) =>
    let s := ((passRanges x k).filter fun r => x.rel r.1).foldl (fun s r => clearPresent s d r.1 r.2.1 r.2.2.1) s
    let s := (s.put (Reg.ENG_STATUS_SLOT_STATE d x.slot) 2).put (Reg.ENG_STATUS_FILL_BUSY d) 0
    let s := ((s.put (Reg.ENG_STATUS_HOLD d) 0).put (Reg.ENG_STATUS_GANGED d) 0).put (Reg.ENG_STATUS_GANG_ROLE d) 0
    let s := s.setEng d { s.eng d with named := ((namedRanges x k).filter fun r => x.rel r.1).foldl List.erase (s.eng d).named }
    bumpPairWrap s Reg.ENG_PASS_COUNT_PASSES d 1) (runTiles s c x e)
  s.setEng c { s.eng c with filling := none }

/-- The first tag fault of a pass over its cores: the lowest block, then the lowest core, with the fault (R60). -/
def passFault (s : State) (c : Nat) (x : Pass) : Option (Nat × Nat × Nat × Nat × Nat) :=
  ((passCores c x).zipIdx.filterMap fun (d, k) => (tagFault s (lanesOf c x k).colCore d x).map fun f => (d, f)).foldl
    (fun (b : Option (Nat × Nat × Nat × Nat × Nat)) f => match b with
      | none => some f
      | some g => if f.2.1 < g.2.1 then some f else some g) none

/-- PASS_COMPLETE: the running pass of core c has made its last write. Tags are compared at each flush (R60, R61): a pass
that stops at a block keeps the clamps of the flushes before it (R43). Then the slot becomes Full, and the released ranges
become absent (R76). -/
def execPassComplete (c : Core) (evs : List (Fin 4 × SramEvent)) (s : State) : Res :=
  let e := s.eng c
  match e.filling with
  | none => .next s
  | some x =>
    let p := x.part
    let found := evs.filterMap fun y => ((passCores c x)[y.1.val]?).map fun d => (d, y.2)
    let (s1, stop) := sramEvents s p x.vcore (fun d => [Reg.ENG_STATUS_LAST_CODE d]) found
    if stop then .next s1
    else
      match passFault s1 c x with
      | some (d, q, want, dt, st) =>
        let t := if q = 0 then s1 else runTiles s1 c { x with blocks := q } e
        .next (engFault t d p x.vcore 0x0110 [x.slot, want, dt, st, x.kb0 + q])
      | none => .next (partDone (endPass s1 c x e) p x.vcore x.iid)

/-! ### Drains (R83 to R87) -/

/-- Bytes of one element of a drain format. -/
def drainSize (f : Nat) : Nat := if f = 0 then 1 else if f = 1 then 2 else 4

/-- Output units of a whole tile, and rows per unit. -/
def drainUnits (f : Nat) : Nat := 16 * drainSize f
def unitRows (f : Nat) : Nat := 16 / drainSize f

/-- Granules of a LOCAL region, statistics included (R84). -/
def drainGranules (x : Drain) : Nat := 128 * drainSize x.format + (if x.stats then 4 else 0)

/-- A drain enters the queue of core c; a LOCAL one names its region (R76). -/
def queueDrain (s : State) (c : Nat) (x : Drain) : State :=
  let named := match x.dest with
    | .local g => [(2, g, drainGranules x)]
    | _ => []
  s.setEng c { s.eng c with queue := (s.eng c).queue ++ [.drain x], named := named ++ (s.eng c).named }

/-- The destination can take the whole tile (R84). -/
def drainRoom (s : State) (c : Nat) (x : Drain) : Bool :=
  match x.dest with
  | .local g => presentAll s c 2 g (drainGranules x) 0
  | .stream => carRoom s x.part x.vcore
  | .tensor _ _ _ _ => true

/-- Earlier quarters of the same ganged tile go to the stream network first (R138, R161). -/
def quarterTurn (s : State) (c : Nat) (x : Drain) : Bool :=
  x.dest != .stream || ([c - c % 4, c - c % 4 + 1, c - c % 4 + 2, c - c % 4 + 3] : List Nat).all fun d =>
    d == c || (((s.eng d).queue.filterMap fun it => match it with
        | .drain y => some y
        | .pass _ => none) ++ ((s.eng d).draining.map fun y => [y]).getD []).all fun y =>
      !(y.part == x.part && y.vcore == x.vcore && y.iid == x.iid && y.quarter < x.quarter)

/-- The drain at the head of core c's queue issues (R84): the slot is Draining; the conversion and the step's parity are
latched. -/
def startDrain (s : State) (c : Nat) (x : Drain) (rest : List EngItem) (e : EngCtx) (conv : Nat × Nat × Nat × Int) : State :=
  let s := match x.dest with
    | .stream => carTake s x.part x.vcore
    | _ => s
  let s := s.setEng c { e with queue := rest, draining := some x, units := 0, conv := conv,
                               par := s.get (Reg.SYN_STEP_STEP x.part) % 2 }
  let s := (s.put (Reg.ENG_STATUS_SLOT_STATE c x.slot) 3).put (Reg.ENG_STATUS_DRAIN_BUSY c) 1
  s.put (Reg.ENG_STATUS_DRAIN_WAIT c) 0

/-- The partition offset of the record that a drain reads at issue. -/
def drainReads (s : State) (x : Drain) : List Nat := if x.format = 0 then x.outScale.toList.map (scaleAddr s x.part) else []

/-- A drain of core c has to wait: for its port, its slot, its destination (R84), its turn, its scale record (R58) or its
stage. -/
def drainWaits (s : State) (c : Nat) (x : Drain) : Bool :=
  slotSt s c x.slot != 2 || (s.eng c).draining.isSome || !drainRoom s c x || !quarterTurn s c x
    || (x.format = 0 && !freshAll s x.part [x.outScale]) || !stageGo s x.part x.vcore c
    || !mayTake s (recordKeys s x.part (drainReads s x))

/-- The drain of core c that comes up for issue (R73, R195), with the rest of the queue. -/
def nextDrain (s : State) (c : Nat) : Option (Drain × List EngItem) :=
  match pickItem (fun (it : EngItem) => stageNo s it.part it.vcore)
      (fun it => match it with
        | .pass _ => false
        | .drain _ => true)
      (fun it => match it with
        | .pass _ => false
        | .drain x => !drainWaits s c x) (s.eng c).queue with
  | some (.drain x, rest) => some (x, rest)
  | _ => none

/-- DRAIN_ISSUE: as PASS_ISSUE, for a drain. -/
def issueDrain (c : Core) (ev : MemEvent) (s : State) : Res :=
  let e := s.eng c
  match nextDrain s c with
  | some (x, rest) =>
    let p := x.part
    let bad := fun (code : Nat) => Host.Outcome.next (engFault s c p x.vcore code (recordDetail s p code (drainReads s x)))
    let st := slotSt s c x.slot
    let info := SMap.get SlotInfo.empty s.slots (c * 4 + x.slot)
    let wait := Host.Outcome.next (carWaits ((s.put (Reg.ENG_STATUS_DRAIN_WAIT c) (e.draining.isNone).toNat).bumpWrap
      (Reg.ENG_WAIT_CYCLES_CYCLES c) (e.draining.isNone).toNat) p x.vcore (x.dest == .stream))
    if !s.isWritten (Reg.ENG_ISSUE_TIMEOUT_LIMIT c) then bad 0x0101
    else if 3 < x.format || (x.format = 0 && x.outScale.isNone) then bad 0x0127
    else if st = 0 then bad 0x0125
    else if drainWaits s c x then wait
    else
      let code := if x.format = 0 then scalesCode s p ((x.outScale.map fun i => [i]).getD []) else 0
      let o := (x.outScale.map (scaleLatch s p)).getD (one32, one32, 0)
      if code != 0 then bad code
      else if x.format = 0 && !info.fp && (ratioOf (f32div info.unit o.1)).isNone then bad 0x0114
      else
        match recordReads s p (drainReads s x) ev with
        | none => wait
        | some (t, 0, _) => .next (carEnter (startDrain t c x rest e (info.unit, o.1, o.2.1, o.2.2)) p x.vcore)
        | some (t, code, d) => .next (recordStops t (Reg.ENG_STATUS_LAST_CODE c) c p x.vcore code d)
  | none => .next s

/-- DRAIN_ISSUE (R84). -/
def execDrainIssue (x : IssueEv) (s : State) : Res := issueDrain x.core x.ev s

/-- The conversion of one word by a drain (R85): its bits, the value x of R86, a saturation, a non-finite value. -/
def convWord (x : Drain) (fp : Bool) (conv : Nat × Nat × Nat × Int) (w : Nat) : Nat × Nat × Bool × Bool :=
  let (u, so, inv, z) := conv
  let v := accValue fp u w
  if x.format = 0 then
    if fp then
      let (q, sat, nf) := quant8 v inv z
      (ofInt 8 q, v, sat, nf)
    else
      match ratioOf (f32div u so) with
      | some (m, sh) =>
        let q := rneShift (sext 32 w * m) sh + z
        (ofInt 8 (clampI (-128) 127 q), v, clampI (-128) 127 q != q, !f32finite v)
      | none => (0, v, false, !f32finite v)
  else if x.format = 1 then (toBf v, v, false, false)
  else if x.format = 2 then (v, v, false, false)
  else (w, v, false, false)

/-- The converted cells of row r. -/
def drainRow (s : State) (c : Nat) (x : Drain) (fp : Bool) (conv : Nat × Nat × Nat × Int) (r : Nat) :
    List (Nat × Nat × Bool × Bool) :=
  (List.range 256).map fun n => convWord x fp conv (SMap.get 0 s.acc (accKey c x.slot r n))

/-- Row r of the quarter written into a tensor, inside its extents alone (R145, R161); none where a page is not the
partition's. -/
def storeRow (s : State) (p : Nat) (t : TDesc) (r0 c0 h r es : Nat) (cells : List Nat) : Option State :=
  cells.zipIdx.foldl (fun (s : Option State) (v, n) =>
    s.bind fun s =>
      if t.inside (c0 + n) (r0 + r) h then pWrite s p (t.addr (c0 + n) (r0 + r) h) (leBytes es v) else some s) (some s)

/-- Output unit n of drain x written where it goes (R87): the auxiliary bank, the next stage, or the tensor. -/
def writeUnit (s : State) (c : Nat) (x : Drain) (n es : Nat) (rows : List Nat) (cells : List (List (Nat × Nat × Bool × Bool)))
    (bytes : List Byte) : Option State :=
  match x.dest with
  | .local g =>
    let s := stgWrite s c 2 (512 * g + 4096 * n) bytes
    some ((List.range 8).foldl (fun s k => setPresent s c 2 (g + 8 * n + k) 0 0) s)
  | .stream => some (carOut s x.part x.vcore bytes)
  | .tensor t r0 c0 h =>
    (rows.zip cells).foldl (fun (s : Option State) (r, ys) =>
      s.bind fun s => storeRow s x.part t (r0 + 256 * (x.quarter / 2)) (c0 + 256 * (x.quarter % 2)) h r es (ys.map (·.1)))
      (some s)

/-- The DETAIL of a refused write of a drain's rows: the first offset that does not translate, its page, the partition. -/
def unitDetail (s : State) (x : Drain) (rows : List Nat) : List Nat :=
  match x.dest with
  | .tensor t r0 c0 h =>
    let cells := rows.flatMap fun r => (List.range 256).map fun n => (r0 + 256 * (x.quarter / 2) + r, c0 + 256 * (x.quarter % 2) + n)
    match cells.find? fun y => t.inside y.2 y.1 h && (xlate s x.part (t.addr y.2 y.1 h)).isNone with
    | some y => pageDetail x.part (t.addr y.2 y.1 h)
    | none => []
  | _ => []

/-- The units of drain x wait for its whole tile: they go to a tensor, and the launch runs paired (R364). -/
def unitsHeld (s : State) (c : Nat) (x : Drain) : Bool :=
  SMap.get 0 s.shadows c != 0 && (match x.dest with
    | .tensor _ _ _ _ => true
    | _ => false)

/-- The rows of output unit n of drain x, its converted cells, and its bytes. -/
def unitData (s : State) (c : Nat) (x : Drain) (e : EngCtx) (n : Nat) : List Nat × List (List (Nat × Nat × Bool × Bool)) × List Byte :=
  let fp := (SMap.get SlotInfo.empty s.slots (c * 4 + x.slot)).fp
  let rows := (List.range (unitRows x.format)).map (n * unitRows x.format + ·)
  let cells := rows.map (drainRow s c x fp e.conv)
  (rows, cells, cells.flatten.flatMap fun y => leBytes (drainSize x.format) y.1)

/-- OUTPUT_UNIT_COMPLETE: the next output unit of the running drain is complete (R87): present, handed over, or written
into its tensor; INT8 values are observed (R85, R53). -/
def outputUnit (c : Nat) (s : State) : Res :=
  let e := s.eng c
  match e.draining with
  | none => .next s
  | some x =>
    if drainUnits x.format ≤ e.units then .next s
    else
      let p := x.part
      let es := drainSize x.format
      let (rows, cells, bytes) := unitData s c x e e.units
      let s := match x.format, x.outScale with
        | 0, some i => observe s p i e.par
            (cells.flatten.foldl (fun o y => o.fold y.2.1 y.2.2.1 y.2.2.2) Obs.empty)
        | _, _ => s
      match if unitsHeld s c x then some s else writeUnit s c x e.units es rows cells bytes with
      | some s =>
        let s := launchTile s p x.vcore c x.iid x.quarter bytes
        .next (carPumpAll (s.setEng c { s.eng c with units := e.units + 1 }) p)
      | none => .next (engFault s c p x.vcore 0x0710 (unitDetail s x rows))

/-- OUTPUT_UNIT_COMPLETE: it waits where an access of it stalls (R282). -/
def execOutputUnitComplete (c : Core) (s : State) : Res :=
  match outputUnit c s with
  | .next t => .next (unlessStalled s t)
  | o => o

/-- The fixed tree of R86 over a list whose length is a power of two. The fuel is its depth. -/
def treeSum : Nat → List Nat → Nat
  | 0, l => l.headD 0
  | f + 1, l => treeSum f ((List.range (l.length / 2)).map fun i => f32add (l.getD (2 * i) 0) (l.getD (2 * i + 1) 0))

/-- The row statistics record of the tile (R86): 256 maxima, then 256 sums. -/
def statsRecord (s : State) (c : Nat) (x : Drain) (fp : Bool) (conv : Nat × Nat × Nat × Int) : List Byte :=
  let rows := (List.range 256).map fun r => (drainRow s c x fp conv r).map fun y => y.2.1
  (rows.map fun v => (v.tail).foldl f32max (v.headD 0)).flatMap (leBytes 4) ++ (rows.map (treeSum 8)).flatMap (leBytes 4)

/-- The statistics record of drain x written where its units went (R86). -/
def writeStats (s : State) (c : Nat) (x : Drain) (e : EngCtx) : State :=
  let fp := (SMap.get SlotInfo.empty s.slots (c * 4 + x.slot)).fp
  let bytes := statsRecord s c x fp e.conv
  let s := launchTile s x.part x.vcore c x.iid x.quarter bytes
  match x.dest with
  | .local g =>
    let g0 := g + 128 * drainSize x.format
    let s := stgWrite s c 2 (512 * g0) bytes
    (List.range 4).foldl (fun s k => setPresent s c 2 (g0 + k) 0 0) s
  | _ => carOut s x.part x.vcore bytes

/-- The units that waited for their tile are written (R364): the state, and the rows of the first unit that R279 refuses. -/
def releaseUnits (s : State) (c : Nat) (x : Drain) (e : EngCtx) : State × Option (List Nat) :=
  if unitsHeld s c x then
    (List.range (drainUnits x.format)).foldl (fun (y : State × Option (List Nat)) n =>
      match y.2 with
      | some _ => y
      | none =>
        let (rows, cells, bytes) := unitData y.1 c x e n
        match writeUnit y.1 c x n (drainSize x.format) rows cells bytes with
        | some s => (s, none)
        | none => (y.1, some rows)) (s, none)
  else (s, none)

/-- The slot of a drain that is complete becomes Free, and the DRAIN loses a part. -/
def drainOver (s : State) (c : Nat) (x : Drain) : State :=
  let s := s.setEng c { s.eng c with draining := none, units := 0 }
  let s := (freeSlot s c x.slot).put (Reg.ENG_STATUS_DRAIN_BUSY c) 0
  carPumpAll (partDone s x.part x.vcore x.iid) x.part

/-- DRAIN_COMPLETE: every unit is complete; the statistics record follows, and the slot becomes Free (R87). In a paired launch the
drain's digest tile is compared first (R364). -/
def execDrainComplete (c : Core) (evs : List SramEvent) (s : State) : Res :=
  let e := s.eng c
  match e.draining with
  | none => .next s
  | some x =>
    let p := x.part
    let (s1, stop) := sramEvents s p x.vcore (fun d => [Reg.ENG_STATUS_LAST_CODE d]) (evs.map fun ev => (c.val, ev))
    if stop then .next s1
    else if e.units < drainUnits x.format then .next s1
    else
      let tile := ((List.range (drainUnits x.format)).flatMap fun n => (unitData s1 c x e n).2.2)
      let (s, go) := pairTile s1 p x.vcore c tile
      if !go then .next s
      else
        match releaseUnits s c x e with
        | (s, some rows) => .next (engFault s c p x.vcore 0x0710 (unitDetail s x rows))
        | (s, none) => .next (unlessStalled s1 (drainOver (if x.stats then writeStats s c x e else s) c x))

/-- The granules that the head of the queue waits for (R75). -/
def waitList (s : State) (c : Nat) : EngItem → List Nat
  | .pass x => (passCores c x).zipIdx.flatMap fun (d, k) => (passRanges x k).flatMap fun r => absentOf s d r.1 r.2.1 r.2.2.1
  | .drain _ => []

/-- An item of core c waits. -/
def itemWaits (s : State) (c : Nat) : EngItem → Bool
  | .pass x => passWaits s c x
  | .drain x => drainWaits s c x

/-- The item of core c's own queue that waits to issue (R75, R195). -/
def queueWaits (s : State) (c : Nat) : Option EngItem :=
  match pickItem (fun (it : EngItem) => stageNo s it.part it.vcore) (fun _ => true) (itemWaits s c) (s.eng c).queue with
  | some (it, _) => if itemWaits s c it then some it else none
  | none => none

/-- The item that waits to issue on core c, with the core whose queue holds it: its own, or the ganged pass of the gang's
lead core, where nothing of its own stands before it. -/
def waitingItem (s : State) (c : Nat) : Option (EngItem × Nat) :=
  match queueWaits s c with
  | some it => some (it, c)
  | none =>
    let lead := c - c % 4
    match queueWaits s lead with
    | some (.pass x) => if x.gang && lead != c && (s.eng c).queue.isEmpty then some (.pass x, lead) else none
    | _ => none

/-- OPERAND_WAIT_TIMEOUT (R75): an item has waited to issue beyond LIMIT; LIMIT 0 disables it. -/
def execOperandWaitTimeout (c : Core) (s : State) : Res :=
  let e := s.eng c
  match waitingItem s c with
  | none => .next s
  | some (it, lead) =>
    if s.get (Reg.ENG_ISSUE_TIMEOUT_LIMIT c) = 0 then .next s
    else
      let free := match it with
        | .pass _ => if lead = c.val then e.filling.isNone else s.get (Reg.ENG_STATUS_FILL_BUSY c) == 0
        | .drain _ => e.draining.isNone
      if free then .next (engFault s c it.part it.vcore 0x0120 (waitList s lead it)) else .next s

end Sys2Proof.Machine
end

