-- ==== Sys2Proof/Machine/Version.lean ====
section
/-!
DEFINITION. Weight versions (R230 to R232): how an instruction of a micro-batch binds a versioned tensor to a slot.
-/

namespace Sys2Proof.Machine

/-- The outcome of a binding. -/
inductive Bound
  /-- Bound, or nothing to bind: the byte offset of the slot from slot 0, and the state. -/
  | slot (off : Nat) (s : State)
  | waits
  | stale
deriving DecidableEq, Repr

/-- DELTA of version entry i. -/
def versionDelta (s : State) (p i : Nat) : Nat := versionField s p i 20 5

/-- The slot that a new binding of step t finds in entry i (R232): some slot, none to wait, or stale. What an entry is worth that
the host wrote at a time that R234 does not allow the rule leaves unspecified: it is taken as it stands (DESIGN CHOICE, log
entry 61). -/
def bindLook (s : State) (p i t : Nat) : Option (Option Nat) :=
  let st := slotState s p i
  let held := [0, 1].filter fun k => st k != 0
  match [0, 1].find? fun k => st k == 1 && slotTag s p i k == t with
  | some k => some (some k)
  | none =>
    if ([0, 1].any fun k => st k == 3 && slotTag s p i k == t) || held.all (fun k => slotTag s p i k < t) then some none
    else none

/-- The binding of entry i that a replay forces (R244 step 6). -/
def bindForced (s : State) (p m t i : Nat) : Option Nat :=
  match (s.tr p).replay with
  | some r => (r.record.versions.find? fun x => x.1 == m && x.2.1 == t && x.2.2.1 == i).map fun x => x.2.2.2.1
  | none => none

/-- The device notes a binding in the 64 KiB at offset 128 KiB of the version area (R230): what it writes there the spec leaves
open, and where in it is the model's choice (log entry 39). -/
def noteBinding (s : State) (p m i k : Nat) : State :=
  let n := (s.mb p m).bound.length
  let at_ := ((openMbs s p).findIdx (· == m) * 1024 + n * 8) % 65536
  pPut s p (s.get (Reg.SYN_VERSION_BASE_BASE p) * frameBytes + 0x20000 + at_) 8 (Config.bindingWord [m, i, k])

/-- Micro-batch m of step t binds entry i to slot k. -/
def bindTo (s : State) (p m t i k : Nat) : State :=
  let b := s.mb p m
  let s := noteBinding (setRefs s p i k (· + 1)) p m i k
  recordBinding (s.setMb p m { b with bound := b.bound ++ [(i, k)] }) p (m, t, i, k, slotTag s p i k)

/-- A tensor named by an instruction of virtual core v (R232): only a VERSIONED tensor inside a span binds. -/
def bindTensor (s : State) (p v : Nat) (d : TDesc) : Bound :=
  if !d.versioned then .slot 0 s
  else
    match (s.vc p v).span, versionOf s p d.base with
    | some (m, t), some i =>
      let off := fun (k : Nat) => if k = 0 then 0 else versionDelta s p i
      match (s.mb p m).bound.find? fun x => x.1 == i with
      | some (_, k) => .slot (off k) s
      | none =>
        match bindForced s p m t i with
        | some k => .slot (off k) (bindTo s p m t i k)
        | none =>
          match bindLook s p i t with
          | some (some k) => .slot (off k) (bindTo s p m t i k)
          | some none => .waits
          | none => .stale
    | _, _ => .slot 0 s

/-- A tensor descriptor seen at a slot. -/
def TDesc.at (t : TDesc) (off : Nat) : TDesc := { t with base := t.base + off, auxBase := t.auxBase + off }

/-- A tensor as an instruction of virtual core v that binds nothing sees it (R232): at the slot that the micro-batch of its span
has bound, and else at slot 0. -/
def boundAt (s : State) (p v : Nat) (t : TDesc) : TDesc :=
  if !t.versioned then t
  else
    match (s.vc p v).span, versionOf s p t.base with
    | some (m, _), some i =>
      match (s.mb p m).bound.find? fun x => x.1 == i with
      | some (_, k) => if k = 0 then t else t.at (versionDelta s p i)
      | none => t
    | _, _ => t

/-- Descriptor d of the running program as virtual core v sees it. -/
def boundDesc (s : State) (p v d : Nat) : Option TDesc := ((runProg s p).desc d).map (boundAt s p v)

end Sys2Proof.Machine
end

