-- ==== Sys2Proof/Machine/Vector.lean ====
section
/-!
DEFINITION. The vector unit and the gather/scatter unit (R99 to R131, R162 to R167): issue, results, the index FIFO, and the
completions of their instructions.
-/

namespace Sys2Proof.Machine

/-! ### Operands -/

/-- Auxiliary granules of n bytes. -/
def granulesOf (n : Nat) : Nat := (n + 511) / 512

/-- Bytes of staging from auxiliary granule g. -/
def auxBytes (s : State) (c g n : Nat) : List Byte := (List.range n).map fun i => stgByte s c 2 (512 * g + i)

/-- Source bytes: of the stage's input tile, or of staging. -/
def srcBytes (s : State) (c : Nat) (j : VJob) (stream : Bool) (g n : Nat) : List Byte :=
  if stream then tileBytes s j.part j.vcore n else auxBytes s c g n

/-- The elements of a byte string in a lane format. -/
def lanesIn (f : Nat) (bs : List Byte) : List Lane := (runsOf (laneSize f) bs.length bs).map fun b => laneOf f (leNat b)

/-- The scale record that descriptor d names. -/
def descScale (s : State) (p d : Nat) : Option Nat :=
  ((runProg s p).desc d).bind fun t => if t.scaleRef = 0xFFFF then none else some t.scaleRef

/-- The scale record that a VOP uses (R162): of an INT8 result, or of an INT8 source of CONVERT. SIGN and STATS_MERGE write
no element of format FOUT and use none. -/
def vopScale (s : State) (p : Nat) (f : VopF) : Option Nat :=
  if f.op = 0x14 || f.op = 0x16 then none
  else if f.fout = 0 || (f.op = 0x13 && f.fin = 0) then descScale s p f.sdesc else none

/-- Bytes of a REDUCE's partial, by operation (R163). -/
def partialSize (op : Nat) : Nat :=
  if op = 1 || op = 5 then 32 else if op = 6 then 16 else if op = 10 then 8 else 4

/-- Bytes of a REDUCE's result per row. -/
def resultSize (f : ReduceF) : Nat :=
  if f.op = 7 || f.op = 8 then 8 * f.k
  else if f.op = 9 then 0
  else if f.mode = 1 then partialSize f.op
  else if f.op = 6 then 16 else 4

/-- Bytes of a REDUCE's source per row. -/
def sourceSize (f : ReduceF) : Nat :=
  if f.op = 8 then 8 * f.k * f.count
  else if f.mode = 2 then partialSize f.op * f.count
  else 256 * laneSize f.fin * f.count

/-- Bytes of a target row of GATHER and SCATTER_ADD, and the number of rows (R122). -/
def rowBytes (t : TDesc) : Nat := t.dim 0 * elemSize t.format
def rowCount (t : TDesc) : Nat := t.dim 1 * t.highs

/-- Partition offset of row r of a tensor. -/
def rowAddr (t : TDesc) (r : Nat) : Nat := t.addr 0 (r % t.dim 1) (r / t.dim 1)

/-- Partition offset of element x of a tensor in linear order, dimension 0 first (R163 XIDX). -/
def linAddr (t : TDesc) (x : Nat) : Nat := t.addr (x % t.dim 0) (x / t.dim 0 % t.dim 1) (x / t.dim 0 / t.dim 1)

/-- Partition offset of the exponent of segment q (R166: row = segment number). -/
def segAddr (t : TDesc) (q : Nat) : Nat := if t.rank = 1 then t.addr q 0 0 else rowAddr t q

/-- Bytes of a SEGMENT_REDUCE's output row; `part` says that the row goes out as a partial. -/
def segOut (f : SegF) (part : Bool) : Nat :=
  let cols := 64 * f.rowlen / laneSize f.fin
  if f.op = 6 then 0 else if part && (f.op = 1 || f.op = 5) then 32 * cols else 4 * cols

/-- Segment q of the instruction goes out as a partial (R129). -/
def segPart (f : SegF) (q : Nat) : Bool := f.part && (q == f.first || q == f.last)

/-- Bytes of all output rows of a SEGMENT_REDUCE. -/
def segTotal (f : SegF) : Nat :=
  ((List.range (f.last + 1 - f.first)).map fun i => segOut f (segPart f (f.first + i))).foldl (· + ·) 0

/-- The source granules of an instruction: (first, count); the stream network is no granule. -/
def jobSources (s : State) (p v : Nat) (t : Tynte) : List (Nat × Nat) :=
  match t with
  | .vop f =>
    if f.op = 0x16 then (if f.sStream then [] else [(f.src1, 4 * f.vectors)])
    else
      let n := granulesOf (f.vectors * 256 * laneSize f.fin)
      (if f.sStream then [] else [(f.src1, n)])
        ++ (if f.op = 0x15 then (if f.src2 = 2047 then [] else [(f.src2, 1)])
            else if 2 ≤ laneArity f.op && f.src2 != 2047 then [(f.src2, n)] else [])
        ++ (if laneArity f.op = 3 then [(f.src3, n)] else [])
  | .reduce f => if f.sStream then [] else [(f.src, granulesOf (f.rows * sourceSize f))]
  | .scatterAdd f =>
    match boundDesc s p v f.tdesc with
    | some d => [(f.src, granulesOf (f.count * (if f.anchored then 4 * d.dim 0 else rowBytes d)))]
    | none => []
  | .segmentReduce f => [(f.src, granulesOf (64 * f.rowlen * f.rows))]
  | _ => []

/-- The destination granules of an instruction. -/
def jobDests (s : State) (p v : Nat) (t : Tynte) : List (Nat × Nat) :=
  match t with
  | .vop f =>
    (if f.dStream || f.dst = 2047 then []
      else if f.op = 0x16 then [(f.dst, 4)]
      else if f.op = 0x14 then [(f.dst, granulesOf (64 * f.vectors))]
      else [(f.dst, granulesOf (f.vectors * 256 * laneSize f.fout))])
      ++ (if f.op = 0x15 then [(f.src3, 1)] else [])
  | .reduce f => if f.dStream || f.op = 9 then [] else [(f.dst, granulesOf (f.rows * resultSize f))]
  | .gather f =>
    match boundDesc s p v f.tdesc with
    | some d => [(f.dst, granulesOf (f.count * rowBytes d))]
    | none => []
  | .anchorRead f =>
    match boundDesc s p v f.tdesc with
    | some d => [(f.dst, granulesOf (f.rows * d.dim 0 * 4))]
    | none => []
  | .segmentReduce f => if f.op = 6 then [] else [(f.dst, granulesOf (segTotal f))]
  | _ => []

/-- The result goes to, or the source comes from, the stream network. -/
def toStream (t : Tynte) : Bool :=
  match t with
  | .vop f => f.dStream
  | .reduce f => f.dStream
  | _ => false
def fromStream (t : Tynte) : Bool :=
  match t with
  | .vop f => f.sStream
  | .reduce f => f.sStream
  | _ => false

/-- REL of an instruction (R155). -/
def relOf (t : Tynte) : Bool :=
  match t with
  | .vop f => f.rel
  | .reduce f => f.rel
  | .scatterAdd f => f.rel
  | .segmentReduce f => f.rel
  | _ => false

/-! ### Issue (R100, R109, R113, R119, R122, R125) -/

/-- The partition's Ripple record is in effect (R119, R246: from the boundary that opened a step record). -/
def recording (s : State) (p : Nat) : Bool := (s.tr p).ripple.isSome

/-- Two instructions are parts of one placement-dependent reduction (R119): fast reductions of one operation in parts, the fast sums
of segments in parts, and adds to one target. -/
def sameReduction (t u : Tynte) : Bool :=
  match t, u with
  | .reduce f, .reduce g => f.op == g.op && f.mode != 0 && g.mode != 0
  | .scatterAdd f, .scatterAdd g => f.tdesc == g.tdesc
  | .segmentReduce f, .segmentReduce g => f.op == g.op && f.part && g.part
  | _, _ => false

/-- The instructions that virtual core v runs from entry e: its program's, and those of the bodies of its CARAVANs. -/
def codeRun (g : Prog) (e v : Nat) : List Tynte :=
  let own := fromStart (g.start e v) (codeOf g v)
  own.map (·.2.1) ++ (List.range (ndef g)).flatMap fun d =>
    if own.any fun x => match x.2.1 with
      | .caravan f => f.cdef == d
      | _ => false
    then (List.range (carStages g d)).flatMap fun k => if stVcore g d k = v then ((bodyOf g d k).getD []).map (·.2.1) else []
    else []

/-- The launch places the reduction of instruction t on more than one core (R119). A native image holds no Tynte code: every core of
it counts (DESIGN CHOICE, log entry 61). -/
def manyCores (s : State) (p : Nat) (t : Tynte) : Bool :=
  match s.launch p with
  | none => false
  | some l =>
    let g := s.prog p l.handle
    let vs := if g.isNative then l.active else l.active.filter fun v => (codeRun g l.entry v).any (sameReduction t)
    1 < ((vs.map fun v => (s.vc p v).core).dedup).length

/-- A target row that a gather or scatter can take (R122). -/
def rowOk (t : TDesc) : Bool := rowBytes t % 64 == 0 && rowBytes t ≤ 65536 && rowBytes t != 0

/-- The refusal of an instruction before issue, 0 where there is none. A COMBINE of MEANVAR partials is not refused for the
total of their counts, which only its operands say (DESIGN CHOICE, log entry 60). QUANT_CODES depends on OAS_CTRL.MFLOOR and
is refused while that is unwritten (R14, R39; the code is the model's choice, log entry 60). A SEGMENT_REDUCE that takes the
exponents of its segments from XDESC needs it (R166). -/
def jobCode (s : State) (p v : Nat) (t : Tynte) : Nat :=
  match t with
  | .vop f =>
    if 0x16 < f.op || f.vectors = 0 || 4096 < f.vectors || (!f.sStream && f.src1 = 2047)
      || ((f.op = 0x03 || f.op = 0x0A || f.op = 0x15) && f.src3 = 2047)
      || (!f.dStream && f.dst = 2047 && f.op != 0x15) || (f.fout = 0 && (vopScale s p f).isNone
        && f.op != 0x14 && f.op != 0x16)
    then 0x0210
    else if f.op = 0x14 || f.op = 0x16 then 0
    else scalesCode s p (((vopScale s p f).map fun i => [i]).getD [])
  | .reduce f =>
    let vals := if f.mode = 2 then 0 else 256 * f.count
    if 10 < f.op || 2 < f.mode || ((f.op = 7 || f.op = 8) && (f.k = 0 || 64 < f.k))
      || (f.op = 7 && 4294967295 < 256 * f.count) || (!f.sStream && f.src = 2047)
      || (!f.dStream && f.dst = 2047) then 0x0210
    else if (f.op = 1 || f.op = 5) && 2 ^ 40 < vals then 0x0211
    else if f.op = 6 && 16777216 < vals then 0x0211
    else if recording s p && f.mode != 0 && manyCores s p t && (f.op = 0 || f.op = 4 || f.op = 6) then 0x0213
    else 0
  | .gather f => match boundDesc s p v f.tdesc with
    | some d => if rowOk d then 0 else 0x0210
    | none => 0x0210
  | .scatterAdd f => match boundDesc s p v f.tdesc with
    | some d =>
      if !rowOk d || !(if f.anchored then d.format == 9 else d.format == 2 || d.format == 3 || d.format == 4)
        || (f.anchored && (f.anchor < -149 || 127 < f.anchor)) then 0x0210
      else if recording s p && !f.anchored && d.format != 4 && manyCores s p t then 0x0213
      else if !residentRange s p d.base (d.limit - d.base) then 0x0231
      else 0
    | none => 0x0210
  | .anchorRead f => match boundDesc s p v f.tdesc with
    | some d => if d.format = 9 && -149 ≤ f.anchor && f.anchor ≤ 127 then 0 else 0x0210
    | none => 0x0210
  | .segmentReduce f =>
    if 6 < f.op || f.rowlen = 0 || 1024 < f.rowlen || (f.dst = 2047 && f.op != 6)
      || (f.part && (f.op = 1 || f.op = 5) && (boundDesc s p v f.xdesc).isNone) then 0x0210
    else if (f.op = 1 || f.op = 5) && 2 ^ 40 < f.rows then 0x0211
    else if recording s p && f.part && f.op = 0 && manyCores s p t then 0x0213
    else 0
  | .quantCodes f => match boundDesc s p v f.src, boundDesc s p v f.dst with
    | some _, some d => if !s.isWritten (Reg.OAS_CTRL_MFLOOR p) then 0x0201 else if (codebookOf ((pRead s p d.auxBase 32).getD [])).isNone then 0x0111 else 0
    | _, _ => 0x0210
  | _ => 0

/-- The scale records the instruction uses are not behind (R58). -/
def jobFresh (s : State) (p : Nat) (t : Tynte) : Bool :=
  match t with
  | .vop f => freshAll s p [vopScale s p f]
  | _ => true

/-- Every source is there, the destination can take the whole result (R100), and the stage may issue (R200). -/
def jobReady (s : State) (c : Nat) (j : VJob) : Bool :=
  (jobSources s j.part j.vcore j.inst).all (fun r => presentAll s c 2 r.1 r.2 1)
    && (jobDests s j.part j.vcore j.inst).all (fun r => presentAll s c 2 r.1 r.2 0)
    && (!fromStream j.inst || tileIn s j.part j.vcore) && (!toStream j.inst || carRoom s j.part j.vcore)
    && (j.fetch || stageGo s j.part j.vcore c)

/-- The fault of an instruction of either unit stops the command. -/
def vecFault (s : State) (c : Nat) (j : VJob) (code : Nat) (detail : List Nat) : State :=
  stopLaunch s (Reg.VEC_STATUS_LAST_CODE c :: chapterLast j.part (portOf s j.part) code) j.part
    { code := code, core := c, vcore := j.vcore, detail := detail, tile := tileOfPart s j.part j.vcore j.iid }

/-- A TOPK or TOPK_MERGE. -/
def isTop (t : Tynte) : Bool :=
  match t with
  | .reduce f => f.op == 7 || f.op == 8
  | _ => false

/-- The queue of a unit. -/
def jobQueue (e : VecCtx) (gs : Bool) : List VJob := if gs then e.gsQueue else e.queue

/-- The partition offsets of the records that an instruction reads as it issues. -/
def jobReads (s : State) (p v : Nat) (t : Tynte) : List Nat :=
  match t with
  | .vop f => (vopScale s p f).toList.map (scaleAddr s p)
  | .quantCodes f => (boundDesc s p v f.dst).toList.map TDesc.auxBase
  | _ => []

/-- An instruction has to wait: for its operands, its destination or its stage (R100), its scale record (R58), or tokens (R282). -/
def jobWaits (s : State) (c : Nat) (j : VJob) : Bool :=
  !jobReady s c j || !jobFresh s j.part j.inst || !mayTake s (recordKeys s j.part (jobReads s j.part j.vcore j.inst))

/-- The context that an instruction belongs to (R195): its stage, and within that its part, each of which keeps program order
(R192, R199). -/
def jobContext (s : State) (j : VJob) : Nat := 2 * stageNo s j.part j.vcore + j.fetch.toNat

/-- The instruction of a unit that comes up for issue (R101, R195), with the rest of its queue. -/
def nextJob (s : State) (c : Nat) (gs : Bool) : Option (VJob × List VJob) :=
  pickItem (jobContext s) (fun _ => true) (fun j => !jobWaits s c j) (jobQueue (s.vu c) gs)

/-- The instruction of a unit that waits to issue. -/
def waitingJob (s : State) (c : Nat) (gs : Bool) : Option VJob :=
  match pickItem (jobContext s) (fun _ => true) (jobWaits s c) (jobQueue (s.vu c) gs) with
  | some (j, _) => if jobWaits s c j then some j else none
  | none => none

/-- How many index entries an instruction takes (R122 to R128). -/
def entriesOf (t : Tynte) : Nat :=
  match t with
  | .gather f => f.count
  | .scatterAdd f => f.count
  | .segmentReduce f => f.rows
  | _ => 0

/-- The running gather/scatter instruction needs an entry, and the FIFO is empty (R123). -/
def fifoDry (s : State) (c : Nat) : Bool :=
  let e := s.vu c
  e.fifo.isEmpty && e.gsRun.toList.any fun j => e.handled < entriesOf j.inst

/-- What a VOP latches as it issues (R52): its output scale, and the parity of the step. -/
def jobLatch (s : State) (j : VJob) : Nat × Nat × Int × Nat :=
  let rec_ := match j.inst with
    | .vop f => vopScale s j.part f
    | _ => none
  let l := (rec_.map (scaleLatch s j.part)).getD (one32, one32, 0)
  (l.1, l.2.1, l.2.2, s.get (Reg.SYN_STEP_STEP j.part) % 2)

/-- The instruction that came up issues (R100): the unit is busy with it, and `rest` still waits. -/
def startJob (s : State) (c : Nat) (gs : Bool) (j : VJob) (rest : List VJob) : State :=
  let e := s.vu c
  let latch := jobLatch s j
  let s := if toStream j.inst then carTake s j.part j.vcore else s
  let s := if gs then
      (s.setVu c { e with gsQueue := rest, gsRun := some j, handled := 0, segs := [] }).put
        (Reg.VEC_STATUS_GS_BUSY c) 1
    else
      ((s.setVu c { e with queue := rest, run := some j, latch := latch }).put
        (Reg.VEC_STATUS_VEC_BUSY c) 1).put (Reg.VEC_STATUS_TOPK_BUSY c) (isTop j.inst).toNat
  if gs then s.put (Reg.VEC_STATUS_GS_WAIT c) (fifoDry s c).toNat else s.put (Reg.VEC_STATUS_VEC_WAIT c) 0

/-- VECTOR_ISSUE (R100): the instruction of the vector unit, or of the gather/scatter unit (`gs`), that comes up issues, is
refused, or waits. `ev` is what the memory finds at the records that it reads. -/
def issueJob (c : Core) (gs : Bool) (ev : MemEvent) (s : State) : Res :=
  let e := s.vu c
  match nextJob s c gs with
  | none => .next s
  | some (j, rest) =>
    let p := j.part
    let wait := fun (s : State) =>
      let s := s.put (if gs then Reg.VEC_STATUS_GS_WAIT c else Reg.VEC_STATUS_VEC_WAIT c) 1
      Host.Outcome.next (if j.fetch then s else carWaits s p j.vcore (toStream j.inst))
    if (if gs then e.gsRun.isSome else e.run.isSome) then .next s
    else if !s.isWritten (Reg.ENG_ISSUE_TIMEOUT_LIMIT c) then .next (vecFault s c j 0x0201 [])
    else if !jobFresh s p j.inst then wait s
    else
      let code := jobCode s p j.vcore j.inst
      if code != 0 then .next (vecFault s c j code [])
      else if jobWaits s c j then wait s
      else
        match recordReads s p (jobReads s p j.vcore j.inst) ev with
        | none => wait s
        | some (t, 0, _) =>
          let u := startJob t c gs j rest
          .next (if j.fetch then u else carEnter u p j.vcore)
        | some (t, code, d) => .next (recordStops t (Reg.VEC_STATUS_LAST_CODE c) c p j.vcore code d
            (tileOfPart t p j.vcore j.iid))

/-- VECTOR_ISSUE (R100). -/
def execVectorIssue (x : IssueEv) (gs : Bool) (s : State) : Res := issueJob x.core gs x.ev s

/-! ### Results of the vector unit -/

/-- What an instruction of the vector unit leaves: a code that stops it, the results by destination (the stream network,
or a first granule), and the tally. -/
structure VecOut where
  code : Nat
  detail : List Nat
  outs : List (Option Nat × List Byte)
  tally : Tally
  state : State

/-- Results written in format FOUT, one after another. -/
def writeLanes (fout inv : Nat) (z : Int) : List Lane → Tally → List Nat × Tally
  | [], t => ([], t)
  | a :: r, t =>
    let (v, t) := writeLane fout inv z a t
    let (vs, t) := writeLanes fout inv z r t
    (v :: vs, t)

/-- Every lane of a VOP through its operation and its result format. Each NaN and infinity among its operands counts, but
for a conversion to int8, which counts under R41 (R105). -/
def mapLanes (op fout inv : Nat) (z : Int) : List Lane → List Lane → List Lane → Tally → List Nat × Tally
  | [], _, _, t => ([], t)
  | a :: r, bs, cs, t =>
    let b := bs.headD (.i 0)
    let c := cs.headD (.i 0)
    let n := laneArity op
    let t := if op = 0x13 && fout = 0 then t
      else { t with bad := t.bad + a.bad + (if 2 ≤ n then b.bad else 0) + (if n = 3 then c.bad else 0) }
    let (v, t) := writeLane fout inv z (laneOp op a b c) t
    let (vs, t) := mapLanes op fout inv z r bs.tail cs.tail t
    (v :: vs, t)

/-- CONVERT from INT8 with a scale record (R162): the real value. -/
def realOf (sc : Nat) (z : Int) : Lane → Lane
  | .i q => .f (f32mul (i32 (q - z)) sc)
  | x => x

/-- The results of a VOP. SIGN counts the NaN operands alone, and STATS_MERGE each NaN and infinity of its source records once
(DESIGN CHOICE, log entry 60: R106 and R108 name the NaN values, R105 every NaN and infinity). A non-finite operand that serves
every lane, IMM or the m of EXPSUM, counts once per lane (DESIGN CHOICE, log entry 61: R105 does not say whether such an
operand is met once or by each lane). -/
def vopOut (s : State) (c : Nat) (j : VJob) (f : VopF) (latch : Nat × Nat × Int × Nat) : VecOut :=
  let n := 256 * f.vectors
  let one := laneSize f.fin
  let src := fun (strm : Bool) (g : Nat) => lanesIn f.fin (srcBytes s c j strm g (n * one))
  let imm := if f.fin = 3 then Lane.i (sext 32 f.imm.toNat) else .f f.imm.toNat
  let dst := if f.dStream then none else some f.dst
  if f.op = 0x16 then
    let bs := runsOf 2048 f.vectors (srcBytes s c j f.sStream f.src1 (2048 * f.vectors))
    let pairs := fun (b : List Byte) => (List.range 256).map fun i => (fieldOf b (4 * i) 4, fieldOf b (1024 + 4 * i) 4)
    let merge := fun (x y : Nat × Nat) =>
      let m := f32max x.1 y.1
      if m = inf32 true then (m, f32add x.2 y.2)
      else (m, f32add (f32mul x.2 (fExp (f32sub x.1 m))) (f32mul y.2 (fExp (f32sub y.1 m))))
    let all := bs.map pairs
    let r := (all.drop 1).foldl (fun a b => List.zipWith merge a b) (all.headD [])
    ⟨0, [], [(dst, r.flatMap (fun x => leBytes 4 x.1) ++ r.flatMap fun x => leBytes 4 x.2)],
      { Tally.empty with bad := (all.flatten.map fun x => (Lane.f x.1).bad + (Lane.f x.2).bad).foldl (· + ·) 0 }, s⟩
  else
    let a := src f.sStream f.src1
    if f.op = 0x14 then
      let codes := a.map fun x => signCode x.fp
      let bad := (a.map fun x => (f32isNan x.fp).toNat).foldl (· + ·) 0
      ⟨0, [], [(dst, (runsOf 4 n codes).map fun q => BitVec.ofNat 8 (q.foldr (fun x y => x + 4 * y) 0))],
        { Tally.empty with bad := bad }, s⟩
    else if f.op = 0x15 then
      let m := if f.src2 = 2047 then imm.fp else stgNat s c 2 (512 * f.src2) 4
      let ys := a.map fun x => fExp (f32sub x.fp m)
      let bad := (a.map Lane.bad).foldl (· + ·) 0 + f.vectors * 256 * (Lane.f m).bad
      let (vs, t) := writeLanes f.fout latch.2.1 latch.2.2.1 (ys.map Lane.f) Tally.empty
      let y := vs.flatMap (leBytes (laneSize f.fout))
      ⟨0, [], (if f.dStream || f.dst != 2047 then [(dst, y)] else [])
        ++ [(some f.src3, leBytes 4 (fastSum ys) ++ List.replicate 508 0)], { t with bad := t.bad + bad }, s⟩
    else
      let b := if f.src2 = 2047 then List.replicate n imm else src false f.src2
      let cc := src false f.src3
      let a := if f.op = 0x13 && f.fin = 0 && (f.fout = 1 || f.fout = 2) && (descScale s j.part f.sdesc).isSome
        then a.map (realOf latch.1 latch.2.2.1) else a
      let (vs, t) := mapLanes f.op f.fout latch.2.1 latch.2.2.1 a (if 2 ≤ laneArity f.op then b else [])
        (if laneArity f.op = 3 then cc else []) Tally.empty
      ⟨0, [], [(dst, vs.flatMap (leBytes (laneSize f.fout)))], t, s⟩

/-- The shared exponent in element at partition offset a (R164); none where it says no value seen. -/
def sharedExp (s : State) (p a : Nat) : Option Int :=
  let x := sext 32 (pNat s p a 4)
  if x = -2147483648 then none else some x

/-- The integer maximum atomic that folds an exponent (R164). -/
def foldExp (s : State) (p a : Nat) (e : Option Int) : State :=
  match e with
  | some e => pPut s p a 4 (ofInt 32 (max (sext 32 (pNat s p a 4)) e))
  | none => s

/-- An exact integer element (R117). -/
def Lane.exact : Lane → Int
  | .i x => x
  | .f b => rneInt b

/-- One row of a REDUCE from its elements: the bytes; none for 0x0212. Under COMBINE the fp32 values of the partials count as
operands (R105). TOPK counts the NaN values alone (R108), and TOPK_MERGE nothing (DESIGN CHOICE, log entry 60). POS0 does not count
toward the limit of R109 on the length of a row, and global positions wrap modulo 2^32 (DESIGN CHOICE, log entry 61: R109
bounds a row's elements, and R110 gives a segment global positions without a bound). -/
def reduceRow (f : ReduceF) (emax : Option (Option Int)) (pos : Nat) (bs : List Byte) (t : Tally) :
    Option (List Byte) × Tally :=
  let xs := lanesIn f.fin bs
  let fs := xs.map Lane.fp
  let bad := (xs.map Lane.bad).foldl (· + ·) 0
  let tb := { t with bad := t.bad + bad }
  let parts := runsOf (partialSize f.op) bs.length bs
  let badOf := fun (vs : List Nat) => { t with bad := t.bad + (vs.map fun v => (Lane.f v).bad).foldl (· + ·) 0 }
  let sq := fs.map fun x => f32mul x x
  let repro := fun (vs : List Nat) =>
    let r := reproOf (emax.getD (emaxOf vs)) vs
    if f.mode = 1 then reproBytes r else leBytes 4 (reproResult r)
  let int32 := fun (x : Int) => (leBytes 4 (ofInt 32 (sat32 x)), (decide (sat32 x ≠ x)).toNat)
  match f.op, f.mode with
  | 0, 2 => (some (leBytes 4 (partsSum (parts.map leNat))), badOf (parts.map leNat))
  | 4, 2 => (some (leBytes 4 (partsSum (parts.map leNat))), badOf (parts.map leNat))
  | 1, 2 => ((reproSum (parts.map reproFrom)).map fun r => leBytes 4 (reproResult r), t)
  | 5, 2 => ((reproSum (parts.map reproFrom)).map fun r => leBytes 4 (reproResult r), t)
  | 2, 2 => (some (leBytes 4 ((parts.map leNat).foldl f32max (inf32 true))), badOf (parts.map leNat))
  | 3, 2 => (some (leBytes 4 ((parts.map leNat).foldl f32min (inf32 false))), badOf (parts.map leNat))
  | 6, 2 =>
    let ms := parts.map fun b => (⟨fieldOf b 0 4, fieldOf b 4 4, fieldOf b 8 4⟩ : MV)
    (some ((treeFold MV.join ⟨0, 0, 0⟩ (depthOf ms.length) ms).result f.corr), badOf (ms.flatMap fun m => [m.mean, m.m2]))
  | 10, 2 =>
    let (b, k) := int32 ((parts.map fun b => sext 64 (leNat b)).foldl (· + ·) 0)
    (some b, { t with sat := t.sat + k })
  | 0, _ => (some (leBytes 4 (fastSum fs)), tb)
  | 4, _ => (some (leBytes 4 (fastSum sq)), tb)
  | 1, _ => (some (repro fs), tb)
  | 5, _ => (some (repro sq), tb)
  | 2, _ => (some (leBytes 4 (fs.tail.foldl f32max (fs.headD 0))), tb)
  | 3, _ => (some (leBytes 4 (fs.tail.foldl f32min (fs.headD 0))), tb)
  | 6, 1 => (some (meanVar fs).bytes, tb)
  | 6, _ => (some ((meanVar fs).result f.corr), tb)
  | 7, _ =>
    let nan := (fs.map fun x => (f32isNan x).toNat).foldl (· + ·) 0
    (some (topBytes f.k (topK f.min f.k (fs.zipIdx.map fun (x, i) => (x, (pos + i) % 2 ^ 32)))), { t with bad := t.bad + nan })
  | 8, _ =>
    let lists := runsOf (8 * f.k) f.count bs
    let es := lists.flatMap fun l => (List.range f.k).map fun i => (fieldOf l (4 * i) 4, fieldOf l (4 * f.k + 4 * i) 4)
    (some (topBytes f.k (topK f.min f.k es)), t)
  | 9, _ => (some [], tb)
  | _, 1 => (some (leBytes 8 (ofInt 64 ((xs.map Lane.exact).foldl (· + ·) 0))), t)
  | _, _ =>
    let (b, k) := int32 ((xs.map Lane.exact).foldl (· + ·) 0)
    (some b, { t with sat := t.sat + k })

/-- The rows of a REDUCE in order. -/
def reduceRows (f : ReduceF) (emax : Option (Option Int)) (pos : Nat) : List (List Byte) → Tally → Option (List Byte) × Tally
  | [], t => (some [], t)
  | b :: r, t =>
    match reduceRow f emax pos b t with
    | (none, t) => (none, t)
    | (some x, t) =>
      match reduceRows f emax pos r t with
      | (some y, t) => (some (x ++ y), t)
      | (none, t) => (none, t)

/-- The largest exponent among the values of a REDUCE's rows; none where no value has one (R164). -/
def maxExp (f : ReduceF) (bs : List Byte) : Option Int :=
  ((runsOf (sourceSize f) f.rows bs).map fun b => emaxOf ((lanesIn f.fin b).map Lane.fp)).foldl (fun (x y : Option Int) =>
    match x, y with
    | some a, some b => some (max a b)
    | some a, none => some a
    | none, y => y) none

/-- The digest tile of an instruction of the vector unit: the result of a REDUCE that is written to a tensor (R242). -/
def jobTile (s : State) (c : Nat) (j : VJob) : Option (List Byte) :=
  match j.inst with
  | .reduce f =>
    if f.op = 9 ∧ (boundDesc s j.part j.vcore f.xdesc).isSome then
      some (leBytes 4 (ofInt 32 ((maxExp f (srcBytes s c j f.sStream f.src (f.rows * sourceSize f))).getD (-2147483648))))
    else none
  | _ => none

/-- The results of a REDUCE. A WHOLE reproducible sum that names an XDESC takes its emax from there, as R164 says of a PARTIAL
one (DESIGN CHOICE, log entry 60). -/
def reduceOut (s : State) (c : Nat) (j : VJob) (f : ReduceF) : VecOut :=
  let bs := srcBytes s c j f.sStream f.src (f.rows * sourceSize f)
  let rows := runsOf (sourceSize f) f.rows bs
  let at_ := (boundDesc s j.part j.vcore f.xdesc).map fun t => linAddr t f.xidx
  let uses := f.op = 9 || (f.mode != 2 && (f.op = 1 || f.op = 5))
  match if uses then at_.bind (fun a => partRefusal s j.part [a]) else none with
  | some (code, d) => ⟨code, d, [], Tally.empty, s⟩
  | none =>
  if f.op = 9 then
    let e := maxExp f bs
    let bad := ((lanesIn f.fin bs).map Lane.bad).foldl (· + ·) 0
    ⟨0, [], [], { Tally.empty with bad := bad }, match at_ with
      | some a =>
        launchTile (foldExp s j.part a e) j.part j.vcore c j.iid 0 (leBytes 4 (ofInt 32 (e.getD (-2147483648))))
      | none => s⟩
  else
    let emax := if f.op = 1 || f.op = 5 then at_.map fun a => sharedExp s j.part a else none
    let s := match emax, at_ with
      | some _, some a => pTouch s j.part a 4
      | _, _ => s
    match reduceRows f emax f.pos0 rows Tally.empty with
    | (some out, t) => ⟨0, [], [(if f.dStream then none else some f.dst, out)], t, s⟩
    | (none, t) => ⟨0x0212, [], [], t, s⟩

/-- QUANT_CODES on one block: its codes, its multiplier and the weights that take the outermost entry (R38, R39, R167). -/
def quantBlock (book : Codebook) (e : Int) (floor : Nat) (ws : List Nat) : List Nat × Nat × Nat :=
  let a := (ws.map f32abs).foldl f32max 0
  let fin := ws.all f32finite
  let m := if !fin then Config.nonFiniteMul ws % 65536
    else if a = 0 then floor
    else min 65535 (blockMul a e book.cmax)
  let book := { book with e := e }
  let codes := ws.map fun w => if f32finite w then (if a = 0 then 0 else chooseCode book w m)
    else Config.nonFiniteCode w % 2 ^ book.width
  (codes, m, (ws.filter fun w => f32finite w && a != 0 && outermost book w m).length)

/-- A row of weights of the source tensor, 0 outside its extents (R145). -/
def weightAt (s : State) (p : Nat) (t : TDesc) (k n : Nat) : Nat := if t.inside n k 0 then pNat s p (t.addr n k 0) 4 else 0

/-- The first offset of the codes and multipliers that a QUANT_CODES writes and R279 refuses. -/
def badCell (s : State) (p : Nat) (d : TDesc) (f : QuantF) : Option Nat :=
  (List.range f.blocks).findSome? fun q => (List.range (d.dim 0)).findSome? fun n =>
    if d.inside n (f.kb0 + q) 0 then
      [d.addr n (f.kb0 + q) 0, d.mulAddr (f.kb0 + q) n 0].find? fun x => (xlate s p x).isNone
    else none

/-- The effect of QUANT_CODES: code, and the state with codes, multipliers and E written. -/
def quantOut (s : State) (j : VJob) (f : QuantF) : VecOut :=
  match boundDesc s j.part j.vcore f.src, boundDesc s j.part j.vcore f.dst with
  | some t, some d =>
    let p := j.part
    match codebookOf ((pRead s p d.auxBase 32).getD []), firstBad s p t.base (t.limit - t.base) with
    | none, _ => ⟨0x0111, [], [], Tally.empty, s⟩
    | some _, some x => ⟨0x0710, pageDetail p x, [], Tally.empty, s⟩
    | some book, none =>
      let whole := f.kb0 = 0 ∧ d.dim 1 ≤ f.blocks
      let all := (List.range (t.dim 1)).flatMap fun k => (List.range (t.dim 0)).map fun n => weightAt s p t k n
      let a := (all.map f32abs).foldl f32max 0
      let e := if whole then (if all.all f32finite then tensorExp (enc32 (dec32 a)) book.cmax else Config.nonFiniteExp all)
        else book.e
      let floor := s.get (Reg.OAS_CTRL_MFLOOR p)
      let s := pTouch s p t.base (t.limit - t.base)
      let s := if whole then pPut s p (d.auxBase + 18) 1 (ofInt 8 e) else s
      let cells := (List.range f.blocks).flatMap fun q => (List.range (d.dim 0)).map fun n => (f.kb0 + q, n)
      let r := cells.foldl (fun (x : Option State × Nat) (kb, n) =>
        match x.1 with
        | none => x
        | some u =>
          if d.inside n kb 0 then
            let ws := (List.range 32).map fun i => weightAt u p t (32 * kb + i) n
            let (codes, m, outer) := quantBlock book (sext 8 (ofInt 8 e)) floor ws
            ((pWrite u p (d.addr n kb 0) (packCodes book.width codes)).bind fun u => pWrite u p (d.mulAddr kb n 0) (leBytes 2 m),
              x.2 + outer)
          else x) (some s, 0)
      match r.1 with
      | some u => ⟨0, [], [], { Tally.empty with sat := r.2 }, u⟩
      | none => ⟨0x0710, (badCell s p d f).elim [] (pageDetail p), [], Tally.empty, s⟩
  | _, _ => ⟨0x0210, [], [], Tally.empty, s⟩

/-- Results written: to staging, whose granules become present, or on to the stream network. -/
def writeOuts (s : State) (c : Nat) (j : VJob) : List (Option Nat × List Byte) → State
  | [] => s
  | (none, b) :: r => writeOuts (carOut s j.part j.vcore b) c j r
  | (some g, b) :: r =>
    let s := stgWrite s c 2 (512 * g) b
    writeOuts ((List.range (granulesOf b.length)).foldl (fun s k => setPresent s c 2 (g + k) 0 0) s) c j r

/-- Sources released by REL, and the place in the input tile moved on. -/
def release (s : State) (c : Nat) (j : VJob) : State :=
  let s := match j.inst with
    | .vop f => if f.sStream then
        tileRead s j.part j.vcore (if f.op = 0x16 then 2048 * f.vectors else f.vectors * 256 * laneSize f.fin) f.rel else s
    | .reduce f => if f.sStream then tileRead s j.part j.vcore (f.rows * sourceSize f) f.rel else s
    | _ => s
  if relOf j.inst then (jobSources s j.part j.vcore j.inst).foldl (fun s r => clearPresent s c 2 r.1 r.2) s else s

/-- The counts of an instruction. -/
def tallyUp (s : State) (c : Nat) (t : Tally) : State :=
  bumpPair (bumpPair s Reg.VEC_SAT_COUNT_COUNT c t.sat) Reg.VEC_NONFINITE_COUNT_COUNT c t.bad

/-- An instruction of either unit has completed. -/
def jobDone (s : State) (c : Nat) (j : VJob) : State :=
  let s := bumpPairWrap s Reg.VEC_OP_COUNT_OPS c 1
  carPumpAll (partDone s j.part j.vcore j.iid) j.part

/-! ### The gather/scatter unit (R122 to R129) -/

/-- One row of a GATHER put at its place (R124). -/
def gatherRow (s : State) (c : Nat) (d : TDesc) (dst pos : Nat) (bytes : List Byte) (last : Bool) : State :=
  let n := rowBytes d
  let s := stgWrite s c 2 (512 * dst + pos * n) bytes
  let upto := if last then granulesOf ((pos + 1) * n) else (pos + 1) * n / 512
  (List.range (upto - pos * n / 512)).foldl (fun s k => setPresent s c 2 (dst + pos * n / 512 + k) 0 0) s

/-- One element added by the atomic of R125, R286: int32 and int64 saturate, fp32 and bf16 round. -/
def atomicAdd (s : State) (p a fmt v : Nat) : Option State :=
  let es := elemSize fmt
  match pRead s p a es with
  | none => none
  | some b =>
    let old := leNat b
    let slice := sliceOfAddr ((xlate s p a).getD 0)
    let int := fun (w : Nat) =>
      let x := sext w old + sext w v
      let y := clampI (-(2 ^ (w - 1))) (2 ^ (w - 1) - 1) x
      (ofInt w y, decide (x ≠ y))
    let (new, sat) := match fmt with
      | 4 => int 32
      | 9 => int 64
      | 3 => (f32add old v, false)
      | _ => (encBf (FV.add (dec32 (bfTo32 old)) (dec32 (bfTo32 v))), false)
    (pWrite s p a (leBytes es new)).map fun s => if sat then s.bump (Reg.CCH_ATOMIC_SAT_COUNT slice) 1 else s

/-- The 64-bit integer of an anchored value (R127), with a clamp and a non-finite value. -/
def anchored (a : Int) (x : Nat) : Nat × Nat × Nat :=
  match dec32 x with
  | .fin n m e =>
    let v : Int := if n then -(m : Int) else m
    let k := e - a
    let q := if 0 ≤ k then v * 2 ^ k.toNat else rneShift v (-k).toNat
    let y := clampI (-(2 ^ 62)) (2 ^ 62 - 1) q
    (ofInt 64 y, (decide (y ≠ q)).toNat, 0)
  | _ => (0, 0, 1)

/-- One source row added into target row r. -/
def scatterRow (s : State) (c : Nat) (p : Nat) (f : ScatterF) (d : TDesc) (pos r : Nat) : Option State :=
  let es := if f.anchored then 4 else elemSize d.format
  (List.range (d.dim 0)).foldl (fun (s : Option State) i =>
    s.bind fun s =>
      let v := stgNat s c 2 (512 * f.src + (pos * d.dim 0 + i) * es) es
      let a := rowAddr d r + i * elemSize d.format
      if f.anchored then
        let (q, sat, bad) := anchored f.anchor v
        (atomicAdd s p a 9 q).map fun s => tallyUp s c ⟨sat, bad, Obs.empty⟩
      else atomicAdd s p a d.format v) (some s)

/-- What handling one index entry leads to: the row handled, a refusal with its code and DETAIL, a wait for tokens, or the end of
the launch. -/
inductive RowStep
  | on (s : State)
  | stop (code : Nat) (detail : List Nat)
  | hold (s : State)
  | ended (s : State)

/-- How handling the entries at hand ends: a code with its DETAIL, how many were handled, whether the launch has ended, and the
state. -/
structure RowsEnd where
  code : Nat
  detail : List Nat
  handled : Nat
  ended : Bool
  state : State

/-- The entries of a gather or scatter that are at hand, one after another. -/
def rowsThrough (row : State → Nat → Nat → RowStep) (limit base : Nat) : List Nat → Nat → State → RowsEnd
  | [], k, s => ⟨0, [], k, false, s⟩
  | x :: r, k, s =>
    if limit ≤ x && x != 0xFFFFFFFF then ⟨0x0230, [base + k, x], k, false, s⟩
    else match row s k x with
      | .on s => rowsThrough row limit base r (k + 1) s
      | .stop code detail => ⟨code, detail, k, false, s⟩
      | .hold s => ⟨0, [], k, false, s⟩
      | .ended s => ⟨0, [], k, true, s⟩

/-- The offsets of the n bytes from partition offset x. -/
def offsetsFrom (x n : Nat) : List Nat := (List.range n).map (x + ·)

/-- Row k of a GATHER: the row of index x copied, or zero bytes for the null index. -/
def gatherStep (s : State) (c p : Nat) (f : GatherF) (d : TDesc) (k x : Nat) : RowStep :=
  let last := k + 1 == f.count
  if x = 0xFFFFFFFF then .on (gatherRow s c d f.dst k (List.replicate (rowBytes d) 0) last)
  else
    let xs := offsetsFrom (rowAddr d x) (rowBytes d)
    match partRefusal s p xs with
    | some (code, detail) => .stop code detail
    | none =>
      let as := xs.filterMap (xlate s p)
      let keys := tokenKeys s false 0 as
      if mayTake s keys then .on (gatherRow (access s false as) c d f.dst k (as.map fun a => SMap.get 0 s.mem a) last)
      else .hold (waitKeys s keys)

/-- Row k of a SCATTER_ADD: its source row and index are a digest tile (R242), and the row is added where the index names one. -/
def scatterStep (s : State) (c p v iid : Nat) (f : ScatterF) (d : TDesc) (k x : Nat) : RowStep :=
  let n := d.dim 0 * (if f.anchored then 4 else elemSize d.format)
  let src := (List.range n).map fun i => stgByte s c 2 (512 * f.src + k * n + i)
  match pairTile s p v c (src ++ leBytes 4 x) with
  | (s, false) => .ended s
  | (s, true) =>
    let s := launchTile s p v c iid 0 (src ++ leBytes 4 x)
    if x = 0xFFFFFFFF then .on s
    else match scatterRow s c p f d k x with
      | some s => .on s
      | none => .stop 0x0710 (((partRefusal s p (offsetsFrom (rowAddr d x) (rowBytes d))).map (·.2)).getD [])

/-- The columns of the source rows of segment q. -/
def segColumns (s : State) (c : Nat) (f : SegF) (segs : List Nat) (q : Nat) : List (List Nat) :=
  let cols := 64 * f.rowlen / laneSize f.fin
  let rows := segs.zipIdx.filterMap fun (x, i) => if x = q then some i else none
  (List.range cols).map fun j => rows.map fun r =>
    (laneOf f.fin (stgNat s c 2 (512 * f.src + 64 * f.rowlen * r + j * laneSize f.fin) (laneSize f.fin))).fp

/-- The NaN and infinite values that reducing segment q meets (R105); COUNT meets none. -/
def segBad (s : State) (c : Nat) (f : SegF) (segs : List Nat) (q : Nat) : Nat :=
  if f.op = 4 then 0 else ((segColumns s c f segs q).flatten.map fun x => (Lane.f x).bad).foldl (· + ·) 0

/-- One output row of SEGMENT_REDUCE (R128, R129, R166). A MEAN partial is the record of its sum, with no count of rows
(DESIGN CHOICE, log entry 60). -/
def segRow (s : State) (c : Nat) (p v : Nat) (f : SegF) (segs : List Nat) (q : Nat) : List Byte :=
  let part := segPart f q
  let shared := (boundDesc s p v f.xdesc).map fun t => sharedExp s p (segAddr t q)
  (segColumns s c f segs q).flatMap fun xs =>
    let r := reproOf (shared.getD (emaxOf xs)) xs
    match f.op with
    | 0 => leBytes 4 (match xs with
        | [] => 0
        | a :: t => t.foldl f32add a)
    | 1 => if part then reproBytes r else leBytes 4 (reproResult r)
    | 2 => leBytes 4 (xs.foldl f32max (inf32 true))
    | 3 => leBytes 4 (xs.foldl f32min (inf32 false))
    | 4 => leBytes 4 xs.length
    | 5 => if part then reproBytes r
      else leBytes 4 (if xs.isEmpty then nan32 else f32div (reproResult r) (i32 xs.length))
    | _ => []

/-- The exponents of SEG_EXP folded (R166). -/
def segExps (s : State) (c : Nat) (p v : Nat) (f : SegF) (segs : List Nat) : State :=
  match boundDesc s p v f.xdesc with
  | none => s
  | some t => (List.range (f.last + 1 - f.first)).foldl (fun s i =>
      foldExp s p (segAddr t (f.first + i)) (emaxOf (segColumns s c f segs (f.first + i)).flatten)) s

/-- Output rows of segments FIRST to `upto` - 1 written, and the values that reducing them met counted. -/
def segWrite (s : State) (c : Nat) (j : VJob) (f : SegF) (segs : List Nat) (upto : Nat) : State :=
  let out := (List.range (upto - f.first)).flatMap fun i => segRow s c j.part j.vcore f segs (f.first + i)
  let bad := ((List.range (upto - f.first)).map fun i => segBad s c f segs (f.first + i)).foldl (· + ·) 0
  tallyUp (if f.op = 6 then s else writeOuts s c j [(some f.dst, out)]) c { Tally.empty with bad := bad }

/-- The first entry that breaks the order of segments: its place and value. -/
def segBreak (f : SegF) : Nat → Nat → List Nat → Option (Nat × Nat)
  | _, _, [] => none
  | prev, k, x :: r => if x < prev || x < f.first || f.last < x then some (k, x) else segBreak f x (k + 1) r

/-- The running gather/scatter instruction goes on with the entries at hand; it completes with the last. -/
def gsRunOn (s : State) (c : Nat) (j : VJob) : State :=
  let e := s.vu c
  let p := j.part
  let finish := fun (s : State) =>
    let s := (s.setVu c { s.vu c with gsRun := none, handled := 0, segs := [] }).put (Reg.VEC_STATUS_GS_BUSY c) 0
    jobDone (release (s.put (Reg.VEC_STATUS_GS_WAIT c) 0) c j) c j
  let through := fun (count limit : Nat) (row : State → Nat → Nat → RowStep) =>
    let xs := e.fifo.take (count - e.handled)
    let r := rowsThrough (fun s k x => row s (e.handled + k) x) limit e.taken xs 0 s
    let n := r.handled
    if r.ended then r.state else
    let s := r.state.setVu c { r.state.vu c with fifo := e.fifo.drop n, taken := e.taken + n, handled := e.handled + n }
    if r.code != 0 then vecFault s c j r.code r.detail
    else if e.handled + n = count then finish s
    else s.put (Reg.VEC_STATUS_GS_WAIT c) 1
  match j.inst with
  | .gather f =>
    match boundDesc s p j.vcore f.tdesc with
    | none => s
    | some d => through f.count (rowCount d) fun s k x => gatherStep s c p f d k x
  | .scatterAdd f =>
    match boundDesc s p j.vcore f.tdesc with
    | none => s
    | some d => through f.count (rowCount d) fun s k x => scatterStep s c p j.vcore j.iid f d k x
  | .anchorRead f =>
    match boundDesc s p j.vcore f.tdesc with
    | none => s
    | some d =>
      let vals := (List.range f.rows).flatMap fun r => (List.range (d.dim 0)).map fun i =>
        if f.row0 + r < rowCount d then
          enc32 (FV.ofScaled (sext 64 (pNat s p (rowAddr d (f.row0 + r) + 8 * i) 8)) f.anchor)
        else 0
      let xs := (List.range f.rows).flatMap fun r =>
        if f.row0 + r < rowCount d then offsetsFrom (rowAddr d (f.row0 + r)) (8 * d.dim 0) else []
      match partRefusal s p xs with
      | some (code, detail) => vecFault s c j code detail
      | none => finish (writeOuts (access s false (xs.filterMap (xlate s p))) c j [(some f.dst, vals.flatMap (leBytes 4))])
  | .segmentReduce f =>
    let xs := e.fifo.take (f.rows - e.handled)
    let segs := e.segs ++ xs
    let s := s.setVu c { e with fifo := e.fifo.drop xs.length, taken := e.taken + xs.length,
                                handled := e.handled + xs.length, segs := segs }
    match segBreak f 0 0 segs with
    | some (k, x) =>
      let good := segs.take k
      vecFault (segWrite s c j f good (good.getLast?.getD f.first)) c j 0x0232 [e.taken - e.handled + k, x]
    | none =>
      let used := if f.op = 1 || f.op = 5 || f.op = 6 then (boundDesc s p j.vcore f.xdesc).toList.flatMap fun t =>
          (List.range (f.last + 1 - f.first)).map fun i => segAddr t (f.first + i)
        else []
      if segs.length = f.rows then
        match partRefusal s p used with
        | some (code, d) => vecFault s c j code d
        | none => finish (segWrite (if f.op = 6 then segExps s c p j.vcore f segs else s) c j f segs (f.last + 1))
      else s.put (Reg.VEC_STATUS_GS_WAIT c) 1
  | _ => finish s

/-! ### Completion -/

/-- The results of an instruction of the vector unit. -/
def vecOut (s : State) (c : Nat) (j : VJob) (latch : Nat × Nat × Int × Nat) : VecOut :=
  match j.inst with
  | .vop f => vopOut s c j f latch
  | .reduce f => reduceOut s c j f
  | .quantCodes f => quantOut s j f
  | _ => ⟨0, [], [], Tally.empty, s⟩

/-- The instruction of the vector unit has written its results (R103): counts, the observation of int8 results, the
results, and the unit idle. -/
def endJob (o : VecOut) (c : Nat) (j : VJob) (latch : Nat × Nat × Int × Nat) : State :=
  let s := tallyUp o.state c o.tally
  let s := match j.inst with
    | .vop f => match vopScale s j.part f with
      | some i => if f.fout = 0 then observe s j.part i latch.2.2.2 o.tally.obs else s
      | none => s
    | _ => s
  let s := release (writeOuts s c j o.outs) c j
  let s := s.setVu c { s.vu c with run := none }
  (s.put (Reg.VEC_STATUS_VEC_BUSY c) 0).put (Reg.VEC_STATUS_TOPK_BUSY c) 0

/-- The offset of byte i of what the completion of an instruction reads of the fast tier: the rows that the entries at hand of a
GATHER or SCATTER_ADD name, those of an ANCHOR_READ, the weights of QUANT_CODES, shared exponents. -/
def completionRead (s : State) (c : Nat) (j : VJob) (i : Nat) : Option Nat :=
  let e := s.vu c
  let desc := boundDesc s j.part j.vcore
  let entry := fun (d : TDesc) (count : Nat) =>
    ((e.fifo.take (count - e.handled))[i / rowBytes d]?).bind fun x =>
      if x < rowCount d then some (rowAddr d x + i % rowBytes d) else none
  match j.inst with
  | .gather f => (desc f.tdesc).bind fun d => entry d f.count
  | .scatterAdd f => (desc f.tdesc).bind fun d => entry d f.count
  | .anchorRead f => (desc f.tdesc).bind fun d =>
      let r := f.row0 + i / (8 * d.dim 0)
      if r < f.row0 + f.rows ∧ r < rowCount d then some (rowAddr d r + i % (8 * d.dim 0)) else none
  | .quantCodes f => (desc f.src).bind fun t => span t.base (t.limit - t.base) i
  | .reduce f => (desc f.xdesc).bind fun t => span (linAddr t f.xidx) 4 i
  | .segmentReduce f =>
    if f.op = 1 ∨ f.op = 5 ∨ f.op = 6 then (desc f.xdesc).bind fun t =>
      if f.first + i / 4 ≤ f.last then some (segAddr t (f.first + i / 4) + i % 4) else none
    else none
  | _ => none

/-- What the memory finds in the bytes that the completion reads (R289, R291); where it refuses the access, the state after the
stop, and true. A byte that R279 refuses is the business of the instruction itself. -/
def completionFinds (s : State) (c : Nat) (j : VJob) (ev : MemEvent) : State × Bool :=
  let (t, code, d) := readFinds s j.part (completionRead s c j) ev
  if code = 0 then (t, false)
  else if code = 0x0710 then (s, false)
  else (recordStops t (Reg.VEC_STATUS_LAST_CODE c) c j.part j.vcore code d (tileOfPart t j.part j.vcore j.iid), true)

/-- VECTOR_COMPLETE (R103, R124): the running instruction of a unit writes its results and completes; one that takes index
entries goes on with those at hand. -/
def completeJob (c : Core) (gs : Bool) (evs : List SramEvent) (ev : MemEvent) (s : State) : Res :=
  let e := s.vu c
  match (if gs then e.gsRun else e.run) with
  | none => .next s
  | some j =>
    let (s, stop) := sramEvents s j.part j.vcore (fun d => [Reg.VEC_STATUS_LAST_CODE d]) (evs.map fun x => (c.val, x))
    let (s, stop) := if stop then (s, true) else completionFinds s c j ev
    if stop then .next s
    else if gs then .next (gsRunOn s c j)
    else
      match (match jobTile s c j with
        | some bs => pairTile s j.part j.vcore c bs
        | none => (s, true)) with
      | (s, false) => .next s
      | (s, true) =>
        let o := vecOut s c j (s.vu c).latch
        if o.code != 0 then .next (vecFault s c j o.code o.detail) else .next (jobDone (endJob o c j (s.vu c).latch) c j)

/-- VECTOR_COMPLETE (R103): it waits where an access of it stalls (R282). -/
def execVectorComplete (c : Core) (gs : Bool) (x : VectorFinds) (s : State) : Res :=
  match completeJob c gs x.sram x.ev s with
  | .next t => .next (unlessStalled s t)
  | o => o

/-- The absent granules of an instruction that waits (R100). -/
def jobAbsent (s : State) (c : Nat) (j : VJob) : List Nat :=
  (jobSources s j.part j.vcore j.inst).flatMap fun r => absentOf s c 2 r.1 r.2

/-- VECTOR_WAIT_TIMEOUT (R100, R123): a wait to issue, or for index entries, exceeds LIMIT. The record of a wait on the empty
index FIFO lists nothing (DESIGN CHOICE, log entry 60). -/
def execVectorWaitTimeout (c : Core) (gs : Bool) (s : State) : Res :=
  let e := s.vu c
  if s.get (Reg.ENG_ISSUE_TIMEOUT_LIMIT c) = 0 then .next s
  else
    match (if gs then e.gsRun else none), waitingJob s c gs with
    | some j, _ =>
      if fifoDry s c then .next (vecFault s c j 0x0220 []) else .next s
    | none, some j =>
      if (if gs then e.gsRun.isSome else e.run.isSome) then .next s
      else .next (vecFault s c j 0x0220 (jobAbsent s c j))
    | none, none => .next s

/-- The partition offset of entry k of an index tensor, in the order of its dimensions; none past its extents. -/
def feedAddr (t : TDesc) (k : Nat) : Option Nat :=
  if t.inside (k % t.dim 0) (k / t.dim 0 % t.dim 1) (k / t.dim 0 / t.dim 1) then some (linAddr t k) else none

/-- INDEX_FIFO_FILL (R123, R174): the control core writes entries of the oldest request while the FIFO has room. `ev` is what
the memory finds in them; the control core waits where tokens are missing. A completed INDEX_STREAM does not
count in VEC_OP_COUNT (DESIGN CHOICE, log entry 60). -/
def fillFifo (c : Core) (ev : MemEvent) (s : State) : Res :=
  let e := s.vu c
  match e.feeds with
  | [] => .next s
  | q :: rest =>
    match boundDesc s q.part q.vcore q.desc with
    | none => .next s
    | some t =>
      let n := min q.left (4096 - e.fifo.length)
      let as := (List.range n).map fun i => feedAddr t (q.next + i)
      let bad := fun (s : State) (code : Nat) (d : List Nat) =>
        stopLaunch s (Reg.VEC_STATUS_LAST_CODE c :: chapterLast q.part (portOf s q.part) code) q.part
          { code := code, core := c, vcore := q.vcore, detail := d, tile := tileOfPart s q.part q.vcore q.iid }
      if as.any Option.isNone then .next (bad s 0x0330 [])
      else
        let xs := as.filterMap id
        match partRefusal s q.part (xs.flatMap (offsetsFrom · 4)) with
        | some (code, d) => .next (bad s code d)
        | none =>
          let bytes := (xs.flatMap (offsetsFrom · 4)).filterMap (xlate s q.part)
          let keys := tokenKeys s false 0 bytes
          if !mayTake s keys then .next (waitKeys s keys)
          else
            let (t, code, d) := readFinds s q.part (among (xs.flatMap (offsetsFrom · 4))) ev
            if code != 0 then
              .next (recordStops t (Reg.VEC_STATUS_LAST_CODE c) c q.part q.vcore code d
                (tileOfPart t q.part q.vcore q.iid))
            else
              let left := q.left - n
              let new := e.fifo ++ xs.map fun x => pNat s q.part x 4
              let u := (access t false bytes).setVu c { e with
                fifo := new, feeds := if left = 0 then rest else { q with next := q.next + n, left := left } :: rest }
              let u := if u.vu c |>.gsRun.isSome then u.put (Reg.VEC_STATUS_GS_WAIT c) (fifoDry u c).toNat else u
              .next (if left = 0 then partDone u q.part q.vcore q.iid else u)

/-- INDEX_FIFO_FILL (R123, R174). -/
def execIndexFifoFill (x : IssueEv) (s : State) : Res := fillFifo x.core x.ev s

end Sys2Proof.Machine
end

