-- ==== Sys2Proof/Machine/Tynte.lean ====
section
/-!
DEFINITION. The Tynte instructions that a sequencer executes (R132 to R174), but for those of steps, collectives, caravans
and updates, which stand with their chapters. An instruction whose condition to issue does not hold leaves the state as it
is: the sequencer waits (log entry 8).
-/

namespace Sys2Proof.Machine

/-! ### Bodies: the granules that instructions name, and when they run -/

/-- The granules that an instruction names, with the bytes it writes from each, or reads: (field, bytes). -/
def granSpans (g : Prog) (t : Tynte) : List (Nat × Nat) × List (Nat × Nat) :=
  let dim := fun (d : Nat) (f : TDesc → Nat) => ((g.desc d).map f).getD 0
  let moved := fun (f : MoveF) => if f.rows then f.count * dim f.desc rowBytes else 64 * f.count
  let io := fun (r w : List (Nat × Nat)) => (r.filter (·.1 != 2047), w.filter (·.1 != 2047))
  match t with
  | .load f => io [] [(f.gran, moved f)]
  | .store f => io [(f.gran, moved f)] []
  | .drain f => io [] [(f.xbase, 512 * (128 * drainSize f.format + (if f.stats then 4 else 0)))]
  | .vop f =>
    let n := f.vectors * 256 * laneSize f.fin
    io [(f.src1, if f.op = 0x16 then 2048 * f.vectors else n), (f.src2, if f.op = 0x15 then 512 else n),
        (if f.op = 0x15 then 2047 else f.src3, n)]
      ((if f.dStream then [] else
          [(f.dst, if f.op = 0x16 then 2048 else if f.op = 0x14 then 64 * f.vectors else f.vectors * 256 * laneSize f.fout)])
        ++ (if f.op = 0x15 then [(f.src3, 512)] else []))
  | .reduce f => io (if f.sStream then [] else [(f.src, f.rows * sourceSize f)])
      (if f.dStream || f.op == 9 then [] else [(f.dst, f.rows * resultSize f)])
  | .gather f => io [] [(f.dst, f.count * dim f.tdesc rowBytes)]
  | .scatterAdd f => io [(f.src, f.count * (if f.anchored then 4 * dim f.tdesc (·.dim 0) else dim f.tdesc rowBytes))] []
  | .segmentReduce f => io [(f.src, 64 * f.rowlen * f.rows)] (if f.op = 6 then [] else [(f.dst, segTotal f)])
  | .anchorRead f => io [] [(f.dst, f.rows * dim f.tdesc (·.dim 0) * 4)]
  | _ => ([], [])

/-- Bytes that one execution of an instruction sends on the stream network (R161 to R163). -/
def streamBytes (t : Tynte) : Nat :=
  match t with
  | .drain f => if f.dest = 1 then 512 * (128 * drainSize f.format + (if f.stats then 4 else 0)) else 0
  | .vop f =>
    if !f.dStream then 0
    else if f.op = 0x16 then 2048 else if f.op = 0x14 then 64 * f.vectors else f.vectors * 256 * laneSize f.fout
  | .reduce f => if f.dStream then f.rows * resultSize f else 0
  | _ => 0

/-- The runs of a body. -/
def bodyRuns (g : Prog) (d k : Nat) : List Run := (((bodyOf g d k).bind fun is => walk 0 0 [] 0 is)).getD []

/-- A run of a body is executed in iteration j of tile tau of n. -/
def runHolds (x : Run) (n tau j : Nat) : Bool :=
  let c0 := x.counts.getD 0 1
  let c1 := x.counts.getD 1 1
  predHolds { VC.empty with loopc := some ⟨[c0, c1, x.counts.getD 2 1, n], [j % c0, j / c0 % c1, j / c0 / c1, tau]⟩ } x.p

/-- The last of c rounds in which a condition on the counter holds. -/
def lastRound (p : Pred) (c : Nat) : Option Nat :=
  [c - 1, c - 2, 0].find? fun i => i < c &&
    predHolds { VC.empty with loopc := some ⟨[c], [i]⟩ } { p with plev := 0 }

/-- When a run of a body is executed for the last time in tile tau of n: the tile, the place of its loop or its own in the body, the
iteration, and its own place. -/
def lastIn (x : Run) (n tau : Nat) : Option (Nat × Nat × Nat × Nat) :=
  let at_ := if x.loopId = 0 then x.pos + 1 else x.loopId
  if !x.p.pen then some (tau, at_, x.iters - 1, x.pos)
  else if x.p.plev = 3 then (if runHolds x n tau 0 then some (tau, at_, x.iters - 1, x.pos) else none)
  else
    let c := x.counts.getD x.p.plev 1
    let below := (x.counts.take x.p.plev).foldl (· * ·) 1
    (lastRound x.p c).map fun i => (tau, at_, x.iters - 1 - (c - 1 - i) * below, x.pos)

/-- One time comes before another. -/
def sooner (a b : Nat × Nat × Nat × Nat) : Bool :=
  a.1 < b.1 || (a.1 == b.1 && (a.2.1 < b.2.1 || (a.2.1 == b.2.1 && (a.2.2.1 < b.2.2.1
    || (a.2.2.1 == b.2.2.1 && a.2.2.2 < b.2.2.2)))))

/-! ### The context of an instruction -/

/-- What an instruction executes in: partition, virtual core, core, its context (with the tile counter inside a caravan
body), the stage it stands in, and the program. -/
structure Ctx where
  p : Nat
  v : Nat
  c : Nat
  vc : VC
  car : Option (Nat × CarInst × Nat)
  tau : Nat
  g : Prog
  /-- The fetch part of a stage body runs it. -/
  fetch : Bool
deriving DecidableEq, Repr

/-- The virtual core issues, or presents again an instruction that waited to issue (R227, R256). -/
def Hold.waitsAtIssue : Hold → Bool
  | .free => true
  | .microBatch _ _ => true
  | .oasisQueue => true
  | _ => false

/-- The context in which virtual core a.vcore of core a.core may execute; none while it may not. `fetch` says that the
instruction belongs to the fetch part of a stage body (R192). It executes from the core's active bank alone (R212, R213). -/
def tynteCtx (s : State) (a : At) (fetch : Bool) : Option Ctx :=
  match partOfCore s a.core with
  | none => none
  | some p =>
    match s.launch p with
    | none => none
    | some l =>
      let v := a.vcore.val
      let vc := s.vc p v
      let g := s.prog p l.handle
      if vc.core != a.core.val || vc.done || s.get (Reg.HLT_SIROCCO_STATE p) = 2
          || !(s.bank a.core).code.contains (savedKey p l.handle v) then none
      else
        match inCar s p v with
        | some (d, i, k) =>
          let x := i.stage k
          let tau := tileOf x fetch
          if (fetch && !x.fetching) || i.tiles ≤ tau then none
          else some ⟨p, v, a.core.val, bodyVc vc i tau fetch, some (d, i, k), tau, g, fetch⟩
        | none =>
          if vc.hold.waitsAtIssue && s.get (Reg.SEQ_STATUS_VCORE a.core) == v
              && !((s.tr p).pending.any fun b => b.holds.contains v) then
            some ⟨p, v, a.core.val, vc, none, 0, g, false⟩
          else none

/-- The instruction executes, is skipped by its predicate (R149), or waits. -/
def withCtx (s : State) (a : At) (pr : Pred) (fetch : Bool) (k : Ctx → State) : Res :=
  match tynteCtx s a fetch with
  | none => .next s
  | some x => if predHolds x.vc pr then .next (k x) else .next s

/-- The virtual core issues again: what it waited for at issue is forgotten. -/
def issued (s : State) (x : Ctx) : State :=
  let c := s.vc x.p x.v
  s.setVc x.p x.v { c with hold := if c.hold.waitsAtIssue then .free else c.hold, bindWait := none }

/-- The context of the virtual core as the state holds it. -/
def Ctx.raw (s : State) (x : Ctx) : VC := s.vc x.p x.v

/-- A fault of the sequencer stops the command. -/
def seqFault (s : State) (x : Ctx) (code : Nat) (detail : List Nat) : State :=
  stopLaunch s (Reg.SEQ_STATUS_LAST_CODE x.c :: chapterLast x.p (portOf s x.p) code) x.p
    { code := code, core := x.c, vcore := x.v, detail := detail, tile := x.car.map fun _ => x.tau }

/-- The granules that an instruction of a stage body names now lie below the stage's AUX_USE (R186). -/
def bodyFits (x : Ctx) (t : Tynte) : Bool :=
  match x.car with
  | none => true
  | some (d, _, k) =>
    let (r, w) := granSpans x.g t
    (r ++ w).all fun y => match granule x.vc y.1 with
      | .x n => n + (y.2 + 511) / 512 ≤ stAuxUse x.g d k
      | _ => true

/-- An instruction that may stand in a stage body and names granules. What a stream's value does to the rule that they lie below
AUX_USE is judged where it is known, and stops the command with the code of the rule (DESIGN CHOICE, log entry 61). -/
def withBody (s : State) (a : At) (pr : Pred) (fetch : Bool) (t : Tynte) (k : Ctx → State) : Res :=
  withCtx s a pr fetch fun x =>
    if bodyFits x t then k x
    else stopLaunch s [Reg.CAR_STATUS_LAST_CODE x.c] x.p
      { code := 0x0410, core := x.c, vcore := x.v, tile := some x.tau }

/-- The values of streamable fields (width, field); none where one is out of range (R151). -/
def values (x : Ctx) (fs : List (Nat × Nat)) : Option (List Nat) := fs.mapM fun f => streamable x.vc f.1 f.2

/-- The granule a field names, in the core's auxiliary bank; 2047 for none. None where the stream's value is out of
range. -/
def granAt (x : Ctx) (f : Nat) : Option Nat :=
  match granule x.vc f with
  | .absent => some 2047
  | .bad => none
  | .x n => some (match x.car with
    | some (d, i, k) => bodyGran x.g d k (i.stage k) x.tau n
    | none => n)

/-- Several granule fields. -/
def granules (x : Ctx) (fs : List Nat) : Option (List Nat) := fs.mapM (granAt x)

/-- Nothing that the instruction touches is still being written (R170). -/
def descFree (s : State) (x : Ctx) (ds : List Nat) : Bool := ds.all fun d => d == 0xFFF || !(x.raw s).writing d

/-- A slot of the stage's own range (R195): the slots that its body names take consecutive ones. -/
def slotAt (x : Ctx) (t : Nat) : Nat :=
  match x.car with
  | some (d, i, k) => (i.stage k).slotBase + (slotsUsed x.g d k).findIdx (· == t)
  | none => t

/-- What binding the tensors of an instruction answers: the tensors as they stand in their slots, or the descriptor for
which the instruction waits or fails. The bindings made before it stand in the state. -/
inductive Binds
  | bound (s : State) (ts : List (Option TDesc))
  | waits (s : State) (d : Nat)
  | stale (s : State) (d : Nat)
deriving DecidableEq, Repr

/-- Every tensor of a list of descriptors is bound, from the first to the last (R232). -/
def bindAll (s : State) (x : Ctx) : List Nat → List (Option TDesc) → Binds
  | [], ts => .bound s ts.reverse
  | d :: r, ts =>
    match x.g.desc d with
    | none => bindAll s x r (none :: ts)
    | some t =>
      match bindTensor s x.p x.v t with
      | .slot off s => bindAll s x r (some (t.at off) :: ts)
      | .waits => .waits s d
      | .stale => .stale s d

/-- The step of the span that virtual core x.v stands in; 0 outside any. -/
def spanStep (s : State) (x : Ctx) : Nat := ((s.vc x.p x.v).span.map (·.2)).getD 0

/-- An instruction that names tensors (R232): it goes on with them bound, waits where one must, and stops the command where
one is stale. -/
def withBound (s : State) (x : Ctx) (k : State → List (Option TDesc) → State) (ds : List Nat) (ts : List (Option TDesc)) :
    State :=
  match bindAll s x ds ts with
  | .bound s ts => k (issued s x) ts
  | .waits s d => s.setVc x.p x.v { s.vc x.p x.v with bindWait := some (d, spanStep s x) }
  | .stale s d => seqFault s x 0x0520 [d, spanStep s x]

/-- A new instruction of n parts; its number. -/
def openParts (s : State) (x : Ctx) (n wr : Nat) : State × Nat :=
  let c := x.raw s
  (s.setVc x.p x.v (c.start n wr x.tau), c.nextId)

/-- An instruction that completes at once. -/
def doneNow (s : State) (x : Ctx) : State := retire s x.c

/-- The descriptor of a transfer that the translator makes for an instruction. -/
def codeDesc (s : State) (x : Ctx) (core iid src dst len srcSp dstSp prio tag skew shift : Nat) (fill : Fill) (rel : Bool) : Desc :=
  { src := src, dst := dst, len := len, srcSp := srcSp, dstSp := dstSp, prio := prio, chan := iid % 12, lcore := core % 16,
    tag := tag, skew := skew, record := false, cq := 0, cookie := 0, seq := ((s.launch x.p).map (·.seq)).getD 0, part := x.p,
    firmware := false, bad := false, fill := fill, shift := shift, rel := rel, vcore := x.v, iid := iid }

/-- A staging address (R304). -/
def stgAddr (bank g : Nat) : Nat := bank * 2048 + g

/-! ### Control (R149, R152 to R154) -/

/-- NOP (R148). -/
def execNop (a : At) (pr : Pred) (s : State) : Res := withCtx s a pr false fun x => doneNow s x

/-- No predicate. -/
def always : Pred := ⟨false, 0, 0⟩

/-- A control instruction completes. Both parts of a stage body run it, and it retires once, in the work part (DESIGN CHOICE,
log entry 46). -/
def doneOnce (s : State) (x : Ctx) : State := if x.fetch then s else doneNow s x

/-- LOOP (R154): a nest opens with every counter at 0. -/
def execLoop (a : At) (f : LoopF) (s : State) : Res :=
  withCtx s a always a.fetch fun x =>
    let c := x.raw s
    if (c.nest x.fetch).isSome then s
    else
      let n := f.nlev + 1
      let counts := [f.count0, f.count1, f.count2, f.count3].take n
      doneOnce (s.setVc x.p x.v (c.setNest x.fetch (some ⟨counts, List.replicate n 0⟩))) x

/-- The counters after one more iteration, level 0 fastest; none after the last. -/
def nextIter : List Nat → List Nat → Option (List Nat)
  | n :: ns, i :: is => if i + 1 < n then some ((i + 1) :: is) else (nextIter ns is).map (0 :: ·)
  | _, _ => none

/-- ENDLOOP (R154): the next iteration, or the end of the nest. -/
def execEndloop (a : At) (s : State) : Res :=
  withCtx s a always a.fetch fun x =>
    let c := x.raw s
    match c.nest x.fetch with
    | none => s
    | some l =>
      doneOnce (s.setVc x.p x.v (c.setNest x.fetch ((nextIter l.counts l.ctrs).map fun i => ⟨l.counts, i⟩))) x

/-- STREAM (R152): stream S gets its definition; INIT may be a launch parameter, and is unsigned (DEDUCED, log entry 59). -/
def execStream (a : At) (f : StreamF) (s : State) : Res :=
  withCtx s a always false fun x =>
    let c := x.raw s
    let ps := ((s.launch x.p).map (·.params)).getD []
    let init : Nat := if f.initParam then ps.getD (f.init.toNat % 4) 0 else f.init.toNat
    let d : StreamDef := ⟨init, [f.inc0.toInt, f.inc1.toInt, f.inc2.toInt, f.inc3.toInt]⟩
    doneNow (s.setVc x.p x.v { c with streams := SMap.set none c.streams f.s (some d) }) x

/-! ### Accumulator slots between virtual cores (R136, R137) -/

/-- The mark of a core whose slots virtual core v of handle h fills, at position k of its gang. -/
def slotMark (h v k : Nat) (gang : Bool) : Nat := ((h * 128 + v) * 4 + k) * 2 + gang.toNat + 1

/-- The mark of Full slots whose program is gone: nothing will ask for them again. -/
def goneOwner : Nat := 65537

/-- Core c holds slots of handle h. -/
def slotsOfHandle (s : State) (h c : Nat) : Bool :=
  SMap.get 0 s.slotOwner c != 0 && (SMap.get 0 s.slotOwner c - 1) / 1024 == h

/-- The words of slot t of core c. -/
def slotWords (s : State) (c t : Nat) : List Nat := (List.range 65536).map fun k => SMap.get 0 s.acc (accKey c t 0 k)

/-- The Full slots of core c saved for the virtual core of mark m, and left Free. Slot t at position k of a gang has the
number 4t + k and slot t of a lone core the number t, so that a tile has the same numbers ganged or not (R138). -/
def saveSlots (s : State) (p m c : Nat) : State :=
  let key := savedKey p 0 ((m - 1) / 8)
  let number := fun (t : Nat) => if (m - 1) % 2 = 1 then 4 * t + (m - 1) / 2 % 4 else t
  let full := (List.range 4).filter fun t => slotSt s c t == 2
  let kept : SavedSlots := full.map fun t => (number t, SMap.get SlotInfo.empty s.slots (c * 4 + t), slotWords s c t)
  let s := full.foldl (fun s t => freeSlot s c t) s
  let old := (SMap.get [] s.saved key).filter fun x => !(kept.any fun y => y.1 == x.1)
  { s with saved := SMap.set [] s.saved key (kept ++ old), slotOwner := SMap.set 0 s.slotOwner c 0 }

/-- What was saved for a virtual core is put back where it is placed now (R137, R355 step 3). -/
def restoreSlots (s : State) (p h v : Nat) : State :=
  let vc := s.vc p v
  let s := (SMap.get [] s.saved (savedKey p h v)).foldl (fun (s : State) (n, info, ws) =>
    let c := if vc.gang then vc.core + n % 4 else vc.core
    let t := if vc.gang then n / 4 else n % 4
    let s := s.put (Reg.ENG_STATUS_SLOT_STATE c t) 2
    { s with slots := SMap.set SlotInfo.empty s.slots (c * 4 + t) info,
             acc := SMap.setAll 0 s.acc (ws.zipIdx.map fun (w, k) => (accKey c t 0 k, w)) }) s
  { s with saved := SMap.set [] s.saved (savedKey p h v) [] }

/-- The cores of a virtual core: its own, or its gang. -/
def coresOf (vc : VC) : List Nat := if vc.gang then [vc.core, vc.core + 1, vc.core + 2, vc.core + 3] else [vc.core]

/-- Virtual core v of handle h comes to its cores (R137): the Full slots that another left there are saved, or freed where
its program is gone, and its own are put back. -/
def takeCores (s : State) (p h v : Nat) : State :=
  let vc := s.vc p v
  let s := (coresOf vc).zipIdx.foldl (fun (s : State) (c, k) =>
    let m := slotMark h v k vc.gang
    let old := SMap.get 0 s.slotOwner c
    let s := if old = 0 || old = m then s
      else if old = goneOwner then (List.range 4).foldl (fun s t => freeSlot s c t) s
      else saveSlots s p old c
    { s with slotOwner := SMap.set 0 s.slotOwner c m }) s
  restoreSlots s p h v

/-- Virtual core v of handle h leaves its cores: its Full slots are saved (R137). -/
def leaveCores (s : State) (p h v : Nat) : State :=
  let vc := s.vc p v
  (coresOf vc).zipIdx.foldl (fun (s : State) (c, k) => saveSlots s p (slotMark h v k vc.gang) c) s

/-- Virtual core v has work left in its phase. -/
def runs (s : State) (p v : Nat) : Bool :=
  let c := s.vc p v
  !c.done && c.hold != .barrier && c.hold != .stepEnd

/-- How many barriers virtual core v has reached in its launch. -/
def barrierNo (s : State) (p v : Nat) : Nat := ((s.launch p).map fun l => SMap.get 0 l.barriers v).getD 0

/-- The virtual core that core c runs next (R136): of those in the earliest phase the lowest. -/
def nextHosted (s : State) (p c : Nat) : Option Nat :=
  ((hostedOn s p c).filter (runs s p)).foldl (fun (b : Option Nat) v => match b with
    | none => some v
    | some w => if barrierNo s p v < barrierNo s p w then some v else b) none

/-- Core c turns to the virtual core that it runs next, with its slots (R137) and its code (R213). -/
def turnTo (s : State) (p c : Nat) : State :=
  match nextHosted s p c with
  | some v =>
    let h := ((s.launch p).map (·.handle)).getD 0
    let s := s.put (Reg.SEQ_STATUS_VCORE c) v
    wantCode (if 1 < (hostedOn s p c).length then takeCores s p h v else s) c (savedKey p h v)
  | none => s

/-- Core c turns from virtual core `old`, whose phase ends, to the next of its phase (R136), with the slots of R137 and the
bank of R213. Nothing in the staging of `old`'s cores survives. -/
def turnCore (s : State) (p c old : Nat) : State :=
  let s := (coresOf (s.vc p old)).foldl clearStaging s
  turnTo (if 1 < (hostedOn s p c).length then leaveCores s p (((s.launch p).map (·.handle)).getD 0) old else s) p c

/-- Virtual core v reaches a barrier: a BARRIER or a STEP_END (R172, R236). -/
def reachBarrier (s : State) (p v : Nat) : State :=
  match s.launch p with
  | some l => s.setLaunch p (some { l with barriers := SMap.set 0 l.barriers v (barrierNo s p v + 1) })
  | none => s

/-- The BARRIER at which virtual core v holds is complete (R172): every non-idle virtual core of the launch has reached as many, or
has ended. -/
def barrierOver (s : State) (p v : Nat) : Bool :=
  (s.vc p v).hold == .barrier && (s.launch p).any fun l =>
    l.active.all fun w => (s.vc p w).done || barrierNo s p v ≤ barrierNo s p w

/-- The virtual cores for which `over` holds begin their next phase: their BARRIER or STEP_END retires, and cores that had nothing to
run turn to the next virtual core. -/
def newPhase (s : State) (p : Nat) (over_ : Nat → Bool) : State :=
  match s.launch p with
  | none => s
  | some l =>
    let cores := ((l.active.map fun v => (s.vc p v).core).dedup).filter fun c => !runs s p (s.get (Reg.SEQ_STATUS_VCORE c))
    let s := (l.active.filter over_).foldl (fun (s : State) v =>
      let c := s.vc p v
      (retire (s.setVc p v { c with hold := .free }) c.core).put (Reg.SEQ_STATUS_WAIT_BARRIER c.core) 0) s
    cores.foldl (fun s c => turnTo s p c) s

/-- A BARRIER of the launch is complete. -/
def barrierMet (s : State) (p : Nat) : Bool := (s.launch p).any fun l => l.active.any (barrierOver s p)

/-- The phases end whose BARRIER is complete. -/
def tryPhase (s : State) (p : Nat) : State := if barrierMet s p then newPhase s p (barrierOver s p) else s

/-- END (R154): a part of the tile of a caravan body ends, or the virtual core's work of the launch. -/
def execEndI (a : At) (s : State) : Res :=
  withCtx s a always a.fetch fun x =>
    match x.car with
    | some (d, i, k) =>
      if x.fetch then carFetchEnd s x.p x.v d i k else tryCommit (carTileEnd s x.p x.v d i k) x.p
    | none =>
      let c := x.raw s
      if !c.quiet || c.loopc.isSome then s
      else
        let s := match s.launch x.p with
          | some l => s.setLaunch x.p (some { l with ended := l.ended ++ [x.v] })
          | none => s
        let s := retire (s.setVc x.p x.v { c with done := true }) x.c
        tryCommit (tryPhase (turnCore s x.p x.c x.v) x.p) x.p

/-- BARRIER (R172). -/
def execBarrier (a : At) (s : State) : Res :=
  withCtx s a always false fun x =>
    let c := x.raw s
    if !c.quiet || x.car.isSome then s
    else
      let s := s.setVc x.p x.v { c with hold := .barrier }
      let s := reachBarrier (s.put (Reg.SEQ_STATUS_WAIT_BARRIER x.c) 1) x.p x.v
      tryPhase (turnCore s x.p x.c x.v) x.p

/-! ### Tokens (R171) -/

/-- Token t of the launch. -/
def tokenOf (s : State) (p t : Nat) : Nat := ((s.launch p).map fun l => SMap.get 0 l.tokens t).getD 0

/-- The virtual cores whose WAIT the token now satisfies go on. -/
def wakeToken (s : State) (p t : Nat) : State :=
  match s.launch p with
  | none => s
  | some l => l.active.foldl (fun (s : State) v =>
      let c := s.vc p v
      match c.hold with
      | .token u n => if u = t && n ≤ tokenOf s p t then
          (retire (s.setVc p v { c with hold := .free }) c.core).put (Reg.SEQ_STATUS_WAIT_TOKEN c.core) 0 else s
      | _ => s) s

/-- Token t rises by one (R171). -/
def addToken (s : State) (p t : Nat) : State :=
  match s.launch p with
  | none => s
  | some l => wakeToken (s.setLaunch p (some { l with tokens := SMap.set 0 l.tokens t ((SMap.get 0 l.tokens t + 1) % 2 ^ 32) })) p t

/-- SIGNAL (R171): once every earlier instruction has completed. -/
def execSignal (a : At) (pr : Pred) (token : Nat) (s : State) : Res :=
  withCtx s a pr false fun x => if (x.raw s).quiet then addToken (doneNow s x) x.p (token % 256) else s

/-- WAIT (R171). -/
def execWait (a : At) (pr : Pred) (token value : Nat) (s : State) : Res :=
  withCtx s a pr false fun x =>
    if value ≤ tokenOf s x.p (token % 256) then doneNow s x
    else if x.car.isSome then s
    else (s.setVc x.p x.v { x.raw s with hold := .token (token % 256) value }).put (Reg.SEQ_STATUS_WAIT_TOKEN x.c) 1

/-- TOKEN_WAIT_TIMEOUT (R171). -/
def execTokenWaitTimeout (a : At) (s : State) : Res :=
  match partOfCore s a.core with
  | none => .next s
  | some p =>
    let v := a.vcore.val
    match (s.vc p v).hold with
    | .token t n =>
      if s.get (Reg.ENG_ISSUE_TIMEOUT_LIMIT a.core) = 0 || (s.vc p v).core != a.core.val then .next s
      else .next (stopLaunch s [Reg.SEQ_STATUS_LAST_CODE a.core] p
        { code := 0x0332, core := a.core.val, vcore := v, detail := [t, n, tokenOf s p t] })
    | _ => .next s

/-! ### Moves (R155, R156) -/

/-- LOAD (R155). -/
def execLoad (a : At) (pr : Pred) (f : MoveF) (s : State) : Res :=
  withBody s a pr true (.load f) fun x =>
    if !descFree s x [f.desc] then s
    else withBound s x (fun s ts =>
      match ts.headD none, values x [(32, f.off)], granAt x f.gran with
      | some t, some [off], some g =>
        if !moveInside t f.rows off f.count then seqFault s x 0x0330 [f.desc, off, f.count]
        else if f.count = 0 then doneNow s x
        else
          let (s, iid) := openParts s x 1 0
          let n := if f.rows then f.count * rowBytes t else 64 * f.count
          let src := if f.rows then t.base + off * t.stride 1 else t.base + 64 * off
          let fill := if f.rows then Fill.rows (rowBytes t) (t.stride 1) n else .plain
          pushDesc s x.p x.c (codeDesc s x x.c iid src (stgAddr 2 g) (roundUp n 64) 0 1 1 0 0 0 fill false)
      | some _, none, _ => seqFault s x 0x0333 []
      | some _, _, none => seqFault s x 0x0333 []
      | _, _, _ => s) [f.desc] []

/-- STORE (R155): once its source granules are present. In a paired launch its bytes are compared before it goes (R364). -/
def execStore (a : At) (pr : Pred) (f : MoveF) (s : State) : Res :=
  withBody s a pr false (.store f) fun x =>
    if !descFree s x [f.desc] then s
    else
      match boundDesc s x.p x.v f.desc, values x [(32, f.off)], granAt x f.gran with
      | some t, some [off], some g =>
        let n := if f.rows then f.count * rowBytes t else 64 * f.count
        if !moveInside t f.rows off f.count then seqFault s x 0x0330 [f.desc, off, f.count]
        else if f.count = 0 then doneNow s x
        else if !presentAll s x.c 2 g (granulesOf n) 1 || !stageGo s x.p x.v x.c then carWaits s x.p x.v false
        else
          let (s, iid) := openParts s x 1 (f.desc + 1)
          let dst := if f.rows then t.base + off * t.stride 1 else t.base + 64 * off
          let fill := if f.rows then Fill.toRows (rowBytes t) (t.stride 1) n else .plain
          let d := codeDesc s x x.c iid (stgAddr 2 g) dst (roundUp n 64) 1 0 1 0 0 0 fill f.rel
          match pairTile s x.p x.v x.c (storeBytes s x.c d) with
          | (s, true) => carEnter (pushDesc s x.p x.c d) x.p x.v
          | (s, false) => s
      | some _, none, _ => seqFault s x 0x0333 []
      | some _, _, none => seqFault s x 0x0333 []
      | _, _, _ => s

/-- PREFETCH (R156): the lines are brought into the cache, and with PIN = 1 stay there. `ev` is what the memory finds in
them; the instruction waits where tokens are missing (R283). -/
def prefetchLines (a : At) (pr : Pred) (f : PrefetchF) (ev : MemEvent) (s : State) : Res :=
  withCtx s a pr true fun x =>
    if !descFree s x [f.desc] then s
    else withBound s x (fun s ts =>
      match ts.headD none, values x [(32, f.off)] with
      | some t, some [off] =>
        let at_ := t.base + 64 * off
        let lines := (List.range f.count).map (at_ + 64 * ·)
        if !moveInside t false off f.count then seqFault s x 0x0330 [f.desc, off, f.count]
        else match partRefusal s x.p lines with
        | some (code, detail) => seqFault s x code detail
        | none =>
          let as := lines.filterMap (xlate s x.p)
          let keys := tokenKeys s false 0 as
          let (found, code, detail) := readFinds s x.p (span at_ (64 * f.count)) ev
          if !mayTake s keys then waitKeys s keys
          else if code != 0 then recordStops found (Reg.SEQ_STATUS_LAST_CODE x.c) x.c x.p x.v code detail (some x.tau)
          else if f.pin then
            let (code, t) := pinRange found x.p (.prefetch x.p (x.car.map (·.1))) at_ (64 * f.count)
            if code != 0 then
              stopLaunch t (memLast x.p ((xlate t x.p at_).getD 0)) x.p
                { code := code, core := x.c, vcore := x.v, tile := some x.tau }
            else doneNow t x
          else doneNow (access found false as) x
      | some _, _ => seqFault s x 0x0333 []
      | _, _ => s) [f.desc] []

/-- PREFETCH (R156). -/
def execPrefetch (a : At) (pr : Pred) (x : PrefetchOp) (s : State) : Res := prefetchLines a pr x.f x.ev s

/-! ### Table context (R157) -/

/-- TABLE_SETUP (R157). In a stage body it is of the work part: it waits for the stage's input tile, and the stage enters the
tile with it (R192, R200). -/
def execTableSetup (a : At) (pr : Pred) (f : TableF) (s : State) : Res :=
  withCtx s a pr false fun x =>
    if !stageGo s x.p x.v x.c then carWaits s x.p x.v false
    else withBound s x (fun s _ =>
      carEnter (doneNow (s.setVc x.p x.v { x.raw s with table := some f }) x) x.p x.v) [f.adesc, f.wdesc, f.sdesc] []

/-- The last TABLE_SETUP of a piece of code. -/
def lastTable (is : List (Nat × Tynte × Pred × Nat)) : Option TableF :=
  is.foldl (fun (b : Option TableF) y => match y.2.1 with
    | .tableSetup f => some f
    | _ => b) none

/-- The table context in effect for an OPB at a word (R157): of the last TABLE_SETUP before it in the virtual core's program; in a
stage body, of the last before it there, and else of the last that the program runs before its CARAVAN. A native image is no
Tynte code, and its latched one holds. -/
def tableFor (s : State) (x : Ctx) (word : Nat) : Option TableF :=
  let before := fun (is : List (Nat × Tynte × Pred × Nat)) => is.filter fun y => y.1 < word
  let code := codeOf x.g x.v
  if x.g.isNative then (x.raw s).table
  else match x.car with
    | none => lastTable (before code)
    | some (d, _, k) =>
      let entry := ((s.launch x.p).map (·.entry)).getD 0
      (lastTable (before ((bodyOf x.g d k).getD []))).orElse fun _ =>
        lastTable ((fromStart (x.g.start entry x.v) code).takeWhile fun y => match y.2.1 with
          | .caravan f => f.cdef != d
          | _ => true)

/-- CODEBOOK_SET (R157). -/
def execCodebookSet (a : At) (pr : Pred) (f : CodebookF) (s : State) : Res :=
  withCtx s a pr false fun x =>
    if !descFree s x [f.desc] then s
    else
      match boundDesc s x.p x.v f.desc with
      | some t =>
        match pWrite s x.p t.auxBase (leBytes 32 (x.g.constAt f.constOff 32)) with
        | some s => carEnter (doneNow s x) x.p x.v
        | none => seqFault s x 0x0710 [t.auxBase, t.auxBase / frameBytes, x.p]
      | none => s

/-! ### Outer-product blocks (R158 to R161) -/

/-- Granules of bank A that the windows of the stages on core c take (R190): the translator's ring begins above them. -/
def aReserved (s : State) (p c : Nat) : Nat :=
  ((carsOf s p).map fun d => match s.car p d with
    | some i => (i.stages.map fun x => if x.core == c then x.aBase + x.aLen else 0).foldl max 0
    | none => 0).foldl max 0

/-- A place for n granules in a ring of granules [lo, hi), from `next` on. -/
def ringPlace (lo hi next n : Nat) : Nat := if lo ≤ next && next + n ≤ hi then next else lo

/-- The ranges of a pass overlap granules that a pass of an earlier instruction still reads. The quarters of one OPB are filled in
turn over one channel, each into what the one before it has released, so that they may share granules (R138). -/
def rangesBusy (e : EngCtx) (p v iid : Nat) (rs : List (Nat × Nat × Nat)) : Bool :=
  let used := (e.queue.filterMap fun it => match it with
    | .pass y => some y
    | .drain _ => none) ++ (e.filling.map fun y => [y]).getD [] ++ e.made
  used.any fun y => !(y.part == p && y.vcore == v && y.iid == iid) &&
    ([(0, y.aBase, y.aLen + y.gang.toNat), (1, y.bBase, y.bLen + y.gang.toNat), (2, y.sBase, y.sLen)] : List (Nat × Nat × Nat)).any fun u =>
      rs.any fun r => r.1 == u.1 && r.2.2 != 0 && u.2.2 != 0 && r.2.1 < u.2.1 + u.2.2 && u.2.1 < r.2.1 + r.2.2

/-- The execution of an OPB at a word is the last one of its tile that takes the row operand from the stage's window (R190): only
then is the position released. -/
def lastOnInput (x : Ctx) (word : Nat) : Bool :=
  match x.car, x.vc.loopc with
  | some (d, i, k), some l =>
    let rs := bodyRuns x.g d k
    let pos := ((bodyOf x.g d k).getD []).findIdx fun y => y.1 == word
    let c := fun (n : Nat) => l.counts.getD n 1
    let j := fun (n : Nat) => l.ctrs.getD n 0
    let here := (x.tau, ((rs[pos]?).map fun r => if r.loopId = 0 then pos + 1 else r.loopId).getD 0,
      j 0 + c 0 * (j 1 + c 1 * j 2), pos)
    rs.all fun r => match r.t with
      | .opb f => f.adesc != 0xFFF || !((lastIn r i.tiles x.tau).any (sooner here))
      | _ => true
  | _, _ => true

/-- The pass of quarter (qr, qc) of an OPB on lead core c, with its fills begun; `gang` computes all four at once. None while
its ranges are busy. The granules that the pass names are noted (R76), and it releases every range that it reads (R158), a
stage's window position with the tile's last reader of it (R190). -/
def opbPass (s : State) (x : Ctx) (f : OpbF) (word : Nat) (tab : TableF) (ta tb tw : Option TDesc) (bcol arow kb0 high iid : Nat)
    (quarter : Nat) (gang : Bool) : Option (State × Pass) :=
  let e := s.eng x.c
  let skew := gang.toNat
  let inA := f.adesc == 0xFFF
  let aLen := aGranules f.path f.blocks f.holdT
  let bLen := bGranules f.path f.blocks
  let sLen := sGranules f.path f.blocks
  let stg := match x.car with
    | some (_, i, k) => i.stage k
    | none => StageCtx.empty
  let lo := aReserved s x.p x.c
  let aBase := if inA then stg.aBase else ringPlace lo 192 e.aNext (aLen + skew)
  let bBase := ringPlace 0 192 e.bNext (bLen + skew)
  let sBase := if sLen = 0 then 896 else ringPlace 896 1024 e.sNext sLen
  if rangesBusy e x.p x.v iid ((if inA then [] else [(0, aBase, aLen + skew)]) ++ [(1, bBase, bLen + skew), (2, sBase, sLen)]) then none
  else
    let rec_ := fun (d : Nat) => (x.g.desc d).bind fun t => if t.scaleRef = 0xFFFF then none else some t.scaleRef
    let rowMajor := f.path ≤ 4
    let arow := arow + 256 * (quarter / 2)
    let bcol := bcol + 256 * (quarter % 2)
    let inside := fun (t : TDesc) => if high < t.highs then (if rowMajor then (t.dim 1, t.dim 0) else (t.dim 0, t.dim 1)) else (0, 0)
    let lim := match ta with
      | some t => inside t
      | none => (2 ^ 40, 2 ^ 40)
    let pass : Pass :=
      { part := x.p, vcore := x.v, iid := iid, path := f.path, width := f.width, blocks := f.blocks,
        slot := slotAt x (if gang then 0 else if f.tile then quarter else f.slot), acc := f.acc,
        accShift := tab.accShift, kb0 := kb0, high := high, holdT := f.holdT, gang := gang,
        aBase := aBase, aLen := aLen, bBase := bBase, bLen := bLen, sBase := sBase, sLen := sLen,
        aRel := !inA || lastOnInput x word, bRel := true, sRel := true, codebook := if codePath f.path then tw.map (·.auxBase) else none,
        aScale := if rowInt8 f.path then rec_ tab.adesc else none, wScale := if f.path = 4 then rec_ tab.sdesc else none,
        rowsIn := lim.1, rowBase := if ta.isSome then arow else 0, kIn := lim.2 }
    let e := { e with aNext := if inA then e.aNext else aBase + aLen + skew,
                      bNext := bBase + bLen + skew, sNext := if sLen = 0 then e.sNext else sBase + sLen }
    let s := namePass (s.setEng x.c e) x.c pass
    let k0 := 32 * kb0
    let es := rowSize f.path
    let rowLen := if f.holdT = 0 then 32 * f.blocks * 256 * es
      else 32 * f.blocks / f.holdT * roundUp ((255 + f.holdT) * es) 64
    let poss := if gang then [0, 1, 2, 3] else [0]
    let push := fun (s : State) (k bank g len tag shift : Nat) (t : TDesc) (fl : Fill) =>
      pushDesc s x.p (x.c + k) (codeDesc s x (x.c + k) iid t.base (stgAddr bank g) (len + shift) 0 1 2 tag
        (if shift = 0 then 0 else 1) shift fl false)
    some (poss.foldl (fun (s : State) k =>
      let s := match ta with
        | some t => if gang && !stagesRow k then s else
            push s k 0 aBase rowLen 0 (if k = 2 then 256 * es else 0) t
              (.rowOp t rowMajor (arow + 256 * (k / 2)) k0 high f.holdT)
        | none => s
      match tb with
      | none => s
      | some t =>
        let col := bcol + 256 * (k % 2)
        let s := if gang && !stagesCol k then s else
          let sh := if k = 1 then colStep f.path f.width else 0
          if codePath f.path then
            push s k 1 bBase (4096 * f.blocks) (kb0 % 16) sh t
              (if f.path = 3 then .codesT t col k0 high else .codes t col kb0 high)
          else push s k 1 bBase (32 * f.blocks * colStep f.path f.width) 0 sh t (.colOp t col k0 high)
        if codePath f.path then
          push s k 2 sBase (512 * f.blocks) (kb0 % 16) 0 t
            (if f.path = 3 then .scalesT t col k0 high else .scales t col kb0 high)
        else s) s, pass)

/-- How many passes an OPB makes, and how many transfers that fill their operands. -/
def opbCount (f : OpbF) (gang : Bool) : Nat := if f.tile && !gang then 4 else 1
def opbFills (f : OpbF) (gang : Bool) : Nat :=
  let a := if f.adesc = 0xFFF then 0 else 1
  let sc := if codePath f.path then 1 else 0
  if gang then 2 * a + 2 + 4 * sc else opbCount f gang * (a + 1 + sc)

/-- The passes of an OPB with their fills: one, the four quarters of a tile in turn, or the tile of a gang at once; each goes
where `put` puts it. None while the ranges of one are busy. -/
def opbPasses (s : State) (x : Ctx) (f : OpbF) (word : Nat) (tab : TableF) (ta tb tw : Option TDesc) (bcol arow kb0 high iid : Nat)
    (gang : Bool) (put : State → Pass → State) : Option State :=
  (List.range (opbCount f gang)).foldl
    (fun (o : Option State) q => o.bind fun u =>
      (opbPass u x f word tab ta tb tw bcol arow kb0 high iid q gang).map fun y => put y.1 y.2) (some s)

/-- A pass whose operands the fetch part stages waits for the work part (R192). -/
def makePass (s : State) (c : Nat) (y : Pass) : State := s.setEng c { s.eng c with made := (s.eng c).made ++ [y] }

/-- The work part comes to an OPB: the oldest pass that the fetch part has made for it enters the engine's queue. -/
def takeMade (s : State) (x : Ctx) : State :=
  match (s.eng x.c).made.find? fun y => y.part == x.p && y.vcore == x.v with
  | none => s
  | some y =>
    let (s, iid) := openParts s x 1 0
    addPass (s.setEng x.c { s.eng x.c with made := (s.eng x.c).made.erase y }) x.c { y with iid := iid }

/-- OPB (R158): fills and passes, in program order at the engine's fill port. In a stage body its fills are of the fetch part
and its pass of the work part (R192). On PATH 3 a BCOL that is no multiple of 32 lies outside the field's range (R151, R159;
DEDUCED, log entry 59). -/
def execOpb (a : At) (pr : Pred) (f : OpbF) (s : State) : Res :=
  withCtx s a pr a.fetch fun x =>
    let tab := tableFor s x a.word
    let wdesc := (tab.map (·.wdesc)).getD 0xFFF
    if x.car.isSome && !x.fetch then takeMade s x
    else if !descFree s x [f.adesc, f.bdesc, wdesc] then s
    else withBound s x (fun s ts =>
      match values x [(32, f.bcol), (32, f.arow), (16, f.kb0), (32, f.high)] with
      | some [bcol, arow, kb0, high] =>
        if f.path = 3 && bcol % 32 != 0 then seqFault s x 0x0333 [] else
        let gang := f.tile && (x.raw s).gang
        let ta := ts.getD 0 none
        let tb := ts.getD 1 none
        let tw := ts.getD 2 none
        let (u, iid) := openParts s x (opbFills f gang + (if x.fetch then 0 else opbCount f gang)) 0
        let u := if x.fetch then u.setVc x.p x.v { u.vc x.p x.v with fills := iid :: (u.vc x.p x.v).fills } else u
        (opbPasses u x f a.word (tab.getD ⟨0, 0xFFF, 0xFFF, 0xFFF⟩) ta tb tw bcol arow kb0 high iid gang fun s y =>
          if x.fetch then makePass s x.c y else addPass s x.c y).getD s
      | _ => seqFault s x 0x0333 []) [f.adesc, f.bdesc, wdesc] []

/-- The drain of quarter q put behind the passes of its engine: the lead's, or that of gang position q. -/
def pushDrain (s : State) (x : Ctx) (f : DrainF) (g orow ocol high iid : Nat) (gang : Bool) (q : Nat) : State :=
  let c := if gang then x.c + q else x.c
  let t := boundDesc s x.p x.v f.outDesc
  let dest := match f.dest, t with
    | 0, _ => DrainDest.local g
    | 2, some t => .tensor t orow ocol high
    | _, _ => .stream
  let d : Drain :=
    { part := x.p, vcore := x.v, iid := iid, slot := slotAt x (if gang then 0 else if f.tile then q else f.slot),
      format := f.format, stats := f.stats, dest := dest,
      outScale := if f.format = 0 then t.bind fun t => if t.scaleRef = 0xFFFF then none else some t.scaleRef else none,
      quarter := q }
  queueDrain s c d

/-- DRAIN (R161). A ganged tile is drained once its passes have left the lead's queue. -/
def execDrain (a : At) (pr : Pred) (f : DrainF) (s : State) : Res :=
  withBody s a pr false (.drain f) fun x =>
    if !descFree s x [f.outDesc] then s
    else
      match values x [(32, f.ocol), (32, f.orow), (32, f.high)], granAt x f.xbase with
      | some [ocol, orow, high], some g =>
        let gang := f.tile && (x.raw s).gang
        let e := s.eng x.c
        if gang && (!e.queue.isEmpty || e.filling.isSome) then s
        else
          let n := if f.tile then 4 else 1
          let (s, iid) := openParts s x n (if f.dest = 2 then f.outDesc + 1 else 0)
          (List.range n).foldl (fun s q => pushDrain s x f g orow ocol high iid gang q) s
      | _, _ => seqFault s x 0x0333 []

/-! ### The vector and gather/scatter units (R162 to R167, R174) -/

/-- An instruction handed to the vector unit, or to the gather/scatter unit. -/
def pushJob (s : State) (x : Ctx) (gs : Bool) (t : Tynte) (wr : Nat) : State :=
  let (s, iid) := openParts s x 1 wr
  let e := s.vu x.c
  let j : VJob := ⟨x.p, x.v, iid, t, x.fetch⟩
  s.setVu x.c (if gs then { e with gsQueue := e.gsQueue ++ [j] } else { e with queue := e.queue ++ [j] })

/-- VOP (R162). -/
def execVop (a : At) (pr : Pred) (f : VopF) (s : State) : Res :=
  withBody s a pr false (.vop f) fun x =>
    match granules x [f.dst, f.src1, f.src2, f.src3] with
    | some [d, s1, s2, s3] => pushJob s x false (.vop { f with dst := d, src1 := s1, src2 := s2, src3 := s3 }) 0
    | _ => seqFault s x 0x0333 []

/-- REDUCE (R163). -/
def execReduce (a : At) (pr : Pred) (f : ReduceF) (s : State) : Res :=
  withBody s a pr false (.reduce f) fun x =>
    if !descFree s x [f.xdesc] then s
    else
      match granules x [f.dst, f.src], values x [(32, f.pos0)] with
      | some [d, s1], some [pos] =>
        pushJob s x false (.reduce { f with dst := d, src := s1, pos0 := pos }) (if f.op = 9 && f.xdesc != 0xFFF then f.xdesc + 1 else 0)
      | _, _ => seqFault s x 0x0333 []

/-- INDEX_STREAM (R174): the request is made. It is not refused with 0x0201 while LIMIT is unwritten: R131 names vector and
gather/scatter instructions, of which R165 lists it, and it goes to no unit but to the control core (DESIGN CHOICE, log
entry 61). -/
def execIndexStream (a : At) (pr : Pred) (f : IndexF) (s : State) : Res :=
  withCtx s a pr true fun x =>
    if !descFree s x [f.idesc] then s
    else
      match values x [(32, f.first)] with
      | some [first] =>
        if f.count = 0 then doneNow s x
        else
          let (s, iid) := openParts s x 1 0
          let e := s.vu x.c
          s.setVu x.c { e with feeds := e.feeds ++ [⟨x.p, x.v, iid, f.idesc, first, f.count⟩] }
      | _ => seqFault s x 0x0333 []

/-- The GATHER belongs to the fetch part of its stage (R192). -/
def gatherFetch (s : State) (a : At) (f : GatherF) : Bool :=
  match partOfCore s a.core with
  | none => false
  | some p => match inCar s p a.vcore with
    | some (d, i, k) => gatherFetches s p (s.prog p i.handle) i d k f.dst
    | none => false

/-- GATHER (R124). -/
def execGather (a : At) (pr : Pred) (f : GatherF) (s : State) : Res :=
  withBody s a pr (gatherFetch s a f) (.gather f) fun x =>
    if !descFree s x [f.tdesc] then s
    else
      match granAt x f.dst with
      | some d => pushJob s x true (.gather { f with dst := d }) 0
      | none => seqFault s x 0x0333 []

/-- SCATTER_ADD (R125). -/
def execScatterAdd (a : At) (pr : Pred) (f : ScatterF) (s : State) : Res :=
  withBody s a pr false (.scatterAdd f) fun x =>
    if !descFree s x [f.tdesc] then s
    else
      match granAt x f.src with
      | some g => pushJob s x true (.scatterAdd { f with src := g }) (f.tdesc + 1)
      | none => seqFault s x 0x0333 []

/-- SEGMENT_REDUCE (R128). -/
def execSegmentReduce (a : At) (pr : Pred) (f : SegF) (s : State) : Res :=
  withBody s a pr false (.segmentReduce f) fun x =>
    if !descFree s x [f.xdesc] then s
    else
      match granules x [f.dst, f.src], values x [(32, f.first), (32, f.last)] with
      | some [d, s1], some [first, last] =>
        pushJob s x true (.segmentReduce { f with dst := d, src := s1, first := first, last := last })
          (if f.op = 6 && f.xdesc != 0xFFF then f.xdesc + 1 else 0)
      | _, _ => seqFault s x 0x0333 []

/-- ANCHOR_READ (R127). -/
def execAnchorRead (a : At) (pr : Pred) (f : AnchorF) (s : State) : Res :=
  withBody s a pr false (.anchorRead f) fun x =>
    if !descFree s x [f.tdesc] then s
    else
      match granAt x f.dst, values x [(32, f.row0)] with
      | some d, some [r] => pushJob s x true (.anchorRead { f with dst := d, row0 := r }) 0
      | _, _ => seqFault s x 0x0333 []

/-- QUANT_CODES (R167). -/
def execQuantCodes (a : At) (pr : Pred) (f : QuantF) (s : State) : Res :=
  withCtx s a pr false fun x =>
    if !descFree s x [f.src, f.dst] then s
    else
      match values x [(32, f.kb0)] with
      | some [kb] => pushJob s x false (.quantCodes { f with kb0 := kb }) (f.dst + 1)
      | _ => seqFault s x 0x0333 []

/-- Core c goes on with the next of the participants it hosts that has not reached the CARAVAN (R195). -/
def nextParticipant (s : State) (p c d : Nat) : State :=
  match (hostedOn s p c).find? fun v => (participants (runProg s p) d).contains v && !(s.vc p v).done && (s.vc p v).hold == .free with
  | some v => s.put (Reg.SEQ_STATUS_VCORE c) v
  | none => s

/-- CARAVAN (R194): the virtual core holds at the rendezvous; the lead's TILES and PARAM wait with it. -/
def execCaravan (a : At) (pr : Pred) (f : CaravanF) (s : State) : Res :=
  withCtx s a pr false fun x =>
    let c := x.raw s
    if !c.quiet || x.car.isSome then s
    else
      match values x [(32, f.param)] with
      | some [param] =>
        let s := (s.setVc x.p x.v { c with hold := .caravan f.cdef }).put (Reg.CAR_STATUS_RENDEZVOUS x.c) 1
        let s := nextParticipant s x.p x.c f.cdef
        if (participants x.g f.cdef).head? == some x.v then
          s.setCar x.p f.cdef (some ⟨((s.launch x.p).map (·.handle)).getD 0, f.tiles, param, []⟩)
        else s
      | _ => seqFault s x 0x0333 []

/-- CAR_STATUS and CAR_STAGEs of core c as an instance starts (R198). -/
def openStages (s : State) (i : CarInst) (c : Nat) : State :=
  let s := (s.put (Reg.CAR_STATUS_ACTIVE c) 1).put (Reg.CAR_STATUS_RENDEZVOUS c) 0
  (List.range 8).foldl (fun (s : State) k =>
    (((s.put (Reg.CAR_STAGE_DONE c k) 0).put (Reg.CAR_STAGE_PARTIAL c k) 0).put (Reg.CAR_STAGE_AHEAD c k) 0).put
      (Reg.CAR_STAGE_HOSTED c k) ((i.stage k).core == c && k < i.stages.length).toNat) s

/-- CARAVAN_INSTANCE_START (R198): every participant holds at its CARAVAN with nothing under way. The lead's hold was
recorded with PARAM and TILES by its CARAVAN instruction, as an instance with no stages. No other instance runs on its cores
(R202), and these change to the slowest step requested among them (R24). A participant's loop nest waits for the instance's
end (R188). -/
def execCaravanInstanceStart (p : Part) (d : Nat) (s : State) : Res :=
  match s.car p d, s.launch p with
  | some i, some l =>
    let g := s.prog p l.handle
    let st := freshStages s p g i d
    let cores := (st.map (·.core)).dedup
    if i.stages.isEmpty && ((participants g d).all fun v => (s.vc p v).hold == .caravan d && (s.vc p v).quiet)
        && cores.all (fun c => s.get (Reg.CAR_STATUS_ACTIVE c) == 0) then
      match cores.find? fun c => !s.isWritten (Reg.ENG_ISSUE_TIMEOUT_LIMIT c) with
      | some c =>
        .next (stopCar s [Reg.CAR_STATUS_LAST_CODE c] p { code := 0x0401, core := c, vcore := 0xFF } (some d))
      | none =>
        let i : CarInst := ⟨l.handle, i.tiles, i.param, st⟩
        let s := (participants g d).foldl (fun (s : State) v =>
          let c := s.vc p v
          s.setVc p v { c with outer := c.loopc, loopc := none, fetchLoop := none }) s
        let s := carPublish ((cores.foldl (fun s c => openStages s i c) s).setCar p d (some i)) i
        .next (takeStep s (stepGroup s (cores.headD 0)))
    else .next s
  | _, _ => .next s

end Sys2Proof.Machine
end

