-- ==== Sys2Proof/Machine/Training.lean ====
section
/-!
DEFINITION. Training steps (R225 to R247): micro-batches, the step boundary and its window, scale-record updates, the
registers of synchronization and versions, the Ripple record and replay.
-/

namespace Sys2Proof.Machine

/-! ### Micro-batches (R225 to R229) -/

/-- OPEN_MB as it stands. -/
def mbCount (s : State) (p : Nat) : State := s.put (Reg.SYN_STATUS_OPEN_MB p) (openMbs s p).length

/-- HOLDING as it stands: a ready boundary waits (R246). -/
def holdingFlag (s : State) (p : Nat) : State :=
  s.put (Reg.SYN_STATUS_HOLDING p) ((s.tr p).pending.any fun b => b.ready).toNat

/-- MB_BEGIN (R229): the micro-batch is open, or the instruction waits for one of 64 entries. -/
def execMbBegin (a : At) (pr : Pred) (mb step : Nat) (s : State) : Res :=
  withCtx s a pr false fun x =>
    match values x [(32, mb), (32, step)] with
    | some [m, t] =>
      let b := s.mb x.p m
      if 2 ^ 31 ≤ m || s.get (Reg.SYN_STEP_STEP x.p) < t || (b.isOpen && b.step != t) then
        seqFault s x 0x0512 [m, t, s.get (Reg.SYN_STEP_STEP x.p)]
      else if !b.isOpen && 64 ≤ (openMbs s x.p).length then
        s.setVc x.p x.v { x.raw s with hold := .microBatch m t }
      else
        let s := s.setMb x.p m { b with isOpen := true, step := t, inside := b.inside ++ [x.v] }
        let s := issued s x
        doneNow (mbCount (s.setVc x.p x.v { x.raw s with span := some (m, t) }) x.p) x
    | _ => seqFault s x 0x0333 []

/-- A micro-batch closes by its last MB_END (R227); with MB_SYNC = 1 its virtual cores hold for the boundary (R237). -/
def mbEnded (s : State) (p m : Nat) : State :=
  let b := s.mb p m
  if b.closing && b.inside.isEmpty then closeMb s p m b.enders else s

/-- MB_END (R225, R229): once every instruction of the span has completed (DEDUCED, log entry 11: the bindings protect what
those read). -/
def execMbEnd (a : At) (pr : Pred) (mb step : Nat) (s : State) : Res :=
  withCtx s a pr false fun x =>
    match values x [(32, mb), (32, step)] with
    | some [m, t] =>
      let n := m % 2 ^ 31
      if (x.raw s).span != some (n, t) then seqFault s x 0x0512 [m, t]
      else if !(x.raw s).quiet then s
      else
        let b := s.mb x.p n
        let s := s.setMb x.p n { b with inside := b.inside.erase x.v, closing := b.closing || m < 2 ^ 31,
                                        enders := if b.enders.contains x.v then b.enders else b.enders ++ [x.v] }
        let s := s.setVc x.p x.v { x.raw s with span := none }
        mbEnded (doneNow s x) x.p n
    | _ => seqFault s x 0x0333 []

/-- MICRO_BATCH_TABLE_WAIT_TIMEOUT (R227). -/
def execMicroBatchTableWaitTimeout (a : At) (s : State) : Res :=
  match partOfCore s a.core with
  | none => .next s
  | some p =>
    let c := s.vc p a.vcore
    match c.hold with
    | .microBatch m t =>
      if c.core != a.core.val || s.get (Reg.SYN_VERSION_CTRL_TIMEOUT p) = 0 || (openMbs s p).length < 64 then .next s
      else .next (stopLaunch s [Reg.SEQ_STATUS_LAST_CODE a.core] p
        { code := 0x0514, core := a.core.val, vcore := a.vcore.val, detail := [m, t] })
    | _ => .next s

/-! ### Steps (R236 to R239) -/

/-- STEP_END (R236): it counts as a BARRIER, and holds until the boundary is taken. A halted member's stops (R370). -/
def execStepEnd (a : At) (pr : Pred) (step : Nat) (s : State) : Res :=
  withCtx s a pr false fun x =>
    match values x [(32, step)] with
    | some [t] =>
      let c := x.raw s
      let now := s.get (Reg.SYN_STEP_STEP x.p)
      if !s.on (Reg.SYN_CTRL_ENABLE x.p) || !c.quiet then s
      else if s.on (Reg.HLT_MIRAGE_STATUS_HALTED x.p) then seqFault s x 0x0A31 []
      else if t != now || now = 0xFFFFFFFF then seqFault s x 0x0510 [t, now]
      else
        let s := s.setVc x.p x.v { c with hold := .stepEnd }
        tryPhase (turnCore (reachBarrier s x.p x.v) x.p x.c x.v) x.p
    | _ => seqFault s x 0x0333 []

/-- Bytes written at ring offset o of the record area, wrapping at its end. -/
def ringWrite (s : State) (p o : Nat) (bs : List Byte) : State :=
  let base := s.get (Reg.SYN_RIPPLE_BASE_BASE p) * frameBytes
  let size := s.get (Reg.SYN_RIPPLE_CTRL_SIZE p) * frameBytes
  let n := min bs.length (size - o)
  let s := (pWrite s p (base + o) (bs.take n)).getD s
  (pWrite s p base (bs.drop n)).getD s

/-- Two stretches of a ring of `size` bytes overlap. -/
def ringMeets (size a n b m : Nat) : Bool := (b + size - a) % size < n || (a + size - b) % size < m

/-- VEC_STATUS.RECORD_GUARD of the partition's cores: 1 while its Ripple record is in effect (R119, R130). -/
def recordGuard (s : State) (p : Nat) : State :=
  ((List.range 128).filter (inPart s p)).foldl (fun s c => s.put (Reg.VEC_STATUS_RECORD_GUARD c) (recording s p).toNat) s

/-- The open step record is closed and written into the ring (R239, R240), or stopped where the ring has no room (R243). -/
def closeRecord (s : State) (p : Nat) : State :=
  let t := s.tr p
  match t.ripple with
  | none => s
  | some r =>
    let size := s.get (Reg.SYN_RIPPLE_CTRL_SIZE p) * frameBytes
    let r := { r with complete := true }
    let fits := decide (r.bytes.length ≤ size)
    let r := if fits then r else { r with complete := false, overflow := true }
    let bs := r.bytes
    let r := { r with place := t.ringAt, length := bs.length }
    let kept := t.closed.filter fun y => !ringMeets size r.place r.length y.place y.length
    let s := s.setTr p { t with ripple := none, closed := kept ++ [r], ringAt := (t.ringAt + bs.length) % max 1 size }
    let s := ringWrite s p r.place bs
    if fits then s
    else logRec (s.put (Reg.SYN_RIPPLE_CTRL_OVERFLOWED p) 1) { code := 0x0530, cls := 0, part := p, detail := [r.step] }

/-- A step record is opened where the Ripple record is enabled (R239 to R242). -/
def openRecord (s : State) (p : Nat) : State :=
  if s.on (Reg.SYN_RIPPLE_CTRL_ENABLE p) then
    let ctr := (s.tr p).counter
    let (key, s) := drawKey s p
    let r : StepRec :=
      { step := s.get (Reg.SYN_STEP_STEP p), key := s.get (Reg.SYN_SEED_KEY_KEY p), counter := ctr,
        scales := (pRead s p (scaleAddr s p 0) (256 * s.get (Reg.ENG_SCALE_CTRL_RECORDS p))).getD [], versions := [],
        order := [], fabric := [], digests := [], digestKey := key, complete := false, overflow := false, place := 0,
        length := 0 }
    s.setTr p { s.tr p with ripple := some r }
  else s

/-- A step boundary counts towards the periodic Sirocco run (R357). -/
def siroccoPeriod (s : State) (p : Nat) : State :=
  let n := SMap.get 0 s.sirSteps p + 1
  let period := s.get (Reg.HLT_SIROCCO_PERIOD p)
  if period != 0 && period ≤ n then requestSirocco { s with sirSteps := SMap.set 0 s.sirSteps p 0 } p
  else { s with sirSteps := SMap.set 0 s.sirSteps p n }

/-- What a step boundary does in its a-cycle (R239). -/
def stepTaken (s : State) (p : Nat) : State :=
  let s := s.bumpWrap (Reg.SYN_STEP_STEP p) 1
  let s := newPhase s p fun v => (s.vc p v).hold == .stepEnd || barrierOver s p v
  let s := if s.on Reg.SYN_OUT_SEL_ENABLE && s.get Reg.SYN_OUT_SEL_OWNER = p then s.emit .syncPulse else s
  let s := siroccoPeriod (recordGuard (openRecord (closeRecord s p) p) p) p
  if s.get (Reg.HLT_SIROCCO_STATE p) = 1 then siroccoBegin s p else s

/-- The oldest boundary is taken (R239); it stays where a write of its step record stalls (R282). -/
def takeBoundary (s₀ : State) (p : Nat) : State :=
  let t := s₀.tr p
  match t.pending with
  | [] => s₀
  | b :: rest =>
    let s := s₀.setTr p { t with pending := rest }
    unlessStalled s₀ (holdingFlag (if b.isStep then stepTaken s p else s) p)

/-- Every non-idle virtual core has reached STEP_END, with nothing under way (R237). -/
def stepReached (s : State) (p : Nat) : Bool :=
  match s.launch p with
  | some l => !l.active.isEmpty && l.active.all (fun v => (s.vc p v).hold == .stepEnd && (s.vc p v).quiet)
      && !((s.tr p).pending.any fun b => b.isStep)
  | none => false

/-- The oldest boundary that is not ready becomes ready. -/
def readyFirst : List Pending → List Pending
  | [] => []
  | b :: r => if b.ready then b :: readyFirst r else { b with ready := true } :: r

/-- BOUNDARY_READY (R237): taken at once where USE_SYNC = 0 (R238). -/
def execBoundaryReady (p : Part) (s : State) : Res :=
  let t := s.tr p
  let s := if t.pending.any fun b => !b.ready then s.setTr p { t with pending := readyFirst t.pending }
    else if stepReached s p then s.setTr p { t with pending := t.pending ++ [⟨true, [], true, false⟩] }
    else s
  if (s.tr p).pending.isEmpty then .next s
  else .next (if s.on (Reg.SYN_CTRL_USE_SYNC p) then holdingFlag s p else takeBoundary s p)

/-- A rising edge as one partition takes it (R238). -/
def syncEdge (s : State) (p : Nat) : State :=
  let t := s.tr p
  if !s.on (Reg.SYN_CTRL_USE_SYNC p) then s
  else if t.lateDrop || s.on (Reg.SYN_STATUS_LATCHED p) then s.bump (Reg.SYN_STATUS_EXTRA_SYNC p) 1
  else
    match t.pending with
    | b :: _ => if b.ready && b.early then takeBoundary s p else s.put (Reg.SYN_STATUS_LATCHED p) 1
    | [] => s.put (Reg.SYN_STATUS_LATCHED p) 1

/-- STEP_SYNC_IN_EDGE (R238): the edge reaches every partition whose USE_SYNC is 1. -/
def execStepSyncInEdge (s : State) : Res :=
  .next ((List.range 16).foldl syncEdge (s.put Reg.SYN_OUT_SEL_IN_LEVEL 1))

/-- BOUNDARY_EARLIEST_REACHED (R238): Y + EARLIEST of the oldest boundary; a latched edge takes it. -/
def execBoundaryEarliestReached (p : Part) (s : State) : Res :=
  let t := s.tr p
  match t.pending with
  | [] => .next s
  | b :: rest =>
    if !b.ready then .next s
    else
      let s := s.setTr p { t with pending := { b with early := true } :: rest }
      if s.on (Reg.SYN_STATUS_LATCHED p) then .next (takeBoundary (s.put (Reg.SYN_STATUS_LATCHED p) 0) p) else .next s

/-- BOUNDARY_LATEST_REACHED (R238). -/
def execBoundaryLatestReached (p : Part) (s : State) : Res :=
  let t := s.tr p
  match t.pending with
  | [] => .next s
  | b :: _ =>
    if !b.ready || s.on (Reg.SYN_STATUS_LATCHED p) then .next s
    else
      let s := takeBoundary (s.bump (Reg.SYN_STATUS_LATE_SYNC p) 1) p
      .next (s.setTr p { s.tr p with lateDrop := true })

/-- LATE_DROP_EXPIRY (R238). -/
def execLateDropExpiry (p : Part) (s : State) : Res := .next (s.setTr p { s.tr p with lateDrop := false })

/-! ### Scale records (R55) -/

/-- A pass, a drain or a vector instruction that uses scale record i and whose step has the parity of t is in progress (R52). -/
def scaleUser (s : State) (p i t : Nat) : Bool :=
  s.engs.any (fun e => match e.2.filling with
    | some x => x.part == p && (x.aScale == some i || x.wScale == some i) && e.2.fillPar == t % 2
    | none => false) ||
  s.engs.any (fun e => match e.2.draining with
    | some x => x.part == p && x.format == 0 && x.outScale == some i && e.2.par == t % 2
    | none => false) ||
  s.vec.any fun e => match e.2.run with
    | some j => j.part == p && e.2.latch.2.2.2 == t % 2 && (match j.inst with
      | .vop f => vopScale s p f == some i
      | _ => false)
    | none => false

/-- What the fast tier finds in scale record i: the state, the code, and the device address at which it is found. -/
def recordFinds (s : State) (p i : Nat) (ev : MemEvent) : State × Nat × Nat :=
  let at_ := fun (k : Nat) => (span (scaleAddr s p i) 256 k).bind (xlate s p)
  let (t, code, k) := memFinds s at_ ev
  (if code = 0 then pTouch t p (scaleAddr s p i) 256 else t, code, (at_ k).getD 0)

/-- A record updated after the boundary into step `step` + 1 enters the scale table of that step's record (R240). -/
def rippleScale (s : State) (p i step : Nat) : State :=
  match (s.tr p).ripple with
  | some r =>
    if r.step = step + 1 then
      let now := (pRead s p (scaleAddr s p i) 256).getD []
      s.setTr p { s.tr p with ripple := some { r with
        scales := r.scales.take (256 * i) ++ now ++ r.scales.drop (256 * i + 256) } }
    else s
  | none => s

/-- SCALE_RECORD_UPDATE (R55): after the boundary that ends the step, and after its last user. `ev` is what the fast tier
found at the record. -/
def execScaleRecordUpdate (p : Part) (record step : Nat) (ev : MemEvent) (s : State) : Res :=
  if !s.on (Reg.ENG_SCALE_CTRL_ENABLE p) || s.get (Reg.ENG_SCALE_CTRL_RECORDS p) ≤ record
      || s.get (Reg.SYN_STEP_STEP p) ≤ step || step < scaleField s p record 24 4 || scaleUser s p record step then .next s
  else
    let e := recordFinds s p record ev
    if e.2.1 != 0 then .next (afterLoss (scaleFault e.1 p record step e.2.1) e.2.2 e.2.1)
    else .next (unlessStalled s (rippleScale (scaleUpdate e.1 p record step) p record step))

/-! ### Versions (R232, R233) -/

/-- The version of descriptor d that virtual core v waits to bind is still not there (R232). -/
def bindMissing (s : State) (p v d : Nat) : Bool :=
  match (runProg s p).desc d with
  | some t => match bindTensor s p v t with
    | .slot _ _ => false
    | .waits => true
    | .stale => false
  | none => false

/-- REFS of the slot that the working copy in hand waits for (R233). -/
def targetRefs (s : State) (x : OasAct) : Nat :=
  match versionOf s x.req.part x.req.wt.base with
  | some i => versionField s x.req.part i (16 + 2 * (x.slot % 2)) 2
  | none => 0

/-- VERSION_WAIT_TIMEOUT (R232, R233): of a binding that a virtual core waits for, or with no core, of the working-copy
write that the oasis die waits to begin. -/
def execVersionWaitTimeout (a : Option At) (s : State) : Res :=
  match a with
  | some a =>
    match partOfCore s a.core with
    | none => .next s
    | some p =>
      let c := s.vc p a.vcore
      match c.bindWait with
      | some (d, t) =>
        if c.core != a.core.val || s.get (Reg.SYN_VERSION_CTRL_TIMEOUT p) = 0 || !bindMissing s p a.vcore d then .next s
        else .next (stopLaunch s [Reg.SEQ_STATUS_LAST_CODE a.core] p
          { code := 0x0521, core := a.core.val, vcore := a.vcore.val, detail := [d, t] })
      | none => .next s
  | none =>
    match s.oasActive with
    | some x =>
      if x.phase = 1 && s.get (Reg.SYN_VERSION_CTRL_TIMEOUT x.req.part) != 0 && targetRefs s x != 0 then
        .next (endRequest (oasIdle (giveBack s x)) x.req 0x0521 x.record)
      else .next s
    | none => .next s

/-! ### Registers (R228, R241, R244, R246, R247) -/

/-- The window that SYN_CTRL.ENABLE needs. -/
def windowOk (s : State) (p : Nat) : Bool :=
  allWritten s [Reg.SYN_WINDOW_EARLIEST p, Reg.SYN_WINDOW_LATEST p, Reg.SYN_CTRL_LATE_DROP p]
    && s.get (Reg.SYN_WINDOW_EARLIEST p) ≤ s.get (Reg.SYN_WINDOW_LATEST p) && s.get (Reg.SYN_WINDOW_LATEST p) ≤ 4194304

/-- An ENABLE bit written: 1 takes effect where `ok` holds, and otherwise leaves 0 with a record. -/
def enableBit (s : State) (last : List Fld) (x : Wr) (lo : Nat) (f : Fld) (ok : Bool) (code : Nat) (on : State → State) : State :=
  match x.val lo with
  | some 1 => if ok then on (s.put f 1) else wrRecord (s.put f 0) last code x []
  | some _ => s.put f 0
  | none => s

/-- A write of SYN_CTRL. -/
def synCtrl (s : State) (x : Wr) : State :=
  let s := storeBut s x [0]
  enableBit s [] x 0 (Reg.SYN_CTRL_ENABLE x.part) (windowOk s x.part) 0x0502 id

/-- SYN_CTRL_WRITE (R246). -/
def execSynCtrlWrite (p : Part) (w : HostWr) (s : State) : Res := .next (hostWrite s (0x80300 + 0x8000 * p.val) w synCtrl)

/-- A launch of partition p runs or waits. -/
def launchBusy (s : State) (p : Nat) : Bool := (s.launch p).isSome || !(waitingLaunches s p).isEmpty

/-- A write of SYN_STEP. -/
def synStep (s : State) (x : Wr) : State :=
  if (s.launch x.part).isSome || (s.tr x.part).replay.isSome then wrRecord s [] 0x0513 x [] else storeAll s x

/-- SYN_STEP_WRITE (R246). -/
def execSynStepWrite (p : Part) (w : HostWr) (s : State) : Res := .next (hostWrite s (0x80310 + 0x8000 * p.val) w synStep)

/-- Every open micro-batch of partition p closes (R228). -/
def closeAll (s : State) (p : Nat) : State := (openMbs s p).foldl (fun s m => closeMb s p m []) s

/-- The bindings of every open micro-batch are cleared (R246 ENABLE). -/
def clearBindings (s : State) (p : Nat) : State :=
  (openMbs s p).foldl (fun s m =>
    let b := s.mb p m
    let s := b.bound.foldl (fun s x => setRefs s p x.1 x.2 (· - 1)) s
    s.setMb p m { b with bound := [] }) s

/-- A write of SYN_VERSION_CTRL. -/
def synVersionCtrl (s : State) (x : Wr) : State :=
  let p := x.part
  let s := storeBut s x [16, 17]
  let s := match x.val 16 with
    | some 1 => clearBindings (s.put (Reg.SYN_VERSION_CTRL_ENABLE p) 1) p
    | some _ => s.put (Reg.SYN_VERSION_CTRL_ENABLE p) 0
    | none => s
  if x.one 17 then (if launchBusy s p then wrRecord s [] 0x0515 x [] else closeAll s p) else s

/-- CLOSE_ALL (R228). -/
def execCloseAll (p : Part) (w : HostWr) (s : State) : Res := .next (hostWrite s (0x80328 + 0x8000 * p.val) w synVersionCtrl)

/-- SYN_VERSION_ENABLE (R246). -/
def execSynVersionEnable (p : Part) (w : HostWr) (s : State) : Res :=
  .next (hostWrite s (0x80328 + 0x8000 * p.val) w synVersionCtrl)

/-- A write of SYN_SEED_KEY: the key is set and the counter returns to 0 (R241). -/
def synSeedKey (s : State) (x : Wr) : State :=
  let s := storeAll s x
  if (x.val 0).isSome then s.setTr x.part { s.tr x.part with counter := 0 } else s

/-- SYN_SEED_KEY_WRITE (R241). -/
def execSynSeedKeyWrite (p : Part) (w : HostWr) (s : State) : Res := .next (hostWrite s (0x80330 + 0x8000 * p.val) w synSeedKey)

/-- A write of SYN_RIPPLE_CTRL (R246, R247). -/
def synRippleCtrl (s : State) (x : Wr) : State :=
  let p := x.part
  let s := storeBut s x [0]
  enableBit s [] x 0 (Reg.SYN_RIPPLE_CTRL_ENABLE p)
    (allWritten s [Reg.SYN_RIPPLE_BASE_BASE p, Reg.SYN_RIPPLE_CTRL_SIZE p, Reg.SYN_SEED_KEY_KEY p]) 0x0501 id

/-- SYN_RIPPLE_ENABLE (R247). -/
def execSynRippleEnable (p : Part) (w : HostWr) (s : State) : Res :=
  .next (hostWrite s (0x80340 + 0x8000 * p.val) w synRippleCtrl)

/-- A replay starts (R244), or is refused with its code. -/
def replayStart (s : State) (p : Nat) (x : Wr) : State :=
  let t := s.get (Reg.SYN_REPLAY_CTRL_STEP p)
  let refuse := fun (s : State) (code : Nat) => wrRecord (s.put (Reg.SYN_REPLAY_RESULT_STATE p) 4) [] code x []
  if (s.tr p).replay.isSome then wrRecord s [] 0x0533 x []
  else
    let s := (s.put (Reg.SYN_REPLAY_RESULT_SEQ p) 0).put (Reg.SYN_REPLAY_RESULT_VCORE p) 0xFF
    let s := (s.put (Reg.SYN_REPLAY_CORES_TILE p) 0).put (Reg.SYN_REPLAY_CORES_REC_CORE p) 0xFF
    let s := s.put (Reg.SYN_REPLAY_CORES_NOW_CORE p) 0xFF
    if !s.isWritten (Reg.SYN_REPLAY_CTRL_STEP p) then refuse s 0x0501
    else if launchBusy s p || !(openMbs s p).isEmpty then refuse s 0x0533
    else
      match (s.tr p).closed.find? fun r => r.step == t && r.complete with
      | none => refuse s 0x0531
      | some r =>
        if r.versions.any fun (_, _, i, _, tag) => !([0, 1].any fun k => slotState s p i k != 0 && slotTag s p i k == tag)
        then refuse s 0x0532
        else
          let before := s.get (Reg.SYN_STEP_STEP p)
          let s := (pWrite s p (scaleAddr s p 0) r.scales).getD s
          let s := s.setTr p { s.tr p with counter := (r.counter + 1) % 2 ^ 128 }
          let s := (s.put (Reg.SYN_SEED_KEY_KEY p) r.key).put (Reg.SYN_STEP_STEP p) t
          startReplayed (s.put (Reg.SYN_REPLAY_RESULT_STATE p) 1) p ⟨r, before, 0, [], false⟩

/-- A write of SYN_REPLAY_CTRL. -/
def synReplayCtrl (s : State) (x : Wr) : State :=
  let p := x.part
  let s := storeAll s x
  let s := if x.one 1 then
      match (s.tr p).replay with
      | some r => s.setTr p { s.tr p with replay := some { r with abort := true } }
      | none => s
    else s
  if x.one 0 then replayStart s p x else s

/-- REPLAY_START (R244). -/
def execReplayStart (p : Part) (w : HostWr) (s : State) : Res := .next (hostWrite s (0x80348 + 0x8000 * p.val) w synReplayCtrl)

/-- REPLAY_ABORT (R244). -/
def execReplayAbort (p : Part) (w : HostWr) (s : State) : Res := .next (hostWrite s (0x80348 + 0x8000 * p.val) w synReplayCtrl)

end Sys2Proof.Machine
end

