-- ==== Sys2Proof/Machine/Oasis.lean ====
section
/-!
DEFINITION. The oasis die (R249 to R271): update requests and their checks, the sign rule, the working copy, the commit and
the refit, master transfers, and the oasis link.
-/

namespace Sys2Proof.Machine

/-! ### Masters (R250 to R252) -/

/-- The slow-tier device address of partition p's region, and of a master buffer of record i. -/
def regionBase (s : State) (p : Nat) : Nat := slowBase + s.get (Reg.OAS_SLOW_REGION_BASE p) * 2 ^ 30
def mbufAddr (s : State) (p i k : Nat) : Nat := regionBase s p + masterFld s p i (20 + 5 * (k % 2)) 5

/-- Columns, block rows and buffer size of record i. -/
def masterN (s : State) (p i : Nat) : Nat := masterFld s p i 12 4
def masterKB (s : State) (p i : Nat) : Nat := masterFld s p i 16 4
def masterBytes (s : State) (p i : Nat) : Nat := 128 * masterKB s p i * masterN s p i

/-- The masters of a stretch of n words of the slow tier. -/
def masterWords (s : State) (a n : Nat) : List Nat := (List.range n).map fun k => leNat (rdDev s (a + 4 * k) 4)

/-- NEXT_CB of record i. -/
def nextCb (s : State) (p i : Nat) : List Byte := (pRead s p (masterAddr s p i + 64) 32).getD []

/-- Record i is VALID and lies below RECORDS. -/
def masterValid (s : State) (p i : Nat) : Bool :=
  i < s.get (Reg.OAS_CTRL_RECORDS p) && rangeOk s p (masterAddr s p i) 128 && masterFld s p i 5 1 % 2 == 1

/-- The key of OAS_DIGEST_KEY0 and KEY1 (R266). -/
def digestKey (s : State) (p : Nat) : Nat := s.get (Reg.OAS_DIGEST_KEY_KEY p 0) + 2 ^ 64 * s.get (Reg.OAS_DIGEST_KEY_KEY p 1)

/-! ### UPDATE (R256) -/

/-- The bytes of an update request that its digest tile covers (R242; their order is a DESIGN CHOICE, log entry 10). -/
def requestBytes (r : OasReq) : List Byte :=
  leBytes 4 r.record ++ leBytes 4 r.step ++ leBytes 4 r.eta ++ leBytes 4 r.lambda ++ leBytes 8 r.vt.base ++ leBytes 8 r.wt.base
    ++ leBytes 8 r.wt.auxBase ++ leBytes 8 r.delta ++ List.replicate 16 0

/-- What an expelled or halted member's request ends with (R370); 0 where it may be taken. -/
def memberCode (s : State) (p : Nat) : Nat :=
  if s.on (Reg.HLT_MIRAGE_STATUS_EXPELLED p) then 0x0A32 else if s.on (Reg.HLT_MIRAGE_STATUS_HALTED p) then 0x0A31 else 0

/-- UPDATE (R256): the request enters the oasis queue, or waits for room. In a paired launch its bytes are compared first
(R364). -/
def execUpdate (a : At) (pr : Pred) (f : UpdateF) (s : State) : Res :=
  withCtx s a pr false fun x =>
    if !descFree s x [f.vdesc, f.wdesc] then s
    else
      match values x [(32, f.step)], boundDesc s x.p x.v f.vdesc, x.g.desc f.wdesc with
      | some [t], some vt, some wt =>
        let step0 := x.g.constAt f.sched 4
        let j := t - step0
        if t < step0 || x.g.constAt (f.sched + 4) 4 ≤ j then seqFault s x 0x0331 [t, step0]
        else if memberCode s x.p != 0 then seqFault s x (memberCode s x.p) []
        else if !s.on (Reg.OAS_CTRL_ENABLE x.p) then seqFault s x 0x0601 []
        else if faultedCode s x.p != 0 then seqFault s x (faultedCode s x.p) []
        else if 64 ≤ oasDepth s x.p && (s.tr x.p).replay.isNone then s.setVc x.p x.v { x.raw s with hold := .oasisQueue }
        else
          let i := (masterOf s x.p wt.base).getD 0xFFFFFFFF
          let delta := ((versionOf s x.p wt.base).map (versionDelta s x.p)).getD 0
          let r : OasReq :=
            { part := x.p, vcore := x.v, core := x.c, seq := launchSeq s x.p, record := i, step := t,
              eta := x.g.constAt (f.sched + 16 + 8 * j) 4, lambda := x.g.constAt (f.sched + 20 + 8 * j) 4, delta := delta,
              vt := vt, wt := wt }
          match pairTile (issued s x) x.p x.v x.c (requestBytes r) with
          | (s, false) => s
          | (s, true) =>
            let s := launchTile s x.p x.v x.c (x.raw s).nextId 0 (requestBytes r)
            let s := s.setVc x.p x.v { x.raw s with nextId := (x.raw s).nextId + 1 }
            doneNow (if (s.tr x.p).replay.isSome then s else setOasQueue s x.p (oasQueue s x.p ++ [r])) x
      | _, _, _ => seqFault s x 0x0333 []

/-- OASIS_QUEUE_FULL (R256). -/
def execOasisQueueFull (a : At) (s : State) : Res :=
  match partOfCore s a.core with
  | none => .next s
  | some p =>
    let c := s.vc p a.vcore
    if c.hold != .oasisQueue || c.core != a.core.val || s.get (Reg.ENG_ISSUE_TIMEOUT_LIMIT a.core) = 0
        || oasDepth s p < 64 then .next s
    else .next (stopLaunch s [Reg.SEQ_STATUS_LAST_CODE a.core, Reg.OAS_STATUS_LAST_CODE] p
      { code := 0x0618, core := a.core.val, vcore := a.vcore.val })

/-! ### Requests (R257, R233) -/

/-- The partition served next: in ascending order from the one just served, with a queued request and no Mirage check
running (R257, R366). -/
def oasNext (s : State) : Option Nat :=
  ((List.range 16).map fun k => (s.oasTurn + 1 + k) % 16).find? fun p =>
    !(oasQueue s p).isEmpty && !s.on (Reg.HLT_MIRAGE_STATUS_RUNNING p)

/-- The target slot of R233 steps 1 and 2: none where the write is refused. -/
def targetSlot (s : State) (p i t : Nat) : Option Nat :=
  let st := slotState s p i
  if [0, 1].any fun k => st k ≥ 2 || (st k == 1 && t < slotTag s p i k) then none
  else match [0, 1].find? fun k => st k == 0 with
    | some k => some (k + 2)
    | none => some (if slotTag s p i 1 < slotTag s p i 0 then 1 else 0)

/-- The oasis die takes request r of partition p in hand (R257, R233 step 3): its target slot k of version entry i waits. -/
def takeRequest (s : State) (p : Nat) (r : OasReq) (i k : Nat) : State :=
  let s := setSlotState s p i (k % 2) 2
  let key := if s.on (Reg.OAS_DIGEST_CTRL_INLINE p) && s.on (Reg.OAS_DIGEST_CTRL_KEY_VALID p)
    then some (digestKey s p) else none
  let x : OasAct := { req := r, record := r.record, slot := k, phase := 1, e := 0, amax := 0, clip := 0,
                      nextCb := [], unused := 0, key := key, digest := none }
  let s := { s with oasActive := some x }
  let s := s.put (Reg.OAS_QUEUE_DEPTH p) (oasDepth s p)
  (s.put Reg.OAS_STATUS_BUSY 1).put Reg.OAS_STATUS_ACTIVE_P p

/-- The oasis die reads record i, and the version entries up to the one that it looks for, through their slices (R284). -/
def readRecords (s : State) (p i b : Nat) : State :=
  let s := pTouch s p (masterAddr s p i) 128
  let n := match versionOf s p b with
    | some v => v + 1
    | none => s.get (Reg.SYN_VERSION_CTRL_ENTRIES p)
  (List.range n).foldl (fun s v => pTouch s p (versionAddr s p v) 32) s

/-- UPDATE_REQUEST_START (R257): the next request is taken and checked in order. A request that was queued before its member was
expelled or halted stops like one that comes then, so that MSTEP stays (R370). R257 gives no code where the working copy has no
VALID version entry: it ends with 0x0522 then (DESIGN CHOICE, log entry 61). -/
def execUpdateRequestStart (s : State) : Res :=
  match s.oasActive, oasNext s with
  | none, some p =>
    match oasQueue s p with
    | [] => .next s
    | r :: rest =>
      if !s.on Reg.OAS_STATUS_READY || masterFld s p r.record 6 1 = 1 then .next s
      else
        let s := readRecords (setOasQueue { s with oasTurn := p } p rest) p r.record r.wt.base
        let bad := fun (code : Nat) => Host.Outcome.next (endRequest s r code r.record)
        if memberCode s p != 0 then bad (memberCode s p)
        else if !masterValid s p r.record || (codebookOf (nextCb s p r.record)).isNone then bad 0x0610
        else if masterFld s p r.record 6 1 = 2 then bad 0x0617
        else if r.step != masterFld s p r.record 8 4 then bad 0x0611
        else
          match versionOf s p r.wt.base with
          | none => bad 0x0522
          | some i =>
            match targetSlot s p i r.step with
            | none => bad 0x0523
            | some k => .next (takeRequest s p r i k)
  | _, _ => .next s

/-- A pass that ends without commit (R262): the target is EMPTY, the record takes a status, the request its code, with what
the code's rule adds to its record. -/
def failPass (s : State) (x : OasAct) (code status : Nat) (more : List Nat := []) (hw : Bool := false) : State :=
  let p := x.req.part
  let s := match versionOf s p x.req.wt.base with
    | some i => setSlotState s p i (x.slot % 2) 0
    | none => s
  endRequest (oasIdle (setMaster s p x.record 6 1 status)) x.req code x.record more hw

/-- The sign rule (R259) on one master: w, its vote, η and λ. With η = 0, and at a tied vote with λ = 0, w stays bit for bit
(R260); at a tied vote there is no sign step. -/
def signRule (w : Nat) (v : Int) (eta lambda : Nat) : Nat :=
  if f32abs eta = 0 || (v = 0 && f32abs lambda = 0) then w
  else
    let w := f32sub w (f32mul (f32mul eta lambda) w)
    if 0 < v then f32sub w eta else if v < 0 then f32sub w (f32neg eta) else w

/-- The votes of block (kb, n), by partition offset. -/
def voteOffs (r : OasReq) (kb n : Nat) : List Nat := (List.range 32).map fun j => r.vt.addr n (32 * kb + j) 0

/-- The new masters of every block in ascending order (R261 step 3). -/
def newMasters (s : State) (x : OasAct) : List (List Nat) :=
  let r := x.req
  let n := masterN s r.part x.record
  let cur := masterFld s r.part x.record 7 1 % 2
  (List.range (masterKB s r.part x.record * n)).map fun b =>
    let old := masterWords s (mbufAddr s r.part x.record cur + 128 * b) 32
    let votes := (voteOffs r (b / n) (b % n)).map fun o => sext 16 (pNat s r.part o 2)
    (old.zip votes).map fun (w, v) => signRule w v r.eta r.lambda

/-- Blocks of masters quantized into a slot of a coded tensor (R38, R39, R261): the state, none where an address faults, and
the number of weights that took the outermost entry. -/
def writeCodes (s : State) (p : Nat) (t : TDesc) (n : Nat) (book : Codebook) (e : Int) (blocks : List (List Nat)) :
    Option State × Nat :=
  let floor := s.get (Reg.OAS_CTRL_MFLOOR p)
  blocks.zipIdx.foldl (fun (x : Option State × Nat) (ws, b) =>
    match x.1 with
    | none => x
    | some s =>
      let (codes, m, outer) := quantBlock book e floor ws
      ((pWrite s p (t.addr (b % n) (b / n) 0) (packCodes book.width codes)).bind fun s =>
        pWrite s p (t.mulAddr (b / n) (b % n) 0) (leBytes 2 m), x.2 + outer)) (some s, 0)

/-- A codebook record with another E (R261 step 6). -/
def cbWithE (cb : List Byte) (e : Int) : List Byte := cb.take 18 ++ leBytes 1 (ofInt 8 e) ++ cb.drop 19

/-- The largest magnitude of blocks. -/
def amaxOf (blocks : List (List Nat)) : Nat := (blocks.flatten.map f32abs).foldl f32max 0

/-- The codebook refit (R264): the new NEXT_CB and the UNUSED mask. -/
def refit (cb : List Byte) (book : Codebook) (e : Int) (floor t : Nat) (blocks : List (List Nat)) : List Byte × Nat :=
  let cells : List (Nat × Nat × Nat) := blocks.flatMap fun ws =>
    let (codes, m, _) := quantBlock book e floor ws
    (ws.zip codes).map fun (w, c) => (c, w, m)
  let entry := fun (c : Nat) =>
    let here := cells.filter fun x => x.1 == c
    let den : Nat := (here.map fun x => x.2.2 * x.2.2).foldl (· + ·) 0
    if den = 0 then (book.entries.getD c 0, true)
    else
      let xs := here.map fun x => enc32 (FV.mul ((dec32 x.2.1).scale (-e)) (FV.ofScaled ((x.2.2 : Nat) : Int) 0))
      let num := reproResult (reproOf (emaxOf xs) xs)
      (clampI (-128) 127 (rneInt (f32div num (i32 den))), false)
  let new := (List.range (2 ^ book.width)).map fun c => if c = 0 then (0, false) else entry c
  let unused := new.zipIdx.foldl (fun a (x, c) => if x.2 then a + 2 ^ c else a) 0
  let zero := (new.map (·.1)).all (· == 0)
  let ents := (List.range 16).flatMap fun c => leBytes 1 (ofInt 8 ((new.getD c (0, false)).1))
  let tail := cb.drop 18 |>.take 2
  let head := if zero then cb.take 18 else ents ++ (cb.drop 16).take 1 ++ leBytes 1 0
  (head ++ tail ++ leBytes 2 unused ++ (cb.drop 22).take 2 ++ leBytes 4 t ++ (cb.drop 28).take 4, unused)

/-- The target slot of a pass is being written with the step's tag, and the record is BUSY (R233, R261). -/
def beginPass (s : State) (x : OasAct) (i : Nat) : State :=
  let p := x.req.part
  let k := x.slot % 2
  let s := noteTags (pPut (setSlotState s p i k 3) p (versionAddr s p i + 8 + 4 * k) 4 (x.req.step + 1)) p
    (versionAddr s p i + 8 + 4 * k) 4
  let s := setMaster s p x.record 6 1 1
  { s with oasActive := some { x with phase := 2 } }

/-- The partition offsets of every vote of a pass. -/
def allVotes (s : State) (x : OasAct) : List Nat :=
  let n := masterN s x.req.part x.record
  (List.range (masterKB s x.req.part x.record * n)).flatMap fun b => voteOffs x.req (b / n) (b % n)

/-- Byte i of the votes that a pass reads, two bytes a vote. -/
def voteByte (votes : List Nat) (i : Nat) : Option Nat := votes[i / 2]?.map (· + i % 2)

/-- The partition offsets that a pass or an INIT_QUANT writes in the slot of a coded tensor. -/
def slotOffs (t : TDesc) (kb n : Nat) : List Nat :=
  (List.range (kb * n)).flatMap (fun b => [t.addr (b % n) (b / n) 0, t.mulAddr (b / n) (b % n) 0]) ++ [t.auxBase]

/-- The code and DETAIL of the first offset of a list that no access of partition p reaches (R275, R279). -/
def refusedAt (s : State) (p : Nat) (xs : List Nat) : Nat × List Nat := (partRefusal s p xs).getD (0x0710, [])

/-- The update pass (R261): new masters into the other buffer, their codes into the working copy, the refit, the digest.
CORRECTING shows a correction pass until the update ends. -/
def runPass (s : State) (x : OasAct) : State :=
  let r := x.req
  let p := r.part
  let n := masterN s p x.record
  let blocks := newMasters s x
  let other := 1 - masterFld s p x.record 7 1 % 2
  if blocks.flatten.any fun w => !f32finite w then failPass s x 0x0616 0
  else
    let s := devWrite s (mbufAddr s p x.record other) (blocks.flatten.flatMap (leBytes 4))
    let cb := nextCb s p x.record
    match codebookOf cb with
    | none => failPass s x 0x0610 0
    | some book =>
      let a := amaxOf blocks
      let guess := tensorExp (masterFld s p x.record 36 4) book.cmax
      let e := tensorExp a book.cmax
      let s := if e = guess then s else (s.bumpWrap Reg.OAS_COUNTS_CORRECTIONS 1).put Reg.OAS_STATUS_CORRECTING 1
      let t := r.wt.at (if x.slot % 2 = 0 then 0 else r.delta)
      let (s', clip) := writeCodes s p t n { book with e := e } e blocks
      match s'.bind fun s => pWrite s p t.auxBase (cbWithE cb e) with
      | none =>
        let (code, more) := refusedAt s p (slotOffs t (masterKB s p x.record) n)
        failPass s x code 0 more
      | some s =>
        let every := masterFld s p x.record 30 2
        let fit := every != 0 && (r.step + 1) % every = 0
        let (cb', unused) := if fit then refit cb { book with e := e } e (s.get (Reg.OAS_CTRL_MFLOOR p)) r.step blocks
          else (cb, 0)
        let dg := x.key.map fun key => xd128 key (blocks.flatten.flatMap (leBytes 4))
        { s with oasActive := some { x with e := ofInt 8 e, amax := a, clip := clip, nextCb := cb', unused := unused,
                                            digest := dg } }

/-- Flits of the oasis link were retried: they and the flits with a CRC error count (R268, R270). -/
def linkCount (s : State) (retries crcs : Nat) : State :=
  (s.bump Reg.OAS_LINK_ERR_RETRIES retries).bump Reg.OAS_LINK_ERR_CRC_ERRORS crcs

/-- WORKING_COPY_WRITE_START (R233 step 4, R261): REFS of the target is 0; the pass runs. `slowBad` says that the slow tier
could not read a current master, `ev` what the fast tier found in the votes of the pass; `retries` and `crcs` count what the
oasis link met. While a Mirage check of its partition runs, no update of it runs (R366). -/
def writeCopy (slowBad : Bool) (ev : MemEvent) (retries crcs : Nat) (s : State) : State :=
  match s.oasActive with
  | none => s
  | some x =>
    let r := x.req
    let p := r.part
    match versionOf s p r.wt.base with
    | none => s
    | some i =>
      let k := x.slot % 2
      if x.phase != 1 || versionField s p i (16 + 2 * k) 2 != 0 || s.on (Reg.HLT_MIRAGE_STATUS_RUNNING p) then s
      else
        let s := beginPass s x i
        let x := { x with phase := 2 }
        let s := linkCount s retries crcs
        let votes := allVotes s x
        if slowBad then failPass s x 0x0630 2
        else
          match partRefusal s p votes with
          | some (code, more) => failPass s x code 0 more
          | none =>
            let (s, found, more) := readFinds s p (voteByte votes) ev
            if found != 0 then afterLoss (failPass s x found 0 more) (more.headD 0) found
            else runPass (votes.foldl (fun s o => pTouch s p o 2) s) x

/-- WORKING_COPY_WRITE_START (R233 step 4, R261). -/
def execWorkingCopyWriteStart (slowBad : Bool) (x : OasFinds) (s : State) : Res :=
  .next (unlessStalled s (writeCopy slowBad x.ev x.retries x.crcs s))

/-- The commit of a pass (R262): the buffers change places, the step, the exponent, the counts and the codebook of the
record, the version READY. -/
def commitPass (s : State) (x : OasAct) : State :=
  let p := x.req.part
  let i := x.record
  let n := 32 * masterKB s p i * masterN s p i
  let s := setMaster s p i 7 1 (1 - masterFld s p i 7 1 % 2)
  let s := setMaster s p i 8 4 (x.req.step + 1)
  let s := setMaster (setMaster s p i 32 1 x.e) p i 36 4 x.amax
  let s := setMaster s p i 40 4 (min (2 ^ 32 - 1) (masterFld s p i 40 4 + x.clip))
  let s := (pWrite s p (masterAddr s p i + 64) x.nextCb).getD s
  let s := match x.digest with
    | some d => setMaster (setMaster s p i 96 16 d) p i 112 4 (x.req.step + 1)
    | none => s
  let s := setMaster s p i 6 1 0
  let s := match versionOf s p x.req.wt.base with
    | some v => setSlotState s p v (x.slot % 2) 1
    | none => s
  (oasIdle s).bumpWrap Reg.OAS_COUNTS_PARAMS n

/-- UPDATE_COMMIT (R262). -/
def execUpdateCommit (s : State) : Res :=
  match s.oasActive with
  | none => .next s
  | some x =>
    let p := x.req.part
    if x.phase != 2 || s.on (Reg.HLT_MIRAGE_STATUS_RUNNING p) then .next s
    else
      let t := commitPass s x
      .next (unlessStalled s (if x.unused = 0 then t else
        raise t [Reg.OAS_STATUS_LAST_CODE] { code := 0x0620, cls := 0, part := p, seq := x.req.seq, detail := [x.unused] }))

/-- A write of OAS_QUEUE (R263). -/
def oasQueueWr (s : State) (x : Wr) : State := if x.one 16 then cancelRequests s x.part 0x0614 else s

/-- The offset of an oasis register of partition p. -/
def oasOff (p o : Nat) : Nat := 0x310000 + 0x1000 * p + o

/-- OAS_QUEUE_CANCEL (R263). -/
def execOasQueueCancel (p : Part) (w : HostWr) (s : State) : Res := .next (hostWrite s (oasOff p 0x18) w oasQueueWr)

/-! ### Enabling (R250) -/

/-- The region of partition p overlaps that of another partition whose ENABLE is 1. -/
def regionClash (s : State) (p : Nat) : Bool :=
  let lo := fun (q : Nat) => s.get (Reg.OAS_SLOW_REGION_BASE q)
  let hi := fun (q : Nat) => lo q + s.get (Reg.OAS_SLOW_REGION_SIZE q)
  (List.range 16).any fun q => q != p && s.on (Reg.OAS_CTRL_ENABLE q) && lo p < hi q && lo q < hi p

/-- The configuration that ENABLE needs is valid. -/
def oasConfigOk (s : State) (p : Nat) : Bool :=
  !regionClash s p && s.get (Reg.OAS_SLOW_REGION_BASE p) + s.get (Reg.OAS_SLOW_REGION_SIZE p) ≤ 256
    && s.on (Reg.OAS_CTRL_MFLOOR p) && 1 ≤ s.get (Reg.OAS_CTRL_RECORDS p) && s.get (Reg.OAS_CTRL_RECORDS p) ≤ 4096

/-- A write of OAS_CTRL. -/
def oasCtrl (s : State) (x : Wr) : State :=
  let p := x.part
  let s := storeBut s x [16]
  let set := allWritten s [Reg.OAS_SLOW_REGION_BASE p, Reg.OAS_SLOW_REGION_SIZE p, Reg.OAS_MASTER_TABLE_BASE p,
    Reg.OAS_CTRL_MFLOOR p, Reg.OAS_CTRL_RECORDS p]
  enableBit s [Reg.OAS_STATUS_LAST_CODE] x 16 (Reg.OAS_CTRL_ENABLE p) (set && oasConfigOk s p)
    (if set then 0x0602 else 0x0601) id

/-- OAS_CTRL_ENABLE (R250). -/
def execOasCtrlEnable (p : Part) (w : HostWr) (s : State) : Res := .next (hostWrite s (oasOff p 0x10) w oasCtrl)

/-- A write of OAS_DIGEST_KEYn (R266, R366). -/
def oasKey (s : State) (x : Wr) : State :=
  let p := x.part
  if x.vals.isEmpty then s
  else if s.on (Reg.HLT_MIRAGE_CTRL_ENABLE p) then wrRecord s [Reg.HLT_STATUS_LAST_CODE] 0x0A03 x []
  else
    let s := storeAll s x
    if allWritten s [Reg.OAS_DIGEST_KEY_KEY p 0, Reg.OAS_DIGEST_KEY_KEY p 1] then s.put (Reg.OAS_DIGEST_CTRL_KEY_VALID p) 1 else s

/-- OAS_DIGEST_KEY_WRITE (R266). -/
def execOasDigestKeyWrite (p : Part) (n : Fin 2) (w : HostWr) (s : State) : Res :=
  .next (hostWrite s (oasOff p (0x30 + 8 * n.val)) w oasKey)

/-! ### Transfers (R255) -/

/-- The transfer of partition p that runs. -/
def xferOf (s : State) (p : Nat) : Option OasXfer := SMap.get none s.oasXfers p

/-- The transfer that OAS_XFER names goes under way (R255): its record is BUSY. -/
def xferBegin (s : State) (p : Nat) : State :=
  let i := s.get (Reg.OAS_XFER_RECORD p)
  let op := s.get (Reg.OAS_XFER_OP p)
  let t : OasXfer := ⟨i, op, s.get (Reg.OAS_XFER_FOFF p) * 64, s.get (Reg.OAS_XFER_SLOT p), digestKey s p⟩
  let s := { s with oasXfers := SMap.set none s.oasXfers p (some t) }
  let s := if masterFld s p i 6 1 = 0 then setMaster s p i 6 1 1 else s
  let s := if op = 1 then s.put (Reg.OAS_XFER_STATUS_BAD_UNITS p) 0 else s
  (s.put (Reg.OAS_XFER_STATUS_STATE p) 1).put Reg.OAS_STATUS_BUSY 1

/-- A transfer of OAS_XFER starts, or is refused with its code. -/
def xferStart (s : State) (p : Nat) (x : Wr) : State :=
  let i := s.get (Reg.OAS_XFER_RECORD p)
  let op := s.get (Reg.OAS_XFER_OP p)
  let running := (xferOf s p).isSome
  let known := allWritten s [Reg.OAS_XFER_RECORD p, Reg.OAS_MASTER_TABLE_BASE p, Reg.OAS_CTRL_RECORDS p] && masterValid s p i
  let refuse := fun (code : Nat) =>
    let s := s.put (Reg.OAS_XFER_STATUS_LAST_CODE p) code
    let s := if running then s else s.put (Reg.OAS_XFER_STATUS_STATE p) 3
    let s := if known then setMaster s p i 44 2 code else s
    wrRecord s (chapterLast p x.w.port code) code x [i]
  let queued := (oasQueue s p).any (fun r => r.record == i) || s.oasActive.any fun a => a.req.part == p && a.record == i
  if !allWritten s [Reg.OAS_XFER_FOFF p, Reg.OAS_XFER_RECORD p, Reg.OAS_XFER_OP p] || !s.on (Reg.OAS_CTRL_ENABLE p)
      || (op = 3 && !s.isWritten (Reg.OAS_XFER_SLOT p)) then refuse 0x0601
  else if restricted s && known && masterFld s p i 6 1 = 2 then refuse 0x0A41
  else if running || s.on (Reg.HLT_MIRAGE_STATUS_RUNNING p) || !s.on Reg.OAS_STATUS_READY then refuse 0x0619
  else if !known then refuse 0x0610
  else if masterFld s p i 6 1 = 1 || queued then refuse 0x0619
  else if (op = 0 || op = 3) && (codebookOf (nextCb s p i)).isNone then refuse 0x0610
  else if op = 3 && (versionOf s p (masterFld s p i 0 5)).isNone then refuse 0x0610
  else if op = 2 && !s.on (Reg.OAS_DIGEST_CTRL_KEY_VALID p) then refuse 0x0601
  else xferBegin (readRecords s p i (masterFld s p i 0 5)) p

/-- A write of OAS_XFER. In Ochre mode and STAGE 4 a START of another OP than READ is refused whole (R438). -/
def oasXferWr (s : State) (x : Wr) : State :=
  if restricted s && x.one 0 && (storeAll s x).get (Reg.OAS_XFER_OP x.part) != 1 then
    wrRecord s [Reg.HLT_STATUS_LAST_CODE] 0x0A41 x []
  else
    let s := storeAll s x
    if x.one 0 then xferStart s x.part x else s

/-- OAS_INIT (R255). -/
def execOasInit (p : Part) (w : HostWr) (s : State) : Res := .next (hostWrite s (oasOff p 0x20) w oasXferWr)

/-- OAS_READ (R255). -/
def execOasRead (p : Part) (w : HostWr) (s : State) : Res := .next (hostWrite s (oasOff p 0x20) w oasXferWr)

/-- OAS_DIGEST (R255). -/
def execOasDigest (p : Part) (w : HostWr) (s : State) : Res := .next (hostWrite s (oasOff p 0x20) w oasXferWr)

/-- INIT_QUANT (R255). -/
def execInitQuant (p : Part) (w : HostWr) (s : State) : Res := .next (hostWrite s (oasOff p 0x20) w oasXferWr)

/-- The transfer has ended, done or failed with a code; `status` is what the record shows then. -/
def xferEnd (s : State) (p : Nat) (t : OasXfer) (code status : Nat) : State :=
  let s := { s with oasXfers := SMap.set none s.oasXfers p none }
  let s := setMaster s p t.record 6 1 status
  let s := s.put Reg.OAS_STATUS_BUSY (!s.oasXfers.isEmpty || s.oasActive.isSome).toNat
  if code = 0 then s.put (Reg.OAS_XFER_STATUS_STATE p) 2
  else
    let s := setMaster s p t.record 44 2 code
    (s.put (Reg.OAS_XFER_STATUS_STATE p) 3).put (Reg.OAS_XFER_STATUS_LAST_CODE p) code

/-- A failed transfer with its record, which carries what the code's rule names. -/
def xferFail (s : State) (p : Nat) (t : OasXfer) (code status : Nat) (more : List Nat := [t.record]) : State :=
  xferEnd (raise s (chapterLast p (portOf s p) code) { code := code, part := p, detail := more }) p t code status

/-- The masters of a byte string in blocks of 32. -/
def blocksOf (s : State) (p i : Nat) (bs : List Byte) : List (List Nat) :=
  (List.range (masterKB s p i * masterN s p i)).map fun b => (List.range 32).map fun j => fieldOf bs (128 * b + 4 * j) 4

/-- INIT and INIT_QUANT on the data at FOFF. -/
def xferInit (s : State) (p : Nat) (t : OasXfer) (was : Nat) (bs : List Byte) : State :=
  let i := t.record
  let blocks := blocksOf s p i bs
  if blocks.flatten.any fun w => !f32finite w then xferFail s p t 0x0615 was
  else
    match codebookOf (nextCb s p i) with
    | none => xferFail s p t 0x0610 was
    | some book =>
      let a := amaxOf blocks
      let e := tensorExp a book.cmax
      let s := devWrite s (mbufAddr s p i 0) bs
      let s := setMaster (setMaster (setMaster s p i 7 1 0) p i 36 4 a) p i 32 1 (ofInt 8 e)
      if t.op = 0 then xferEnd s p t 0 0
      else
        match versionOf s p (masterFld s p i 0 5) with
        | none => xferFail s p t 0x0610 0
        | some v =>
          match (List.range 64).findSome? fun h => ((List.range 4096).findSome? fun d =>
              ((s.prog p h).desc d).bind fun x => if x.versioned && x.base == masterFld s p i 0 5 then some x else none) with
          | some x =>
            let x := x.at (if t.slot = 0 then 0 else versionDelta s p v)
            match ((writeCodes s p x (masterN s p i) { book with e := e } e blocks).1).bind fun s =>
                pWrite s p x.auxBase (cbWithE (nextCb s p i) e) with
            | some s => xferEnd s p t 0 0
            | none =>
              let (code, more) := refusedAt s p (slotOffs x (masterKB s p i) (masterN s p i))
              xferFail s p t code 0 more
          | none => xferFail s p t 0x0610 0

/-- READ of the current masters, but for the 128-byte units `bad`. -/
def xferRead (s : State) (p : Nat) (t : OasXfer) (was : Nat) (bad : List Nat) : State :=
  let i := t.record
  let cur := masterFld s p i 7 1 % 2
  let units := List.range (masterKB s p i * masterN s p i)
  let bad := units.filter bad.contains
  let s := (units.filter fun u => !bad.contains u).foldl (fun s u =>
    (pWrite s p (t.foff + 128 * u) (rdDev s (mbufAddr s p i cur + 128 * u) 128)).getD s) s
  let s := bad.foldl (fun (s : State) u =>
    (raise s [Reg.OAS_STATUS_LAST_CODE] { code := 0x0630, part := p, detail := [i, 32 * u] }).bump
      (Reg.OAS_XFER_STATUS_BAD_UNITS p) 1) s
  if bad.isEmpty then xferEnd s p t 0 was else xferEnd s p t 0x0630 2

/-- OAS_TRANSFER_COMPLETE (R255): `bad` lists the 128-byte units that the slow tier could not read, `ev` is what the fast
tier found in the data at FOFF; `retries` and `crcs` count what the oasis link met. -/
def endTransfer (p : Part) (bad : List Nat) (ev : MemEvent) (retries crcs : Nat) (s : State) : State :=
  match xferOf s p with
  | none => s
  | some t =>
    let i := t.record
    let was := if masterFld s p i 6 1 = 2 then 2 else 0
    let n := masterBytes s p i
    let s := linkCount s retries crcs
    if t.op = 2 then
      if bad.isEmpty then
        let cur := masterFld s p i 7 1 % 2
        let d := xd128 t.key (rdDev s (mbufAddr s p i cur) n)
        xferEnd (setMaster (setMaster s p i 96 16 d) p i 112 4 (masterFld s p i 8 4)) p t 0 was
      else xferFail s p t 0x0630 2
    else
      match partRefusal s p ((List.range n).map (t.foff + ·)) with
      | some (code, more) => xferFail s p t code was more
      | none =>
        if t.op = 1 then xferRead s p t was bad
        else
          let (u, found, more) := readFinds s p (span t.foff n) ev
          if found != 0 then afterLoss (xferFail u p t found was more) (more.headD 0) found
          else xferInit (pTouch u p t.foff n) p t was ((pRead u p t.foff n).getD [])

/-- OAS_TRANSFER_COMPLETE (R255, R266). -/
def execOasTransferComplete (p : Part) (bad : List Nat) (x : OasFinds) (s : State) : Res :=
  .next (unlessStalled s (endTransfer p bad x.ev x.retries x.crcs s))

/-! ### The link and the die (R269, R371) -/

/-- The oasis die is lost: the pass in progress and the transfers end without effect, and the module enters Ochre mode
(R269, R262, R371). -/
def oasLost (s : State) (code : Nat) : State :=
  let s := match s.oasActive with
    | some x => if x.phase = 2 then failPass s x code 0 [] true else s
    | none => s
  let s := (List.range 16).foldl (fun s p => match xferOf s p with
    | some t => xferEnd s p t code (if masterFld s p t.record 6 1 = 2 then 2 else 0)
    | none => s) s
  enterOchre (s.put Reg.OAS_STATUS_READY 0) 2 true

/-- OASIS_LINK_MODULE_RETIRED (R269): `retries` and `crcs` count the retries and the bad flits that it took, none where
training failed. -/
def retireModule (m : Fin 4) (retries crcs : Nat) (s : State) : Res :=
  if !clocked s || bitsOf (s.get (Reg.OAS_LINK_STATUS_MOD m)) 1 1 = 1 then .next s
  else
    let s := linkCount s retries crcs
    let up := bitsOf (s.get (Reg.OAS_LINK_STATUS_MOD m)) 0 1
    let s := s.put (Reg.OAS_LINK_STATUS_MOD m) 2
    let s := s.put Reg.OAS_LINK_STATUS_UP_COUNT (s.get Reg.OAS_LINK_STATUS_UP_COUNT - up)
    let s := raise s [Reg.OAS_STATUS_LAST_CODE] { code := 0x0640, cls := 3, unit := m.val, detail := [m.val] }
    if (List.range 4).all fun k => bitsOf (s.get (Reg.OAS_LINK_STATUS_MOD k)) 1 1 == 1 then
      .next (oasLost (raise s [Reg.OAS_STATUS_LAST_CODE] { code := 0x0641, cls := 3 }) 0x0641)
    else .next s

/-- OASIS_LINK_MODULE_RETIRED (R269). -/
def execOasisLinkModuleRetired (x : LinkModule) (s : State) : Res := retireModule x.m x.retries x.crcs s

/-- OASIS_DIE_INTERNAL_FAULT (R371). -/
def execOasisDieInternalFault (s : State) : Res := .next (if clocked s then oasLost s 0x0A40 else s)

end Sys2Proof.Machine
end

