-- ==== Sys2Proof/Machine/Teardown.lean ====
section
/-!
DEFINITION. Frames that are zeroized (R294) and the teardown of a partition (R398, R437, R400).
-/

namespace Sys2Proof.Machine

/-! ### Zeroizing a frame (R294) -/

/-- The owner that a ZEROIZING frame names where no teardown waits for it. -/
def noPart : Nat := 16

/-- Step 1 and step 2: the frame becomes ZEROIZING, leaves the page maps, and its lines are discarded without write-back.
`p` is the partition whose teardown waits for it. -/
def zeroizeFrame (s : State) (p f : Nat) : State :=
  let s := { s with pageMap := s.pageMap.filter fun e => !(e.2.valid && e.2.frame == f),
                    cache := SMap.drop (fun ln => ln * 64 / frameBytes == f) s.cache }
  setFrame s f (.zeroizing p)

/-- The frames of partition p. -/
def framesOf (s : State) (p : Nat) : List Nat := (s.frames.filter fun e => e.2 == .owned p).map (·.1)

/-- The frames whose zeroization partition p's teardown waits for. -/
def zeroizingOf (s : State) (p : Nat) : List Nat := (s.frames.filter fun e => e.2 == .zeroizing p).map (·.1)

/-! ### Teardown (R398) -/

/-- The last frame is done: p becomes FREE, and DQ p of every erg is unbound and no longer stopped (R441, R310). -/
def partFree (s : State) (p : Nat) : State :=
  let s := (s.put (Reg.SEC_PART_STATUS_STATE p) 0).put (Reg.MEM_PART_STATUS_ZEROIZING p) 0
  let s := (List.range 8).foldl (fun (s : State) e =>
    s.putAll [Reg.DMA_DQ_BOUND e p, Reg.DMA_DQ_PARTITION e p, Reg.DMA_DQ_STOP e p, Reg.DMA_DQ_STOPPING e p,
      Reg.DMA_DQ_STOPPED e p] 0) s
  { s with span := SMap.set (0, 0) s.span p (0, 0), mlogs := SMap.set MLog.empty s.mlogs p MLog.empty }

/-- Frees p where its teardown has no frame left. -/
def tryFree (s : State) (p : Nat) : State :=
  if partState s p = 5 && (zeroizingOf s p).isEmpty then partFree s p else s

/-- A descriptor works for partition p: for one of its commands or launches, not for firmware. -/
def Desc.serves (d : Desc) (p : Nat) : Bool := d.part == p && (!d.firmware || d.vcore != 0xFF)

/-- A channel without the transfers that serve partition p. -/
def purgeChannel (s : State) (p k : Nat) : State :=
  let c := k / 16
  let n := k % 16
  let x := s.chan c n
  let mine := fun (y : Option Xfer) => y.any fun y => y.desc.serves p
  let gone := ((x.active.map fun y => [y.desc]).getD [] ++ (x.shadow.map fun y => [y.desc]).getD []).filter fun d => d.serves p
  let s := gone.foldl (fun s d => freeRecord s c d) s
  let keep := if mine x.shadow then none else x.shadow
  if mine x.active then promote ((s.put (Reg.DMA_CH_CTRL_HALTED c n) 0).setChan c n ⟨none, keep⟩) c n
  else if mine x.shadow then (s.setChan c n ⟨x.active, none⟩).put (Reg.DMA_CH_STATUS_SHADOW c n) 0
  else s

/-- Every descriptor that serves partition p leaves the rings and the channels. -/
def purgeDma (s : State) (p : Nat) : State :=
  let s := (SMap.keys s.dqs).foldl (fun s k => setDqRing s k ((dqRing s k).filter fun d => !d.serves p)) s
  (SMap.keys s.dma).foldl (fun s k => purgeChannel s p k) s

/-- The code that a fault has already given a copy of p whose accesses still fly (R321). -/
def failedWith (c : Cmd) : Option Nat :=
  match c.phase with
  | .failing code => some code
  | _ => none

/-- Every command of p ends: without records, or FAILED with 0x0B41 behind the one record that stands for all (R398 step
1), but for those that a fault has ended already. `why` is 1 for a map-out. -/
def endCommands (s : State) (p : Nat) (records : Bool) (why : Nat) : State :=
  let s := s.setTr p TrainCtx.empty
  let real := (seqsOf s p).filter fun q => (s.cmd p q).queue != replayQueue && (failedWith (s.cmd p q)).isNone
  let s := if records then
      raise s [Reg.SEC_STATUS_LAST_CODE, Reg.SEC_PART_STATUS_LAST_CODE p]
        { code := 0x0B41, cls := 2, part := p, detail := [real.length, why] }
    else s
  let run := (s.launch p).map (·.seq)
  let (s, n) := haltLaunch s p none false
  let s := purgeDma s p
  (seqsOf s p).foldl (fun (s : State) q =>
    if records && (s.cmd p q).queue != replayQueue then
      finishCmd s p q failed ((failedWith (s.cmd p q)).getD 0x0B41) 0
        (if (s.cmd p q).op = 0x13 then launchDetail (if run = some q then n else 0) 0xFF 0xFF else if isCopy (s.cmd p q) then (s.cmd p q).moved else 0)
    else dropCmd s p q) s

/-- Every flow of p becomes CLOSED, a CLOSE sent on those that were UP; nothing is left of its instances (R335). -/
def closeFlows (s : State) (p : Nat) : State :=
  let s := (flowsOf s p).foldl (fun (s : State) f =>
    let st := flowState s p f
    if st = 0 then s
    else setFlowState (sendCtrl s p f 4 []) p f 0) s
  { s with flows := SMap.drop (fun k => k / 65536 == p) s.flows, colls := s.colls.filter fun x => x.part != p,
           creditTurn := SMap.set 0 s.creditTurn p 0, epochs := SMap.drop (fun k => k / 65536 == p) s.epochs }

/-- Core c leaves its partition (R437): cleared as for Grey, its counters, LAST_CODE fields and progress fields at their
power-up values. A channel that carries a transfer of another port or of firmware keeps it (R325), and shows it still. -/
def leaveCore (s : State) (p c : Nat) : State :=
  let b := coreBase c
  let s := clearCore s c
  let s := seqIdle s c
  let s := [(0x8, 0x10), (0x18, 0x30), (0x410, 0x428), (0x808, 0x810), (0xC00, 0xC58)].foldl
    (fun (s : State) (r : Nat × Nat) => s.resetRange (b + r.1) (b + r.2)) s
  let s := [Reg.ENG_STATUS_LAST_CODE c, Reg.VEC_STATUS_LAST_CODE c, Reg.SEQ_STATUS_LAST_CODE c,
    Reg.VEC_STATUS_RECORD_GUARD c].foldl (fun s f => s.put f 0) s
  let s := engFlags s c
  let s := (List.range 16).foldl (fun (s : State) n =>
    let s := s.resetRange (b + 0x1018 + 0x20 * n) (b + 0x1020 + 0x20 * n)
    if (s.chan c n).active.isSome then (s.put (Reg.DMA_CH_STATUS_COMPLETED c n) 0).put (Reg.DMA_CH_STATUS_LAST_CODE c n) 0
    else
      let s := s.resetRange (b + 0x1000 + 0x20 * n) (b + 0x1008 + 0x20 * n)
      if coreState s c = 2 then s.put (Reg.DMA_CH_STATUS_STATE c n) 4 else s) s
  { s with shadows := SMap.set 0 s.shadows c 0, skewed := SMap.set none s.skewed c none }.put (Reg.SEC_PART_CORES_CORE p c) 0

/-- The queues of partition p's blocks lose their contexts, and the blocks their assignment. -/
def freeBlocks (s : State) (p : Nat) : State :=
  (List.range 256).foldl (fun (s : State) b =>
    if s.on (Reg.QUE_BLOCK_ASSIGNED b) && s.get (Reg.QUE_BLOCK_PARTITION b) == p then
      let s := s.resetRange (queueBase (256 * b)) (queueBase (256 * b + 256))
      let s := { s with unsig := SMap.drop (fun q => q / 256 == b) s.unsig, recent := SMap.drop (fun q => q / 256 == b) s.recent }
      ((s.put (Reg.QUE_BLOCK_ASSIGNED b) 0).put (Reg.QUE_BLOCK_PORT b) 0).put (Reg.QUE_BLOCK_PARTITION b) 0
    else s) s

/-- The pages of partition p return to their power-up values but for MEM_PART_STATUS, whose FAULTED clears (R437, R290). -/
def resetPages (s : State) (p : Nat) : State :=
  let b := 0x80000 + 0x8000 * p
  let s := s.resetRange b (b + 0x148)
  let s := s.resetRange (b + 0x150) (b + 0x8000)
  let s := s.resetRange (0x210000 + 0x1000 * p) (0x211000 + 0x1000 * p)
  let s := s.resetRange (0x310000 + 0x1000 * p) (0x311000 + 0x1000 * p)
  s.put (Reg.MEM_PART_STATUS_FAULTED p) 0

/-- A 128-byte unit of the slow tier once the key that it was written under is destroyed: its bytes are free (R398, R399). -/
def loseUnit (s : State) (key u : Nat) : State :=
  let held := rdDev s (128 * u) 128
  storeAt s ((List.range 128).map (128 * u + ·)) ((List.range 128).map fun i => Config.xtsLost key u held i)

/-- Partition p's slow-tier keys are destroyed: every unit of its region that holds data reads as free bytes from then on (R262,
R398 to R400, log entry 62). -/
def loseRegion (s : State) (p : Nat) : State :=
  let lo := regionBase s p
  let hi := lo + s.get (Reg.OAS_SLOW_REGION_SIZE p) * 2 ^ 30
  let units := ((s.mem.filter fun e => lo ≤ e.1 && e.1 < hi).map (·.1 / 128)).dedup
  let s := units.foldl (fun s u => loseUnit s (SMap.get 0 s.slowKeys p) u) s
  { s with slowKeys := SMap.set 0 s.slowKeys p 0 }

/-- What the state keeps for partition p beside its registers and frames is gone. -/
def dropContexts (s : State) (p : Nat) : State :=
  let s := { s with
    tokens := SMap.drop (fun k => k / 8 == p) s.tokens
    progs := SMap.drop (fun k => k / 64 == p) s.progs
    launches := SMap.set none s.launches p none
    vcs := SMap.drop (fun k => k / 128 == p) s.vcs
    saved := SMap.drop (fun k => k / 2 ^ 13 == p) s.saved
    caravans := SMap.drop (fun k => k / 4096 == p) s.caravans
    mbs := SMap.drop (fun k => k / 2 ^ 32 == p) s.mbs
    train := SMap.set TrainCtx.empty s.train p TrainCtx.empty
    oasXfers := SMap.set none s.oasXfers p none
    sirocco := SMap.set none s.sirocco p none
    sirSteps := SMap.set 0 s.sirSteps p 0
    mirage := SMap.set MirCtx.empty s.mirage p MirCtx.empty
    tags := SMap.drop (fun k => k / 2 ^ 40 == p) s.tags
    ides := SMap.set Ide.empty s.ides p Ide.empty
    errWrap := SMap.set false s.errWrap p false
    faultCode := SMap.set 0 s.faultCode p 0 }
  s.put Reg.OAS_STATUS_BUSY (!s.oasXfers.isEmpty || s.oasActive.isSome).toNat

/-- Teardown of partition p (R398), once: `records` where its commands get completion records. -/
def teardown (s : State) (p : Nat) (records : Bool) (why : Nat) : State :=
  if partState s p = 0 || partState s p = 5 then s
  else
    let s := s.put (Reg.SEC_PART_STATUS_STATE p) 5
    let s := dropPass (cancelRequests (endCommands s p records why) p 0) p
    let s := closeFlows s p
    let s := ((List.range 128).filter (inPart s p)).foldl (fun s c => leaveCore s p c) s
    let s := releaseNative (releasePins s fun o => o.part == p) p
    let s := dropContexts (freeBlocks (loseRegion s p) p) p
    let s := (resetPages s p).put (Reg.SEC_PART_STATUS_STATE p) 5
    let s := (framesOf s p).foldl (fun s f => zeroizeFrame s p f) s
    tryFree (s.put (Reg.MEM_PART_STATUS_ZEROIZING p) 1) p
where
  /-- A request of p that is being written ends with its partition (R262). -/
  dropPass (s : State) (p : Nat) : State :=
    match s.oasActive with
    | some x => if x.req.part = p then oasIdle s else s
    | none => s

/-! ### Removal (R419, R420) -/

/-- Every frame is FREE. -/
def allFree (s : State) : Bool := s.get Reg.MEM_CAPACITY_FREE_FRAMES == s.get Reg.MEM_CAPACITY_BACKED_FRAMES

/-- A removal goes on as far as it can: once no flow waits for its REMOVE, every partition is torn down; once every frame is
FREE, the fabric ports go down and the module is ready to be removed (R419 steps 3 to 5). -/
def removalNext (s : State) : State :=
  if !s.pwr.removing || s.flows.any (fun e => e.2.removing) then s
  else
    let s := (List.range 16).foldl (fun s p => teardown s p true 0) s
    if (List.range 16).all (fun p => partState s p == 0) && allFree s then
      let s := portsDown { s with pwr := { s.pwr with removing := false } }
      raise (s.put Reg.PWR_REMOVE_STATE 2) [Reg.PWR_STATUS_LAST_CODE] { code := 0x0C41, cls := 3 }
    else s

end Sys2Proof.Machine
end

