-- ==== Sys2Proof/Machine/Memory.lean ====
section
/-!
DEFINITION. The fast tier from outside (R273 to R296): the interleave, map-outs, zeroization, token buckets, single
accesses and atomics, evictions, and the FAULTED state.
-/

namespace Sys2Proof.Machine

/-! ### Interleave (R275) -/

/-- A write of MEM_INTERLEAVE. -/
def interleaveWr (s : State) (x : Wr) : State :=
  if x.vals.isEmpty then s
  else if s.get Reg.MEM_CAPACITY_FREE_FRAMES != s.get Reg.MEM_CAPACITY_BACKED_FRAMES then wrRecord s [] 0x0714 x []
  else
    let n := 384 * s.get Reg.MEM_CAPACITY_LIVE_CHANNELS
    let s := (storeAll s x).put Reg.MEM_INTERLEAVE_VALID 1
    let s := { s with frames := [], frameBase := .zeroizing noPart, pageMap := [], cache := [] }
    let s := (s.put Reg.MEM_CAPACITY_BACKED_FRAMES n).put Reg.MEM_CAPACITY_FREE_FRAMES 0
    (s.put Reg.MEM_ZEROIZE_PENDING n).put Reg.MEM_ZEROIZE_QUARANTINED 0

/-- MEM_INTERLEAVE_WRITE (R275). -/
def execMemInterleaveWrite (w : HostWr) (s : State) : Res := .next (hostWrite s 0x2000 w interleaveWr)

/-! ### Map-out (R276, R277) -/

/-- The first frame of the set slot that holds channel c, and the number of its backed frames. -/
def setFrames (s : State) (c : Nat) : Nat × Nat :=
  let w := waysOf s
  let b := 32 * (c / 32) + w * (c % 32 / w)
  ((c / 32 * ergBytes + c % 32 / w * w * chanBytes) / frameBytes, (liveChans s b).length * 384)

/-- The states of the backed frames of channel c's set meet a test somewhere. -/
def setAny (s : State) (c : Nat) (t : FState → Bool) : Bool :=
  let (f, n) := setFrames s c
  if t s.frameBase then (List.range n).any fun i => t (SMap.get s.frameBase s.frames (f + i))
  else s.frames.any fun e => f ≤ e.1 && e.1 < f + n && t e.2

/-- A frame becomes UNBACKED. -/
def unback (s : State) (f : Nat) : State :=
  let dec := fun (r : Fld) => s.put r (s.get r - 1)
  let s := match SMap.get s.frameBase s.frames f with
    | .free => dec Reg.MEM_CAPACITY_FREE_FRAMES
    | .zeroizing _ => dec Reg.MEM_ZEROIZE_PENDING
    | .quarantined => dec Reg.MEM_ZEROIZE_QUARANTINED
    | .owned _ => s
  { s with frames := SMap.set s.frameBase s.frames f s.frameBase }

/-- The map-out of channel c completes (R277). -/
def mapOut (s : State) (c : Nat) : State :=
  let (f, n) := setFrames s c
  let s := (List.range 384).foldl (fun s i => unback s (f + n - 384 + i)) s
  let s := { s with cache := SMap.drop (fun ln => f ≤ ln * 64 / frameBytes && ln * 64 / frameBytes < f + n) s.cache }
  let s := (s.put (Reg.MEM_MAPPED_OUT_OUT c) 1).put Reg.MEM_CAPACITY_LIVE_CHANNELS (s.get Reg.MEM_CAPACITY_LIVE_CHANNELS - 1)
  let s := s.put Reg.MEM_CAPACITY_BACKED_FRAMES (s.get Reg.MEM_CAPACITY_BACKED_FRAMES - 384)
  let s := { s with mapout := none }.put Reg.MEM_MAPOUT_STATE 2
  raise s [] { code := 0x0723, cls := 3, detail := [c, s.get Reg.MEM_CAPACITY_BACKED_FRAMES] }

/-- The forced part (R276): every partition with a frame of the set is torn down, the set's lines are discarded, and its
backed frames are zeroized. -/
def forceSet (s : State) (c : Nat) : State :=
  let (f, n) := setFrames s c
  let parts := (List.range 16).filter fun p => setAny s c (· == .owned p)
  let s := parts.foldl (fun s p => teardown s p true 1) s
  (List.range n).foldl (fun s i =>
    match SMap.get s.frameBase s.frames (f + i) with
    | .zeroizing _ => s
    | _ => zeroizeFrame s noPart (f + i)) s

/-- How a map-out goes on, by the state of its set; `fin` where it may complete now, `refuse` the record of a refusal. -/
def mapNext (s : State) (fin : Bool) (refuse : State → State) : State :=
  match s.mapout with
  | none => s
  | some (c, force, forced) =>
    if setAny s c fun x => match x with
      | .zeroizing _ => true
      | _ => false then s
    else if forced || !setAny s c (fun x => match x with
      | .owned _ => true
      | .quarantined => true
      | _ => false) then (if fin then mapOut s c else s)
    else if force then { forceSet s c with mapout := some (c, true, true) }
    else refuse ({ s with mapout := none }.put Reg.MEM_MAPOUT_STATE 3)

/-- A write of MEM_MAPOUT. A START while a map-out waits or runs is discarded (log entry 13). -/
def mapoutWr (s : State) (x : Wr) : State :=
  let s := storeAll s x
  if !x.one 16 || s.mapout.isSome then s
  else if !s.isWritten Reg.MEM_MAPOUT_CHANNEL || !s.on Reg.MEM_INTERLEAVE_VALID then wrRecord s [] 0x0701 x []
  else
    let c := s.get Reg.MEM_MAPOUT_CHANNEL
    if s.on (Reg.MEM_MAPPED_OUT_OUT c) then s.put Reg.MEM_MAPOUT_STATE 2
    else
      let s := { s with mapout := some (c, s.on Reg.MEM_MAPOUT_FORCE, false) }.put Reg.MEM_MAPOUT_STATE 1
      mapNext s true fun s => wrRecord s [] 0x0715 x []

/-- MEM_MAPOUT_START (R276). -/
def execMemMapoutStart (w : HostWr) (s : State) : Res := .next (hostWrite s 0x2010 w mapoutWr)

/-- The refusal of a map-out that had to wait: no host access stands behind it. -/
def lateRefusal (c : Nat) (s : State) : State := raise s [] { code := 0x0715, cls := 0, detail := [c] }

/-- CHANNEL_MAPPED_OUT (R277). -/
def execChannelMappedOut (s : State) : Res :=
  .next (mapNext s true (lateRefusal ((s.mapout.map (·.1)).getD 0)))

/-! ### Zeroization (R293, R294) -/

/-- Frames are zeroizing for which no teardown waits. -/
def zeroizeLeft (s : State) : Bool :=
  (s.frames.any fun e => e.2 == .zeroizing noPart)
    || (s.frameBase == .zeroizing noPart && s.frames.length < s.get Reg.MEM_CAPACITY_BACKED_FRAMES)

/-- A write of MEM_ZEROIZE: with ALL, every FREE and QUARANTINED frame is zeroized, and ALL reads 1 until that is done (R8). -/
def zeroizeWr (s : State) (x : Wr) : State :=
  if !x.one 32 || !s.on Reg.MEM_INTERLEAVE_VALID then s
  else
    let keep := s.frames.filter fun e => match e.2 with
      | .owned _ => true
      | .zeroizing p => p != noPart
      | _ => false
    let n := s.get Reg.MEM_CAPACITY_FREE_FRAMES + s.get Reg.MEM_ZEROIZE_QUARANTINED
    let owned := fun (ln : Nat) => match frameState s (ln * 64 / frameBytes) with
      | some (.owned _) => true
      | _ => false
    let s := { s with frames := keep, frameBase := .zeroizing noPart, cache := SMap.drop (fun ln => !owned ln) s.cache }
    let s := s.put Reg.MEM_ZEROIZE_PENDING (s.get Reg.MEM_ZEROIZE_PENDING + n)
    ((s.put Reg.MEM_CAPACITY_FREE_FRAMES 0).put Reg.MEM_ZEROIZE_QUARANTINED 0).put Reg.MEM_ZEROIZE_ALL (zeroizeLeft s).toNat

/-- MEM_ZEROIZE_ALL (R293). -/
def execMemZeroizeAll (w : HostWr) (s : State) : Res := .next (hostWrite s 0x2018 w zeroizeWr)

/-- FRAME_ZEROIZE_COMPLETE (R294): zeros are written and read back; `bad` is the channel that failed verification. Then
the teardown, the map-out and the removal that wait for it go on. -/
def execFrameZeroizeComplete (frame : Nat) (bad : Option Nat) (s : State) : Res :=
  if !clocked s then .next s
  else match frameState s frame with
  | some (.zeroizing p) =>
    let s := { s with mem := SMap.drop (fun a => a / frameBytes == frame) s.mem }
    let s := match bad with
      | none => setFrame s frame .free
      | some ch => raise (setFrame s frame .quarantined) [] { code := 0x0730, cls := 3, detail := [frame, ch] }
    let s := if zeroizeLeft s then s else s.put Reg.MEM_ZEROIZE_ALL 0
    let s := if p < 16 then tryFree s p else s
    .next (removalNext (mapNext s false (lateRefusal ((s.mapout.map (·.1)).getD 0))))
  | _ => .next s

/-! ### Token buckets (R282) -/

/-- A write of MEM_REGe of partition p. A bucket that is enabled starts full (DEDUCED, log entry 14). -/
def memReg (p e : Nat) (s : State) (x : Wr) : State :=
  let s := capBucket (storeBut s x [48]) p e
  match x.val 48 with
  | some 0 => s.put (Reg.MEM_REG_ENABLE p e) 0
  | some _ =>
    if allWritten s [Reg.MEM_REG_RATE p e, Reg.MEM_REG_BURST p e] then
      (if s.on (Reg.MEM_REG_ENABLE p e) then s else setBucket s p e (bucketDepth s p e)).put (Reg.MEM_REG_ENABLE p e) 1
    else wrRecord s [Reg.MEM_PART_STATUS_LAST_CODE p] 0x0701 x []
  | none => s

/-- The offset of MEM_REGe of partition p. -/
def memRegOff (p e : Nat) : Nat := 0x80100 + 0x8000 * p + 8 * e

/-- MEM_REG_ENABLE_WRITE (R282, R296). -/
def execMemRegEnableWrite (p : Part) (e : Erg) (w : HostWr) (s : State) : Res :=
  .next (hostWrite s (memRegOff p e) w (memReg p e))

/-- TOKEN_REFILL (R282): 64 c-cycles have gone by. -/
def execTokenRefill (s : State) : Res :=
  .next ((List.range 128).foldl (fun s k =>
    if s.on (Reg.MEM_REG_ENABLE (k / 8) (k % 8)) then
      setBucket s (k / 8) (k % 8)
        (min (bucketDepth s (k / 8) (k % 8)) (bucket s (k / 8) (k % 8) + s.get (Reg.MEM_REG_RATE (k / 8) (k % 8))))
    else s) s)

/-! ### Single accesses (R281, R284, R288 to R291) -/

/-- Where an access goes, or what refuses it: its device addresses, a code with its DETAIL, or an address that does not
exist. -/
inductive Place
  | at (as : List Nat)
  | refused (code : Nat) (detail : List Nat)
  | nowhere
deriving DecidableEq, Repr

/-- The place of n bytes at an address that a requester presents (R17, R275, R279, R281). -/
def placeOf (s : State) (r : Requester) (addr n : Nat) : Place :=
  let units := (List.range n).map (addr + ·)
  match r with
  | .part p =>
    if slowBase ≤ addr && addr < slowBase + slowBytes then .refused 0x0711 [addr]
    else
      match partRefusal s p units with
      | some (code, d) => .refused code d
      | none => .at (units.filterMap (xlate s p))
  | _ =>
    if units.any fun a => !isDevice a then .nowhere
    else
      match devRefusal s (r != .firmware) units with
      | some (code, d) => .refused code d
      | none => .at units

/-- A refused access stops the command that made it: the running launch of a partition (log entry 15), or nothing. `at_` is
the device address where the access reached one; the slice's LAST_CODE names it. -/
def accessStops (s : State) (r : Requester) (at_ : Option Nat) (code : Nat) (detail : List Nat) : State :=
  let slice := (at_.map fun a => [Reg.CCH_STATUS_LAST_CODE (sliceOfAddr a)]).getD []
  match r with
  | .part p =>
    let e : Rec := { code := code, detail := detail }
    let last := slice ++ [Reg.MEM_PART_STATUS_LAST_CODE p]
    if (s.launch p).isSome then stopLaunch s last p e else raise s last { e with part := p }
  | _ => raise s slice { code := code, detail := detail }

/-- An access to the addresses `as` goes on with `act` unless its tokens are missing or the memory finds an error. The tokens
are those of the owners of the frames, whoever the requester is (R282, R287). -/
def accessWith (s : State) (r : Requester) (addr : Nat) (wr : Bool) (as : List Nat) (ev : MemEvent) (act : State → State) :
    State :=
  let ks := tokenKeys s wr 0 as
  if !mayTake s ks then waitKeys s ks
  else
    match memFinds (takeKeys s ks) (among as) ev with
    | (s, 0, _) => act s
    | (s, code, i) =>
      let a := as.getD i 0
      let x := match r with
        | .part _ => some (addr + i)
        | _ => none
      afterLoss (accessStops s r (some a) code (memDetail s a x)) a code

/-- FAST_TIER_ACCESS (R284): a read, or a write of `data`, of `len` bytes. -/
def execFastTierAccess (r : Requester) (addr len : Nat) (data : Option (List Byte)) (ev : MemEvent) (s : State) : Res :=
  if !clocked s then .next s
  else match placeOf s r addr len with
  | .nowhere => .fault .noSuchDeviceAddress
  | .refused code detail => .next (accessStops s r none code detail)
  | .at as =>
    match data with
    | none => .next (accessWith s r addr false as ev fun s =>
        (touchAll s false 0 as).emit (.readData (as.map fun a => SMap.get 0 s.mem a)))
    | some bs => .next (accessWith s r addr true as (writeEvent ev) fun s =>
        storeAt (touchAll s true 0 as) as bs)

/-! ### Atomics (R286, R287) -/

/-- Bytes of one element. -/
def atomicSize (wide : Bool) : AtomicOp → Nat
  | .fadd => 4
  | .bfadd => 2
  | _ => if wide then 8 else 4

/-- The stored result of one element, and whether it saturated. -/
def atomicResult (wide : Bool) (op : AtomicOp) (old x : Nat) : Nat × Bool :=
  let w := 8 * atomicSize wide op
  let x := x % 2 ^ w
  match op with
  | .add =>
    let sum := sext w old + sext w x
    let v := clampI (-(2 ^ (w - 1) : Int)) (2 ^ (w - 1) - 1) sum
    (ofInt w v, v != sum)
  | .smin => (if sext w x < sext w old then x else old, false)
  | .smax => (if sext w old < sext w x then x else old, false)
  | .umin => (min old x, false)
  | .umax => (max old x, false)
  | .xchg => (x, false)
  | .cmpxchg c => (if old = c % 2 ^ w then x else old, false)
  | .fadd => (f32add old x, false)
  | .bfadd => (encBf (FV.add (dec32 (bfTo32 old)) (dec32 (bfTo32 x))), false)

/-- ATOMIC (R286): the operation on consecutive elements of one line from an address, one operand each; one element, or
the whole line. The old values are returned. -/
def execAtomic (r : Requester) (addr : Nat) (wide : Bool) (op : AtomicOp) (xs : List Nat) (ev : MemEvent) (s : State) :
    Res :=
  let z := atomicSize wide op
  if !clocked s || addr % z != 0 || 64 < addr % 64 + z * xs.length then .next s
  else
    match placeOf s r addr (z * xs.length) with
    | .nowhere => .fault .noSuchDeviceAddress
    | .refused code detail => .next (accessStops s r none code detail)
    | .at as => .next (accessWith s r addr false as ev fun s =>
        let olds := (List.range xs.length).map fun i => leNat (((as.drop (z * i)).take z).map fun a => SMap.get 0 s.mem a)
        let new := (olds.zip xs).map fun (o, x) => atomicResult wide op o x
        let s := storeAt (touchAll s true 0 as) as (new.flatMap fun v => leBytes z v.1)
        let s := s.bump (Reg.CCH_ATOMIC_SAT_COUNT (sliceOfAddr (as.headD 0))) (new.filter (·.2)).length
        s.emit (.readData (olds.flatMap (leBytes z))))

/-! ### Evictions and FAULTED (R284, R290) -/

/-- The least recently used line that nothing pins in a set of a slice. -/
def lruOf (s : State) (slice set : Nat) : Option Nat :=
  ((s.cache.filter fun e => e.1 % 16384 == set && e.1 * 64 / ergBytes == slice && e.2.pins.isEmpty).foldl
    (fun best e => match best with
      | none => some e
      | some b => if e.2.used < b.2.used then some e else some b) none).map (·.1)

/-- LINE_EVICTION (R284, R283, R288, R290): replacement, due where the set is full, takes a way of it. The write-back of a
dirty line takes `retries` retries of its CRC; `lost` says that it still fails after 8. -/
def evictLine (slice : Erg) (set retries : Nat) (lost : Bool) (s : State) : Res :=
  match lruOf s slice set with
  | none => .next s
  | some ln =>
    let a := 64 * ln
    let c := SMap.get CLine.empty s.cache ln
    let gone := fun (s : State) => { s with cache := SMap.set CLine.empty s.cache ln CLine.empty }
    if !clocked s || waysUsed s ln < 24 then .next s
    else if !c.dirty then .next (gone s)
    else
      let ks := bucketKey s a
      if !mayTake s ks then .next (waitKeys s ks)
      else
        let t := (takeKeys s ks).bump (Reg.MEM_CHAN_ERR_CRC_RETRIES slice ((chanOf s a).1 % 32)) (if lost then 8 else min retries 8)
        if !lost then .next (gone t)
        else
          let t := loseLine t ln
          let e : Rec := { code := 0x0721, cls := 2, detail := [a] }
          match ownerOf s a with
          | some p => .next (becomeFaulted (raise t (memLast p a) { e with part := p }) p 0x0721)
          | none => .next (raise t [Reg.CCH_STATUS_LAST_CODE slice] e)

/-- LINE_EVICTION (R283, R284, R288, R290). -/
def execLineEviction (slice : Erg) (set : Nat) (x : WriteBack) (s : State) : Res := evictLine slice set x.retries x.lost s

/-- A write of MEM_PART_STATUS of partition p (R290). -/
def partStatusWr (p : Nat) (s : State) (x : Wr) : State :=
  let s := storeAll s x
  if s.on (Reg.MEM_PART_STATUS_FAULTED p) then s else { s with faultCode := SMap.set 0 s.faultCode p 0 }

/-- MEM_PART_STATUS_FAULTED_CLEAR (R290). -/
def execMemPartStatusFaultedClear (p : Part) (w : HostWr) (s : State) : Res :=
  .next (hostWrite s (0x80148 + 0x8000 * p.val) w (partStatusWr p))

end Sys2Proof.Machine
end

