-- ==== Sys2Proof/Machine/Verify.lean ====
section
/-!
DEFINITION. The checks of a load that go beyond single instructions: caravans (R185 to R196), micro-batch spans (R226),
version entries (R231) and master records (R253); and the placement of a program (R134, R135, R176, R362).
-/

namespace Sys2Proof.Machine

/-! ### Tensors that an instruction names -/

/-- The DESC fields of an instruction (WDESC of UPDATE and the tensors of TABLE_SETUP among them). -/
def tensorFields (t : Tynte) : List Nat :=
  match t with
  | .load f => [f.desc]
  | .store f => [f.desc]
  | .prefetch f => [f.desc]
  | .tableSetup f => [f.adesc, f.wdesc, f.sdesc]
  | .codebookSet f => [f.desc]
  | .opb f => [f.adesc, f.bdesc]
  | .drain f => [f.outDesc]
  | .vop f => [f.sdesc]
  | .reduce f => [f.xdesc]
  | .indexStream f => [f.idesc]
  | .gather f => [f.tdesc]
  | .scatterAdd f => [f.tdesc]
  | .segmentReduce f => [f.xdesc]
  | .anchorRead f => [f.tdesc]
  | .quantCodes f => [f.src, f.dst]
  | .coll f => [f.ddesc, f.sdesc]
  | .update f => [f.vdesc, f.wdesc]
  | _ => []

/-- The instruction names a VERSIONED tensor. -/
def namesVersioned (g : Prog) (t : Tynte) : Bool := (tensorFields t).any fun d => tensorIs g d TDesc.versioned

/-! ### Definitions of the CARAVAN section (R185 to R187) -/

/-- SIZE of definition d, and its offset from the section. -/
def defSize (g : Prog) (d : Nat) : Nat := fieldOf g.image (carDefOff g d + 4) 4
def defOff (g : Prog) (d : Nat) : Nat := fieldOf g.image (g.caravanOff + 8 + 4 * d) 4

/-- The list of definitions, and each header (R185). -/
def defsOk (g : Prog) : Bool :=
  let size := (sectionOf g 3).2
  let ds := List.range (ndef g)
  size == 0 ||
    (1 ≤ ndef g && ndef g ≤ 4096 && 8 + 4 * ndef g ≤ size && fieldOf g.image (g.caravanOff + 2) 6 == 0
      && (ds.all fun d => defOff g d % 64 == 0 && 8 + 4 * ndef g ≤ defOff g d && defOff g d + defSize g d ≤ size
        && 1 ≤ carStages g d && carStages g d ≤ 8 && 64 + 64 * carStages g d ≤ defSize g d
        && fieldOf g.image (carDefOff g d + 1) 3 == 0 && fieldOf g.image (carDefOff g d + 8) 56 == 0)
      && (ds.all fun d => ds.all fun e =>
        d == e || defOff g d + defSize g d ≤ defOff g e || defOff g e + defSize g e ≤ defOff g d))

/-- An instruction that R187 allows in a body. -/
def bodyAllows (t : Tynte) : Bool :=
  match t with
  | .nop => true
  | .endI => true
  | .loop f => f.nlev ≤ 2
  | .endloop => true
  | .load _ => true
  | .store _ => true
  | .prefetch _ => true
  | .tableSetup _ => true
  | .opb f => !f.tile
  | .drain f => !f.tile
  | .vop _ => true
  | .reduce _ => true
  | .indexStream _ => true
  | .gather _ => true
  | .scatterAdd _ => true
  | .segmentReduce _ => true
  | .anchorRead _ => true
  | .quantCodes _ => true
  | _ => false

/-- FIN of a reader of the stream network. -/
def streamFin (t : Tynte) : Option Nat :=
  match t with
  | .vop f => if f.sStream then some f.fin else none
  | .reduce f => if f.sStream then some f.fin else none
  | _ => none

/-- IN_FMT of a stage record. -/
def stInFmt (g : Prog) (d k : Nat) : Nat := stageFld g d k 22 1

/-- The least and the greatest value that stream n of a body takes in the iterations of a run, over the tiles of an instance;
`ss` are the participant's definitions, and S3 starts from PARAM (R153, R188). None where it hangs on a launch parameter, or on
nothing. -/
def valueSpan (ss : List StreamF) (param tiles : Nat) (counts : List Nat) (n : Nat) : Option (Int × Int) :=
  (ss.reverse.find? fun y => y.s == n).bind fun y =>
    if (n == 3 && isStream 32 param) || (n != 3 && y.initParam) then none
    else
      let init : Int := if n = 3 then param else y.init.toNat
      let steps := [((counts.getD 0 1 : Nat), y.inc0.toInt), (counts.getD 1 1, y.inc1.toInt), (counts.getD 2 1, y.inc2.toInt),
        (tiles, y.inc3.toInt)].map fun (c, v) => ((c - 1 : Nat) : Int) * v
      some (init + (steps.map fun x => min x 0).foldl (· + ·) 0, init + (steps.map fun x => max x 0).foldl (· + ·) 0)

/-- One stage record (R186), and what R189 to R191 say of its body. A send base with SEND_LEN = 0, which the rule's table does not
refuse, is refused: nothing could be written to it (DESIGN CHOICE, log entry 61). The granules that a body names by immediate
values are judged here, those named by streams in streamsFit and at run time (R186). -/
def stageOk (g : Prog) (d k : Nat) : Bool :=
  let last := k + 1 == carStages g d
  let wb := stWinBase g d k
  let wl := stWinLen g d k
  let sb := stSendBase g d k
  let sl := stSendLen g d k
  let use := stAuxUse g d k
  let bo := stageFld g d k 4 4
  let bl := stageFld g d k 8 2
  let sized := fun (n : Nat) => n % 64 == 0 && 64 ≤ n && n ≤ 524288
  stVcore g d k < g.vcores && stageFld g d k 1 1 < 2 && !(k == 0 && stInToA g d k)
    && stageFld g d k 2 2 == 0 && stageFld g d k 23 1 == 0 && stageFld g d k 32 32 == 0
    && bo % 8 == 0 && bl % 8 == 0 && 8 ≤ bl && bl ≤ 4096 && bo + bl ≤ defSize g d
    && 1 ≤ use && use ≤ 896
    && (if k == 0 || stInToA g d k then wb == 0xFFFF else wb < use && 1 ≤ winCount g d k && wb + wl ≤ use)
    && (if last then sb == 0xFFFF
        else sb == 0xFFFF || ((stOutBytes g d k + 511) / 512 ≤ stSendPos g d k && 1 ≤ sl && sl % stSendPos g d k == 0
          && sb + sl ≤ use))
    && (wb == 0xFFFF || sb == 0xFFFF || wb + wl ≤ sb || sb + sl ≤ wb)
    && (if k == 0 then stInFmt g d k == 0xFF else stInFmt g d k ≤ 3 || stInFmt g d k == 0xFF)
    && (if k == 0 then stInBytes g d k == 0 else sized (stInBytes g d k) && stInBytes g d k == stOutBytes g d (k - 1))
    && (if last then stOutBytes g d k == 0 else sized (stOutBytes g d k))
    && (match bodyOf g d k with
      | none => true
      | some is =>
        is.all fun x =>
          let (r, w) := granSpans g x.2.1
          bodyAllows x.2.1 && (decide (x.1 + x.2.2.2 = bl / 8) == decide (x.2.1 = .endI))
            && ((r ++ w).all fun y => 2040 ≤ y.1 || y.1 + (y.2 + 511) / 512 ≤ use)
            && (match streamFin x.2.1 with
              | some f => wb != 0xFFFF && f == stInFmt g d k
              | none => true)
            && (sb == 0xFFFF || streamBytes x.2.1 == 0)
            && (match x.2.1 with
              | .opb f => f.adesc != 0xFFF || (stInToA g d k && stInFmt g d k ≤ 1 && (f.path < 2 || f.path == 4 || f.path == 5)
                  == (stInFmt g d k == 0))
              | _ => true))

/-- Virtual core and first word of the CARAVAN instructions that name definition d; 0 where none does. -/
def carSite (g : Prog) (d v : Nat) : Nat :=
  (((codeOf g v).find? fun x => match x.2.1 with
    | .caravan f => f.cdef == d
    | _ => false).map (·.1)).getD 0

/-- A piece of a virtual core's code. -/
abbrev Code := List (Nat × Tynte × Pred × Nat)

/-- Code before the first CARAVAN of definition d. -/
def beforeCar (d : Nat) (is : Code) : Code :=
  is.takeWhile fun x => match x.2.1 with
    | .caravan f => f.cdef != d
    | _ => true

/-- What the participant's own code executes before its CARAVAN of definition d, for each entry that comes to it; where none does,
the code that stands before it. -/
def carPaths (g : Prog) (d v : Nat) : List Code :=
  let from_ := ((List.range g.entries).filter fun e => g.start e v != 0xFFFFFFFF).map fun e => fromStart (g.start e v) (codeOf g v)
  let come := from_.filter fun is => (beforeCar d is).length < is.length
  if come.isEmpty then [beforeCar d (codeOf g v)] else come.map (beforeCar d)

/-- What the participant's own code leaves for the body: the table context (R157), and the tiles that its code uses, which the
body must fit (R160). -/
def bodyStart (g : Prog) (v : Nat) (before : Code) : Lin :=
  let tab := before.foldl (fun t x => match x.2.1 with
    | .tableSetup f => some f
    | _ => t) none
  (codeOf g v).foldl (fun (l : Lin) x => match x.2.1 with
    | .opb f => l.see f.tile f.slot
    | .drain f => l.see f.tile f.slot
    | _ => l) ⟨tab, false, false⟩

/-- The streams that a body finds defined (R188). -/
def bodyStreams (before : Code) : List StreamF :=
  before.filterMap fun x => match x.2.1 with
    | .stream f => some f
    | _ => none

/-- The first breach that one of the paths to a body meets. -/
def onPaths (g : Prog) (d v : Nat) (f : Code → Nat × Nat) : Nat × Nat :=
  (((carPaths g d v).map f).find? fun x => x.1 != 0).getD (0, 0)

/-- The format of the row operand that stage k of definition d receives into bank A. -/
def bodyRow (g : Prog) (d k : Nat) : Option Nat :=
  if stInToA g d k && stInFmt g d k ≤ 3 then some (inFormat (stInFmt g d k)) else none

/-- The stages of every definition. -/
def stagesOf (g : Prog) : List (Nat × Nat) :=
  (List.range (ndef g)).flatMap fun d => (List.range (carStages g d)).map fun k => (d, k)

/-- A check of every stage body as instructions (R187): the code of each breach, the virtual core of the stage, and the word of
its body (R148). -/
def bodiesCheck (g : Prog) (f : Nat → Nat → List (Nat × Tynte × Pred × Nat) → Nat × Nat) : List Check :=
  (stagesOf g).map fun (d, k) => let (c, w) := f d k ((bodyOf g d k).getD []); (c, stVcore g d k, w)

/-- Every word of a body decodes (R148). -/
def bodyWords (g : Prog) : List Check :=
  (stagesOf g).map fun (d, k) => match bodyOf g d k with
    | some _ => (0, 0, 0)
    | none =>
      let n := stageFld g d k 8 2 / 8
      let off := carDefOff g d + stageFld g d k 4 4
      (0x0313, stVcore g d k, badWord n 0 ((List.range n).map fun i => fieldOf g.image (off + 8 * i) 8))

/-- Step 5 of R175 on the bodies: control structure, streams, static bounds. -/
def bodyFlow (g : Prog) : List Check :=
  bodiesCheck g (fun d k is => breach 0x0314 (loopCheck (.body (bodyRow g d k)) none is))
    ++ bodiesCheck g (fun d k is => onPaths g d (stVcore g d k) fun before =>
      breach 0x0314 (streamCheck ((bodyStreams before).map (·.s)) is))
    ++ bodiesCheck g (fun _ _ is => breach 0x0317 (boundCheck g is))

/-! ### What a tile sends (R193) -/

/-- How often a run of a body executes in tile tau of n. -/
def bodyTimes (x : Run) (n tau : Nat) : Nat :=
  if !x.p.pen then x.iters else ((List.range x.iters).filter (runHolds x n tau)).length

/-- The lead CARAVANs of definition d: TILES and PARAM of each. Where none names it, any number of tiles. -/
def leadCars (g : Prog) (d : Nat) : List (Nat × Nat) :=
  let cs := (codeOf g (stVcore g d 0)).filterMap fun x => match x.2.1 with
    | .caravan f => if f.cdef = d then some (f.tiles, f.param) else none
    | _ => none
  if cs.isEmpty then [(2 ^ 32 - 1, 0)] else cs

/-- The value that a granule field of a body has in iteration j of a run, in tile tau of an instance with the given PARAM
(R153, R188); none where it hangs on a launch parameter or on another stream. -/
def fieldValue (ss : List StreamF) (param : Nat) (x : Run) (tau j f : Nat) : Option Int :=
  if f < 2040 then some f
  else
    let n := f - 2040
    let c0 := x.counts.getD 0 1
    let c1 := x.counts.getD 1 1
    (ss.reverse.find? fun y => y.s == n).bind fun y =>
      if (n == 3 && isStream 32 param) || (n != 3 && y.initParam) then none
      else
        let init : Int := if n = 3 then param else y.init.toNat
        some (init + (j % c0 : Nat) * y.inc0.toInt + (j / c0 % c1 : Nat) * y.inc1.toInt + (j / c0 / c1 : Nat) * y.inc2.toInt
          + tau * y.inc3.toInt)

/-- Bytes that tile tau of n sends: on the stream network, or by the writes into the send range. A write whose granule only a
launch fixes counts where `most` says so. -/
def tileSends (g : Prog) (ss : List StreamF) (most : Bool) (d k n param tau : Nat) (rs : List Run) : Nat :=
  let sb := stSendBase g d k
  let inRange := fun (v : Option Int) => match v with
    | some v => decide ((sb : Int) ≤ v) && decide (v < sb + stSendLen g d k)
    | none => most
  let ranged := fun (x : Run) => ((granSpans g x.t).2.map fun y =>
    if y.1 < 2040 then (if inRange (some (y.1 : Int)) then bodyTimes x n tau * y.2 else 0)
    else y.2 * ((List.range x.iters).filter fun j =>
      runHolds x n tau j && inRange (fieldValue ss param x tau j y.1)).length).foldl (· + ·) 0
  (rs.map fun x => if sb = 0xFFFF then bodyTimes x n tau * streamBytes x.t else ranged x).foldl (· + ·) 0

/-- R193 on a stage, on one path to its body. Where only a launch fixes the granule of a write, the write may be one into the send
range or not: it is a mismatch where OUT_BYTES can be met in neither case (DESIGN CHOICE, log entry 42), and the tags judge the
rest (R204). -/
def sizesOn (g : Prog) (d k : Nat) (before : Code) : Bool :=
  let rs := bodyRuns g d k
  let ss := bodyStreams before
  let ins := rs.filterMap fun x => match x.t with
    | .opb f => if f.adesc = 0xFFF then some (aBytes f.path f.blocks f.holdT) else none
    | _ => none
  ((leadCars g d).all fun (n, param) =>
      (if rs.any fun x => (granSpans g x.t).2.any fun y => 2040 ≤ y.1 then List.range n else [0, 1, 2, n - 1].filter (· < n)).all
        fun tau => tileSends g ss false d k n param tau rs ≤ stOutBytes g d k
          && stOutBytes g d k ≤ tileSends g ss true d k n param tau rs)
    && (!stInToA g d k || (!ins.isEmpty && ins.all (· == stInBytes g d k)))

/-- R193 on a stage. -/
def sizesOk (g : Prog) (d k : Nat) : Bool := (carPaths g d (stVcore g d k)).all (sizesOn g d k)

/-- The granules that a body names by streams lie below AUX_USE (R186), where the module fixes their values and no predicate
chooses among the iterations. -/
def streamsFit (g : Prog) (d k : Nat) : Bool :=
  (bodyRuns g d k).all fun x => x.p.pen ||
    let (r, w) := granSpans g x.t
    (r ++ w).all fun y => y.1 < 2040 ||
      (carPaths g d (stVcore g d k)).all fun before => (leadCars g d).all fun (n, param) =>
        match valueSpan (bodyStreams before) param n x.counts (y.1 - 2040) with
        | some (lo, hi) => 0 ≤ lo && hi + ((y.2 + 511) / 512 : Nat) ≤ stAuxUse g d k
        | none => true

/-! ### Slots (R201) -/

/-- When a run of a body is executed for the last time in an instance of n tiles: the tile, the place of its loop or its own in
the body, the iteration, and its own place. -/
def lastTime (x : Run) (n : Nat) : Option (Nat × Nat × Nat × Nat) :=
  if x.p.pen && x.p.plev = 3 then (lastRound x.p n).bind (lastIn x n) else lastIn x n (n - 1)

/-- Every slot that a body starts is drained by the end of its last tile (R201). -/
def slotsDrained (g : Prog) (d k : Nat) : Bool :=
  let rs := bodyRuns g d k
  (leadCars g d).all fun (n, _) => (slotsUsed g d k).all fun slot =>
    let opbs := rs.filter fun x => match x.t with
      | .opb f => f.slot == slot
      | _ => false
    let drains := rs.filter fun x => match x.t with
      | .drain f => f.slot == slot
      | _ => false
    opbs.all fun x => match lastTime x n with
      | none => true
      | some a => drains.any fun y => (lastTime y n).any (sooner a)

/-! ### Participants (R194) -/

/-- The CARAVANs that a virtual core executes in one phase, in order: the definition and TILES of each. -/
def carSeq (rs : List Run) (ph : Nat) : List (Nat × Nat) :=
  let named := fun (x : Run) => match x.t with
    | .caravan f => some (f.cdef, f.tiles)
    | _ => none
  rs.flatMap fun x =>
    if x.phase != ph then []
    else match x.t with
      | .caravan _ => if x.loopId = 0 then (named x).toList else []
      | .loop _ =>
        let inner := rs.filter fun y => y.loopId == x.pos + 1
        (List.range ((inner.head?.map Run.iters).getD 0)).flatMap fun k =>
          inner.filterMap fun y => if holdsAt y k then named y else none
      | _ => []

/-- What a participant may execute in a phase with a CARAVAN. -/
def carPhaseAllows (t : Tynte) : Bool :=
  match t with
  | .caravan _ => true
  | .stream _ => true
  | .loop _ => true
  | .endloop => true
  | .nop => true
  | .endI => true
  | .barrier => true
  | _ => false

/-- R194 on one entry. -/
def participantsOk (g : Prog) (progs : List (Nat × List Run)) : Bool :=
  let phases := (progs.flatMap fun x => x.2.map Run.phase).dedup
  let ds := List.range (ndef g)
  let seq := fun (v ph : Nat) => ((progs.find? fun x => x.1 == v).map fun x => (carSeq x.2 ph).map (·.1)).getD []
  phases.all fun ph =>
    (progs.all fun x => (seq x.1 ph).all fun d => (participants g d).contains x.1)
      && (ds.all fun d => (participants g d).all fun v =>
        ((seq v ph).filter (· == d)).length == ((seq (stVcore g d 0) ph).filter (· == d)).length)
      && (ds.all fun d => ds.all fun e => d == e ||
        let both := (participants g d).filter (participants g e).contains
        both.all fun v => both.all fun w =>
          (seq v ph).filter (fun y => y == d || y == e) == (seq w ph).filter (fun y => y == d || y == e))
      && (progs.all fun x => (seq x.1 ph).isEmpty ||
        x.2.all fun r => r.phase != ph || r.times == 0 || carPhaseAllows r.t)

/-- A CARAVAN of a participant other than the lead has a word 1 of 0; a lead's has TILES above 0. -/
def carInstr (g : Prog) (v : Nat) (t : Tynte) : Nat :=
  match t with
  | .caravan f =>
    if ndef g ≤ f.cdef then 0x0410
    else if stVcore g f.cdef 0 == v then (if f.tiles = 0 then 0x0410 else 0)
    else if f.tiles != 0 || f.param != 0 then 0x0411 else 0
  | _ => 0

/-- A check of every stage that names the CARAVAN of its participant. -/
def stagesCheck (g : Prog) (code : Nat) (ok : Nat → Nat → Bool) : List Check :=
  (stagesOf g).map fun (d, k) =>
    let v := stVcore g d k
    if ok d k then (0, 0, 0) else (code, v, carSite g d v)

/-- Step 4 of R175 on caravans (R185 to R191, R201): the CARAVAN instructions, the definitions, the stage records. -/
def carForm (g : Prog) : List Check :=
  let sites := (coresCheck g fun v is => breach 0x0410 ((is.find? fun x => carInstr g v x.2.1 == 0x0410).map (·.1)))
  if !defsOk g then [(0x0410, 0, 0)]
  else sites ++ stagesCheck g 0x0410 fun d k => (participants g d).Nodup && stageOk g d k

/-- The checks of R193, R194 and R201 on a module. -/
def caravanCheck (g : Prog) : List Check :=
  stagesCheck g 0x0410 (fun d k => slotsDrained g d k && streamsFit g d k)
    ++ (coresCheck g fun v is => breach 0x0411 ((is.find? fun x => carInstr g v x.2.1 == 0x0411).map (·.1)))
    ++ (entryRuns g).map (fun rs => (if participantsOk g rs then 0 else 0x0411, 0, 0))
    ++ stagesCheck g 0x0413 (sizesOk g)

/-! ### Index balance (R174) -/

/-- Index entries that a body feeds and consumes in an instance of n tiles. -/
def bodyIndex (g : Prog) (d k n : Nat) : Nat × Nat :=
  (bodyRuns g d k).foldl (fun (f, u) x =>
    let times := if !x.p.pen || x.p.plev != 3 then n * bodyTimes x n 0
      else x.iters * ((List.range n).filter fun tau => runHolds x n tau 0).length
    (f + times * (indexFlow x.t).1, u + times * (indexFlow x.t).2)) (0, 0)

/-- In every phase the index entries that a virtual core of an entry is fed equal those that it consumes, in its own code and
in the bodies that it runs there (R174, R187). -/
def indexOk (g : Prog) (progs : List (Nat × List Run)) (v : Nat) (rs : List Run) : Bool :=
  let seq := fun (w ph : Nat) => ((progs.find? fun x => x.1 == w).map fun x => carSeq x.2 ph).getD []
  (rs.map Run.phase).dedup.all fun ph =>
    let own := (rs.filter fun x => x.phase == ph).map fun x => ((indexFlow x.t).1 * x.times, (indexFlow x.t).2 * x.times)
    let bodies := (List.range (ndef g)).flatMap fun d =>
      ((List.range (carStages g d)).filter fun k => stVcore g d k == v).flatMap fun k =>
        ((seq (stVcore g d 0) ph).filter fun y => y.1 == d).map fun y => bodyIndex g d k y.2
    ((own ++ bodies).map (·.1)).foldl (· + ·) 0 == ((own ++ bodies).map (·.2)).foldl (· + ·) 0

/-- R174 on a module. -/
def indexCheck (g : Prog) : List Check :=
  (entryRuns g).flatMap fun rs => rs.map fun (v, r) => if indexOk g rs v r then (0, 0, 0) else (0x031C, v, 0)

/-- Steps 4 and 5 of R175 on a Tynte module: header, descriptors and every instruction, those of the stage bodies among them;
then control structure, static bounds, code size, synchronization and index balance. -/
def moduleCheck (g : Prog) (size cap : Nat) : Check :=
  if !headerOk g size then (0x0310, 0, 0)
  else if !descsOk g cap then (0x0312, 0, 0)
  else firstFail (wordsCheck g ++ carForm g ++ bodyWords g
    ++ coresCheck g (fun _ is => if int8DestOk g is then (0, 0) else (0x0312, 0))
    ++ bodiesCheck g (fun _ _ is => if int8DestOk g is then (0, 0) else (0x0312, 0))
    ++ coresCheck g (fun _ is => instrCheck g none ⟨none, false, false⟩ is)
    ++ bodiesCheck g (fun d k is => onPaths g d (stVcore g d k) fun before =>
      instrCheck g (bodyRow g d k) (bodyStart g (stVcore g d k) before) is)
    ++ flowCheck g ++ bodyFlow g ++ indexCheck g)

/-! ### Placement of caravans (R196) -/

/-- 4 KiB granules of bank A that a stage takes: one position of its window, and the largest row operand that it fills from a
tensor. How many positions and operands it holds at once is the translator's choice (DESIGN CHOICE, log entry 42). -/
def bankANeed (g : Prog) (d k : Nat) : Nat :=
  (if stInToA g d k then (stInBytes g d k + 4095) / 4096 else 0)
    + (((bodyOf g d k).getD []).map fun x => match x.2.1 with
      | .opb f => if f.adesc = 0xFFF then 0 else aGranules f.path f.blocks f.holdT
      | _ => 0).foldl max 0

/-- The words of stage k's body. -/
def bodyCodeWords (g : Prog) (d k : Nat) : List Nat :=
  (List.range (stageFld g d k 8 2 / 8)).map fun i => fieldOf g.image (carDefOff g d + stageFld g d k 4 4 + 8 * i) 8

/-- R196 on a placement: co-hosted stages of one definition fit their core. The native code of a phase is that of the stages'
bodies and of their participants' own code, where several share a core (R141 bounds that of one). -/
def carPlaced (g : Prog) (place : List (Nat × Bool)) : Bool :=
  (List.range (ndef g)).all fun d =>
    let ks := List.range (carStages g d)
    let core := fun (k : Nat) => (place.getD (stVcore g d k) (0, false)).1
    ks.all fun k =>
      let here := ks.filter fun j => core j == core k
      let sum := fun (f : Nat → Nat) => (here.map f).foldl (· + ·) 0
      let index := fun (j : Nat) => ((bodyOf g d j).getD []).any fun x => indexFlow x.2.1 != (0, 0)
      sum (bodySlots g d) ≤ 4 && sum (stAuxUse g d) ≤ 896 && sum (bankANeed g d) ≤ 192 && (here.filter index).length ≤ 1
        && (here.length ≤ 1 ||
          sum (fun j => Config.codeSize (bodyCodeWords g d j ++ codeWords g (stVcore g d j))) ≤ 65536)

/-! ### Micro-batch spans (R226) -/

/-- The numbers of the stretches between BARRIERs and ENDs of a virtual core's code that hold a CARAVAN. -/
def carPhases : Nat → List (Nat × Tynte × Pred × Nat) → List Nat
  | _, [] => []
  | ph, (_, t, _, _) :: r =>
    match t with
    | .caravan _ => ph :: carPhases ph r
    | .barrier => carPhases (ph + 1) r
    | .endI => carPhases (ph + 1) r
    | _ => carPhases ph r

/-- A micro-batch span that is open: whether it began inside the loop body that is open, and in which phase. -/
structure Span where
  inLoop : Bool
  phase : Nat
deriving DecidableEq, Repr

/-- A virtual core's code against R226: the word of the first breach. `cars` are its phases with a CARAVAN, of which no span
may cover a part. A CARAVAN names what its participant's stage bodies name. The rule speaks of the code, and the code is read as
it stands in the module: an entry that begins inside a span is not refused here (DESIGN CHOICE, log entry 61). -/
def spanBreach (g : Prog) (v : Nat) (cars : List Nat) :
    Option Span → Bool → Nat → List (Nat × Tynte × Pred × Nat) → Option Nat
  | _, _, _, [] => none
  | span, inLoop, ph, (w, t, _, _) :: r =>
    let names := namesVersioned g t || (match t with
      | .caravan f => (List.range (carStages g f.cdef)).any fun k => stVcore g f.cdef k == v &&
          ((bodyOf g f.cdef k).getD []).any fun x => namesVersioned g x.2.1
      | _ => false)
    if span.isNone && names then some w
    else match t with
      | .mbBegin _ _ => if span.isSome then some w else spanBreach g v cars (some ⟨inLoop, ph⟩) inLoop ph r
      | .mbEnd _ _ =>
        match span with
        | none => some w
        | some x =>
          if x.inLoop != inLoop || (x.phase != ph && (cars.contains x.phase || cars.contains ph)) then some w
          else spanBreach g v cars none inLoop ph r
      | .loop _ => spanBreach g v cars span true ph r
      | .endloop => if span.any (·.inLoop) then some w else spanBreach g v cars span false ph r
      | .stepEnd _ => if span.isSome then some w else spanBreach g v cars span inLoop ph r
      | .endI => if span.isSome then some w else spanBreach g v cars span inLoop (ph + 1) r
      | .barrier => spanBreach g v cars span inLoop (ph + 1) r
      | _ => spanBreach g v cars span inLoop ph r

/-- R226 on a module. -/
def spansCheck (g : Prog) : Check :=
  firstFail (coresCheck g fun v is => breach 0x0511 (spanBreach g v (carPhases 0 is) none false 0 is))

/-! ### Version entries and master records (R231, R253) -/

/-- R231 on a VERSIONED descriptor. RETIRING and WRITING are the host's where no update of the tensor is under way. -/
def versionOk (s : State) (p cap : Nat) (t : TDesc) : Bool :=
  match versionOf s p t.base with
  | none => false
  | some i =>
    let busy := s.oasActive.any fun x => x.req.part == p && x.req.wt.base == t.base
    let tagged := fun (k : Nat) => slotState s p i k != 1 || tagWritten s p i k
    (busy || (slotState s p i 0 < 2 && slotState s p i 1 < 2)) && tagged 0 && tagged 1 && (t.at (versionDelta s p i)).ok cap

/-- The descriptors of a program that are VERSIONED. -/
def versionsOk (s : State) (p cap : Nat) (g : Prog) : Bool :=
  (List.range (fieldOf g.image (if g.isNative then 24 else 18) 2)).all fun i =>
    match g.desc i with
    | some t => !t.versioned || versionOk s p cap t
    | none => true

/-- An entry (η, λ) of a schedule table that R253 accepts. -/
def scheduleEntryOk (eta lambda : Nat) : Bool :=
  let ok := fun (x : Nat) => f32finite x && (x < 2 ^ 31 || x % 2 ^ 31 == 0)
  ok eta && ok lambda && f32finite (f32mul eta lambda)

/-- R253 on one UPDATE: its code. -/
def updateCode (s : State) (p : Nat) (g : Prog) (f : UpdateF) : Nat :=
  match g.desc f.wdesc, g.desc f.vdesc with
  | some w, some v =>
    if !s.on (Reg.OAS_CTRL_ENABLE p) then 0x0601
    else match masterOf s p w.base with
      | none => 0x0610
      | some i =>
        let region := s.get (Reg.OAS_SLOW_REGION_SIZE p) * 2 ^ 30
        let n := masterN s p i
        let inside := fun (o : Nat) => masterFld s p i o 5 + masterBytes s p i ≤ region
        if n != w.dim 0 || masterKB s p i != w.dim 1 || !inside 20 || !inside 25 then 0x0610
        else if v.format != 0x0B || v.rank != 2 || v.dim 0 != n || v.dim 1 != 32 * masterKB s p i then 0x0613
        else if (List.range (g.constAt (f.sched + 4) 4)).all fun k =>
            scheduleEntryOk (g.constAt (f.sched + 16 + 8 * k) 4) (g.constAt (f.sched + 20 + 8 * k) 4) then 0
        else 0x0612
  | _, _ => 0

/-- R253 on a module. -/
def updatesCheck (s : State) (p : Nat) (g : Prog) : Check :=
  firstFail ((List.range g.vcores).flatMap fun v => (codeOf g v).map fun x => match x.2.1 with
    | .update f => (updateCode s p g f, v, x.1)
    | _ => (0, 0, 0))

/-- The capacity that partition p reports. -/
def partBytes (s : State) (p : Nat) : Nat := s.get (Reg.MEM_PART_MAP_PAGES p) * frameBytes

/-- Steps 4 and 5 of R175 with the checks that other chapters add to a load. -/
def loadCheck (s : State) (p : Nat) (g : Prog) (size : Nat) : Check :=
  firstFail ([moduleCheck g size (partBytes s p), spansCheck g] ++ caravanCheck g ++
    [(if versionsOk s p (partBytes s p) g then 0 else 0x0522, 0, 0), updatesCheck s p g])

/-! ### Placement (R134, R135, R362) -/

/-- Paired mode is asked for (R362). -/
def pairedMode (s : State) (p : Nat) : Bool := s.on (Reg.HLT_PAIR_CTRL_ENABLE p)

/-- The cores that R134 places on: the list L, or the primaries of its pairs. -/
def placeCores (s : State) (p : Nat) : List Nat :=
  if pairedMode s p then (pairsOf (placeList s p)).map (·.1) else placeList s p

/-- The placement of a program on the cores as they stand. In paired mode no virtual core is gang-eligible. -/
def placement (s : State) (p : Nat) (g : Prog) : List (Nat × Bool) :=
  placeOn g.vcores (fun v => !pairedMode s p && gangEligible g v) (placeCores s p)

/-- Why a placement is refused, 0 if it is not (R135, R181, R196): too few cores, or a native image's shape. -/
def placeCode (s : State) (p : Nat) (g : Prog) : Nat :=
  let n := (placeCores s p).length
  if g.isNative then
    let gangs := if pairedMode s p then 0 else (gangsOf (placeCores s p)).length
    if n < g.minCores || gangs < fieldOf g.image 14 1 then 0x031B else 0
  else if n < g.minCores then 0x0311
  else if !carPlaced g (placement s p g) then 0x0412
  else 0

/-- Most virtual cores placed on one core. -/
def foldOf (place : List (Nat × Bool)) : Nat :=
  (place.map fun x => (place.filter fun y => y.1 == x.1).length).foldl max 0

/-- The 256 bytes of the translation record (R176). TENANT_TAG is the header's. -/
def recordBytes (g : Prog) : List Byte :=
  g.digest ++ leBytes 2 g.live ++ leBytes 1 g.gangs ++ leBytes 1 (foldOf g.place) ++ List.replicate 12 0
    ++ ((List.range 128).flatMap fun v => match g.place[v]? with
      | some (c, gang) => leBytes 1 (c + if gang then 128 else 0)
      | none => leBytes 1 0xFF)
    ++ sliceOf g.image 64 64

/-- The program placed on the cores as they stand (R175 steps 6 and 7). -/
def placed (s : State) (p : Nat) (g : Prog) : Prog :=
  let pl := placement s p g
  { g with place := pl, live := (placeList s p).length, gangs := (pl.filter (·.2)).length, marked := false }

end Sys2Proof.Machine
end

