-- ==== Sys2Proof/Machine/Queue.lean ====
section
/-!
DEFINITION. Host queues and host commands (R313 to R324): configuration, doorbells, acceptance, copies, loads, launches and
aborts; placement again and the start of a launch (R133 to R137, R175 to R181, R247, R285, R362, R364).
-/

namespace Sys2Proof.Machine

/-! ### Registers and doorbells (R314 to R316) -/

/-- A write of QUE_SEL. -/
def queSel (s : State) (x : Wr) : State := storeAll s x

/-- QUE_SEL_WRITE (R314). -/
def execQueSelWrite (w : HostWr) (s : State) : Res := .next (hostWrite s 0x100800 w queSel)

/-- The queue of a context register: its key counts from the queue's base. -/
def keyQueue (key : Nat) : Nat := (key - queueBase 0) / (queueBase 1 - queueBase 0)

/-- A write of QUE_SQ_BASE or QUE_CQ_BASE: kept while the queue is enabled (R315). -/
def queBase (s : State) (x : Wr) : State :=
  if s.on (Reg.QUE_CFG_ENABLE (keyQueue x.key)) then
    if x.vals.any fun v => changes (fun f => s.get (f.fld x.key)) v then wrRecord s (portLast x.w.port) 0x0817 x [] else s
  else storeAll s x

/-- What ENABLE of a queue needs (R315). -/
def queueOk (s : State) (q : Nat) : Bool :=
  allWritten s [Reg.QUE_SQ_BASE_ADDR q, Reg.QUE_CQ_BASE_ADDR q, Reg.QUE_CFG_SQ_LOG q, Reg.QUE_CFG_CQ_LOG q, Reg.QUE_CFG_VECTOR q]
    && 4 ≤ s.get (Reg.QUE_CFG_SQ_LOG q) && s.get (Reg.QUE_CFG_SQ_LOG q) ≤ 16
    && 4 ≤ s.get (Reg.QUE_CFG_CQ_LOG q) && s.get (Reg.QUE_CFG_CQ_LOG q) ≤ 16

/-- The rings of a queue that goes into service. -/
def openQueue (s : State) (q : Nat) : State :=
  let s := [Reg.QUE_STATE_SQ_HEAD q, Reg.QUE_STATE_SQ_TAIL q, Reg.QUE_STATE_CQ_HEAD q, Reg.QUE_STATE_CQ_TAIL q].foldl
    (fun s f => s.put f 0) s
  let s := (s.put (Reg.QUE_STATUS_PHASE q) 1).put (Reg.QUE_CFG_ENABLE q) 1
  queueFlags { s with unsig := SMap.set 0 s.unsig q 0 } q

/-- A write of QUE_CFG (R315). -/
def queCfg (s : State) (x : Wr) : State :=
  let q := keyQueue x.key
  let was := s.on (Reg.QUE_CFG_ENABLE q)
  let kept := fun (v : FRow × Nat) => v.1.lo == 8 || v.1.lo == 16 || v.1.lo == 32
  let busy := was && x.vals.any fun v => kept v && changes (fun f => s.get (f.fld x.key)) v
  let s := if busy then wrRecord s (portLast x.w.port) 0x0817 x [] else s
  let s := storeBut s x (if was then [0, 8, 16, 32] else [0])
  match x.val 0 with
  | some 1 =>
    if was then s
    else if queueOk s q then openQueue s q
    else wrRecord s (portLast x.w.port) 0x0801 x []
  | some _ => queueFlags (s.put (Reg.QUE_CFG_ENABLE q) 0) q
  | none => s

/-- QUE_CFG_WRITE (R315). -/
def execQueCfgWrite (w : HostWr) (s : State) : Res := .next (hostWrite s 0x100818 w queCfg)

/-- A ring position moves on from `old` to `new` without passing `lim`, in a ring of n (R316). -/
def ringMove (n old new lim : Nat) : Bool := new < n && (new + n - old) % n ≤ (lim + n - old) % n

/-- The halves that a doorbell write sets: SQ_TAIL and CQ_HEAD. -/
def doorbellHalves (w : HostWr) : Option Nat × Option Nat :=
  match w.size with
  | .full => (some (bitsOf w.data.toNat 0 16), some (bitsOf w.data.toNat 32 16))
  | .low => (some (bitsOf w.data.toNat 0 16), none)
  | .high => (none, some (bitsOf w.data.toNat 0 16))

/-- The doorbell of queue q is taken (R316, R397). SQ_TAIL may go up to the entry before SQ_HEAD. -/
def doorbellOk (s : State) (q : Nat) (w : HostWr) : Bool :=
  let n := 2 ^ s.get (Reg.QUE_CFG_SQ_LOG q)
  let m := 2 ^ s.get (Reg.QUE_CFG_CQ_LOG q)
  let (t, h) := doorbellHalves w
  queueOf s w.port q && s.on (Reg.QUE_CFG_ENABLE q) && partState s (queuePart s q) == 3
    && (t.all fun t => ringMove n (s.get (Reg.QUE_STATE_SQ_TAIL q)) t ((s.get (Reg.QUE_STATE_SQ_HEAD q) + n - 1) % n))
    && (h.all fun h => ringMove m (s.get (Reg.QUE_STATE_CQ_HEAD q)) h (s.get (Reg.QUE_STATE_CQ_TAIL q)))

/-- DOORBELL_WRITE (R316): `off` is the offset in BAR2. -/
def execDoorbellWrite (off : Nat) (w : HostWr) (s : State) : Res :=
  let q := off / 8
  if 65536 ≤ q || off % 8 != 0 || stage s = 0 then .next s
  else if doorbellOk s q w then
    let (t, h) := doorbellHalves w
    let s := match t with
      | some t => s.put (Reg.QUE_STATE_SQ_TAIL q) t
      | none => s
    let s := match h with
      | some h => s.put (Reg.QUE_STATE_CQ_HEAD q) h
      | none => s
    .next (queueFlags s q)
  else
    let part := if s.on (Reg.QUE_BLOCK_ASSIGNED (q / 256)) then queuePart s q else 0xFF
    let last := portLast w.port ++ (if queueOf s w.port q then [Reg.QUE_STATUS_LAST_CODE q] else [])
    .next (raise s last (accessRec 0x0814 part 0xFF w 2 (off + (if w.size = .high then 4 else 0))))

/-- INTERRUPT_AGGREGATION_TIMEOUT (R321): AGG_TIME has run since the first unsignalled record of queue q. -/
def execInterruptAggregationTimeout (q : QueueId) (s : State) : Res :=
  if s.on (Reg.QUE_CFG_INT_EN q) && s.on (Reg.QUE_CFG_AGG_TIME q) && SMap.get 0 s.unsig q != 0 then
    .next (sendMsix { s with unsig := SMap.set 0 s.unsig q.val 0 } (Port.ofBit (s.get (Reg.QUE_BLOCK_PORT (q / 256))))
      (s.get (Reg.QUE_CFG_VECTOR q)))
  else .next s

/-! ### Acceptance (R317, R319) -/

/-- The bytes of a command outside the listed ones are 0: `used` lists (offset, length). -/
def operandsClean (raw : List Byte) (used : List (Nat × Nat)) : Bool :=
  (List.range 56).all fun i => (used.any fun u => u.1 ≤ i + 8 && i + 8 < u.1 + u.2) || raw.getD (i + 8) 0 == 0

/-- The two ranges of a COPY_DEVICE overlap. -/
def rangesClash (a b n : Nat) : Bool := a < b + n && b < a + n

/-- The fetch check of a command (R319): 0, 0x0810, or 0x0811 where the only fault is alignment. -/
def fetchCode (raw : List Byte) : Nat :=
  let f := fun (o n : Nat) => fieldOf raw o n
  let flags := f 1 1
  let head := flags % 2 + 4 * bitsOf flags 2 2 == flags && bitsOf flags 2 2 != 3 && f 2 2 == 0
  let clean := operandsClean raw
  let len := f 24 8
  let lenOk := 64 ≤ len && len ≤ 2 ^ 40 - 64
  let al := fun (xs : List Nat) => xs.all fun x => x % 64 == 0
  let judge := fun (ok aligned : Bool) => if !head || !ok then 0x0810 else if aligned then 0 else 0x0811
  match f 0 1 with
  | 0x00 => judge (clean []) true
  | 0x01 => judge (clean [(8, 8), (16, 5), (24, 8)] && lenOk) (al [f 8 8, f 16 5, len])
  | 0x02 => judge (clean [(8, 8), (16, 5), (24, 8)] && lenOk) (al [f 8 8, f 16 5, len])
  | 0x03 => judge (clean [(8, 5), (16, 5), (24, 8)] && lenOk && !rangesClash (f 8 5) (f 16 5) len) (al [f 8 5, f 16 5, len])
  | 0x10 => judge (clean [(8, 1), (16, 8), (24, 4), (32, 5)] && f 8 1 ≤ 63) (al [f 16 8, f 24 4, f 32 5])
  | 0x11 => judge (clean [(8, 1), (16, 8), (24, 4)] && f 8 1 ≤ 63) (al [f 16 8, f 24 4])
  | 0x12 => judge (clean [(8, 1)] && f 8 1 ≤ 63) true
  | 0x13 => judge (clean [(8, 2), (16, 16)] && f 8 1 ≤ 63) true
  | 0x20 => judge (clean [(8, 2), (12, 4)]) true
  | _ => 0x0810

/-- The command at SQ_HEAD of queue q may be accepted (R317, R397). -/
def canAccept (s : State) (q : Nat) : Bool :=
  s.on (Reg.QUE_BLOCK_ASSIGNED (q / 256)) && s.on (Reg.QUE_CFG_ENABLE q) && partState s (queuePart s q) == 3
    && s.on (Reg.QUE_PORT_STATUS_LINK_UP (Port.ofBit (s.get (Reg.QUE_BLOCK_PORT (q / 256)))))
    && s.get (Reg.QUE_STATE_SQ_HEAD q) != s.get (Reg.QUE_STATE_SQ_TAIL q)
    && cqHeld s q < 2 ^ s.get (Reg.QUE_CFG_CQ_LOG q) - 1

/-- The queues that are enabled, ascending. -/
def enabledQueues (s : State) : List Nat :=
  s.regs.filterMap fun e =>
    let q := keyQueue (e.1 / 64)
    if queueBase 0 ≤ e.1 / 64 && e.1 == (Reg.QUE_CFG_ENABLE q).id then some q else none

/-- The queue that port b's block serves next (R317): the one that it visits, up to 4 commands; then the next that it can take a
command of, in ascending order, wrapping. -/
def blockQueue (s : State) (b : Port) : Option Nat :=
  let (q, n) := SMap.get (65535, 4) s.visits b.num
  let ok := fun (q : Nat) => queueOf s b q && canAccept s q
  if n < 4 && ok q then some q
  else
    let qs := (enabledQueues s).filter ok
    (qs.find? (q < ·)).or qs.head?

/-- Queue q is served once more in port b's visit. -/
def blockVisit (s : State) (b : Port) (q : Nat) : State :=
  let (r, n) := SMap.get (65535, 4) s.visits b.num
  { s with visits := SMap.set (65535, 4) s.visits b.num (q, if q = r && n < 4 then n + 1 else 1) }

/-- COMMAND_ACCEPT (R317): the host interface block takes the command at SQ_HEAD of queue q, whose turn it is. `bytes` is what
host memory answers; of a command that it does not answer the identifier is a free value. -/
def execCommandAccept (q : QueueId) (bytes : Option (List Byte)) (s : State) : Res :=
  if canAccept s q && blockQueue s (Port.ofBit (s.get (Reg.QUE_BLOCK_PORT (q / 256)))) == some q.val then
    let p := queuePart s q
    let b := Port.ofBit (s.get (Reg.QUE_BLOCK_PORT (q / 256)))
    let seq := SMap.get 0 s.seqs p
    let size := 2 ^ s.get (Reg.QUE_CFG_SQ_LOG q)
    let raw := (bytes.getD []).take 64 ++ List.replicate (64 - ((bytes.getD []).take 64).length) 0
    let s := blockVisit { s with seqs := SMap.set 0 s.seqs p ((seq + 1) % 2 ^ 32) } b q
    let s := s.put (Reg.QUE_STATE_SQ_HEAD q) ((s.get (Reg.QUE_STATE_SQ_HEAD q) + 1) % size)
    let s := s.put (Reg.QUE_STATUS_INFLIGHT q) (s.get (Reg.QUE_STATUS_INFLIGHT q) + 1)
    let s := s.bumpWrap (Reg.QUE_PORT_STATUS_ACCEPTED b) 1
    let cmd := cmdFrom q b raw
    match bytes with
    | none =>
      let (cid, s) := s.draw
      .next (failCmd (s.setCmd p seq { cmd with cid := cid % 2 ^ 32 }) (portLast b) p seq { code := 0x0812 } 0)
    | some _ =>
      let s := recordOrder (queueFlags (s.setCmd p seq cmd) q) p seq q b.num raw
      let code := fetchCode raw
      .next (if code = 0 then s else failCmd s (portLast b) p seq { code := code } (if cmd.op = 0x13 then launchDetail 0 0xFF 0xFF else 0))
  else .next s

/-! ### Refusals at the start of a command -/

/-- A command ends FAILED as it starts. -/
def refuseCmd (s : State) (p seq code : Nat) (detail : List Nat) : State :=
  let c := s.cmd p seq
  failCmd s (chapterLast p c.port code) p seq { code := code, detail := detail } (if c.op = 0x13 then launchDetail 0 0xFF 0xFF else 0)

/-- The module area is configured (R182: 0x0301). -/
def areaReady (s : State) (p : Nat) : Bool :=
  s.on (Reg.SEQ_MODULE_CTRL_ENABLE p) && allWritten s [Reg.SEQ_MODULE_BASE_BASE p, Reg.SEQ_MODULE_CTRL_SIZE p]

/-- What refuses a load or a launch whatever it names (R372, R290, R182). -/
def commonRefusal (s : State) (p : Nat) : Nat :=
  if ochre s then 0x0A41
  else if faultedCode s p != 0 then faultedCode s p
  else if !areaReady s p then 0x0301
  else 0

/-- HOST_NOP (R319): it commits as it starts. -/
def execHostNop (p : Part) (seq : Nat) (s : State) : Res :=
  if mayStart s p seq 0x00 then .next (completeCmd s p seq 0) else .next s

/-! ### Copies (R320) -/

/-- The pieces (offset, length) of a copy of n bytes: at most 1 MiB, crossing no page boundary of the partition offsets
`xs`. The fuel is the number of pieces. -/
def pieces (xs : List Nat) : Nat → Nat → Nat → List (Nat × Nat)
  | 0, _, _ => []
  | f + 1, o, n =>
    if n = 0 then []
    else
      let m := (xs.map fun x => frameBytes - (x + o) % frameBytes).foldl min (min n 0x100000)
      (o, m) :: pieces xs f (o + m) (n - m)

/-- The core, the channel and the ring of the j-th piece of a command in the erg of its deciding frame; none where every
core of the module is Grey. -/
def pieceHome (s : State) (p erg j : Nat) : Option (Nat × Nat × Nat) :=
  let mine := upCores s p
  let here := mine.filter fun c => c / 16 == erg
  let up := (List.range 128).filter fun c => coreState s c != 2
  let near := up.filter fun c => c / 16 == erg
  let at_ := fun (cs : List Nat) (dq : Nat) =>
    let c := cs.getD (j % cs.length) 0
    (c, 12 + j / cs.length % 2, dqKey (c / 16) dq)
  if !here.isEmpty then some (at_ here p)
  else if !mine.isEmpty then some (at_ (mine.take 1) p)
  else if !near.isEmpty then some (at_ (near.take 1) 16)
  else if !up.isEmpty then some (at_ (up.take 1) 16)
  else none

/-- The descriptor of a piece of a host command. -/
def pieceDesc (s : State) (p seq core chan src dst len srcSp dstSp : Nat) : Desc :=
  { src := src, dst := dst, len := len, srcSp := srcSp, dstSp := dstSp, prio := (s.cmd p seq).prio, chan := chan,
    lcore := core % 16, tag := 0, skew := 0, record := false, cq := 0, cookie := 0, seq := seq, part := p, firmware := false,
    bad := false, fill := .plain, shift := 0, rel := false, vcore := 0xFF, iid := 0 }

/-- The pieces of a copy enter their rings: `base` is the partition offset of the deciding frames. -/
def pushPieces (s : State) (p seq src dst srcSp dstSp base : Nat) (ps : List (Nat × Nat)) : State :=
  (ps.foldl (fun (x : State × SMap Nat) (o, n) =>
    let (s, count) := x
    let erg := ((xlate s p (base + o)).getD 0) / ergBytes
    let j := SMap.get 0 count erg
    match pieceHome s p erg j with
    | some (c, ch, k) =>
      (pushDescOn s k (pieceDesc s p seq c ch (src + o) (dst + o) n srcSp dstSp), SMap.set 0 count erg (j + 1))
    | none => x) (s, [])).1

/-- A copy starts (R320): `offs` are its partition offsets, the deciding one first. -/
def startCopy (s : State) (p seq src dst len srcSp dstSp : Nat) (offs : List Nat) : State :=
  if !s.on Reg.MEM_INTERLEAVE_VALID then refuseCmd s p seq 0x0701 []
  else match offs.findSome? fun x => firstBad s p x len with
  | some o => refuseCmd s p seq 0x0710 [o, o / frameBytes, p]
  | none =>
    if (List.range 128).all fun c => coreState s c == 2 then refuseCmd s p seq 0x0A20 []
    else
      let ps := pieces offs (4 * (len / 0x100000) + 8) 0 len
      let s := s.setCmd p seq { s.cmd p seq with phase := .running, left := ps.length }
      pushPieces s p seq src dst srcSp dstSp (offs.headD 0) ps

/-- COPY_TO_DEVICE (R320). -/
def execCopyToDevice (p : Part) (seq : Nat) (s : State) : Res :=
  let raw := (s.cmd p seq).raw
  if mayStart s p seq 0x01 then
    .next (if ochre s then refuseCmd s p seq 0x0A41 []
      else startCopy s p seq (fieldOf raw 8 8) (fieldOf raw 16 5) (fieldOf raw 24 8) 2 0 [fieldOf raw 16 5])
  else .next s

/-- COPY_TO_HOST (R320). -/
def execCopyToHost (p : Part) (seq : Nat) (s : State) : Res :=
  let raw := (s.cmd p seq).raw
  if mayStart s p seq 0x02 then
    .next (startCopy s p seq (fieldOf raw 16 5) (fieldOf raw 8 8) (fieldOf raw 24 8) 0 2 [fieldOf raw 16 5])
  else .next s

/-- COPY_DEVICE (R320). -/
def execCopyDevice (p : Part) (seq : Nat) (s : State) : Res :=
  let raw := (s.cmd p seq).raw
  if mayStart s p seq 0x03 then
    .next (if ochre s then refuseCmd s p seq 0x0A41 []
      else startCopy s p seq (fieldOf raw 8 5) (fieldOf raw 16 5) (fieldOf raw 24 8) 0 0 [fieldOf raw 16 5, fieldOf raw 8 5])
  else .next s

/-! ### Loads (R175, R181, R393) -/

/-- SHA-384 of a byte string, as 48 bytes. -/
def sha384 (bs : List Byte) : List Byte := leBytes 48 (Config.sha384 bs).toNat

/-- The measurement log of partition p takes the entry of a load (R393): type 1 Tynte, 2 native. -/
def measure (s : State) (p : Nat) (digest : List Byte) (handle kind seq : Nat) : State :=
  let m := SMap.get MLog.empty s.mlogs p
  let entry := digest ++ leBytes 1 handle ++ leBytes 1 kind ++ leBytes 2 0 ++ leBytes 4 seq ++ leBytes 8 0
  let m : MLog := ⟨if m.kept.length < 1024 then m.kept ++ [entry] else m.kept, sha384 (m.ext ++ entry), m.count + 1⟩
  { s with mlogs := SMap.set MLog.empty s.mlogs p m }

/-- Bytes of the module area that the loaded programs of p take. -/
def areaUsed (s : State) (p : Nat) : Nat := ((List.range 64).map fun h => (s.prog p h).area).foldl (· + ·) 0

/-- A launch of handle h runs or waits to run (R175, R179). A LAUNCH waits to run from its start on (R318): one that is only
accepted, behind a load or an UNLOAD of its handle or in another queue, does not yet (DESIGN CHOICE, log entry 61). -/
def handleInUse (s : State) (p h : Nat) : Bool :=
  ((s.launch p).any fun l => l.handle == h) ||
    (waitingLaunches s p).any fun q => (s.cmd p q).phase == .queued && fieldOf (s.cmd p q).raw 8 1 == h

/-- Steps 1 and 2 of R175: the refusal of a load, 0 if none. `code` is the size of the CODE section. -/
def loadRefusal (s : State) (p h size code : Nat) : Nat :=
  if commonRefusal s p != 0 then commonRefusal s p
  else if (s.prog p h).state != 0 || handleInUse s p h then 0x0316
  else if s.get (Reg.SEQ_MODULE_CTRL_SIZE p) * frameBytes < areaUsed s p + size + 2 * code + 65536 then 0x0319
  else 0

/-- Each core that hosts one virtual core has its code in its inactive bank (R175 step 7), unless that bank holds or takes the
next program of a launch that runs. -/
def fillBanks (s : State) (p h : Nat) (g : Prog) : State :=
  g.place.zipIdx.foldl (fun (s : State) ((c, gang), v) =>
    if (g.place.filter fun y => y.1 == c).length = 1 then
      ((List.range (if gang then 4 else 1)).map (c + ·)).foldl (fun (s : State) c =>
        let b := s.bank c
        if (runningOn s c).isSome && (b.ready.isSome || b.loading.isSome) then s
        else (s.setBank c { b with loading := none, ready := some (savedKey p h v) }).put (Reg.SEQ_STATUS_RELOAD c) 0) s
    else s) s

/-- Steps 6 to 8 of R175: placement, banks and the translation record. A code, or the state. -/
def settle (s : State) (p h : Nat) (g : Prog) : Nat × State :=
  let code := placeCode s p g
  if code != 0 then (code, s)
  else
    let g := placed s p g
    let s := (fillBanks (dropCode s p h) p h g).setProg p h g
    if g.isNative then (0, s)
    else match pWrite s p g.recAddr (recordBytes g) with
      | some s => (0, s)
      | none => (0x0710, s)

/-- LOAD_MODULE (R175): `image` is what host memory answers for the image. -/
def execLoadModule (p : Part) (seq : Nat) (image : Option (List Byte)) (s : State) : Res :=
  if mayStart s p seq 0x10 then
    let raw := (s.cmd p seq).raw
    let h := fieldOf raw 8 1
    let size := fieldOf raw 24 4
    let im := image.getD []
    let refused := loadRefusal s p h size (fieldOf im 28 4)
    if refused != 0 then .next (refuseCmd s p seq refused [])
    else if im.length != size || image.isNone then .next (refuseCmd s p seq 0x0812 [])
    else
      let s := measure s p (sha384 im) h 1 seq
      let g : Prog := { Prog.empty with state := 2, image := im, area := size + 2 * fieldOf im 28 4 + 65536,
                                        recAddr := fieldOf raw 32 5, digest := sha384 im }
      let (code, v, w) := loadCheck s p g size
      if code = 0x0313 then
        .next (failCmd s [] p seq { code := code, vcore := v, detail := [v, w] } 0)
      else if code != 0 then .next (refuseCmd s p seq code [])
      else
        let (code, t) := settle s p h g
        if code != 0 then .next (refuseCmd s p seq code (if code = 0x0710 then [g.recAddr, g.recAddr / frameBytes, p] else []))
        else .next (unlessStalled s (completeCmd t p seq 0))
  else .next s

/-- The signature block at offset o of a byte string, judged by R385 and R386: whether its RSA half and its SLH-DSA half verify.
The ROM hashes of its keys are `rsaKey` and `slhKey` of its slots, which are vendor slots where `slots`. -/
def blockHalves (bs : List Byte) (o : Nat) (signed : List Byte) (slots : Bool) (rsaKey slhKey : Nat → BitVec 384) (v : SigVerdict) :
    Bool × Bool :=
  let slot := fun (k : Nat) => fieldOf bs (o + k) 1
  let whole := o + 17152 ≤ bs.length && fieldOf bs (o + 50) 14 == 0 && fieldOf bs (o + 17104) 48 == 0
  let known := fun (k : Nat) => !slots || slot k < 4
  (whole && known 48 && Config.sha384 (sliceOf bs (o + 64) 384) == rsaKey (slot 48) && v.rsa,
   whole && known 49 && Config.sha384 (sliceOf bs (o + 832) 48) == slhKey (slot 49) && sliceOf bs o 48 == sha384 signed && v.slh)

/-- What the mask ROM holds of a public key of n bytes: its hash (R383). -/
def romHash (n key : Nat) : BitVec 384 := Config.sha384 (leBytes n key)

/-- Both halves of a block with vendor slots verify (R386). -/
def vendorHalves (bs : List Byte) (o : Nat) (signed : List Byte) (v : SigVerdict) : Bool × Bool :=
  blockHalves bs o signed true (fun k => romHash 384 (Config.vendorRsaKey k).toNat)
    (fun k => romHash 48 (Config.vendorSlhKey k).toNat) v

/-- A section of a native image: code, descriptors, constants, signatures (R180). -/
def nativeSection (im : List Byte) (k : Nat) : Nat × Nat := (fieldOf im (32 + 8 * k) 4, fieldOf im (36 + 8 * k) 4)

/-- The header of a native image (R180); `ergs` is how many ergs it spans. -/
def nativeHeaderOk (s : State) (im : List Byte) (size ergs : Nat) : Bool :=
  let secs := (List.range 4).map (nativeSection im)
  let cores := fieldOf im 12 2
  (nativeSection im 0).2 != 0 && fieldOf im 0 4 == 0x494E4F58 && fieldOf im 4 2 == 0x0100 && fieldOf im 6 2 == s.get Reg.ID_REVISION_STEPPING
    && fieldOf im 8 4 == size && size % 64 == 0 && size ≤ 67108864
    && 1 ≤ cores && cores ≤ 128 && fieldOf im 14 1 ≤ cores / 4 && 1 ≤ fieldOf im 15 1 && fieldOf im 15 1 ≤ 64
    && fieldOf im 16 4 ≤ 65536 && fieldOf im 20 4 ≤ 25165824 * ergs && fieldOf im 24 2 ≤ 4095
    && fieldOf im 26 2 < 16384 && fieldOf im 64 64 == 0
    && (secs.all fun x => x.2 == 0 || (x.1 % 64 == 0 && 128 ≤ x.1 && x.1 + x.2 ≤ size))
    && (secs.zipIdx.all fun (x, i) => secs.zipIdx.all fun (y, j) =>
      i == j || x.2 == 0 || y.2 == 0 || x.1 + x.2 ≤ y.1 || y.1 + y.2 ≤ x.1)

/-- The ergs on whose cores a placement stands. -/
def ergsOf (place : List (Nat × Bool)) : List Nat := (place.map fun x => x.1 / 16).dedup

/-- Bytes that partition p could still pin in the slice of erg e: its limit, and 18 ways of every set (R285). -/
def pinRoom (s : State) (p e : Nat) : Nat :=
  let here := s.cache.filter fun x => x.1 * 64 / ergBytes == e && !x.2.pins.isEmpty
  let mine := here.filter fun x => x.2.pins.any fun o => o.part == p
  min (s.get (Reg.CCH_PIN_LIMIT_LIMIT p) * 0x100000 - 64 * (mine.length + SMap.get 0 s.nativePins (p * 8 + e)))
    (18 * 0x100000 - 64 * here.length - 0x100000 * nativeWays s e)

/-- A native image's SCACHE is pinned for its launch (R285), in the slices of the ergs that it spans, ascending. Which lines the
image pins is not the spec's: what is held is their number in each slice (DESIGN CHOICE, log entry 60). -/
def pinNative (s : State) (p : Nat) (g : Prog) : State :=
  let step := fun (x : State × Nat) (e : Nat) =>
    let n := (min (x.2 * 64) (pinRoom x.1 p e) + 63) / 64
    ({ x.1 with nativePins := SMap.set 0 x.1.nativePins (p * 8 + e) n }, x.2 - n)
  pinCounts (((List.range 8).filter (ergsOf g.place).contains).foldl step (s, (fieldOf g.image 20 4 + 63) / 64)).1

/-- The shared cache can pin a native image's SCACHE (R181): the code that refuses it, 0 if it can. A pin needs CCH_PIN_LIMIT
(R285, R296). -/
def scacheCode (s : State) (p : Nat) (g : Prog) : Nat :=
  if fieldOf g.image 20 4 = 0 then 0
  else if !s.isWritten (Reg.CCH_PIN_LIMIT_LIMIT p) then 0x0701
  else if fieldOf g.image 20 4 ≤ ((ergsOf (placement s p g)).map (pinRoom s p)).foldl (· + ·) 0 then 0
  else 0x031B

/-- The signature section of a native image verifies (R385, R386): it is a signature block over the rest of the image, its header
and body (R181). -/
def nativeSigned (im : List Byte) (v : SigVerdict) : Bool :=
  let (o, n) := nativeSection im 3
  n == 17152 && vendorHalves im o (im.take o ++ im.drop (o + n)) v == (true, true)

/-- LOAD_NATIVE (R181): `v` says whether the two signatures of the image's block verify (R386). -/
def execLoadNative (p : Part) (seq : Nat) (image : Option (List Byte)) (v : SigVerdict) (s : State) : Res :=
  if mayStart s p seq 0x11 then
    let raw := (s.cmd p seq).raw
    let h := fieldOf raw 8 1
    let size := fieldOf raw 24 4
    let im := image.getD []
    let refused := loadRefusal s p h size (nativeSection im 0).2
    if refused != 0 then .next (refuseCmd s p seq refused [])
    else if im.length != size || image.isNone then .next (refuseCmd s p seq 0x0812 [])
    else
      let s := measure s p (sha384 im) h 2 seq
      let g : Prog := { Prog.empty with state := 2, isNative := true, image := im,
                                        area := size + 2 * (nativeSection im 0).2 + 65536, digest := sha384 im }
      let ergs := (ergsOf (placement s p g)).length
      if !nativeHeaderOk s im size ergs then .next (refuseCmd s p seq 0x031A [])
      else if !nativeSigned im v then .next (refuseCmd s p seq 0x0B13 [])
      else if fieldOf im 28 4 < s.sec.nativeMin then .next (refuseCmd s p seq 0x0B14 [])
      else if !descsOk g (partBytes s p) then .next (refuseCmd s p seq 0x0312 [])
      else if !versionsOk s p (partBytes s p) g then .next (refuseCmd s p seq 0x0522 [])
      else if scacheCode s p g != 0 then .next (refuseCmd s p seq (scacheCode s p g) [])
      else
        let (code, t) := settle s p h g
        if code != 0 then .next (refuseCmd s p seq code []) else .next (completeCmd t p seq 0)
  else .next s

/-- UNLOAD (R179). An empty handle has nothing to free. -/
def execUnload (p : Part) (seq : Nat) (s : State) : Res :=
  if mayStart s p seq 0x12 then
    let h := fieldOf (s.cmd p seq).raw 8 1
    if ochre s then .next (refuseCmd s p seq 0x0A41 [])
    else if handleInUse s p h then .next (refuseCmd s p seq 0x0316 [])
    else
      let mine := fun (k : Nat) => k / 2 ^ 13 == p.val && k / 2 ^ 7 % 64 == h
      let s := { s with saved := SMap.drop mine s.saved }
      let s := ((List.range 128).filter fun c => inPart s p c && slotsOfHandle s h c).foldl
        (fun (s : State) c => { s with slotOwner := SMap.set 0 s.slotOwner c goneOwner }) s
      .next (completeCmd ((dropCode s p h).setProg p h Prog.empty) p seq 0)
  else .next s

/-! ### Launches (R133, R177, R247) -/

/-- The module contains an instruction that needs the step counter, or micro-batches and versions (R247). -/
def usesStepEnd (g : Prog) : Bool :=
  !g.isNative && (List.range g.vcores).any fun v => (codeOf g v).any fun x => match x.2.1 with
    | .stepEnd _ => true
    | _ => false
def usesVersions (g : Prog) : Bool :=
  ((List.range (fieldOf g.image (if g.isNative then 24 else 18) 2)).any fun i => tensorIs g i TDesc.versioned)
    || (!g.isNative && (List.range g.vcores).any fun v => (codeOf g v).any fun x => match x.2.1 with
      | .mbBegin _ _ => true
      | .mbEnd _ _ => true
      | _ => false)

/-- SYN_CTRL and SYN_VERSION_CTRL allow the module (R247). -/
def stepsReady (s : State) (p : Nat) (g : Prog) : Bool :=
  (!usesStepEnd g || (s.on (Reg.SYN_CTRL_ENABLE p) && s.isWritten (Reg.SYN_STEP_STEP p)))
    && (!usesVersions g || (s.on (Reg.SYN_VERSION_CTRL_ENABLE p) && allWritten s [Reg.SYN_VERSION_CTRL_TIMEOUT p,
      Reg.SYN_VERSION_CTRL_ENTRIES p, Reg.SYN_VERSION_BASE_BASE p]))

/-- Why a LAUNCH is refused, 0 if it is not (R372, R290, R182, R177, R412, R381, R247; R14: a paired launch draws a key under
SYN_SEED_KEY). -/
def launchRefusal (s : State) (p seq : Nat) : Nat :=
  let raw := (s.cmd p seq).raw
  let g := s.prog p (fieldOf raw 8 1)
  if commonRefusal s p != 0 then commonRefusal s p
  else if s.on Reg.THM_STATUS_TRIPPED then 0x0C31
  else if !s.isWritten Reg.HLT_CTRL_MIN_LIVE then 0x0A01
  else if g.state != 2 then 0x0316
  else if g.entries ≤ fieldOf raw 9 1 then 0x031D
  else if !stepsReady s p g || (pairedMode s p && !s.isWritten (Reg.SYN_SEED_KEY_KEY p)) then 0x0501
  else 0

/-- LAUNCH (R177): the command is refused, or waits for its turn (R133). -/
def execLaunch (p : Part) (seq : Nat) (s : State) : Res :=
  if mayStart s p seq 0x13 then
    let code := launchRefusal s p seq
    if code != 0 then .next (refuseCmd s p seq code [])
    else .next (s.setCmd p seq { s.cmd p seq with phase := .queued })
  else .next s

/-- The lines of a RESIDENT tensor: its elements, and the record and multipliers of a coded one (R285). -/
def residentRanges (t : TDesc) : List (Nat × Nat) :=
  (t.base, t.footprint (t.rank - 1)) ::
    (if t.coded then [(t.auxBase, 64 + 2 * t.dim 0 + (t.dim 1 * t.highs - 1) * t.auxStride)] else [])

/-- The ranges that a program pins, and their lines. -/
def pinnedRanges (g : Prog) : List (Nat × Nat) :=
  let ts := (List.range (fieldOf g.image (if g.isNative then 24 else 18) 2)).filterMap fun i =>
    (g.desc i).bind fun t => if t.resident then some t else none
  ts.flatMap residentRanges
def linesOf (x : Nat × Nat) : List Nat := (List.range ((x.1 + x.2 + 63) / 64 - x.1 / 64)).map fun k => (x.1 / 64 + k) * 64
def residentLines (g : Prog) : List Nat := (pinnedRanges g).flatMap linesOf

/-- Byte i of a list of lines. -/
def lineByte (lines : List Nat) (i : Nat) : Option Nat := lines[i / 64]?.map (· + i % 64)

/-- The RESIDENT tensors of a launch are pinned: a code with its DETAIL (R279), and the state. -/
def pinResident (s : State) (p : Nat) (g : Prog) : Nat × List Nat × State :=
  (pinnedRanges g).foldl (fun (x : Nat × List Nat × State) (o, n) =>
    if x.1 != 0 then x
    else match partRefusal x.2.2 p (linesOf (o, n)) with
      | some (code, more) => (code, more, x.2.2)
      | none => let (code, t) := pinRange x.2.2 p (.launch p) o n; (code, [], t)) (0, [], s)

/-- Every non-idle virtual core of an entry starts on its core (R136, R177); R122's positions count from here. Every core goes
on with the code of the first that it hosts (R213). -/
def startCores (s : State) (p h : Nat) (g : Prog) (active : List Nat) : State :=
  let s := active.foldl (fun (s : State) v =>
    let (c, gang) := g.place.getD v (0, false)
    s.setVc p v { VC.empty with core := c, gang := gang }) s
  active.reverse.foldl (fun (s : State) v =>
    let s := if (hostedOn s p (s.vc p v).core).headD v == v then takeCores s p h v else s
    (coresOf (s.vc p v)).foldl (fun (s : State) c =>
      let s := (s.put (Reg.SEQ_STATUS_RUNNING c) 1).put (Reg.SEQ_STATUS_VCORE c) v
      let s := s.setVu c { s.vu c with taken := 0 }
      wantCode s c (savedKey p h ((hostedOn s p (s.vc p v).core).headD v))) s) s

/-- Each core of a paired launch has its shadow (R362, R363). -/
def startShadows (s : State) (p : Nat) : State :=
  let mine := (pairsOf (placeList s p)).filter fun x => (launchCores s p).contains x.1
  { s with shadows := mine.foldl (fun m x => SMap.set 0 m x.1 (x.2 + 1)) s.shadows }

/-- The launch of command seq starts on program g; in paired mode with the key of its digest tiles (R364). -/
def beginLaunch (s : State) (p seq : Nat) (g : Prog) : State :=
  let c := s.cmd p seq
  let h := fieldOf c.raw 8 1
  let entry := fieldOf c.raw 9 1
  let paired := pairedMode s p
  let (key, s) := if paired then drawKey s p else (0, s)
  let l : Launch :=
    { seq := seq, handle := h, entry := entry, params := (List.range 4).map fun k => fieldOf c.raw (16 + 4 * k) 4, tokens := [],
      active := g.activeIn entry, ended := [], barriers := [], code := 0, faultCore := 0xFF, faultVcore := 0xFF, discarded := 0,
      paired := paired, pairKey := key, pairTiles := [], colls := [] }
  let s := (s.setCmd p seq { c with phase := .running }).setLaunch p (some l)
  let s := startCores s p h g l.active
  tryCommit (if paired then startShadows s p else s) p

/-- The launches that may go: host launches wait while a replay runs. -/
def launchTurn (s : State) (p : Nat) : Option Nat :=
  ((waitingLaunches s p).filter fun q => (s.tr p).replay.isNone || (s.cmd p q).queue == replayQueue).head?

/-- The pins of the launch of command seq on program g are taken, and it starts; or it is refused, with what the memory found in the
lines (R285, R289). -/
def pinAndBegin (s : State) (p seq : Nat) (g : Prog) (ev : MemEvent) : State :=
  let s := if g.isNative then pinNative s p g else s
  let drop := fun (u : State) => releaseNative (releasePins u fun o => o == .launch p) p
  match pinResident s p g with
  | (0, _, _) =>
    let (s, found, more) := readFinds s p (lineByte (residentLines g)) ev
    if found != 0 then afterLoss (refuseCmd (drop s) p seq found more) (more.headD 0) found
    else beginLaunch (pinResident s p g).2.2 p seq g
  | (code, more, u) => refuseCmd (drop u) p seq code more

/-- The launch of command seq, whose turn it is, is refused or starts. -/
def startNow (s : State) (p seq : Nat) (ev : MemEvent) : State :=
  let h := fieldOf (s.cmd p seq).raw 8 1
  let g := s.prog p h
  let early := launchRefusal s p seq
  let (code, t) :=
    if early != 0 then (early, s)
    else if g.isNative && scacheCode s p g != 0 then (scacheCode s p g, s)
    else if g.marked then settle s p h g else (0, s)
  if code != 0 then refuseCmd s p seq code (if code = 0x0710 then [g.recAddr, g.recAddr / frameBytes, p] else [])
  else
    let t := if g.marked then
        raise t [] { code := 0x0340, cls := 0, part := p, seq := seq, detail := [h, (t.prog p h).live] } else t
    pinAndBegin t p seq (t.prog p h) ev

/-- LAUNCH_START (R133): the earliest waiting launch starts once no other runs and no Sirocco run is under way; its program
is placed again first where R178 asks for it, and its pins are taken. -/
def execLaunchStart (x : LaunchAt) (s : State) : Res :=
  let p := x.part.val
  match launchTurn s p with
  | none => .next s
  | some seq =>
    if (s.cmd p seq).phase != .queued || (s.launch p).isSome || s.get (Reg.HLT_SIROCCO_STATE p) != 0 || partState s p != 3 then
      .next s
    else .next (unlessStalled s (startNow s p seq x.ev))

/-! ### ABORT (R323, R324) -/

/-- The oldest accepted command of queue q with an identifier that has no record yet. -/
def abortTarget (s : State) (p q cid : Nat) : Option Nat :=
  (seqsOf s p).find? fun n => (s.cmd p n).queue == q && (s.cmd p n).cid == cid

/-- The command of sequence number t is aborted: its record is written once no access of it is in flight, the ABORT's
after it. -/
def abortCmd (s : State) (p seq t : Nat) : State :=
  let c := s.cmd p t
  let done := fun (s : State) => finishCmd s p seq completed 0 0 0
  match c.phase with
  | .running =>
    if c.op = 0x13 then abortLaunch (s.setCmd p seq { s.cmd p seq with phase := .running, moved := t, discarded := 0 }) p
    else
      let s := stopCopy s p t
      let left := copyLoaded s p t
      if left = 0 then done (finishCmd s p t aborted 0 0 c.moved)
      else
        let s := s.setCmd p t { s.cmd p t with phase := .aborted, left := left }
        s.setCmd p seq { s.cmd p seq with phase := .running, moved := t, discarded := 0 }
  | _ => done (finishCmd s p t aborted 0 0 (if c.op = 0x13 then launchDetail 0 0xFF 0xFF else 0))

/-- The host has not yet consumed the record of a command of queue q with this identifier. -/
def committedLately (s : State) (q cid : Nat) : Bool :=
  let size := 2 ^ s.get (Reg.QUE_CFG_CQ_LOG q)
  let n := (s.get (Reg.QUE_STATE_CQ_TAIL q) + size - s.get (Reg.QUE_STATE_CQ_HEAD q)) % size
  ((SMap.get [] s.recent q).take n).contains cid

/-- ABORT (R323): processed in the cycle after its acceptance, whatever stands before it in its queue. A commit and its record
fall together in this model: whether the record of a committed target is written by the time that the ABORT is processed, or
the target is still named and ALREADY_COMPLETE, is a free choice while the host has not consumed that record (log entry 41). -/
def execAbort (p : Part) (seq : Nat) (s : State) : Res :=
  if (s.cmd p seq).phase == .accepted && (s.cmd p seq).op == 0x20 then
    let raw := (s.cmd p seq).raw
    let q := fieldOf raw 8 2
    if !(s.on (Reg.QUE_BLOCK_ASSIGNED (q / 256)) && queuePart s q == p.val) then .next (refuseCmd s p seq 0x0816 [])
    else
      match abortTarget s p q (fieldOf raw 12 4) with
      | none =>
        let (v, t) := s.draw
        .next (if committedLately s q (fieldOf raw 12 4) then finishCmd t p seq completed 0 (if v % 2 = 0 then 1 else 2) 0
          else finishCmd s p seq completed 0 2 0)
      | some t =>
        if (s.cmd p t).op = 0x20 then .next (refuseCmd s p seq 0x0816 [])
        else if (s.cmd p t).phase = .aborted then
          .next (s.setCmd p seq { s.cmd p seq with phase := .running, moved := t, discarded := 3 })
        else if (failedWith (s.cmd p t)).isSome then
          .next (s.setCmd p seq { s.cmd p seq with phase := .running, moved := t, discarded := 1 })
        else .next (abortCmd s p seq t)
  else .next s

end Sys2Proof.Machine
end

