-- ==== Sys2Proof/Machine/Fabric.lean ====
section
/-!
DEFINITION. The fabric ports and the Xemar Fabric Transport (R328 to R352): frames received, acknowledgements and
retransmission, flows and their keys, credits, collectives from issue to completion, and the registers.
-/

namespace Sys2Proof.Machine

/-! ### Groups and exclusion (R345, R369) -/

/-- A frame is discarded and counted (R328, R333). -/
def unmatched (s : State) : State := s.bump Reg.FAB_COUNTS_UNMATCHED 1

/-- Mirage's exclusion list, and whether rank r is excluded from group g (R369). -/
def exclOf (s : State) (p : Nat) : List Nat := ((List.range 64).map fun k => s.get (Reg.HLT_MIRAGE_EXCL_RANK p k)).filter (· != 0xFFFF)
def isVoteGroup (s : State) (p g : Nat) : Bool :=
  s.isWritten (Reg.HLT_MIRAGE_CTRL_GROUP p) && s.get (Reg.HLT_MIRAGE_CTRL_GROUP p) == g
def excluded (s : State) (p g r : Nat) : Bool := isVoteGroup s p g && (exclOf s p).contains r

/-- The effective members of group g: (flow, rank). -/
def membersOf (s : State) (p g : Nat) : List (Nat × Nat) :=
  ((List.range (groupFld s p g 4 4)).filter fun r => !excluded s p g r).map fun r => (listFlow s p g r, r)

/-- The rank of group g that flow f leads to. -/
def rankOfFlow (s : State) (p g f : Nat) : Option Nat := (peersOf s p g).find? fun r => listFlow s p g r == f

/-! ### Frames received (R333) -/

/-- What the MAC, FEC and the checks of VERSION and TYPE let through (R333). -/
def frameMac (s : State) (h : FrameHdr) : State × Bool :=
  if !s.on (Reg.FAB_PORT_STATUS_LINK_UP h.fport) then (s, false)
  else match h.check with
    | .fec n => (unmatched (s.bumpWrap (Reg.FAB_PORT_STATUS_FEC_UNCORRECTED h.fport) n), false)
    | .fcs => (unmatched s, false)
    | .ok => if h.version != 1 || 5 < h.type then (unmatched s, false) else (s, true)

/-- The flow that a unicast frame names: its partition and number, where R333 accepts it. A CLOSING flow takes ACKs
(DEDUCED from R335: its CLOSE can be acknowledged). -/
def target (s : State) (h : FrameHdr) (ack : Bool) : Option (Nat × Nat) :=
  let p := h.dst / 65536 % 16
  let f := h.dst % 65536
  let st := flowState s p f
  if (flowsOf s p).contains f && (st == 1 || st == 2 || (ack && st == 4)) && onPlane s p f h.fport.val && !isMcast s p f
  then some (p, f) else none

/-- The MCAST flows that a multicast frame reaches: partition, flow, group. -/
def mcastTargets (s : State) (h : FrameHdr) : List (Nat × Nat × Nat) :=
  (List.range 16).filterMap fun p => (groupOfTag s p h.groupTag).bind fun g =>
    let f := groupFld s p g 12 4
    if !isRelay s p g && (flowState s p f == 1 || flowState s p f == 2) && onPlane s p f h.fport.val
        && groupFld s p g 8 4 != h.srcRank then some (p, f, g) else none

/-- The rank that sent a unicast frame of group `tag` is excluded. -/
def fromExcluded (s : State) (p f tag : Nat) : Bool :=
  match groupOfTag s p tag with
  | some g => match rankOfFlow s p g f with
    | some r => excluded s p g r
    | none => false
  | none => false

/-- The records that a frame names are looked up (R284): the flow's, or the group's and its MCAST flow's. -/
def lookTargets (s : State) (h : FrameHdr) : State :=
  if h.dst = 0xFFFFF then
    (mcastTargets s h).foldl (fun (s : State) (p, f, g) => lookFlow (readRecord s p (groupAddr s p g) 64) p f) s
  else lookFlow s (h.dst / 65536 % 16) (h.dst % 65536)

/-- A frame acts on every flow that it reaches: partition, flow, and the key of the sender in the flow's context. A flow
without keys fails the tag. `group` says that the frame belongs to a group. -/
def receive (s : State) (h : FrameHdr) (ack group : Bool) (act : State → Nat → Nat → Nat → State) : State :=
  match frameMac s h with
  | (s, false) => s
  | (s, true) =>
    let s := lookTargets s h
    let noAuth := fun (s : State) => s.bump Reg.FAB_COUNTS_AUTH_FAILED 1
    if h.dst = 0xFFFFF then
      let ts := mcastTargets s h
      if ts.isEmpty then unmatched s
      else if !h.authOk then noAuth s
      else ts.foldl (fun (s : State) (p, f, g) =>
        if flowState s p f != 2 then noAuth s
        else if excluded s p g h.srcRank then unmatched s
        else act s p f h.srcRank) s
    else match target s h ack with
      | none => unmatched s
      | some (p, f) =>
        if !h.authOk || flowState s p f = 1 then noAuth s
        else if group && fromExcluded s p f h.groupTag then unmatched s
        else act s p f 0

/-! ### Acknowledgement (R339) -/

/-- The numbers received without a gap leave the list, and CUM_PSN passes them. -/
def advance : Nat → Nat → List Nat → Nat × List Nat
  | 0, cum, seen => (cum, seen)
  | n + 1, cum, seen =>
    if seen.contains cum then advance n ((cum + 1) % 2 ^ 32) (seen.filter (· != cum)) else (cum, seen)

/-- An ACK: CUM_PSN and the map of the 1,024 numbers above it. That of a multicast stream goes to its sender over the unicast
flow, with FLAGS.MCAST (log entry 18). The flow's record keeps what was acknowledged (R334 RX_PSN). -/
def sendAck (s : State) (p f k : Nat) : State :=
  let x := s.flow p f
  let y := SMap.get PeerRx.empty x.rx k
  let map := (List.range 1024).foldl (fun m i => if y.seen.contains ((y.cum + 1 + i) % 2 ^ 32) then m + 2 ^ i else m) 0
  let pay := padTo 192 (leBytes 4 y.cum ++ leBytes 128 map)
  let s := s.setFlow p f { x with rx := SMap.set PeerRx.empty x.rx k { y with sinceAck := 0 } }
  let s := pPut s p (flowAddr s p f + 136) 4 y.cum
  if isMcast s p f then
    match groupOfMcast s p f with
    | some g => (emitFrame s p (listFlow s p g k) 1 4 0 0 (groupFld s p g 0 2) 0 0 0 pay).1
    | none => s
  else (emitFrame s p f 1 0 0 0 0 0 0 0 pay).1

/-- A sequenced frame is taken once (R339): whether it is new. A frame that comes again asks for an ACK (DEDUCED: the ACK of
the first was lost). -/
def acceptSeq (s : State) (p f k psn : Nat) : State × Bool :=
  let x := s.flow p f
  let y := SMap.get PeerRx.empty x.rx k
  let d := (psn + 2 ^ 32 - y.cum) % 2 ^ 32
  let put := fun (y : PeerRx) => s.setFlow p f { x with rx := SMap.set PeerRx.empty x.rx k y }
  if 1024 < d || y.seen.contains psn then (put { y with sinceAck := max 1 y.sinceAck }, false)
  else
    let (cum, seen) := advance 1025 y.cum (psn :: y.seen)
    let s := put ⟨cum, seen, y.sinceAck + 1⟩
    (if 16 ≤ y.sinceAck + 1 then sendAck s p f k else s, true)

/-- The payload of a frame that is sent again (R339): read again from its source, none where R279 refuses that and the instance has
failed; unspecified where its instance has ended. -/
def payloadOf (s : State) (p : Nat) (t : TxFrame) : State × Option (List Byte) :=
  if t.ctrl != 0 then (s, some t.args)
  else
    match s.colls.find? fun x => x.part == p && x.tag == t.tag && x.inst == t.inst with
    | some x =>
      let parts := slices (x.txPieces t.key) t.off t.units
      match x.badPart s parts with
      | some y => (failColl s x 0x0710 (pageDetail p y) true, none)
      | none => (x.touchParts s parts, some (parts.flatMap fun (q, o, n) => x.pieceBytes s q o n))
    | none => let (v, s) := s.draw; (s, some (leBytes (64 * t.units) v))

/-- An unacknowledged frame is sent again, with RETX = 1. -/
def retransmit (s : State) (p f psn : Nat) : State :=
  match (s.flow p f).unacked.find? fun t => t.psn == psn with
  | none => s
  | some t =>
    match payloadOf s p t with
    | (s, none) => s
    | (s, some pay) =>
      let flags := t.last.toNat + 2 + (if isMcast s p f then 4 else 0)
      let (s, n) := emitFrame s p f (if t.ctrl = 0 then 0 else 5) flags t.op t.phase t.tag t.psn t.inst t.off pay
      let s := pPut s p (flowAddr s p f + 140) 4 (flowFld s p f 140 4 + 1)
      let x := s.flow p f
      s.setFlow p f { x with unacked := x.unacked.map fun u => if u.psn = psn then { u with fport := n } else u }

/-! ### Flows that fail (R335, R338, R349) -/

/-- The instance uses flow f. -/
def usesFlow (x : Coll) (f : Nat) : Bool := (!x.relay && x.mcast == f) || x.members.zipIdx.any fun (m, r) => r != x.me && m.1 == f

/-- Every instance of p that uses flow f fails with the code. -/
def failUsers (s : State) (p f code : Nat) : State :=
  (s.colls.filter fun x => x.part == p && usesFlow x f).foldl (fun (s : State) x =>
    match s.coll p x.group x.inst with
    | some y => failColl s y code [] true
    | none => s) s

/-- The groups of which this partition is the key holder and whose MCAST flow is in HANDSHAKE (R338). -/
def holding (s : State) (p : Nat) : List Nat :=
  (groupsOf s p).filter fun g => !isRelay s p g && groupFld s p g 8 4 == 0 && flowState s p (groupFld s p g 12 4) == 1

/-- One flow FAILED: its record of CLASS 0 (DESIGN CHOICE, log entry 19), LAST_CODE, its instances. -/
def failOne (s : State) (p f code : Nat) : State :=
  let s := setFlowState s p f 3
  let s := pPut s p (flowAddr s p f + 130) 2 code
  let s := s.setFlow p f FlowCtx.empty
  let s := raise s [Reg.FAB_PART_STATUS_LAST_CODE p] { code := code, cls := 0, part := p }
  failUsers s p f code

/-- A flow fails, and with it the MCAST flows whose key it was to carry (R338 step 4). -/
def failFlow (s : State) (p f code : Nat) : State :=
  let gs := (holding s p).filter fun g => (rankOfFlow s p g f).isSome
  removalNext (gs.foldl (fun s g => failOne s p (groupFld s p g 12 4) code) (failOne s p f code))

/-! ### DATA, ACK, REQ, GRANT (R339, R341) -/

/-- The effective rank that sent a frame of instance x: by its flow, or by its rank where it is multicast. -/
def senderOf (h : FrameHdr) (x : Coll) (f : Nat) : Option Nat :=
  (List.range x.size).find? fun r => r != x.me && (match x.members[r]? with
    | some m => if h.dst = 0xFFFFF then m.2 == h.srcRank else m.1 == f
    | none => false)

/-- The instance that a frame belongs to. -/
def instOf (s : State) (p tag inst : Nat) : Option Coll :=
  s.colls.find? fun x => x.part == p && x.tag == tag && x.inst == inst && !x.quiet

/-- The instance fails with 0x0913 (R349), which every other member is told. -/
def mismatch (s : State) (x : Coll) : State := failColl s x 0x0913 [] true

/-- DATA on a flow (R339, R341, R348, R349): taken once, it lands in the instance that it names. A payload that is no whole
number of units, or above 8,192 bytes, breaks R331: the frame is discarded and counted, and its number is not accepted (DESIGN
CHOICE, log entry 18). -/
def dataOn (h : FrameHdr) (payload : List Byte) (s : State) (p f k : Nat) : State :=
  if payload.length % 64 != 0 || 8192 < payload.length then unmatched s else
  match acceptSeq s p f k h.psn with
  | (s, false) => s
  | (s, true) =>
    match instOf s p h.groupTag h.inst with
    | none => s
    | some x =>
      match senderOf h x f with
      | none => s
      | some r =>
        if x.op != h.op then mismatch s x
        else
          let key := if h.dst = 0xFFFFF then 65536 + r else r
          let s := if x.ctl.isSome then s else recordFabric s p ⟨f, h.psn, x.seq, x.group, x.nth, key, h.phase, h.offset, payload⟩
          match landData s x key h.offset payload with
          | (some e, s, x) => failColl (putColl s x) x e.1 e.2 true
          | (none, s, x) => pumpColl (putColl s x) p x.group x.inst

/-- DATA (R339, R341). -/
def execData (h : FrameHdr) (payload : List Byte) (s : State) : Res := .next (receive s h false true (dataOn h payload))

/-- REQ on a flow: the sender's ready position; a newer one supersedes. Another OP, or a position beyond the stream, is a mismatch
(R349). -/
def reqOn (h : FrameHdr) (s : State) (p f : Nat) : State :=
  match instOf s p h.groupTag h.inst with
  | none => s
  | some x =>
    match senderOf h x f with
    | none => s
    | some r =>
      let key := if h.dst = 0xFFFFF then 65536 + r else r
      let y := x.rxAt key
      if x.op != h.op || unitsIn (x.rxPieces key) < h.offset then mismatch s x
      else putColl s (x.setRx key { y with ready := max y.ready h.offset })

/-- REQ (R341). -/
def execReq (h : FrameHdr) (s : State) : Res := .next (receive s h false true fun s p f _ => reqOn h s p f)

/-- GRANT on a flow: the credit limit of the unicast stream, or with FLAGS.MCAST the receiver's limit of the multicast one. Another
OP, or a limit beyond the stream, is a mismatch (R349). -/
def grantOn (h : FrameHdr) (s : State) (p f : Nat) : State :=
  match instOf s p h.groupTag h.inst with
  | none => s
  | some x =>
    match senderOf h x f with
    | none => s
    | some r =>
      let key := if h.mcast then 131072 + r else r
      let y := x.txAt key
      if x.op != h.op || unitsIn (x.txPieces (if h.mcast then 65536 else r)) < h.offset then mismatch s x
      else pumpColl (putColl s (x.setTx key { y with limit := max y.limit h.offset })) p x.group x.inst

/-- GRANT (R341). -/
def execGrant (h : FrameHdr) (s : State) : Res := .next (receive s h false true fun s p f _ => grantOn h s p f)

/-- The next flow that R341 serves: the grants that fit, and among them the flow next in turn. -/
def grantNext (s : State) (p : Nat) : Option (Nat × Coll × Nat × Nat) :=
  let mine := s.colls.filter fun x => x.part == p && !x.quiet
  let all := mine.flatMap fun x => x.rxKeys.map fun k => (((x.members[k % 65536]?).map (·.1)).getD 0, x, k)
  let open_ := fun (e : Nat × Coll × Nat) => (e.2.1.rxAt e.2.2).limit - landedUnits (e.2.1.rxAt e.2.2)
  let sum := fun (l : List (Nat × Coll × Nat)) => (l.map open_).foldl (· + ·) 0
  let amount := fun (e : Nat × Coll × Nat) =>
    min (16 * s.get (Reg.FAB_RX_SLOT p)) ((e.2.1.rxAt e.2.2).ready - (e.2.1.rxAt e.2.2).limit)
  let fit := all.filter fun e => amount e != 0
    && sum (all.filter fun d => d.1 == e.1) + amount e ≤ 16 * s.get (Reg.FAB_RX_FLOW_MAX p)
    && sum all + amount e ≤ 16 * s.get (Reg.FAB_RX_POOL p)
  let turn := fun (e : Nat × Coll × Nat) => (e.1 + 65536 - SMap.get 0 s.creditTurn p) % 65536
  let best := fit.foldl (fun (b : Option (Nat × Coll × Nat)) e => match b with
    | none => some e
    | some d => if turn e < turn d then some e else some d) none
  best.map fun e => (e.1, e.2.1, e.2.2, amount e)

/-- CREDIT_GRANT (R341): one grant of partition p. -/
def execCreditGrant (p : Part) (s : State) : Res :=
  match grantNext s p with
  | none => .next s
  | some (f, x, k, n) =>
    let y := x.rxAt k
    let s := putColl s (x.setRx k { y with limit := y.limit + n })
    let s := { s with creditTurn := SMap.set 0 s.creditTurn p ((f + 1) % 65536) }
    .next (sendGrant s x f k (y.limit + n))

/-- A GROUP_KEY frame of the group with a tag waits on flow f, to be sent or to be acknowledged. -/
def keyWaits (s : State) (p f tag : Nat) : Bool :=
  (s.flow p f).unacked.any (fun t => t.ctrl == 5 && fieldOf t.args 2 2 == tag)
    || (s.flow p f).held.any fun c => c.1 == 5 && fieldOf c.2 0 2 == tag

/-- Every GROUP_KEY of a group is acknowledged: the holder's MCAST flow is UP (R338 step 4). -/
def holderUp (s : State) (p : Nat) : State :=
  ((holding s p).filter fun g => (s.flow p (groupFld s p g 12 4)).keyed).foldl (fun (s : State) g =>
    if (peersOf s p g).all fun r => !keyWaits s p (listFlow s p g r) (groupFld s p g 0 2)
    then setFlowState s p (groupFld s p g 12 4) 2 else s) s

/-- An acknowledged CTRL frame: CLOSE ends CLOSING, REMOVE ends the flow (R335, R419). -/
def ctrlAcked (s : State) (p f : Nat) (t : TxFrame) : State :=
  if t.ctrl = 4 ∧ flowState s p f = 4 then setFlowState s p f 0
  else if t.ctrl = 3 ∧ (s.flow p f).removing then setFlowState s p f 0
  else s

/-- What an ACK of rank w says of flow f (R339): frames leave, 64 later numbers ask for a retransmission, and CTRL frames that
waited for room go out. CUM_PSN advances where it passes a frame that waits for w; an older ACK that comes late advances
nothing. -/
def processAck (s : State) (p f w cum : Nat) (map : List Nat) : State :=
  let x := s.flow p f
  let passed := fun (t : TxFrame) => (cum + 2 ^ 32 - t.psn) % 2 ^ 32 != 0 && (cum + 2 ^ 32 - t.psn) % 2 ^ 32 < 2 ^ 31
  let got := fun (t : TxFrame) => passed t || map.contains t.psn
  let upd := x.unacked.map fun t => if got t then { t with waiting := t.waiting.filter (· != w) } else t
  let gone := upd.filter fun t => t.waiting.isEmpty
  let left := upd.filter fun t => !t.waiting.isEmpty
  let moved := x.unacked.any fun t => t.waiting.contains w && passed t
  let s := s.setFlow p f { x with unacked := left, timeouts := if moved then 0 else x.timeouts }
  let late := left.filter fun t => t.waiting.contains w && 64 ≤ (map.filter fun n => (n + 2 ^ 32 - t.psn) % 2 ^ 32 < 2 ^ 31 && n != t.psn).length
  let s := late.foldl (fun s t => retransmit s p f t.psn) s
  let s := gone.foldl (fun s t => ctrlAcked s p f t) s
  let s := sendHeld x.held.length s p f
  pumpAll (removalNext (holderUp s p)) p

/-- ACK on a flow: of its own frames, or with FLAGS.MCAST of those of the group's MCAST flow. -/
def ackOn (h : FrameHdr) (cum : Nat) (map : List Nat) (s : State) (p f : Nat) : State :=
  if h.mcast then
    match groupOfTag s p h.groupTag with
    | some g => match rankOfFlow s p g f with
      | some r => if excluded s p g r then unmatched s else processAck s p (groupFld s p g 12 4) r cum map
      | none => s
    | none => s
  else processAck s p f 0 cum map

/-- ACK (R339). -/
def execAck (h : FrameHdr) (cum : Nat) (map : List Nat) (s : State) : Res :=
  .next (receive s h true false fun s p f _ => ackOn h cum map s p f)

/-- REQs that ask for credit not yet granted, and GRANTs of credit not yet used, go out on flow f once more (R341). Neither is
acknowledged, and a REQ that comes before the receiver has issued its COLL finds no instance: they are repeated with the flow's
ACK timer (DESIGN CHOICE, log entry 18). -/
def repeatCredit (s : State) (p f : Nat) : State :=
  (s.colls.filter fun x => x.part == p && !x.quiet).foldl (fun (s : State) x =>
    let s := (x.txKeys.filter fun k => x.flowTo k == f && x.limitOf k < (x.txAt k).ready).foldl
      (fun s k => sendReq s x k (x.txAt k).ready) s
    let back := x.rxKeys.filter fun k =>
      ((x.members[k % 65536]?).map (·.1)) == some f && landedUnits (x.rxAt k) < (x.rxAt k).limit
    back.foldl (fun s k => sendGrant s x f k (x.rxAt k).limit) s) s

/-- ACK_TIMER (R339): 2 µs after the last accepted frame. -/
def execAckTimer (p : Part) (flow : Nat) (s : State) : Res :=
  if flowState s p flow = 2 then
    let s := ((s.flow p flow).rx.filter fun e => e.2.sinceAck != 0).foldl (fun s e => sendAck s p flow e.1) s
    .next (repeatCredit s p flow)
  else .next s

/-- RETRANSMIT_TIMEOUT (R339, R340): a frame unacknowledged after RTO_US. The CLOSE of a CLOSING flow is sent again until
FLOW_CLOSING_TIMEOUT ends it (R335). -/
def execRetransmitTimeout (p : Part) (flow psn : Nat) (s : State) : Res :=
  let x := s.flow p flow
  match x.unacked.find? fun t => t.psn == psn with
  | none => .next s
  | some t =>
    let st := flowState s p flow
    if st != 2 && st != 4 then .next s
    else if s.get Reg.FAB_TIMERS_RETRY_MAX ≤ x.timeouts + 1 then .next (if st = 2 then failFlow s p flow 0x0920 else s)
    else
      let out := if t.fport < 4 && !x.out.contains t.fport then t.fport :: x.out else x.out
      .next (retransmit (s.setFlow p flow { x with timeouts := x.timeouts + 1, out := out }) p flow psn)

/-- PORT_ROTATION_REJOIN (R340): 1 ms after the timeout, the flow's next frame goes on the port, which then rejoins. -/
def execPortRotationRejoin (p : Part) (flow : Nat) (f : FPort) (s : State) : Res :=
  let x := s.flow p flow
  .next (if x.out.contains f.val then s.setFlow p flow { x with out := x.out.filter (· != f.val), turn := f.val } else s)

/-! ### Control frames (R335, R338, R349, R350) -/

/-- A CTRL frame on a flow: taken once, and on no MCAST flow. -/
def ctrlOn (h : FrameHdr) (act : State → Nat → Nat → State) (s : State) (p f k : Nat) : State :=
  match acceptSeq s p f k h.psn with
  | (s, false) => s
  | (s, true) => if isMcast s p f then s else act s p f

/-- ABORT of an instance by a member (R349). -/
def abortOn (tag inst : Nat) (s : State) (p f : Nat) : State :=
  if fromExcluded s p f tag then unmatched s
  else match instOf s p tag inst with
  | some x => failColl s x 0x0914 [] false
  | none => s

/-- CTRL_ABORT (R349). -/
def execCtrlAbort (h : FrameHdr) (tag inst : Nat) (s : State) : Res :=
  .next (receive s h false false (ctrlOn h (abortOn tag inst)))

/-- DETACH by the sender of a multicast stream (R350), with LANDED of that stream. -/
def detachOn (h : FrameHdr) (tag inst : Nat) (s : State) (p f : Nat) : State :=
  if fromExcluded s p f tag then unmatched s else
  match instOf s p tag inst with
  | some x => match senderOf h x f with
    | some r => failColl s x 0x0930 [tag, inst, ((x.members[r]?).map (·.2)).getD 0, landedPrefix (x.rxAt (65536 + r))] false
    | none => s
  | none => s

/-- CTRL_DETACH (R350). -/
def execCtrlDetach (h : FrameHdr) (tag inst : Nat) (s : State) : Res :=
  .next (receive s h false false (ctrlOn h (detachOn h tag inst)))

/-- REMOVE and CLOSE (R335): acknowledged while the keys are there (DEDUCED: the sender waits for it), then the flow
fails. -/
def leaveOn (code : Nat) (s : State) (p f : Nat) : State := failFlow (sendAck s p f 0) p f code

/-- CTRL_REMOVE (R335). -/
def execCtrlRemove (h : FrameHdr) (s : State) : Res := .next (receive s h false false (ctrlOn h (leaveOn 0x0922)))

/-- CTRL_CLOSE (R335). -/
def execCtrlClose (h : FrameHdr) (s : State) : Res := .next (receive s h false false (ctrlOn h (leaveOn 0x0923)))

/-- A group key and its epoch on MCAST flow m: it protects both directions, and TXCOUNT starts from 0 (R338). -/
def giveKey (s : State) (p m epoch key : Nat) : State :=
  s.setFlow p m { s.flow p m with keyed := true, epoch := epoch, txKey := key % 2 ^ 256, rxKey := key % 2 ^ 256, txCount := 0 }

/-- GROUP_KEY on a flow (R338 step 3): from the flow that LIST names for rank 0, and no other. -/
def groupKeyOn (tag : Nat) (x : GroupKeyArgs) (s : State) (p f : Nat) : State :=
  if fromExcluded s p f tag then unmatched s else
  match groupOfTag s p tag with
  | none => unmatched s
  | some g =>
    if groupFld s p g 8 4 = 0 || listFlow s p g 0 != f then unmatched s
    else if isRelay s p g then s
    else
      let m := groupFld s p g 12 4
      let s := giveKey s p m x.epoch x.key
      if flowState s p m = 1 then setFlowState s p m 2 else s

/-- GROUP_KEY (R338). -/
def execGroupKey (h : FrameHdr) (tag : Nat) (x : GroupKeyArgs) (s : State) : Res :=
  .next (receive s h false false (ctrlOn h (groupKeyOn tag x)))

/-- GROUP_KEY_DISTRIBUTION (R338 steps 1 and 2): the key is a free value. -/
def execGroupKeyDistribution (p : Part) (group : Nat) (s : State) : Res :=
  let m := groupFld s p group 12 4
  if (groupsOf s p).contains group && !isRelay s p group && groupFld s p group 8 4 = 0 && flowState s p m = 1
      && !(s.flow p m).keyed && (peersOf s p group).all (fun r => flowState s p (listFlow s p group r) == 2) then
    let k := p.val * 65536 + group
    let epoch := SMap.get 0 s.epochs k + 1
    let (key, s) := s.draw
    let s := giveKey { s with epochs := SMap.set 0 s.epochs k epoch } p m epoch key
    let args := leBytes 2 (groupFld s p group 0 2) ++ leBytes 4 epoch ++ leBytes 32 key
    .next ((peersOf s p group).foldl (fun s r => sendCtrl s p (listFlow s p group r) 5 args) s)
  else .next s

/-! ### Flows (R335, R336) -/

/-- A flow opens (R335): PSNs from 0, and its handshake waits its turn (R336); an MCAST flow for which a group key is held is UP at
once. -/
def openFlow (s : State) (p f : Nat) : State :=
  let held := s.flow p f
  let keep := isMcast s p f && held.keyed
  let s := pPut (pPut s p (flowAddr s p f + 132) 4 0) p (flowAddr s p f + 136) 4 0
  let s := setFlowState s p f 1
  if isMcast s p f then
    if keep then setFlowState (giveKey (s.setFlow p f FlowCtx.empty) p f held.epoch held.txKey) p f 2 else s.setFlow p f FlowCtx.empty
  else startShakes (s.setFlow p f { FlowCtx.empty with shake := 1 })

/-- A flow closes from UP (R335): CLOSE is sent, its instances fail. -/
def closeFlow (s : State) (p f : Nat) : State :=
  failUsers (setFlowState (sendCtrl s p f 4 []) p f 4) p f 0x0923

/-- A write of FAB_FLOW_CMD (R335, R351). -/
def fabFlowCmd (s : State) (x : Wr) : State :=
  let p := x.part
  let s := storeAll s x
  if !x.one 16 then s
  else
    let refuse := fun (code : Nat) => wrRecord (s.put (Reg.FAB_FLOW_CMD_STATE p) 3) [Reg.FAB_PART_STATUS_LAST_CODE p] code x []
    let f := s.get (Reg.FAB_FLOW_CMD_FLOW p)
    let op := s.get (Reg.FAB_FLOW_CMD_OP p)
    let st := flowState s p f
    let here := f < s.get (Reg.FAB_AREA_CTRL_FLOWS p)
    if !allWritten s [Reg.FAB_FLOW_CMD_OP p, Reg.FAB_FLOW_CMD_FLOW p, Reg.FAB_TIMERS_RTO_US, Reg.FAB_TIMERS_RETRY_MAX]
        || !s.on (Reg.FAB_AREA_CTRL_ENABLE p) then refuse 0x0901
    else if here && (firstBad s p (flowAddr s p f) 256).isSome then
      wrRecord (s.put (Reg.FAB_FLOW_CMD_STATE p) 3) [Reg.MEM_PART_STATUS_LAST_CODE p] 0x0710 x
        (pageDetail p ((firstBad s p (flowAddr s p f) 256).getD 0))
    else if op = 0 ∧ f < s.get (Reg.FAB_AREA_CTRL_FLOWS p) ∧ flowFld s p f 70 1 % 2 = 1 ∧ (st = 0 ∨ st = 3) then
      openFlow (s.put (Reg.FAB_FLOW_CMD_STATE p) 2) p f
    else if op = 1 ∧ f < s.get (Reg.FAB_AREA_CTRL_FLOWS p) ∧ st = 2 then
      closeFlow (s.put (Reg.FAB_FLOW_CMD_STATE p) 2) p f
    else refuse 0x0924

/-- FLOW_OPEN (R335). -/
def execFlowOpen (p : Part) (w : HostWr) (s : State) : Res := .next (hostWrite s (0x210018 + 0x1000 * p.val) w fabFlowCmd)

/-- FLOW_CLOSE (R335). -/
def execFlowClose (p : Part) (w : HostWr) (s : State) : Res := .next (hostWrite s (0x210018 + 0x1000 * p.val) w fabFlowCmd)

/-- The keys and salts of both directions, which the two shared secrets yield (R336): free values, the secrets being the
exchange's. -/
def drawFlowKeys (s : State) (p f : Nat) : State :=
  let (k, s) := s.draw
  let (l, s) := s.draw
  let (m, s) := s.draw
  let (n, s) := s.draw
  s.setFlow p f { s.flow p f with keyed := true, txKey := k % 2 ^ 256, txSalt := l % 2 ^ 32, rxKey := m % 2 ^ 256, rxSalt := n % 2 ^ 32,
                                  txCount := 0 }

/-- The peer's signatures end the handshake that runs on a flow (R336): this side's two signatures go out, and the flow is UP where
both of the peer's verify and its identity digest is PEER_ID, else it fails. -/
def endShake (s : State) (p f : Nat) (x : HandshakeEnd) : State :=
  let s := sendMessages s p f 1 [128, 128, 4]
  if x.rsa && x.slh && pRead s p (flowAddr s p f + 72) 48 == some x.peer then setFlowState (drawFlowKeys s p f) p f 2
  else failFlow s p f 0x0921

/-- HANDSHAKE (R336): the frame that ends a handshake. It is in clear, and R333 judges it like any other frame; on a flow whose
handshake does not run it has no effect. -/
def execHandshake (p : Part) (flow : Nat) (x : HandshakeEnd) (s : State) : Res :=
  match frameMac s x.hdr with
  | (s, false) => .next s
  | (s, true) =>
    let s := lookTargets s x.hdr
    if target s x.hdr false = none then .next (unmatched s)
    else if target s x.hdr false = some (p.val, flow) ∧ (s.flow p flow).shake = 2 then .next (endShake s p flow x)
    else .next s

/-- HANDSHAKE_TIMEOUT (R335, R338 step 5). -/
def execHandshakeTimeout (p : Part) (flow : Nat) (s : State) : Res :=
  if (flowsOf s p).contains flow && flowState s p flow = 1 then .next (failFlow s p flow 0x0921) else .next s

/-- FLOW_CLOSING_TIMEOUT (R335, R419): RTO_US × RETRY_MAX after the CLOSE or the REMOVE. -/
def execFlowClosingTimeout (p : Part) (flow : Nat) (s : State) : Res :=
  if (flowsOf s p).contains flow && (flowState s p flow = 4 || (s.flow p flow).removing) then
    let s := setFlowState s p flow 0
    .next (removalNext (s.setFlow p flow { s.flow p flow with unacked := [], removing := false }))
  else .next s

/-! ### Ports (R328, R329) -/

/-- A port's link goes down (R329): its record, and its unacknowledged frames are sent again (R339). -/
def portDown (s : State) (f : Nat) : State :=
  if s.on (Reg.FAB_PORT_STATUS_LINK_UP f) then
    let s := linkDown s f
    (SMap.keys s.flows).foldl (fun (s : State) k =>
      ((s.flow (k / 65536) (k % 65536)).unacked.filter fun t => t.fport == f).foldl
        (fun s t => retransmit s (k / 65536) (k % 65536) t.psn) s) s
  else s

/-- FABRIC_PORT_DOWN (R329). -/
def execFabricPortDown (f : FPort) (s : State) : Res := .next (portDown s f)

/-- FABRIC_PORT_UP (R329): both lane PLLs locked and the MAC reports link, on an enabled port. -/
def execFabricPortUp (f : FPort) (s : State) : Res :=
  if clocked s && s.on Reg.FAB_CTRL_ENABLE && !ochre s && s.get Reg.PWR_REMOVE_STATE != 2 then
    let s := (s.put (Reg.CLK_STATUS_FAB_LANE_LOCK f.val 0) 1).put (Reg.CLK_STATUS_FAB_LANE_LOCK f.val 1) 1
    .next ((s.put (Reg.FAB_PORT_STATUS_LANES_LOCKED f) 1).put (Reg.FAB_PORT_STATUS_LINK_UP f) 1)
  else .next s

/-- NON_XFT_FRAME_RECEIVED (R328). -/
def execNonXftFrameReceived (f : FPort) (pause : Bool) (s : State) : Res :=
  if !s.on (Reg.FAB_PORT_STATUS_LINK_UP f) then .next s
  else .next (if pause then s.bump Reg.FAB_COUNTS_PAUSE_DISCARDED 1 else unmatched s)

/-! ### Registers (R342, R351) -/

/-- A flow of some partition is UP. -/
def anyFlowUp (s : State) : Bool := (List.range 16).any fun p => s.get (Reg.FAB_PART_STATUS_FLOWS_UP p) != 0

/-- What ENABLE = 1 of FAB_CTRL needs: 0, or the code. -/
def fabCtrlCode (s : State) : Nat :=
  let ports := ([0, 1, 2, 3] : List Nat)
  let routed := ports.flatMap fun f => [Reg.FAB_PORT_IP_LO_ADDR f, Reg.FAB_PORT_IP_HI_ADDR f, Reg.FAB_PORT_GW_ADDR f]
  if !allWritten s [Reg.FAB_CTRL_ETHERTYPE, Reg.FAB_CTRL_MEDIA]
      || (s.on Reg.FAB_CTRL_ENCAP && !allWritten s (Reg.FAB_CTRL_UDP_PORT :: routed)) then 0x0901
  else if s.get Reg.FAB_CTRL_ETHERTYPE < 0x0600 || ports.any (fun f => bitsOf (s.get Reg.FAB_CTRL_MEDIA) (2 * f) 2 == 3) then 0x0902
  else 0

/-- A write of FAB_CTRL (R351, R423). -/
def fabCtrl (s : State) (x : Wr) : State :=
  if s.on Reg.FAB_CTRL_ENABLE then
    let s := if x.vals.any fun v => v.1.lo != 0 && v.1.acc == .rw && v.2 != s.get (v.1.fld x.key) then wrRecord s [] 0x0902 x [] else s
    match x.val 0 with
    | some 0 => if anyFlowUp s then wrRecord s [] 0x0902 x [] else portsDown (s.put Reg.FAB_CTRL_ENABLE 0)
    | _ => s
  else
    let s := storeBut s x [0]
    match x.val 0 with
    | some 1 =>
      if stage s < 3 then wrRecord s [Reg.PWR_STATUS_LAST_CODE] 0x0C03 x []
      else if fabCtrlCode s = 0 then s.put Reg.FAB_CTRL_ENABLE 1 else wrRecord s [] (fabCtrlCode s) x []
    | _ => s

/-- FAB_CTRL_WRITE (R351). -/
def execFabCtrlWrite (w : HostWr) (s : State) : Res := .next (hostWrite s 0x200000 w fabCtrl)

/-- A write of a port address register: discarded while ENABLE is 1 (R351). -/
def fabAddr (s : State) (x : Wr) : State := if s.on Reg.FAB_CTRL_ENABLE then wrRecord s [] 0x0902 x [] else storeAll s x

/-- What ENABLE = 1 of FAB_AREA_CTRL needs (R342, R351). -/
def fabAreaCode (s : State) (p : Nat) : Nat :=
  let pools := ((List.range 16).filter fun q => q == p || s.on (Reg.FAB_AREA_CTRL_ENABLE q)).map fun q => s.get (Reg.FAB_RX_POOL q)
  let flows := s.get (Reg.FAB_AREA_CTRL_FLOWS p)
  let groups := s.get (Reg.FAB_AREA_CTRL_GROUPS p)
  if !allWritten s [Reg.FAB_AREA_SIZE p, Reg.FAB_AREA_BASE p, Reg.FAB_AREA_CTRL_GROUPS p, Reg.FAB_AREA_CTRL_FLOWS p,
      Reg.FAB_RX_POOL p, Reg.FAB_RX_FLOW_MAX p, Reg.FAB_RX_SLOT p] then 0x0901
  else if s.get (Reg.FAB_AREA_SIZE p) < 9 || flows < 1 || 65536 < flows || groups < 1 || 4096 < groups
      || 65536 < pools.foldl (· + ·) 0 then 0x0902
  else 0

/-- A write of FAB_AREA_CTRL (R342, R351). -/
def fabAreaCtrl (s : State) (x : Wr) : State :=
  let p := x.part
  let s := storeBut s x [31]
  match x.val 31 with
  | some 1 =>
    if fabAreaCode s p = 0 then s.put (Reg.FAB_AREA_CTRL_ENABLE p) 1
    else wrRecord (s.put (Reg.FAB_AREA_CTRL_ENABLE p) 0) [Reg.FAB_PART_STATUS_LAST_CODE p] (fabAreaCode s p) x []
  | some _ => s.put (Reg.FAB_AREA_CTRL_ENABLE p) 0
  | none => s

/-- FAB_AREA_CTRL_ENABLE (R342). -/
def execFabAreaCtrlEnable (p : Part) (w : HostWr) (s : State) : Res :=
  .next (hostWrite s (0x210008 + 0x1000 * p.val) w fabAreaCtrl)

/-! ### COLL (R345 to R349) -/

/-- A fault of a COLL at its issue. -/
def collFault (s : State) (x : Ctx) (code : Nat) (detail : List Nat := []) : State :=
  stopLaunch s (chapterLast x.p (portOf s x.p) code) x.p { code := code, core := x.c, vcore := x.v, detail := detail }

/-- The group record itself breaks R349's first row. -/
def groupBad (s : State) (p g : Nat) : Bool :=
  let size := groupFld s p g 4 4
  groupFld s p g 2 1 % 2 != 1 || size < 2 || 32768 < size || size ≤ groupFld s p g 8 4

/-- The records that a COLL on group g reads of LIST and of flows: partition offset and length. -/
def listSpan (s : State) (p g : Nat) : Nat × Nat := (fabBase s p + groupFld s p g 16 4, 4 * groupFld s p g 4 4)
def flowsUsed (s : State) (p g : Nat) : List Nat :=
  (peersOf s p g).map (listFlow s p g) ++ (if isRelay s p g then [] else [groupFld s p g 12 4])

/-- What refuses group g to a COLL (R349), with its DETAIL: its records where R279 refuses them, or what they hold. -/
def groupFault (s : State) (p g : Nat) : Option (Nat × List Nat) :=
  let page := fun (x n : Nat) => (firstBad s p x n).map fun y => (0x0710, pageDetail p y)
  let bad := fun (b : Bool) => if b then some (0x0910, ([] : List Nat)) else none
  let flows := s.get (Reg.FAB_AREA_CTRL_FLOWS p)
  (bad (s.get (Reg.FAB_AREA_CTRL_GROUPS p) ≤ g)).or <| (page (groupAddr s p g) 64).or <| (bad (groupBad s p g)).or <|
    (page (listSpan s p g).1 (listSpan s p g).2).or <| (bad ((peersOf s p g).any fun r => flows ≤ listFlow s p g r)).or <|
    (flowsUsed s p g).findSome? fun f => page (flowAddr s p f) 256

/-- A COLL reads its group's records through their slices (R284). -/
def touchGroup (s : State) (p g : Nat) : State :=
  let s := pTouch (pTouch s p (groupAddr s p g) 64) p (listSpan s p g).1 (listSpan s p g).2
  (flowsUsed s p g).foldl (fun s f => pTouch s p (flowAddr s p f) 256) s

/-- The first flow the group needs that is not UP. -/
def flowDown (s : State) (p g : Nat) : Option Nat :=
  let me := groupFld s p g 8 4
  (((membersOf s p g).filter fun m => m.2 != me).map (·.1) ++ (if isRelay s p g then [] else [groupFld s p g 12 4])).find?
    fun f => flowState s p f != 2

/-- A range of `n` units at unit `off` lies in the tensor. -/
def rangeIn (t : Option TDesc) (need : Bool) (off n : Nat) : Bool :=
  !need || (match t with
    | some t => t.base + 64 * (off + n) ≤ t.limit
    | none => false)

/-- The instance starts (R345, R348). In a replay it is given its recorded data and sends nothing (R244). -/
def collStart (s : State) (x : Ctx) (f : CollF) (ts td : Option TDesc) (so do_ : Nat) : State :=
  let p := x.p
  let g := f.group
  let members := membersOf s p g
  let me := (members.findIdx? fun m => m.2 == groupFld s p g 8 4).getD 0
  let replay := (s.tr p).replay
  match s.launch p with
  | none => s
  | some l =>
    let nth := SMap.get 0 l.colls g
    let no := groupFld s p g 20 4
    let inst := if replay.isSome then 2 ^ 32 + nth else no
    let s := if replay.isSome then s else pPut s p (groupAddr s p g + 20) 4 (no + 1)
    let s := s.setLaunch p (some { l with colls := SMap.set 0 l.colls g (nth + 1) })
    let need := f.op != 5 || me != 0
    let (s, iid) := openParts s x 1 (if need then f.ddesc + 1 else 0)
    let y : Coll :=
      { part := p, group := g, inst := inst, nth := nth, tag := groupFld s p g 0 2, core := x.c, vcore := x.v, seq := l.seq,
        iid := iid, op := f.op, units := f.length, fmt := ((ts.orElse fun _ => td).map (·.format)).getD 0,
        src := (ts.map fun t => t.base + 64 * so).getD 0, dst := (td.map fun t => t.base + 64 * do_).getD 0,
        sig := if f.sigEn then some (f.token % 256) else none, members := members, me := me, relay := isRelay s p g,
        mcast := groupFld s p g 12 4, frq := none,
        avail := if replay.isSome then 64 * srcUnits f.op members.length f.length else 0, arrivals := [], rx := [], tx := [],
        detached := [], reduced := false, counted := replay.isSome, quiet := replay.isSome, ctl := none }
    let s := instCount { s with colls := s.colls ++ [y] } p
    let s := if f.sigEn then s else s.setVc p x.v { s.vc p x.v with hold := .collective g inst }
    match replay with
    | none => s
    | some r =>
      let es := r.record.fabric.filter fun e => e.seq == l.seq && e.group == g && e.inst == nth
      let (s, y) := es.foldl (fun (z : State × Coll) e => (landData z.1 z.2 e.origin e.off e.data).2) (s, y)
      pumpColl (putColl s y) p g inst

/-- What a COLL needs written (R14, R352). -/
def fabReady (s : State) (p : Nat) : Bool :=
  allWritten s [Reg.FAB_TIMERS_INST_MS, Reg.FAB_TIMERS_RETRY_MAX, Reg.FAB_TIMERS_RTO_US, Reg.FAB_TIMERS_DETACH_US]
    && s.on (Reg.FAB_AREA_CTRL_ENABLE p)

/-- COLL (R346, R348, R349). -/
def execColl (a : At) (pr : Pred) (f : CollF) (s : State) : Res :=
  withCtx s a pr false fun x =>
    if !descFree s x [f.ddesc, f.sdesc] then s
    else
      let ts := boundDesc s x.p x.v f.sdesc
      let td := boundDesc s x.p x.v f.ddesc
      let s := issued s x
      match values x [(32, f.soff), (32, f.doff)] with
      | some [so, do_] =>
        let p := x.p
        let g := f.group
        if !fabReady s p then collFault s x 0x0901
        else if let some (code, more) := groupFault s p g then collFault s x code more
        else if isVoteGroup s p g && s.on (Reg.HLT_MIRAGE_STATUS_EXPELLED p) then collFault s x 0x0A32
        else
          let s := touchGroup s p g
          let n := (membersOf s p g).length
          let me := ((membersOf s p g).findIdx? fun m => m.2 == groupFld s p g 8 4).getD 0
          match if (s.tr p).replay.isSome then none else flowDown s p g with
          | some _ => collFault s x 0x0911
          | none =>
            if rangeIn ts (f.op != 5 || me == 0) so (srcUnits f.op n f.length)
                && rangeIn td (f.op != 5 || me != 0) do_ (dstUnits f.op n f.length) then collStart s x f ts td so do_
            else collFault s x 0x0915
      | _ => seqFault s x 0x0333 []

/-- The core's D14 copies an instance's source range. -/
def d14Busy (s : State) (c : Nat) : Bool := s.colls.any fun y => y.core == c && y.frq.isSome && y.needSrc

/-- D14 of an instance's core copies its source range into receive queue q, paced by the queue's level (R344). -/
def fillQueue (s : State) (x : Coll) (q : Nat) : State :=
  let c := x.core
  let s := paceWrite s c 14 (some q) (some 64) (some 192) true
  let total := 64 * srcUnits x.op x.size x.units
  let step := 0xFFFFFFC0
  (List.range ((total + step - 1) / step)).foldl (fun s j =>
    pushDescOn s (dqKey (c / 16) 16)
      { src := x.src + j * step, dst := 0, len := min step (total - j * step), srcSp := 0, dstSp := 3, prio := 3, chan := 14,
        lcore := c % 16, tag := 0, skew := 0, record := false, cq := 0, cookie := q, seq := x.seq, part := x.part,
        firmware := true, bad := false, fill := .receive, shift := 0, rel := false, vcore := x.vcore, iid := 2 ^ 32 }) s

/-- Instance x gets receive queue q, into which D14 copies its source range where it has one (R344). -/
def bindQueue (s : State) (x : Coll) (q : Nat) : State :=
  let s := instCount { putColl s { x with frq := some q } with levels := SMap.set 0 s.levels q 0 } x.part
  if x.needSrc then fillQueue s x q else s

/-- RECEIVE_QUEUE_BIND (R344): the first waiting instance that needs no D14, or whose core's D14 is free, gets the lowest free
receive queue. -/
def execReceiveQueueBind (s : State) : Res :=
  match s.colls.find? (fun x => x.frq.isNone && !x.quiet && x.ctl.isNone && !(x.needSrc && d14Busy s x.core)),
      (List.range 64).find? (fun q => !(s.colls.any fun y => y.frq == some q)) with
  | some x, some q => .next (bindQueue s x q)
  | _, _ => .next s

/-- Every output of the instance is written, and every frame it sent is acknowledged (R348). -/
def collDone (s : State) (x : Coll) : Bool :=
  (x.op == 5 || x.reduced) && x.rxKeys.all (fun k => unitsIn (x.rxPieces k) ≤ landedPrefix (x.rxAt k))
    && (x.quiet || (x.txKeys.all (fun k => unitsIn (x.txPieces k) ≤ (x.txAt k).sent)
      && ((x.mcast :: x.members.map (·.1)).all fun f =>
        (s.flow x.part f).unacked.all fun t => t.ctrl != 0 || t.tag != x.tag || t.inst != x.inst)))

/-- An instance ends (R348): its hold or its token, its receive queue, the instruction's part. -/
def endColl (s : State) (x : Coll) : State :=
  let p := x.part
  let s := dropColl s x
  let c := s.vc p x.vcore
  let s := if c.hold = .collective x.group x.inst then s.setVc p x.vcore { c with hold := .free } else s
  let s := partDone s p x.vcore x.iid
  match x.sig with
  | some t => addToken s p t
  | none => s

/-- INSTANCE_COMPLETE (R348): the instance ends, and the launch's commit follows where it was the last. Those of the Mirage check end
with its steps. -/
def execInstanceComplete (p : Part) (group inst : Nat) (s : State) : Res :=
  match s.coll p group inst with
  | none => .next s
  | some x => if collDone s x && x.ctl.isNone then .next (tryCommit (endColl s x) p) else .next s

/-- COLLECTIVE_WAIT_TIMEOUT (R349): no progress for INST_MS; 0 disables it. -/
def execCollectiveWaitTimeout (p : Part) (group inst : Nat) (s : State) : Res :=
  match s.coll p group inst with
  | some x => if s.on Reg.FAB_TIMERS_INST_MS then .next (failColl s x 0x0916 [] true) else .next s
  | none => .next s

/-- Receiver r of the member's multicast stream holds it back (R350). -/
def holdsBack (x : Coll) (r : Nat) : Bool := (x.txAt (131072 + r)).limit ≤ (x.txAt 65536).sent

/-- Receiver r, of rank `rank`, is detached (R350): DETACH goes to it, its acknowledgements are no longer waited for, and the
stream goes on. -/
def detachRx (s : State) (x : Coll) (r rank : Nat) : State :=
  let p := x.part
  let s := sendCtrl s p (x.flowTo r) 2 (instArgs x.tag x.inst)
  let y := s.flow p x.mcast
  let upd := y.unacked.map fun u => if u.tag = x.tag ∧ u.inst = x.inst ∧ u.ctrl = 0
    then { u with waiting := u.waiting.filter (· != rank) } else u
  let s := s.setFlow p x.mcast { y with unacked := upd.filter fun u => !u.waiting.isEmpty }
  let s := putColl s { x with detached := r :: x.detached }
  let s := raise s [Reg.FAB_PART_STATUS_LAST_CODE p]
    { code := 0x0931, cls := 0, part := p, core := x.core, vcore := x.vcore, seq := x.seq }
  pumpColl s p x.group x.inst

/-- RECEIVER_DETACH (R350): a receiver has held this member's multicast stream for DETACH_US while another did not. -/
def execReceiverDetach (p : Part) (group inst rank : Nat) (s : State) : Res :=
  match s.coll p group inst with
  | none => .next s
  | some x =>
    match x.attached.find? fun r => (x.members[r]?).map (·.2) == some rank with
    | none => .next s
    | some r =>
      if (x.txAt 65536).sent < unitsIn (x.txPieces 65536) && holdsBack x r && x.attached.any (fun q => !holdsBack x q) then
        .next (detachRx s x r rank)
      else .next s

end Sys2Proof.Machine
end

