-- ==== Sys2Proof/Machine/Health.lean ====
section
/-!
DEFINITION. Silent errors, fencing and degraded operation (R353 to R382): host fences, Sirocco runs, paired mode, the Mirage
check, the diagnostic dump, and the registers of the health block.
-/

namespace Sys2Proof.Machine

/-- LAST_CODE of this chapter. -/
def hltLast : List Fld := [Reg.HLT_STATUS_LAST_CODE]

/-! ### Fences (R356) -/

/-- A write of HLT_FENCE. -/
def hltFence (s : State) (x : Wr) : State :=
  let s := storeAll s x
  if !x.one 8 then s
  else
    let c := s.get Reg.HLT_FENCE_CORE
    let other := match partOfCore s c with
      | some p => portOf s p != x.w.port
      | none => false
    if !s.isWritten Reg.HLT_FENCE_CORE then wrRecord s hltLast 0x0A01 x []
    else if coreState s c = 2 || other then wrRecord s hltLast 0x0A02 x []
    else judgeLive (turnGrey s c 0x0A11 (some x.w.port.num)) false

/-- HOST_FENCE (R356). -/
def execHostFence (w : HostWr) (s : State) : Res := .next (hostWrite s 0x3030 w hltFence)

/-- A write of HLT_CTRL: MIN_LIVE out of range, or above LIVE_COUNT, is discarded (R381). -/
def hltCtrl (s : State) (x : Wr) : State :=
  match x.val 0 with
  | some n => if n < 1 || 128 < n || s.get Reg.HLT_STATUS_LIVE_COUNT < n then wrRecord s hltLast 0x0A04 x [] else storeAll s x
  | none => s

/-- HLT_CTRL_WRITE (R381). -/
def execHltCtrlWrite (w : HostWr) (s : State) : Res := .next (hostWrite s 0x3000 w hltCtrl)

/-! ### Sirocco (R357 to R361) -/

/-- A write of HLT_SIROCCO: PERIOD counts anew; START begins a run, or makes it pending while a launch runs or the a-clocks
stand (R412, R420). A run draws its seeds under SYN_SEED_KEY: a START, or a PERIOD that asks for runs, is refused before that is
written (R14, R241). -/
def hltSirocco (s : State) (x : Wr) : State :=
  let p := x.part
  if !s.isWritten (Reg.SYN_SEED_KEY_KEY p) && (x.one 0 || ((x.val 48).getD 0) != 0) then wrRecord s [] 0x0501 x [] else
  let s := storeAll s x
  let s := if (x.val 48).isSome then { s with sirSteps := SMap.set 0 s.sirSteps p 0 } else s
  if x.one 0 && s.get (Reg.HLT_SIROCCO_STATE p) = 0 then
    if (s.launch p).isSome || aclocksStand s then s.put (Reg.HLT_SIROCCO_STATE p) 1 else siroccoBegin s p
  else s

/-- SIROCCO_START (R357). -/
def execSiroccoStart (p : Part) (w : HostWr) (s : State) : Res := .next (hostWrite s (0x80400 + 0x8000 * p.val) w hltSirocco)

/-- SIROCCO_RUN_START (R357): a pending run starts when the launch has ended, unless the a-clocks stand (R412, R420). -/
def execSiroccoRunStart (p : Part) (s : State) : Res :=
  if s.get (Reg.HLT_SIROCCO_STATE p) = 1 && (s.launch p).isNone && !aclocksStand s then .next (siroccoBegin s p) else .next s

/-- The digest that more than half of the cores hold. -/
def majorityOf (ds : List (Option (Nat × Nat))) : Option (Nat × Nat) :=
  (ds.filterMap id).find? fun d => ds.length < 2 * (ds.filter (· == some d)).length

/-- Attributed failures of several cores at once (R354, R356): LIVE_COUNT is judged once. An odd one out has no code of
its own: DETAIL[0] holds the record's own code (DESIGN CHOICE, log entry 20). -/
def oddOnes (s : State) (cs : List Nat) : State :=
  let grey := cs.filter fun c => coreState s c == 1
  let amber := cs.filter fun c => coreState s c == 0
  let s := amber.foldl (fun s c => turnAmber s c 0x0A10) s
  let s := grey.foldl (fun s c => turnGrey s c 0x0A11 none) s
  if grey.isEmpty then s else judgeLive s true

/-- The run ends: RUNS rises by one, and held virtual cores resume. -/
def siroccoEnd (s : State) (p : Nat) : State :=
  let s := s.bumpWrap (Reg.HLT_SIROCCO_RUNS p) 1
  { s with sirocco := SMap.set none s.sirocco p none }.put (Reg.HLT_SIROCCO_STATE p) 0

/-- The groups without the cores that have turned Grey, each core with its digest. -/
def judged (s : State) (x : SirCtx) : List (List (Nat × Option (Nat × Nat))) :=
  x.groups.map fun g => (g.filter fun c => coreState s c != 2).map fun c => (c, SMap.get none x.digests c)

/-- The record of an undecided group (R361). -/
def undecidedRec (s : State) (p : Nat) (g : List (Nat × Option (Nat × Nat))) : State :=
  let detail := g.map (·.1) ++ g.map fun e => (e.2.map (·.1)).getD 0
  raise s hltLast { code := 0x0A13, cls := 0, part := p, detail := detail }

/-- The cores that held a majority digest, ascending. -/
def majorityCores (gs : List (List (Nat × Option (Nat × Nat)))) : List Nat :=
  let hold := gs.flatMap fun g => match majorityOf (g.map (·.2)) with
    | some d => (g.filter fun e => e.2 == some d).map (·.1)
    | none => []
  (List.range 128).filter hold.contains

/-- SIROCCO_JUDGE (R360): the digests of the tested cores (low and high half; none for a core that did not finish or
raised a fault). -/
def execSiroccoJudge (p : Part) (digests : List (Nat × Option (Nat × Nat))) (s : State) : Res :=
  match SMap.get none s.sirocco p with
  | none => .next s
  | some x =>
    if x.rerun then .next s
    else
      let x := { x with digests := SMap.setAll none [] digests }
      let gs := (judged s x).filter fun g => !g.isEmpty
      let odd := gs.flatMap fun g => match majorityOf (g.map (·.2)) with
        | some d => (g.filter fun e => e.2 != some d).map (·.1)
        | none => []
      let open_ := gs.filter fun g => (majorityOf (g.map (·.2))).isNone
      let good := majorityCores gs
      let s := oddOnes s odd
      if ochre s then .next s
      else
        let s := open_.foldl (fun s g => undecidedRec s p g) s
        let again := open_.flatMap fun g => g.map (·.1)
        if again.isEmpty || good.length < 2 then .next (siroccoEnd s p)
        else .next { s with sirocco := SMap.set none s.sirocco p (some { x with again := again, rerun := true }) }

/-- SIROCCO_RERUN (R361): each core of an undecided group has run once more with the two lowest majority cores. -/
def execSiroccoRerun (p : Part) (digests : List (Nat × Option (Nat × Nat))) (s : State) : Res :=
  match SMap.get none s.sirocco p with
  | none => .next s
  | some x =>
    if !x.rerun then .next s
    else
      let d := fun (c : Nat) => SMap.get none (SMap.setAll none [] digests) c
      let odd := match (majorityCores (judged s x)).take 2 with
        | [a, b] => match d a, d b with
          | some v, some w => if v = w then x.again.filter fun c => coreState s c != 2 && d c != some v else []
          | _, _ => []
        | _ => []
      let s := oddOnes s odd
      .next (if ochre s then s else siroccoEnd s p)

/-! ### Paired mode (R362) -/

/-- A write of HLT_PAIR_CTRL: a change re-places every loaded program at its next LAUNCH. -/
def hltPair (s : State) (x : Wr) : State :=
  let p := x.part
  let was := s.get (Reg.HLT_PAIR_CTRL_ENABLE p)
  let s := storeAll s x
  if s.get (Reg.HLT_PAIR_CTRL_ENABLE p) = was then s
  else (List.range 64).foldl (fun (s : State) h =>
    let g := s.prog p h
    if g.state = 2 then s.setProg p h { g with marked := true } else s) s

/-- PAIR_ENABLE_WRITE (R362). -/
def execPairEnableWrite (p : Part) (w : HostWr) (s : State) : Res := .next (hostWrite s (0x80408 + 0x8000 * p.val) w hltPair)

/-! ### The Mirage check (R366 to R370) -/

/-- The VALID master records of partition p, ascending. -/
def validRecords (s : State) (p : Nat) : List Nat :=
  (List.range (s.get (Reg.OAS_CTRL_RECORDS p))).filter fun i => masterFld s p i 5 1 % 2 == 1

/-- The vote group, its effective members' ranks, and this member's rank. -/
def voteGroup (s : State) (p : Nat) : Nat := s.get (Reg.HLT_MIRAGE_CTRL_GROUP p)
def voteRanks (s : State) (p : Nat) : List Nat := (membersOf s p (voteGroup s p)).map (·.2)
def ownRank (s : State) (p : Nat) : Nat := groupFld s p (voteGroup s p) 8 4

/-- The member with effective rank 0 (R367). -/
def isLeader (s : State) (p : Nat) : Bool := (voteRanks s p).head? == some (ownRank s p)

/-- A 128-bit key in the digest-key registers (R367). -/
def putKey (s : State) (p key : Nat) : State :=
  let s := [Reg.OAS_DIGEST_KEY_KEY p 0, Reg.OAS_DIGEST_KEY_KEY p 1].foldl (fun s f => s.markWritten f) s
  ((s.put (Reg.OAS_DIGEST_KEY_KEY p 0) (key % 2 ^ 64)).put (Reg.OAS_DIGEST_KEY_KEY p 1) (key / 2 ^ 64)).put
    (Reg.OAS_DIGEST_CTRL_KEY_VALID p) 1

/-! #### The exchange (R367) -/

/-- The leader's 64-byte unit: K, m and K_next (their places are a DESIGN CHOICE, log entry 21). -/
def keyUnit (key m next : Nat) : List Byte := padTo 64 (leBytes 16 key ++ leBytes 4 m ++ leBytes 16 next)

/-- A member's 64-byte contribution: P, m and its rank. -/
def contribution (digest m rank : Nat) : List Byte := padTo 64 (leBytes 16 digest ++ leBytes 4 m ++ leBytes 4 rank)

/-- The number of the vote group's next instance, taken. -/
def takeInst (s : State) (p : Nat) : Nat × State :=
  let g := voteGroup s p
  let no := groupFld s p g 20 4
  (no, pPut s p (groupAddr s p g + 20) 4 (no + 1))

/-- A collective of one unit on the vote group, run by the control core: MULTICAST or ALLGATHER. -/
def mirageColl (s : State) (p op : Nat) (unit : List Byte) : State :=
  let g := voteGroup s p
  let members := membersOf s p g
  let (no, s) := takeInst s p
  let y : Coll :=
    { part := p, group := g, inst := no, nth := 0, tag := groupFld s p g 0 2, core := 0xFF, vcore := 0xFF, seq := 2 ^ 32 - 1, iid := 0,
      op := op, units := 1, fmt := 0, src := 0, dst := 0, sig := none, members := members,
      me := (members.findIdx? fun m => m.2 == ownRank s p).getD 0, relay := isRelay s p g, mcast := groupFld s p g 12 4, frq := none,
      avail := 64, arrivals := [], rx := [], tx := [], detached := [], reduced := false, counted := true, quiet := false,
      ctl := some unit }
  pumpColl { s with colls := s.colls ++ [y] } p g no

/-- What keeps the vote group from a collective (R349), 0 for nothing. -/
def exchangeCode (s : State) (p : Nat) : Nat :=
  if !fabReady s p then 0x0901
  else match groupFault s p (voteGroup s p) with
    | some x => x.1
    | none => if (flowDown s p (voteGroup s p)).isSome then 0x0911 else 0

/-- A check is due at m (R366): the lowest MSTEP among the VALID records is a multiple of EVERY that has not been checked, every
record is IDLE and no request of the partition is in hand. -/
def checkDue (s : State) (p m : Nat) : Bool :=
  let rs := validRecords s p
  s.on (Reg.HLT_MIRAGE_CTRL_ENABLE p) && !s.on (Reg.HLT_MIRAGE_STATUS_RUNNING p) && !s.on (Reg.HLT_MIRAGE_STATUS_EXPELLED p)
    && !ochre s && !rs.isEmpty && rs.all (fun i => masterFld s p i 6 1 == 0) && !(s.oasActive.any fun a => a.req.part == p)
    && m % s.get (Reg.HLT_MIRAGE_CTRL_EVERY p) == 0 && (s.mir p).lastTried != some m

/-- The lowest MSTEP among the VALID records. -/
def lowestStep (s : State) (p : Nat) : Nat := ((validRecords s p).map fun i => masterFld s p i 8 4).foldl min (2 ^ 32 - 1)

/-- The check at m begins (R367 step 1): the leader draws its keys and sends them, the others wait for its unit. -/
def beginCheck (s : State) (p m : Nat) : State :=
  let x := s.mir p
  let inl := s.on (Reg.HLT_MIRAGE_CTRL_INLINE p)
  let lead := isLeader s p
  let (key, s) := if lead && !(inl && x.digested) then drawKey s p else (x.next, s)
  let (next, s) := if lead && inl then drawKey s p else (0, s)
  let s := (s.setMir p { x with m := m, key := key, next := next, stage := 1 }).put (Reg.HLT_MIRAGE_STATUS_RUNNING p) 1
  match exchangeCode s p with
  | 0 => mirageColl (if lead then putKey s p key else s) p 5 (if lead then keyUnit key m next else padTo 64 [])
  | code => mirageFail s p code

/-- MIRAGE_CHECK_START (R366). -/
def execMirageCheckStart (p : Part) (s : State) : Res :=
  .next (if checkDue s p (lowestStep s p) then beginCheck s p (lowestStep s p) else s)

/-- The VALID records that a check digests by transfer (R367 step 2): under INLINE not those that their update has digested. -/
def toDigest (s : State) (p : Nat) (skip : Bool) : List Nat :=
  (validRecords s p).filter fun i => !(skip && masterFld s p i 112 4 == masterFld s p i 8 4)

/-- The digests of the VALID records under K, by DIGEST transfers (R367 step 2). -/
def mirageDigests (s : State) (p key : Nat) (skip : Bool) : State :=
  (toDigest s p skip).foldl (fun (s : State) i =>
      let step := masterFld s p i 8 4
      let d := xd128 key (rdDev s (mbufAddr s p i (masterFld s p i 7 1 % 2)) (masterBytes s p i))
      setMaster (setMaster s p i 96 16 d) p i 112 4 step) s

/-- The partition digest P (R367 step 3). -/
def partDigest (s : State) (p key : Nat) : Nat :=
  xd128 key ((validRecords s p).flatMap fun i =>
    leBytes 4 i ++ leBytes 4 (masterFld s p i 8 4) ++ leBytes 16 (masterFld s p i 96 16))

/-- Ranks join the exclusion list (R368). -/
def exclude (s : State) (p : Nat) (rs : List Nat) : State :=
  let all := exclOf s p ++ rs
  let s := all.zipIdx.foldl (fun (s : State) (r, k) => s.put (Reg.HLT_MIRAGE_EXCL_RANK p k) r) s
  s.put (Reg.HLT_MIRAGE_STATUS_EXCLUDED p) all.length

/-- The verdict on the gathered contributions (rank, P) (R368). -/
def verdict (s : State) (p m : Nat) (cs : List (Nat × Nat)) : State :=
  let n := cs.length
  let last := fun (s : State) => s.put (Reg.HLT_MIRAGE_STATUS_LAST_STEP p) m
  match (cs.map (·.2)).find? fun v => n < 2 * (cs.filter fun c => c.2 == v).length with
  | some v =>
    let minority := (cs.filter fun c => c.2 != v).map (·.1)
    if minority.isEmpty then last s
    else if n - minority.length < 2 || 64 < (exclOf s p).length + minority.length then halt s
    else
      let s := last (exclude s p minority)
      if minority.contains (ownRank s p) then
        raise (s.put (Reg.HLT_MIRAGE_STATUS_EXPELLED p) 1) hltLast { code := 0x0A32, cls := 3, part := p }
      else raise s hltLast { code := 0x0A30, cls := 0, part := p, detail := minority }
  | none => halt s
where
  /-- Nobody is expelled, and every member halts. -/
  halt (s : State) : State :=
    raise (s.put (Reg.HLT_MIRAGE_STATUS_HALTED p) 1) hltLast { code := 0x0A31, cls := 2, part := p }

/-- The control core's instance of partition p's check. -/
def checkColl (s : State) (p : Nat) : Option Coll := s.colls.find? fun x => x.part == p && x.ctl.isSome

/-- A digest transfer meets units that the slow tier cannot read (R255, R262): the record becomes FAULTED, the check is not
completed, and the other members are told by an ABORT of the instance that was to gather. -/
def digestFails (s : State) (p i : Nat) (y : Coll) : State :=
  let s := setMaster (setMaster s p i 6 1 2) p i 44 2 0x0630
  let s := raise s [Reg.OAS_STATUS_LAST_CODE] { code := 0x0630, part := p, detail := [i] }
  let (no, s) := takeInst s p
  mirageFail (tellAbort s { y with inst := no }) p 0x0630

/-- The leader's unit has come (R367 steps 2 to 4): the digests under K, P, and this member's contribution. `bad` are the units,
by record, that the slow tier could not read. -/
def digestAndGather (s : State) (p : Nat) (y : Coll) (bad : List (Nat × Nat)) : State :=
  let x := s.mir p
  let (key, next) := if y.me = 0 then (x.key, x.next) else (fieldOf (y.heard 0) 0 16, fieldOf (y.heard 0) 20 16)
  let skip := s.on (Reg.HLT_MIRAGE_CTRL_INLINE p) && x.digested
  let s := putKey s p key
  match (toDigest s p skip).find? fun i => bad.any fun b => b.1 == i && b.2 < masterKB s p i * masterN s p i with
  | some i => digestFails s p i y
  | none =>
    let s := mirageDigests s p key skip
    let s := s.setMir p { x with key := key, next := next, stage := 2 }
    mirageColl s p 3 (contribution (partDigest s p key) x.m (ownRank s p))

/-- The contributions are gathered (R367 step 5, R368). -/
def judgeCheck (s : State) (p : Nat) (y : Coll) : State :=
  let x := s.mir p
  let cs := y.members.zipIdx.map fun (m, r) => (m.2, fieldOf (if r = y.me then y.ctl.getD [] else y.heard r) 0 16)
  let s := verdict s p x.m cs
  let s := if s.on (Reg.HLT_MIRAGE_CTRL_INLINE p) then (putKey s p x.next).put (Reg.OAS_DIGEST_CTRL_INLINE p) 1 else s
  mirageEnd (s.setMir p { x with digested := true }) p

/-- MIRAGE_VERDICT (R367, R368): the check goes on once the collective that it waits for is complete: with the digests and the
contribution, then with the verdict. `fail` is a code with which a digest transfer failed otherwise than by the units `bad`, 0
for none; `link` counts the retries and the bad flits of the oasis link. -/
def execMirageVerdict (p : Part) (fail : Nat) (bad : List (Nat × Nat)) (link : Nat × Nat) (s : State) : Res :=
  match checkColl s p with
  | none => .next s
  | some y =>
    if fail != 0 then .next (failColl s y fail [] true)
    else if !collDone s y then .next s
    else
      let s := linkCount { s with colls := s.colls.filter fun x => !(x.part == p.val && x.ctl.isSome) } link.1 link.2
      .next (if (s.mir p).stage = 1 then digestAndGather s p y bad else judgeCheck s p y)

/-- A write of HLT_MIRAGE_CTRL (R381); enabling begins anew. Every member may come to lead the check, and the leader draws its keys
under SYN_SEED_KEY (R14, R367, R369). -/
def hltMirageCtrl (s : State) (x : Wr) : State :=
  let p := x.part
  let s := storeBut s x [0]
  let refuse := fun (code : Nat) => wrRecord (s.put (Reg.HLT_MIRAGE_CTRL_ENABLE p) 0) (chapterLast p x.w.port code) code x []
  match x.val 0 with
  | some 1 =>
    let every := s.get (Reg.HLT_MIRAGE_CTRL_EVERY p)
    if !allWritten s [Reg.HLT_MIRAGE_CTRL_GROUP p, Reg.HLT_MIRAGE_CTRL_EVERY p] then refuse 0x0A01
    else if !s.isWritten (Reg.SYN_SEED_KEY_KEY p) then refuse 0x0501
    else if every < 1 || 1024 < every then refuse 0x0A04
    else if s.on (Reg.HLT_MIRAGE_CTRL_ENABLE p) then s
    else (s.put (Reg.HLT_MIRAGE_CTRL_ENABLE p) 1).setMir p MirCtx.empty
  | some _ => ((dropCtl s p).put (Reg.HLT_MIRAGE_CTRL_ENABLE p) 0).put (Reg.HLT_MIRAGE_STATUS_RUNNING p) 0
  | none => s

/-- A write of HLT_MIRAGE_STATUS: HALTED is cleared by 1; CLEAR empties the exclusion list and clears EXPELLED (R370). -/
def hltMirageStatus (s : State) (x : Wr) : State :=
  let p := x.part
  let s := storeAll s x
  if x.one 4 then
    let s := (List.range 64).foldl (fun (s : State) k => s.put (Reg.HLT_MIRAGE_EXCL_RANK p k) 0xFFFF) s
    (s.put (Reg.HLT_MIRAGE_STATUS_EXCLUDED p) 0).put (Reg.HLT_MIRAGE_STATUS_EXPELLED p) 0
  else s

/-- MIRAGE_CLEAR (R370). -/
def execMirageClear (p : Part) (w : HostWr) (s : State) : Res :=
  .next (hostWrite s (0x80418 + 0x8000 * p.val) w hltMirageStatus)

/-- MIRAGE_HALTED_CLEAR (R370). -/
def execMirageHaltedClear (p : Part) (w : HostWr) (s : State) : Res :=
  .next (hostWrite s (0x80418 + 0x8000 * p.val) w hltMirageStatus)

/-! ### Dump and error rings (R379, R381) -/

/-- A write of HLT_DUMP_CTRL. -/
def hltDump (s : State) (x : Wr) : State :=
  if !x.one 0 then s
  else if !s.isWritten Reg.HLT_DUMP_ADDR_ADDR then wrRecord s hltLast 0x0A01 x []
  else if s.dump.isSome then s
  else { s with dump := some x.w.port }.put Reg.HLT_DUMP_CTRL_STATE 1

/-- DIAGNOSTIC_DUMP (R379). -/
def execDiagnosticDump (w : HostWr) (s : State) : Res := .next (hostWrite s 0x3048 w hltDump)

/-- A write of HLT_ERR_CTRL: enabling sets HEAD and TAIL to 0 (R381). -/
def hltErrCtrl (s : State) (x : Wr) : State :=
  let p := x.part
  let s := storeBut s x [0]
  let log := s.get (Reg.HLT_ERR_CTRL_LOG p)
  match x.val 0 with
  | some 1 =>
    if !allWritten s [Reg.HLT_ERR_CTRL_VECTOR p, Reg.HLT_ERR_CTRL_LOG p, Reg.HLT_ERR_RING_ADDR p] || log < 4 || 16 < log then
      wrRecord (s.put (Reg.HLT_ERR_CTRL_ENABLE p) 0) hltLast 0x0A01 x []
    else if s.on (Reg.HLT_ERR_CTRL_ENABLE p) then s
    else
      let s := (s.put (Reg.HLT_ERR_PTR_HEAD p) 0).put (Reg.HLT_ERR_PTR_TAIL p) 0
      { s with errWrap := SMap.set false s.errWrap p false }.put (Reg.HLT_ERR_CTRL_ENABLE p) 1
  | some _ => s.put (Reg.HLT_ERR_CTRL_ENABLE p) 0
  | none => s

/-- HLT_ERR_CTRL_ENABLE (R381). -/
def execHltErrCtrlEnable (p : Part) (w : HostWr) (s : State) : Res :=
  .next (hostWrite s (0x804A8 + 0x8000 * p.val) w hltErrCtrl)

end Sys2Proof.Machine
end

