-- ==== Sys2Proof/Machine/Reset.lean ====
section
/-!
DEFINITION. The loss of a host link (R325), the return to the power-up state (R416, R436, R25) and the beginning of an
orderly removal (R419): what the security, management and power commands share.
-/

namespace Sys2Proof.Machine

/-- The key of a transport: the DOE mailbox of H0, of H1, MCTP. -/
def transNum : Transport → Nat
  | .doe p => p.num
  | .mctp => 2

def State.spdm (s : State) (t : Transport) : Spdm := SMap.get Spdm.empty s.spdms (transNum t)
def State.setSpdm (s : State) (t : Transport) (x : Spdm) : State :=
  { s with spdms := SMap.set Spdm.empty s.spdms (transNum t) x }

/-- Port b's host link is lost (R325): its partitions are torn down without completion records, its banked queue registers
return to their power-up values, LOST_SEEN is set, and the SPDM session of its DOE mailbox ends with its connection (R392). -/
def linkLost (s : State) (b : Port) : State :=
  if !s.on (Reg.QUE_PORT_STATUS_LINK_UP b) then s
  else
    let mine := (List.range 16).filter fun p => owned s p && portOf s p == b
    let s := mine.foldl (fun s p => teardown s p false 0) s
    let s := s.resetRange (0x100800 + bankOff b) (0x100838 + bankOff b)
    let s := (s.put (Reg.QUE_PORT_STATUS_LINK_UP b) 0).put (Reg.QUE_PORT_STATUS_LOST_SEEN b) 1
    let s := { s with halves := SMap.set none s.halves b.num none }.setSpdm (.doe b) Spdm.empty
    raise s (portLast b) { code := 0x0830, cls := 3, unit := b.num, detail := [b.num] }

/-- The fields that survive a return to the power-up state (R436). -/
def keptFields : List Fld :=
  [Reg.CLK_STATUS_ROOT_LOSS_SEEN, Reg.PWR_STATUS_RESET_SEEN, Reg.QUE_PORT_STATUS_LOST_SEEN .h0, Reg.QUE_PORT_STATUS_LOST_SEEN .h1]

/-- The module returns to its power-up state (R416, R25, R436): every partition, frame, key and register is gone but for
the kept fields; the commands that wait, what was sent out and the count of free values stay. The fast tier is zeroized in full;
the slow tier keeps what it holds, without the keys under which it was written (R400). What only a power cycle ends (R401)
stays, and the test access port, which no reset of R416 names. No host access is accepted until the zeroization is
complete. -/
def powerUp (s : State) : State :=
  let t : State := { State.reset with
    pending := s.pending
    out := s.out
    free := s.free
    mem := SMap.drop (fun a => decide (a < slowBase)) ((List.range 16).foldl loseRegion s).mem
    sec := { SecCtx.empty with noIdentity := s.sec.noIdentity, testFails := s.sec.testFails }
    pwr := { PwrCtx.empty with perst := s.pwr.perst, jtag := s.pwr.jtag, boundary := s.pwr.boundary, rootLost := s.pwr.rootLost, zeroizing := true } }
  keptFields.foldl (fun (t : State) f => t.put f (s.get f)) t

/-- A module reset (R416, R400): REMOVE on every UP flow, both host links are lost, every partition is torn down without
records, and the module returns to its power-up state. -/
def moduleReset (s : State) : State :=
  let s := linkLost (linkLost (removeFrames s) .h0) .h1
  (powerUp ((List.range 16).foldl (fun s p => teardown s p false 0) s)).put Reg.PWR_STATUS_RESET_SEEN 1

/-- The flows that wait for their REMOVE to be acknowledged (R419 step 2). -/
def markRemoving (s : State) : State :=
  (List.range 16).foldl (fun s p => (flowsOf s p).foldl (fun (s : State) f =>
    if flowState s p f = 2 then s.setFlow p f { s.flow p f with removing := true } else s) s) s

/-- An orderly removal begins (R419), unless one is in progress. -/
def beginRemoval (s : State) : State :=
  if s.get Reg.PWR_REMOVE_STATE != 0 then s
  else
    let s := { s with pwr := { s.pwr with removing := true } }.put Reg.PWR_REMOVE_STATE 1
    removalNext (markRemoving (removeFrames s))

/-- A partition is owned by the port other than b (R417). -/
def otherOwns (s : State) (b : Port) : Bool := (List.range 16).any fun p => owned s p && portOf s p != b

/-- The 64 bits of the register at a key of the register file: its After power-up value, from the map `fs`, with what the
register file holds of it. -/
def regWord (s : State) (fs : List FRow) (key : Nat) : Nat :=
  (s.regs.filter fun e => e.1 / 64 == key).foldl (fun n e => n ^^^ (e.2 * 2 ^ (e.1 % 64))) (fs.foldl (fun n f => n + f.rst * 2 ^ f.lo)
    (if key = (Reg.ID_PORT_PORT .h1).key then (Reg.ID_PORT_PORT .h1).rst else 0))

/-- The 64 bits of the register at a BAR0 offset; 0 where none stands. -/
def wordAt (s : State) (off : Nat) : Nat :=
  match findReg off with
  | some (r, _) => regWord s r.fields off
  | none => 0

end Sys2Proof.Machine
end

