-- ==== Sys2Proof/Machine/RegRead.lean ====
section
/-!
DEFINITION. What a host read of a register returns (R8, R12, R13, R314, R316, R376, R427, R430, R432, R435). A read changes nothing,
and the table of commands has no row for it; the state says what it returns.
-/

namespace Sys2Proof.Machine

/-- Bits [lo + w − 1:lo] of v replaced. -/
def putBits (v lo w x : Nat) : Nat := v - bitsOf v lo w * 2 ^ lo + x % 2 ^ w * 2 ^ lo

/-- What a read shows of the register at a key of the register file: WO fields as 0 (R8), fields that nothing has written
yet as unspecified values (R13), every other field as it stands. -/
def shownWord (s : State) (fs : List FRow) (key : Nat) : Nat :=
  fs.foldl (fun v f =>
    let w := f.hi - f.lo + 1
    if f.acc == .wo then putBits v f.lo w 0
    else if f.undef && !s.isWritten (f.fld key) then putBits v f.lo w (Config.unwritten (f.fld key).id)
    else v) (regWord s fs key)

/-- Word w of a log record as port b reads it: DETAIL and SEQ as 0 and REDACTED set where the record is charged to a
partition that the other port owns (R376). -/
def shownLog (s : State) (b : Port) (i w : Nat) : Nat :=
  let v := s.get (Reg.HLT_LOG_RECORD i w)
  let p := bitsOf (s.get (Reg.HLT_LOG_RECORD i 0)) 32 8
  if bitsOf (s.get (Reg.HLT_LOG_RECORD i 0)) 0 16 != 0 && p < 16 && owned s p && portOf s p != b then
    match w with
    | 0 => putBits v 27 1 1
    | 1 => putBits v 0 32 0
    | _ => 0
  else v

/-- The action that a W1S field requests is pending (R8): the register of name `name` of partition p, its field at bit lo. What
counts is that the action is under way, whoever asked for it (DESIGN CHOICE, log entry 60). -/
def pendingBit (s : State) (b : Port) (name : String) (p lo : Nat) : Bool :=
  match name, lo with
  | "MEM_MAPOUT", 16 => s.mapout.isSome
  | "OAS_XFER", 0 => (xferOf s p).isSome
  | "SEC_MBX_CTRL", 0 => s.on (Reg.SEC_MBX_CTRL_BUSY b)
  | "HLT_SIROCCO", 0 => s.get (Reg.HLT_SIROCCO_STATE p) != 0
  | "HLT_DUMP_CTRL", 0 => s.dump.isSome
  | "PWR_REMOVE", 0 => s.get Reg.PWR_REMOVE_STATE == 1
  | "SYN_REPLAY_CTRL", 0 => (s.tr p).replay.isSome
  | "SYN_REPLAY_CTRL", 1 => (s.tr p).replay.any (·.abort)
  | _, _ => false

/-- A word with the W1S fields of pending actions at 1. -/
def withPending (s : State) (b : Port) (r : RRow) (p v : Nat) : Nat :=
  (r.fields.filter fun f => f.acc == .w1s && pendingBit s b r.name p f.lo).foldl (fun v f => putBits v f.lo 1 1) v

/-- The registers of a core's page whose fields show what a shadow does as its primary does it (R363). -/
def mirrored : List String := ["ENG_STATUS", "SEQ_STATUS", "VEC_STATUS", "VEC_FIFO_LEVEL", "CAR_STATUS", "CAR_STAGE"]

/-- The offset whose fields a read of a register shows: for a core that runs as a shadow, those of its primary's page, since the
pair runs the same code in step (R363, log entry 63); else its own. -/
def mirrorOff (s : State) (r : RRow) (i : List Nat) (off : Nat) : Nat :=
  match regCore r i with
  | some d =>
    match s.shadows.find? fun e => e.2 == d + 1 with
    | some e => if mirrored.contains r.name then off - coreBase d + coreBase e.1 else off
    | none => off
  | none => off

/-- The core whose page holds a BAR0 offset, by the decoding of R428, whether or not a register stands there. -/
def pageCore (off : Nat) : Option Nat :=
  let y := (off - 0x400000) % 0x80000
  if 0x400000 ≤ off ∧ off < 0x800000 ∧ 0x10000 ≤ y ∧ y < 0x50000 then
    some (16 * ((off - 0x400000) / 0x80000) + (y - 0x10000) / 0x4000)
  else none

/-- The partition whose partition page, fabric or oasis partition page, or core page holds a BAR0 offset (R428, R439). -/
def pagePart (s : State) (off : Nat) : Option Nat :=
  match pageCore off with
  | some c => partOfCore s c
  | none =>
    if 0x310000 ≤ off ∧ off < 0x320000 then some ((off - 0x310000) / 0x1000)
    else if 0x210000 ≤ off ∧ off < 0x220000 then some ((off - 0x210000) / 0x1000)
    else if 0x80000 ≤ off ∧ off < 0x100000 then some ((off - 0x80000) / 0x8000)
    else none

/-- What a host read of the register of a map returns through port b (R314, R430). DMA_CHn_PACE of n = 0 to 13 reads 0
(R326). -/
def shownTo (s : State) (b : Port) (r : RRow) (i : List Nat) (off : Nat) : Nat :=
  let sel := s.get (Reg.QUE_SEL_QUEUE b)
  let foreign := match regPart s r i with
    | some p => owned s p && portOf s p != b
    | none => false
  if foreign then
    if r.name == "SEC_PART_STATUS" then
      let p := i.getD 0 0
      s.get (Reg.SEC_PART_STATUS_STATE p) + 2 ^ 12 * s.get (Reg.SEC_PART_STATUS_PORT p)
    else 0
  else if r.name == "DMA_CH_PACE" && i.getD 2 0 < 14 then 0
  else if r.name == "HLT_LOG" then shownLog s b (i.getD 0 0) (i.getD 1 0)
  else match r.kind with
    | .queue => if s.isWritten (Reg.QUE_SEL_QUEUE b) && queueOf s b sel then
        shownWord s r.fields (queueBase sel + (off - 0x100800)) else 0
    | .banked => withPending s b r 0 (shownWord s r.fields (off + bankOff b))
    | _ => withPending s b r (i.getD 0 0) (shownWord s r.fields (mirrorOff s r i off))

/-- The 64 bits that a host read of BAR0 at a multiple of 8 returns through port b. In STAGE 0 only SEC_STATUS answers
(R435); where no register stands the read returns 0 (R12). -/
def hostRead (s : State) (b : Port) (off : Nat) : Nat :=
  match findReg off with
  | none => 0
  | some (r, i) => if stage s = 0 && r.name != "SEC_STATUS" then 0 else shownTo s b r i off

/-- A 4-byte read of the lower or the upper half, or an 8-byte read (R432). -/
def hostReadSized (s : State) (b : Port) (off : Nat) (z : Size) : Nat :=
  match z with
  | .full => hostRead s b off
  | .low => hostRead s b off % 2 ^ 32
  | .high => hostRead s b off / 2 ^ 32

/-- A read of BAR2 (R316). -/
def doorbellRead : Nat := 0

/-- The configuration header of either port's function (R427): vendor ID, device ID, class code, and the bytes of BAR0, BAR2
and BAR4. -/
def vendorId : Nat := 0x1D7A
def deviceId : Nat := 0x0075
def classCode : Nat := 0x120000
def barBytes (bar : Nat) : Nat :=
  match bar with
  | 0 => 2 ^ 24
  | 2 => 2 ^ 19
  | 4 => 2 ^ 16
  | _ => 0

/-- The 4 bytes that a read of BAR4 returns through port b (R427): the MSI-X table of 2,048 entries, the pending-bit array at
0x8000, 0 elsewhere. -/
def msixRead (s : State) (b : Port) (off : Nat) : Nat :=
  if off < 0x8000 then msixWord s b (off / 16) (off / 4 % 4)
  else if off < 0x8100 then
    (List.range 32).foldl (fun n i => if SMap.get false s.msixPend (2048 * b.num + 8 * (off / 4 * 4 - 0x8000) + i) then n + 2 ^ i else n) 0
  else 0

end Sys2Proof.Machine
end

