-- ==== Sys2Proof/Machine/Security.lean ====
section
/-!
DEFINITION. Boot, identity and attestation (R383 to R403): the security mailbox and its commands, the partition lifecycle,
SPDM, IDE and TDISP, and the locked test access.
-/

namespace Sys2Proof.Machine

/-! ### The mailbox (R396, R402) -/

/-- The request as port b has written it. -/
def reqBytes (s : State) (b : Port) : List Byte := (List.range 8).flatMap fun n => leBytes 8 (s.get (Reg.SEC_MBX_REQ_DATA n b))

/-- The bytes of a request that its command reads; the others are reserved. -/
def reqUses (op : Nat) : List Nat :=
  let span := fun (lo n : Nat) => (List.range n).map (lo + ·)
  [0] ++ span 4 4 ++ (match op with
    | 0x01 => span 8 8
    | 0x02 => span 8 12
    | 0x03 => span 8 1 ++ span 16 12
    | 0x10 => span 8 2 ++ span 16 24
    | 0x11 => span 8 1 ++ span 16 12
    | 0x12 => span 8 3
    | 0x16 => span 8 1 ++ span 16 8
    | 0x20 => []
    | 0x21 => span 16 8
    | _ => span 8 1)

/-- R396: an unlisted OP, a reserved byte that is not 0, a partition operand of 16 or more; also a certificate slot above 1
or a chain above 65,536 bytes (R391; log entry 22). -/
def reqBad (r : List Byte) : Bool :=
  let op := fieldOf r 0 1
  !([0x01, 0x02, 0x03, 0x10, 0x11, 0x12, 0x13, 0x14, 0x15, 0x16, 0x20, 0x21].contains op)
    || (r.zipIdx.any fun (v, i) => v != 0 && !(reqUses op).contains i)
    || (0x10 ≤ op && op ≤ 0x16 && 16 ≤ fieldOf r 8 1)
    || (op == 0x10 && 1 < fieldOf r 9 1)
    || (op == 0x03 && (1 < fieldOf r 8 1 || 65536 < fieldOf r 24 4))

/-- The response is written: its code, the request's TAG, and what the command returns. -/
def respond (s : State) (b : Port) (r : List Byte) (code : Nat) (more : List Byte) : State :=
  let bs := (padTo 64 (leBytes 2 code ++ leBytes 2 0 ++ sliceOf r 4 4 ++ more)).take 64
  let s := (List.range 8).foldl (fun (s : State) n => s.put (Reg.SEC_MBX_RESP_DATA n b) (fieldOf bs (8 * n) 8)) s
  let s := { s with sec := { s.sec with order := s.sec.order.filter fun e => e.1 != b } }
  (s.put (Reg.SEC_MBX_CTRL_BUSY b) 0).put (Reg.SEC_MBX_CTRL_DONE b) 1

/-- The request is refused: its record, which the LAST_CODE fields of the code's chapter show (R402, R433), and the response
with the same code (R403). -/
def mbxRefuse (s : State) (b : Port) (r : List Byte) (code p : Nat) (detail : List Nat) : State :=
  let s := raise s (chapterLast p b code) { code := code, part := p, unit := b.num, detail := detail }
  respond s b r code []

/-- A GO is refused by itself, with a record of the access (R439), and the response with the same code. -/
def goRefuse (s : State) (x : Wr) (r : List Byte) (code : Nat) : State :=
  respond (wrRecord s (secLast 0xFF) code x []) x.w.port r code []

/-- A write of SEC_MBX_CTRL: GO submits the request, unless one is BUSY. -/
def mbxCtrl (s : State) (x : Wr) : State :=
  let b := x.w.port
  if !x.one 0 || s.on (Reg.SEC_MBX_CTRL_BUSY b) then s
  else
    let r := reqBytes s b
    let s := (s.put (Reg.SEC_MBX_CTRL_DONE b) 0).put (Reg.SEC_MBX_CTRL_BUSY b) 1
    if !allWritten s ((List.range 8).map fun n => Reg.SEC_MBX_REQ_DATA n b) then goRefuse s x r 0x0B01
    else if reqBad r then goRefuse s x r 0x0B02
    else { s with sec := { s.sec with order := s.sec.order ++ [(b, r)] } }

/-- The stages in which a command is served (R396); in Ochre mode no others (R372). -/
def mbxStageOk (s : State) (op : Nat) : Bool :=
  match op with
  | 0x01 => stage s == 1
  | 0x02 => stage s == 2
  | 0x03 => stage s == 2 || stage s == 3
  | 0x20 => stage s == 2 || stage s == 3 || stage s == 4
  | 0x21 => s.sec.nonce.isSome
  | 0x10 => stage s == 3
  | _ => true

/-- Refused in Ochre mode (R396). -/
def ochreRefuses (op : Nat) : Bool := op == 0x02 || (0x10 ≤ op && op ≤ 0x14)

/-- The security controller serves port b's request, which is the oldest and has opcode op (R396): the checks that every
command has, then `k`. -/
def serve (s : State) (b : Port) (op : Nat) (k : State → List Byte → State) : Res :=
  match s.sec.order with
  | [] => .next s
  | (c, r) :: _ =>
    if c != b || fieldOf r 0 1 != op then .next s
    else
      let p := if 0x10 ≤ op && op ≤ 0x16 then fieldOf r 8 1 else 0xFF
      if (4 ≤ s.sec.attempts && !s.on Reg.SEC_STATUS_IDENTITY) || (op = 0x01 && s.sec.noIdentity) then
        .next (mbxRefuse s b r 0x0B21 p [])
      else if (ochre s && ochreRefuses op) || !mbxStageOk s op then .next (mbxRefuse s b r 0x0B30 p [])
      else if p < 16 && owned s p && portOf s p != b then .next (mbxRefuse s b r 0x0B32 p [])
      else .next (k s r)

/-! ### Identity and firmware (R387 to R391) -/

/-- The die's stepping. -/
def stepping (s : State) : Nat := s.get Reg.ID_REVISION_STEPPING

/-- The checks of R388 that need no PUF. -/
def helperOk (s : State) (h : List Byte) : Bool :=
  h.length == 4096 && fieldOf h 0 4 == 0x48504F58 && fieldOf h 4 2 == stepping s && fieldOf h 6 58 == 0

/-- SET_HELPER (R388): `host` is what host memory answers, `seedOk` whether the reconstructed seed gives CHECK. The response
comes with the identity (log entry 22). -/
def execSetHelper (port : Port) (host : Option (List Byte)) (seedOk : Bool) (s : State) : Res :=
  serve s port 0x01 fun s r =>
    if s.sec.deriving_ then s
    else match host with
      | some h =>
        if helperOk s h && seedOk then { s with sec := { s.sec with deriving_ := true, helper := h } }
        else mbxRefuse { s with sec := { s.sec with attempts := s.sec.attempts + 1 } } port r 0x0B20 0xFF []
      | none => mbxRefuse { s with sec := { s.sec with attempts := s.sec.attempts + 1 } } port r 0x0B20 0xFF []

/-- IDENTITY_DERIVATION_COMPLETE (R389, R390): the identity digest is the silicon's. -/
def execIdentityDerivationComplete (digest : List Byte) (s : State) : Res :=
  if s.sec.deriving_ then
    let s := { s with sec := { s.sec with deriving_ := false } }
    let s := (List.range 6).foldl (fun (s : State) n => s.put (Reg.SEC_ID_DIGEST_DIGEST n) (fieldOf digest (8 * n) 8)) s
    let s := (s.put Reg.SEC_STATUS_IDENTITY 1).put Reg.SEC_STATUS_STAGE 2
    match s.sec.order with
    | (b, r) :: _ => .next (respond s b r 0 [])
    | [] => .next s
  else .next s

/-- Two sections (offset, size) do not overlap. -/
def apart (a b : Nat × Nat) : Bool := a.2 == 0 || b.2 == 0 || a.1 + a.2 ≤ b.1 || b.1 + b.2 ≤ a.1

/-- The header of a firmware image but for its SVN (R384). -/
def firmwareOk (s : State) (im : List Byte) (size : Nat) : Bool :=
  let sec := fun (o : Nat) => (fieldOf im o 4, fieldOf im (o + 4) 4)
  let secs := [sec 64, sec 72, sec 80, sec 88]
  im.length == size && fieldOf im 0 4 == 0x57464F58 && fieldOf im 4 2 == 0x0100 && fieldOf im 6 2 == stepping s
    && fieldOf im 8 4 == size && size % 64 == 0 && size ≤ 16777216 && fieldOf im 20 44 == 0 && fieldOf im 96 32 == 0
    && secs.all (fun x => x.1 % 64 == 0 && x.2 % 64 == 0 && x.1 + x.2 ≤ size && 128 ≤ x.1)
    && (secs.zipIdx.all fun (x, i) => secs.zipIdx.all fun (y, j) => i == j || apart x y)
    && (sec 88).2 == 17152 && (sec 88).1 + (sec 88).2 == size

/-- A failed firmware load (R387 step 5): STAGE 4, its record, Ochre mode. -/
def firmwareFails (s : State) (b : Port) (r : List Byte) (code : Nat) (detail : List Nat) : State :=
  let s := raise (s.put Reg.SEC_STATUS_STAGE 4) (secLast 0xFF) { code := code, cls := 3, unit := b.num, detail := detail }
  respond (enterOchre s 3 false) b r code []

/-- A firmware image that verified: its identity for the measurements, and its sections where R387 copies them, to the management
controller, the erg control cores and the security controller's firmware area. -/
def loadedFirmware (x : SecCtx) (im : List Byte) : SecCtx :=
  let part := fun (o : Nat) => sliceOf im (fieldOf im o 4) (fieldOf im (o + 4) 4)
  { x with fwLoaded := true, fwDigest := sliceOf im (fieldOf im 88 4) 48, nativeMin := fieldOf im 16 4,
           fwMgmt := part 64, fwErg := part 72, fwSec := part 80 }

/-- LOAD_FIRMWARE (R387): `image` is what host memory answers, `v` whether the signatures of its block verify (R386). -/
def execLoadFirmware (port : Port) (image : Option (List Byte)) (v : SigVerdict) (s : State) : Res :=
  serve s port 0x02 fun s r =>
    let im := image.getD []
    let sig := fieldOf im 88 4
    let (rsa, slh) := vendorHalves im sig (im.take sig) v
    if !firmwareOk s im (fieldOf r 16 4) then firmwareFails s port r 0x0B10 []
    else if fieldOf im 12 4 < Config.svnFloor.toNat then firmwareFails s port r 0x0B12 []
    else if !(rsa && slh) then firmwareFails s port r 0x0B11 [(!rsa).toNat + 2 * (!slh).toNat]
    else
      let s := (s.put Reg.SEC_STATUS_STAGE 3).put Reg.SEC_STATUS_FW_SVN (fieldOf im 12 4)
      respond { s with sec := loadedFirmware s.sec im } port r 0 []

/-- LOAD_CERT (R391): `isOurs` says that the leaf's public key is the module's. -/
def execLoadCert (port : Port) (chain : Option (List Byte)) (isOurs : Bool) (s : State) : Res :=
  serve s port 0x03 fun s r =>
    let k := fieldOf r 8 1
    match chain with
    | some c =>
      if isOurs && c.length = fieldOf r 24 4 then
        let s := { s with sec := { s.sec with certs := s.sec.certs.set k c } }
        respond (s.put Reg.SEC_STATUS_CERT_SLOTS (s.get Reg.SEC_STATUS_CERT_SLOTS ||| 2 ^ k)) port r 0 []
      else mbxRefuse s port r 0x0B22 0xFF []
    | none => mbxRefuse s port r 0x0B22 0xFF []

/-! ### The partition lifecycle (R397) -/

/-- The page-map range [a, a + n) overlaps that of no partition that is not FREE (R280). -/
def spanFree (s : State) (p a n : Nat) : Bool :=
  (List.range 16).all fun q =>
    let (b, m) := SMap.get (0, 0) s.span q
    q == p || partState s q == 0 || a + n ≤ b || b + m ≤ a

/-- Partition p in CONFIG, owned by a port: its cores, its page-map range, DQ p of every erg (R441), no log, sequence
numbers from 0. -/
def createPart (s : State) (p : Nat) (port : Port) (cores : List Nat) (base span tdisp : Nat) : State :=
  let s := cores.foldl (fun (s : State) c => s.put (Reg.SEC_PART_CORES_CORE p c) 1) s
  let s := (s.put (Reg.SEC_PART_STATUS_STATE p) 1).put (Reg.SEC_PART_STATUS_PORT p) port.num
  let s := s.put (Reg.SEC_PART_STATUS_TDISP p) tdisp
  let s := (s.put (Reg.MEM_PART_MAP_PM_BASE p) base).put (Reg.MEM_PART_MAP_PAGES p) 0
  let s := (List.range 8).foldl (fun (s : State) e => (s.put (Reg.DMA_DQ_BOUND e p) 1).put (Reg.DMA_DQ_PARTITION e p) p) s
  let s := { s with span := SMap.set (0, 0) s.span p (base, span), seqs := SMap.set 0 s.seqs p 0 }
  { s with mlogs := SMap.set MLog.empty s.mlogs p MLog.empty }

/-- PART_CREATE (R397): CONFIG, with its cores, its page-map range and DQ p of every erg (R441). -/
def execPartCreate (port : Port) (s : State) : Res :=
  serve s port 0x10 fun s r =>
    let p := fieldOf r 8 1
    let mask := fieldOf r 16 16
    let base := fieldOf r 32 4
    let span := fieldOf r 36 4
    let cores := (List.range 128).filter fun c => bitsOf mask c 1 == 1
    if partState s p != 0 || s.get Reg.PWR_REMOVE_STATE != 0 then mbxRefuse s port r 0x0B30 p []
    else if span < 1 || 98304 < span || 98304 < base + span || !spanFree s p base span
        || cores.any (fun c => coreState s c == 2 || (partOfCore s c).isSome) then mbxRefuse s port r 0x0B31 p []
    else
      respond (createPart s p port cores base span (fieldOf r 9 1)) port r 0 []

/-- n frames from `frame` on are owned by partition p, at the pages from `page` on (R280). -/
def assignFrames (s : State) (p page frame n : Nat) : State :=
  let base := s.get (Reg.MEM_PART_MAP_PM_BASE p)
  let s := (List.range n).foldl (fun (s : State) i =>
    let s := setFrame s (frame + i) (.owned p)
    { s with pageMap := SMap.set ⟨0, false⟩ s.pageMap (base + page + i) ⟨frame + i, true⟩ }) s
  if n = 0 then s else s.put (Reg.MEM_PART_MAP_PAGES p) (max (s.get (Reg.MEM_PART_MAP_PAGES p)) (page + n))

/-- PART_FRAMES (R280): every frame of the request is assigned, or none. -/
def execPartFrames (port : Port) (s : State) : Res :=
  serve s port 0x11 fun s r =>
    let p := fieldOf r 8 1
    let page := fieldOf r 16 4
    let frame := fieldOf r 20 4
    let n := fieldOf r 24 4
    let base := s.get (Reg.MEM_PART_MAP_PM_BASE p)
    let entry := fun (i : Nat) => SMap.get (⟨0, false⟩ : PEntry) s.pageMap (base + page + i)
    if partState s p != 1 then mbxRefuse s port r 0x0B30 p []
    else if !s.on Reg.MEM_INTERLEAVE_VALID then
      mbxRefuse s port r 0x0701 p []
    else if (SMap.get (0, 0) s.span p).2 < page + n || 98304 < frame + n
        || (List.range n).any (fun i => frameState s (frame + i) != some .free || (entry i).valid) then
      mbxRefuse s port r 0x0713 p []
    else
      respond (assignFrames s p page frame n) port r 0 []

/-- Queue blocks assigned to partition p and its port (R313). -/
def assignBlocks (s : State) (p : Nat) (port : Port) (blocks : List Nat) : State :=
  let s := blocks.foldl (fun (s : State) b =>
    ((s.put (Reg.QUE_BLOCK_ASSIGNED b) 1).put (Reg.QUE_BLOCK_PORT b) port.num).put (Reg.QUE_BLOCK_PARTITION b) p) s
  s.put (Reg.SEC_PART_STATUS_QBLOCKS p) (s.get (Reg.SEC_PART_STATUS_QBLOCKS p) + blocks.length)

/-- PART_QBLOCKS (R397, R313). -/
def execPartQblocks (port : Port) (s : State) : Res :=
  serve s port 0x12 fun s r =>
    let p := fieldOf r 8 1
    let first := fieldOf r 9 1
    let n := fieldOf r 10 1
    let blocks := (List.range n).map (first + ·)
    if partState s p != 1 then mbxRefuse s port r 0x0B30 p []
    else if 256 < first + n || blocks.any (fun b => s.on (Reg.QUE_BLOCK_ASSIGNED b)) then mbxRefuse s port r 0x0B31 p []
    else
      respond (assignBlocks s p port blocks) port r 0 []

/-- The code that forbids LOCK: 0x0602 where the slow-tier region is written and clashes. -/
def lockCode (s : State) (p : Nat) : Nat :=
  if allWritten s [Reg.OAS_SLOW_REGION_BASE p, Reg.OAS_SLOW_REGION_SIZE p] && regionClash s p then 0x0602 else 0

/-- LOCKED: LOCK is set, and the DRBG creates the slow-tier keys (R397, R399). -/
def lockPart (s : State) (p : Nat) : State :=
  let s := (s.put (Reg.SEC_PART_STATUS_STATE p) 2).put (Reg.SEC_PART_STATUS_LOCK p) 1
  let (k, s) := s.draw
  { s with slowKeys := SMap.set 0 s.slowKeys p (k + 1) }

/-- PART_LOCK (R397). -/
def execPartLock (port : Port) (s : State) : Res :=
  serve s port 0x13 fun s r =>
    let p := fieldOf r 8 1
    if partState s p != 1 || s.on (Reg.SEC_PART_STATUS_TDISP p) then mbxRefuse s port r 0x0B30 p []
    else if lockCode s p != 0 then mbxRefuse s port r (lockCode s p) p []
    else respond (lockPart s p) port r 0 []

/-- PART_START (R397). -/
def execPartStart (port : Port) (s : State) : Res :=
  serve s port 0x14 fun s r =>
    let p := fieldOf r 8 1
    if partState s p != 2 || s.on (Reg.SEC_PART_STATUS_TDISP p) then mbxRefuse s port r 0x0B30 p []
    else respond (s.put (Reg.SEC_PART_STATUS_STATE p) 3) port r 0 []

/-- PART_TEARDOWN (R397, R398). -/
def execPartTeardown (port : Port) (s : State) : Res :=
  serve s port 0x15 fun s r =>
    let p := fieldOf r 8 1
    if owned s p then respond (teardown s p true 0) port r 0 [] else mbxRefuse s port r 0x0B30 p []

/-- GET_MLOG (R393): the kept entries go to host memory. -/
def execGetMlog (port : Port) (s : State) : Res :=
  serve s port 0x16 fun s r =>
    let p := fieldOf r 8 1
    if partState s p = 0 then mbxRefuse s port r 0x0B30 p []
    else
      respond (toHost s port p (fieldOf r 16 8) (SMap.get MLog.empty s.mlogs p).kept.flatten) port r 0 []

/-! ### Test access (R401, R415) -/

/-- The identity digest as SEC_ID_DIGESTn shows it. -/
def idDigest (s : State) : List Byte := (List.range 6).flatMap fun n => leBytes 8 (s.get (Reg.SEC_ID_DIGEST_DIGEST n))

/-- TEST_CHALLENGE (R401): the nonce is the DRBG's; only the latest is valid. The response carries the nonce; the identity
digest, which does not fit beside it, is sent out with it (log entry 22). -/
def execTestChallenge (port : Port) (nonce : List Byte) (s : State) : Res :=
  serve s port 0x20 fun s r =>
    if 3 ≤ s.sec.testFails then mbxRefuse s port r 0x0B50 0xFF []
    else
      let n := padTo 48 (nonce.take 48)
      let s := { s with sec := { s.sec with nonce := some n } }
      let s := s.emit (.response "TEST_CHALLENGE" ((n ++ idDigest s).map BitVec.toNat))
      respond s port r 0 n

/-- The test modes are opened (R401): as a module reset, and the slow tier is overwritten with zeros too (R400); identity is
refused until the next power cycle, and a record 0x0B51 says so. -/
def openTests (s : State) (port : Port) : State :=
  let s := powerUp (removeFrames s)
  let s := { s with mem := [], sec := { s.sec with noIdentity := true } }.put Reg.SEC_STATUS_TEST_OPENED 1
  raise s (secLast 0xFF) { code := 0x0B51, cls := 0, unit := port.num }

/-- Both halves of a test response's block verify (R386, R401): under the two test-access keys. -/
def testHalves (bs : List Byte) (v : SigVerdict) : Bool × Bool :=
  blockHalves bs 96 (bs.take 96) false (fun _ => romHash 384 Config.testRsaKey.toNat) (fun _ => romHash 48 Config.testSlhKey.toNat) v

/-- TEST_UNLOCK (R401): nonce, identity digest and signature block from host memory. -/
def execTestUnlock (port : Port) (response : Option (List Byte)) (v : SigVerdict) (s : State) : Res :=
  serve s port 0x21 fun s r =>
    let bs := response.getD []
    let halves := testHalves bs v
    let ok := bs.length == 17248 && s.sec.nonce == some (sliceOf bs 0 48) && sliceOf bs 48 48 == idDigest s
      && halves == (true, true)
    let s := { s with sec := { s.sec with nonce := none } }
    if ok then
      openTests s port
    else
      mbxRefuse { s with sec := { s.sec with testFails := s.sec.testFails + 1 } } port r 0x0B50 0xFF []

/-- EXTEST, CLAMP and HIGHZ act as BYPASS while STAGE is 3 or any partition is not FREE (R415). -/
def jtagClosed (s : State) : Bool := stage s == 3 || (List.range 16).any fun p => partState s p != 0

/-- What the instruction of the test access port does now (R415). -/
def jtagNow (s : State) : JtagInstr :=
  match s.pwr.jtag with
  | .extest => if jtagClosed s then .bypass else .extest
  | .clamp => if jtagClosed s then .bypass else .clamp
  | .highz => if jtagClosed s then .bypass else .highz
  | j => j

/-- What IDCODE carries (R415): the stepping, the part number, the manufacturer's code, and the 1 in bit 0 of IEEE 1149.1. -/
def idcode (s : State) : Nat :=
  stepping s * 2 ^ 28 + s.get Reg.ID_DEVICE_PART * 2 ^ 12 + s.get Reg.ID_DEVICE_MANUFACTURER * 2 + 1

/-- The levels of the sideband contacts that the boundary-scan register covers, from bit 0 on in the order of R414 (log entry 21):
PERST0#, PERST1#, MODULE_RESET#, PWR_OK, REMOVE_REQ#, REMOVE_READY#, MGMT_SCL, MGMT_SDA, MGMT_ALERT#, ADDR0 to ADDR2,
STEP_SYNC_IN, STEP_SYNC_OUT; then MATE_SENSE and the reference. A pin of which the state holds no level is idle. -/
def contacts (s : State) : Nat :=
  let strap := fun (i : Nat) => bitsOf Config.addrStraps.toNat i 1 == 1
  let bits := [!s.pwr.perst.getD 0 false, !s.pwr.perst.getD 1 false, true, clocked s, true, s.get Reg.PWR_REMOVE_STATE != 2,
    true, true, s.unread.isEmpty, strap 0, strap 1, strap 2, s.on Reg.SYN_OUT_SEL_IN_LEVEL, false,
    s.on Reg.PWR_STATUS_MATE_SENSE, s.on Reg.CLK_STATUS_REF_PRESENT]
  bits.zipIdx.foldl (fun n x => if x.1 then n + 2 ^ x.2 else n) 0

/-- The contacts that the boundary-scan register drives, under EXTEST and CLAMP; none under any other instruction, and under
HIGHZ nothing drives them (R415, IEEE 1149.1). -/
def boundaryDrives (s : State) : Option Nat :=
  match jtagNow s with
  | .extest => some s.pwr.boundary
  | .clamp => some s.pwr.boundary
  | _ => none

/-- TEST_ACCESS_PORT_INSTRUCTION (R415): the instruction is loaded, SAMPLE/PRELOAD captures the contacts. Private instructions
are inert until the unlock, and what they do then is not the spec's. The port needs no clock of the module's own. -/
def execTestAccessPortInstruction (i : JtagInstr) (s : State) : Res :=
  match i with
  | .priv _ => if s.on Reg.SEC_STATUS_TEST_OPENED then .refused .privateTestMode else .next s
  | .samplePreload => .next { s with pwr := { s.pwr with jtag := i, boundary := contacts s } }
  | .idcode => .next ({ s with pwr := { s.pwr with jtag := i } }.emit (.response "IDCODE" [idcode s]))
  | _ => .next { s with pwr := { s.pwr with jtag := i } }

/-! ### SPDM (R392, R393) -/

/-- The responder answers: over DOE once the ROM is past STAGE 0 and the port's link is up; over MCTP from ROOT_LOCK onward,
in every STAGE (R421). -/
def answers (s : State) (t : Transport) : Bool :=
  match t with
    | .doe b => stage s != 0 && s.on (Reg.QUE_PORT_STATUS_LINK_UP b)
    | .mctp => clocked s

/-- A response of the SPDM responder. -/
def spdmSay (s : State) (t : Transport) (what : String) (fields : List Nat) : State := s.emit (.response what (transNum t :: fields))

/-- An SPDM request arrives (R392): the signature of the last signed response is no longer available. The first request of a
transport fixes its version, 1.2 or 1.3, and later ones keep it (the negotiation's own messages are no rows of the table; DESIGN
CHOICE, log entry 22). What the responder does not support receives UnsupportedRequest. -/
def spdmReq (s : State) (r : SpdmReq) (k : State → State) : Res :=
  if !answers s r.t then .next s
  else
    let x := s.spdm r.t
    let s := s.setSpdm r.t { x with signed := none }
    if !(r.version == 0x12 || r.version == 0x13) || (x.version != 0 && x.version != r.version) then
      .next (spdmSay s r.t "SPDM_ERROR_VERSION_MISMATCH" [])
    else
      let s := s.setSpdm r.t { x with signed := none, version := r.version }
      if r.unsupported then .next (spdmSay s r.t "SPDM_ERROR_UNSUPPORTED_REQUEST" []) else .next (k s)

/-- A certificate slot that is empty is reported as unprovisioned (R391); else `k`. -/
def provisioned (s : State) (t : Transport) (slot : Nat) (k : List Byte → State) : State :=
  let c := s.sec.certs.getD slot []
  if c.isEmpty then spdmSay s t "SPDM_SLOT_UNPROVISIONED" [slot] else k c

/-- A signed response is sent, and its transcript may be signed again under SLH-DSA. Without identity keys there is none. -/
def spdmSign (s : State) (t : Transport) (what : String) (fields : List Nat) (nonce : List Byte) : State :=
  if s.on Reg.SEC_STATUS_IDENTITY then spdmSay (s.setSpdm t { s.spdm t with signed := some nonce }) t what fields
  else spdmSay s t "SPDM_ERROR" []

/-- SPDM_GET_CERTIFICATE (R391, R392). -/
def execSpdmGetCertificate (r : SpdmReq) (slot off len : Nat) (s : State) : Res :=
  spdmReq s r fun s => provisioned s r.t slot fun c => spdmSay s r.t "CERTIFICATE" ((sliceOf c off len).map BitVec.toNat)

/-- SPDM_CHALLENGE (R392). -/
def execSpdmChallenge (r : SpdmReq) (slot : Nat) (nonce : List Byte) (s : State) : Res :=
  spdmReq s r fun s => provisioned s r.t slot fun _ => spdmSign s r.t "CHALLENGE_AUTH" [slot] nonce

/-- The blocks assigned to partition p. -/
def blocksOfPart (s : State) (p : Nat) : List Nat :=
  (List.range 256).filter fun b => s.on (Reg.QUE_BLOCK_ASSIGNED b) && s.get (Reg.QUE_BLOCK_PARTITION b) == p

/-- A measurement block (R393) as bytes, its fields in the order of the table (log entry 22); over the DOE of the port that
does not own a partition, that partition's block carries its state alone. -/
def measurement (s : State) (t : Transport) (i : Nat) : Option (List Byte) :=
  let words := fun (os : List Nat) => os.flatMap fun o => leBytes 8 (wordAt s o)
  if i = 1 then some (leBytes 4 (s.get Reg.ID_REVISION_ROM_VERSION) ++ leBytes 48 Config.romDigest.toNat)
  else if i = 2 then some (if s.sec.fwLoaded then s.sec.fwDigest else List.replicate 48 0)
  else if i = 3 then some (leBytes 4 (stepping s) ++ leBytes 4 Config.svnFloor.toNat ++ leBytes 4 (s.get Reg.SEC_STATUS_FW_SVN)
    ++ leBytes 4 s.sec.nativeMin)
  else if i = 4 then some (leBytes 48 (Config.sha384 s.sec.helper).toNat)
  else if i = 5 then some (words [0x2000, 0x2020, 0x2028, 0x2030, 0x2038, 0x3010, 0x3018, 0x3020, 0x3028, 0x3008])
  else if i = 6 then some (words [0x2008, 0x2018] ++ (List.range 16).flatMap (fun p => leBytes 1 (partState s p))
    ++ leBytes 1 (s.get Reg.SEC_STATUS_TEST_OPENED))
  else if 0x10 ≤ i ∧ i < 0x20 then
    let p := i - 0x10
    let hidden := match t with
      | .doe b => owned s p && portOf s p != b
      | .mctp => false
    if hidden then some (leBytes 8 (partState s p) ++ List.replicate 76 0)
    else
      let m := SMap.get MLog.empty s.mlogs p
      let b := 0x80000 + 0x8000 * p
      some (words [b, b + 8, b + 16] ++ leBytes 4 (s.get (Reg.MEM_PART_MAP_PAGES p)) ++ (blocksOfPart s p).flatMap (leBytes 1)
        ++ words [0x310000 + 0x1000 * p] ++ m.ext ++ leBytes 4 m.count)
  else none

/-- The indexes of the measurement blocks. -/
def measIndexes : List Nat := [1, 2, 3, 4, 5, 6] ++ (List.range 16).map (0x10 + ·)

/-- SPDM_GET_MEASUREMENTS (R393): index 0 asks for their number, 0xFF for all. -/
def execSpdmGetMeasurements (r : SpdmReq) (index : Nat) (sign : Bool) (nonce : List Byte) (s : State) : Res :=
  let t := r.t
  spdmReq s r fun s =>
    let body := if index = 0 then some [measIndexes.length]
      else if index = 0xFF then some (measIndexes.flatMap fun i => ((measurement s t i).getD []).map BitVec.toNat)
      else (measurement s t index).map fun b => b.map BitVec.toNat
    match body with
    | none => spdmSay s t "SPDM_ERROR" []
    | some b => if sign then spdmSign s t "MEASUREMENTS" b nonce else spdmSay s t "MEASUREMENTS" b

/-- A request about a transport's secured session (R389, R392): a new one, whose keys take the place of the former's; a
heartbeat; new keys; its end. Without a session the last three are errors. -/
def sessionStep (s : State) (t : Transport) (slot : Nat) (op : SessionOp) (share : List Byte) : State :=
  let x := s.spdm t
  match op with
  | .exchange => provisioned s t slot fun _ =>
      if s.on Reg.SEC_STATUS_IDENTITY then
        spdmSign (s.setSpdm t { x with session := true, updates := 0 }) t "KEY_EXCHANGE_RSP" [slot] share
      else spdmSay s t "SPDM_ERROR" []
  | .heartbeat => if x.session then spdmSay s t "HEARTBEAT_ACK" [] else spdmSay s t "SPDM_ERROR" []
  | .keyUpdate =>
    if x.session then spdmSay (s.setSpdm t { x with updates := x.updates + 1 }) t "KEY_UPDATE_ACK" [] else spdmSay s t "SPDM_ERROR" []
  | .endSession =>
    if x.session then spdmSay (s.setSpdm t { x with session := false, updates := 0 }) t "END_SESSION_ACK" []
    else spdmSay s t "SPDM_ERROR" []

/-- SPDM_KEY_EXCHANGE (R392): the requests of KEY_EX, HBEAT and KEY_UPD, and the end of a session. -/
def execSpdmKeyExchange (r : SpdmReq) (slot : Nat) (op : SessionOp) (share : List Byte) (s : State) : Res :=
  spdmReq s r fun s => sessionStep s r.t slot op share

/-- SPDM_SLH_SIGNATURE_REQUEST (R392): the vendor ID of the port's function and command 0x0001 ask for the signature over the
transcript hash of the last signed response; any other vendor-defined request is not supported. -/
def execSpdmSlhSignatureRequest (x : VendorReq) (s : State) : Res :=
  let signed := (s.spdm x.hdr.t).signed
  spdmReq s x.hdr fun s =>
    if x.vendor ≠ vendorId ∨ x.cmd ≠ 1 then spdmSay s x.hdr.t "SPDM_ERROR_UNSUPPORTED_REQUEST" []
    else if signed.isSome then spdmSay s x.hdr.t "SLH_SIGNATURE" []
    else spdmSay s x.hdr.t "SPDM_ERROR" []

/-! ### IDE and TDISP (R394, R395) -/

/-- A message over a secured session about a TDI of the transport's port. -/
def tdi (s : State) (t : Transport) (p : Nat) : Bool :=
  answers s t && (s.spdm t).session && owned s p && s.on (Reg.SEC_PART_STATUS_TDISP p) && (match t with
    | .doe b => portOf s p == b
    | .mctp => true)

/-- A message refused: its answer says so. -/
def refuseMsg (s : State) (t : Transport) (what : String) : State := if answers s t then spdmSay s t (what ++ "_ERROR") [] else s

/-- The bit of a direction: 0 receive, 1 transmit. -/
def dirBit (tx : Bool) : Nat := if tx then 2 else 1

/-- KEY_PROG (R394): 16 streams per port, one per TDI; aggregation and partial header encryption are refused. -/
def execKeyProg (t : Transport) (p : Part) (stream : Nat) (tx : Bool) (unsupported : Bool) (s : State) : Res :=
  let x := s.ide p
  let used := (List.range 16).filter fun q => q != p.val && owned s q && portOf s q == portOf s p && (s.ide q).programmed != 0
  if !tdi s t p || unsupported || 16 ≤ used.length || (x.active != 0 && x.stream != stream) then .next (refuseMsg s t "KEY_PROG")
  else
    let keep := if x.stream = stream then x.programmed else 0
    .next (spdmSay (s.setIde p ⟨stream, keep ||| dirBit tx, x.active⟩) t "KEY_PROG" [0])

/-- K_SET_GO (R394): a programmed key set becomes active. -/
def execKSetGo (t : Transport) (p : Part) (tx : Bool) (s : State) : Res :=
  let x := s.ide p
  if !tdi s t p || x.programmed &&& dirBit tx = 0 then .next (refuseMsg s t "K_SET_GO")
  else .next (spdmSay (s.setIde p { x with active := x.active ||| dirBit tx }) t "K_SET_GO" [0])

/-- K_SET_STOP (R394): the key set stops and is gone (R389). -/
def execKSetStop (t : Transport) (p : Part) (tx : Bool) (s : State) : Res :=
  let x := s.ide p
  let off := fun (v : Nat) => if v &&& dirBit tx = 0 then v else v - dirBit tx
  if !tdi s t p then .next (refuseMsg s t "K_SET_STOP")
  else .next (spdmSay (s.setIde p ⟨x.stream, off x.programmed, off x.active⟩) t "K_SET_STOP" [0])

/-- A TDISP message refused with a code: its record and its answer. -/
def tdispRefuse (s : State) (t : Transport) (p code : Nat) (what : String) : State :=
  refuseMsg (raise s (chapterLast p (portOf s p) code) { code := code, part := p }) t what

/-- LOCK_INTERFACE (R397). -/
def execLockInterface (t : Transport) (p : Part) (s : State) : Res :=
  if !tdi s t p then .next (refuseMsg s t "LOCK_INTERFACE")
  else if partState s p != 1 || ochre s then .next (tdispRefuse s t p 0x0B30 "LOCK_INTERFACE")
  else if lockCode s p != 0 then .next (tdispRefuse s t p (lockCode s p) "LOCK_INTERFACE")
  else .next (spdmSay (lockPart s p) t "LOCK_INTERFACE" [p.val])

/-- START_INTERFACE (R394, R397): the stream is keyed in both directions, and the port runs PCIe 6.0. -/
def execStartInterface (t : Transport) (p : Part) (s : State) : Res :=
  if !tdi s t p then .next (refuseMsg s t "START_INTERFACE")
  else if partState s p != 2 || ochre s || (s.ide p).active != 3 || s.get (Reg.ID_PORT_GEN (portOf s p)) != 6 then
    .next (tdispRefuse s t p 0x0B30 "START_INTERFACE")
  else .next (spdmSay (s.put (Reg.SEC_PART_STATUS_STATE p) 3) t "START_INTERFACE" [p.val])

/-- STOP_INTERFACE (R397): tears the TDI down. -/
def execStopInterface (t : Transport) (p : Part) (s : State) : Res :=
  if !tdi s t p then .next (refuseMsg s t "STOP_INTERFACE")
  else .next (spdmSay (teardown s p true 0) t "STOP_INTERFACE" [p.val])

/-- The MMIO ranges of a TDI (R394): BAR, offset, size. -/
def tdiRanges (s : State) (p : Nat) : List (Nat × Nat × Nat) :=
  [(0, 0x80000 + 0x8000 * p, 0x8000), (0, 0x210000 + 0x1000 * p, 0x1000), (0, 0x310000 + 0x1000 * p, 0x1000)]
    ++ ((List.range 128).filter (inPart s p)).map (fun c => (0, coreBase c, 0x4000))
    ++ (blocksOfPart s p).map fun b => (2, 2048 * b, 2048)

/-- GET_DEVICE_INTERFACE_REPORT (R394). -/
def execGetDeviceInterfaceReport (t : Transport) (p : Part) (s : State) : Res :=
  if !tdi s t p then .next (refuseMsg s t "DEVICE_INTERFACE_REPORT")
  else .next (spdmSay s t "DEVICE_INTERFACE_REPORT" ((tdiRanges s p).flatMap fun r => [r.1, r.2.1, r.2.2]))

/-- GET_DEVICE_INTERFACE_STATE (R394): the partition's state. -/
def execGetDeviceInterfaceState (t : Transport) (p : Part) (s : State) : Res :=
  if !tdi s t p then .next (refuseMsg s t "DEVICE_INTERFACE_STATE")
  else .next (spdmSay s t "DEVICE_INTERFACE_STATE" [partState s p])

/-- IDE_INTEGRITY_FAILURE (R395): RUN becomes ERROR, and the partition's launches stop. -/
def execIdeIntegrityFailure (p : Part) (s : State) : Res :=
  if partState s p = 3 && s.on (Reg.SEC_PART_STATUS_TDISP p) then
    let s := s.put (Reg.SEC_PART_STATUS_STATE p) 4
    .next (stopCar s (secLast p) p { code := 0x0B40, cls := 2 } none)
  else .next s

/-- An offset lies in a TDI's ranges. -/
def inTdi (s : State) (p bar off : Nat) : Bool :=
  (tdiRanges s p).any fun r => r.1 == bar && r.2.1 ≤ off && off < r.2.1 + r.2.2

/-- UNPROTECTED_ACCESS (R395): outside the stream, or without the T bit: a write is dropped, a read completes with
Unsupported Request. -/
def execUnprotectedAccess (p : Part) (acc : BarAccess) (s : State) : Res :=
  if partState s p = 3 && s.on (Reg.SEC_PART_STATUS_TDISP p) && inTdi s p acc.bar acc.off then
    let core := if acc.bar = 0 then (pageCore acc.off).getD 0xFF else 0xFF
    let s := raise s (secLast p) { code := 0x0B42, cls := 0, part := p, core := core, unit := acc.port.num,
                                   detail := [acc.off, acc.bar + 256 * acc.size + (if acc.write then 65536 else 0),
                                     if acc.write then acc.data.toNat else 0] }
    .next (if acc.write then s else s.emit (.response "UNSUPPORTED_REQUEST" [acc.port.num, acc.bar, acc.off]))
  else .next s

end Sys2Proof.Machine
end

