-- ==== Sys2Proof/Machine/Power.lean ====
section
/-!
DEFINITION. Power, clocks, temperatures, resets, removal and management over MCTP (R22 to R27, R292, R404 to R426).
-/

namespace Sys2Proof.Machine

/-- LAST_CODE of power, and of a thermal record of this chapter. -/
def pwrLast : List Fld := [Reg.PWR_STATUS_LAST_CODE]
def thmLast : List Fld := [Reg.THM_STATUS_LAST_CODE, Reg.PWR_STATUS_LAST_CODE]

/-! ### Sideband outputs (R414) -/

/-- PWR_OK is released. -/
def pwrOk (s : State) : Bool := clocked s

/-- REMOVE_READY# is low. -/
def removeReady (s : State) : Bool := s.get Reg.PWR_REMOVE_STATE == 2

/-- MGMT_ALERT# is low: a record of CLASS 3 is unread. -/
def mgmtAlert (s : State) : Bool := !s.unread.isEmpty

/-! ### Links (R325, R416, R26) -/

/-- The lane PLL of a host port. -/
def hostLock : Port → Fld
  | .h0 => Reg.CLK_STATUS_H0_LOCK
  | .h1 => Reg.CLK_STATUS_H1_LOCK

/-- PERST# of port b is asserted. -/
def inPerst (s : State) (b : Port) : Bool := s.pwr.perst.getD b.num false

/-- PERST# of port b set. -/
def setPerst (s : State) (b : Port) (v : Bool) : State :=
  { s with pwr := { s.pwr with perst := s.pwr.perst.set b.num v } }

/-- HOST_LINK_UP (R325, R434): the port has trained to a PCIe generation. -/
def execHostLinkUp (port : Port) (gen : Nat) (s : State) : Res :=
  if clocked s && !inPerst s port && 4 ≤ gen && gen ≤ 6 then
    let s := (s.put (hostLock port) 1).put (Reg.ID_PORT_GEN port) gen
    .next (s.put (Reg.QUE_PORT_STATUS_LINK_UP port) 1)
  else .next s

/-- HOST_LINK_LOST (R325). -/
def execHostLinkLost (port : Port) (s : State) : Res := .next (removalNext (linkLost s port))

/-- PERST_ASSERT (R416): loss of the port's link; its function returns to its reset state. -/
def execPerstAssert (port : Port) (s : State) : Res :=
  let s := (removalNext (linkLost (setPerst s port true) port)).setSpdm (.doe port) Spdm.empty
  let s := { s with msixTable := SMap.drop (fun k => k / 8192 == port.num) s.msixTable,
                    msixPend := SMap.drop (fun k => k / 2048 == port.num) s.msixPend }
  .next (s.put (Reg.ID_PORT_GEN port) 0)

/-- PERST_RELEASE (R416): the port may train; HOST_LINK_UP follows. -/
def execPerstRelease (port : Port) (s : State) : Res := .next (setPerst s port false)

/-- LANE_PLL_LOCK_LOSS (R26): the port is held down. -/
def execLanePllLockLoss (lane : Sys2Proof.Lane) (s : State) : Res :=
  match lane with
  | .host b => .next (removalNext (linkLost (s.put (hostLock b) 0) b))
  | .fabric f h =>
    .next (portDown ((s.put (Reg.CLK_STATUS_FAB_LANE_LOCK f h) 0).put (Reg.FAB_PORT_STATUS_LANES_LOCKED f) 0) f)

/-! ### Power (R406 to R408, R418, R387) -/

/-- Every rail goes down (R408): no state survives, and no record is written. -/
def powerLost (s : State) (latch : Bool) : State :=
  let t : State := { State.reset with
    pending := s.pending
    out := s.out
    free := s.free
    pwr := { PwrCtx.empty with rails := false, latched := latch, perst := s.pwr.perst } }
  (t.put Reg.CLK_STATUS_ROOT_LOCK 0).put Reg.CLK_STATUS_REF_PRESENT 0

/-- POWER_LOSS (R408): the stages stay off until VIN has been below 44.0 V. -/
def execPowerLoss (cause : PowerCause) (s : State) : Res :=
  if s.pwr.rails then .next (powerLost s (cause != .vinRemoved))
  else if cause = .vinRemoved then .next { s with pwr := { s.pwr with latched := false } }
  else .next s

/-- POWER_ON (R418, R407, R424 steps 1 and 2): the rails are up and everything starts from the power-up state; the root PLL has not
locked yet, so that PWR_OK is not released. -/
def execPowerOn (s : State) : Res :=
  if s.pwr.rails || s.pwr.latched then .next s
  else
    let t : State := { State.reset with
      pending := s.pending
      out := s.out
      free := s.free
      pwr := { PwrCtx.empty with perst := s.pwr.perst } }
    .next (t.put Reg.CLK_STATUS_ROOT_LOCK 0)

/-- ROOT_PLL_LOCK (R387, R424 steps 3 and 4, R435): ROOT_LOCK becomes 1, which releases PWR_OK, and the ROM runs STAGE 0. Where
its tests pass, the oasis link has trained on the modules that are not retired (R269) and STAGE is 1; a failed test leaves STAGE
at 0. After a reset or a relock the ROM runs once the zeroization is complete. -/
def execRootPllLock (testsPass : Bool) (s : State) : Res :=
  if !s.pwr.rails || s.pwr.rootLost then .next s
  else
    let s := s.put Reg.CLK_STATUS_ROOT_LOCK 1
    .next (if stage s = 0 && !s.pwr.zeroizing && testsPass then romDone s else s)
where
  /-- STAGE 0 is over. -/
  romDone (s : State) : State :=
    let up := (List.range 4).filter fun m => bitsOf (s.get (Reg.OAS_LINK_STATUS_MOD m)) 1 1 == 0
    let s := up.foldl (fun (s : State) m => s.put (Reg.OAS_LINK_STATUS_MOD m) 1) s
    let s := (s.put Reg.OAS_LINK_STATUS_UP_COUNT up.length).put Reg.OAS_STATUS_READY (!up.isEmpty).toNat
    s.put Reg.SEC_STATUS_STAGE 1

/-- VIN_OUT_OF_RANGE (R406): one record per excursion. -/
def execVinOutOfRange (s : State) : Res :=
  if clocked s && s.on Reg.PWR_STATUS_VIN_OK then
    .next (raise (s.put Reg.PWR_STATUS_VIN_OK 0) pwrLast { code := 0x0C20, cls := 0 })
  else .next s

/-- VIN_BACK_IN_RANGE (R406). -/
def execVinBackInRange (s : State) : Res := .next (if clocked s then s.put Reg.PWR_STATUS_VIN_OK 1 else s)

/-- COOLANT_INLET_HOT (R409): above 35 °C; one record per excursion. -/
def execCoolantInletHot (temp : Nat) (s : State) : Res :=
  if clocked s && 35 < temp then
    let s := s.put Reg.THM_OTHER_INLET temp
    .next (if s.on Reg.THM_STATUS_INLET_HOT then s
      else raise (s.put Reg.THM_STATUS_INLET_HOT 1) thmLast { code := 0x0C33, cls := 0 })
  else .next s

/-- COOLANT_INLET_NORMAL (R409). -/
def execCoolantInletNormal (temp : Nat) (s : State) : Res :=
  if clocked s && temp ≤ 35 then .next ((s.put Reg.THM_OTHER_INLET temp).put Reg.THM_STATUS_INLET_HOT 0) else .next s

/-! ### The root clock (R25) -/

/-- Every command in progress that no partition owns is lost: firmware's transfers, the requests of the security mailbox, a
map-out, a dump, the zeroization of a reset. -/
def dropCommands (s : State) : State :=
  let s := portsDown { s with dma := [], dqs := [], mapout := none, dump := none }
  { s with sec := { s.sec with order := [], deriving_ := false }, pwr := { s.pwr with zeroizing := false, removing := false } }

/-- ROOT_CLOCK_LOST (R25): every derived clock is gated; both links are lost, every partition is torn down, and nothing that
runs goes on. REF_PRESENT falls too: the rule says what follows when the reference returns, and the command does not say
whether the PLL alone lost lock (DESIGN CHOICE, log entry 60). -/
def execRootClockLost (s : State) : Res :=
  if clocked s then
    let s := linkLost (linkLost s .h0) .h1
    let s := (List.range 16).foldl (fun s p => teardown s p false 0) s
    let s := dropCommands s
    let s := ((s.put Reg.CLK_STATUS_ROOT_LOCK 0).put Reg.CLK_STATUS_REF_PRESENT 0).put Reg.SEC_STATUS_STAGE 0
    .next { s with pwr := { s.pwr with rootLost := true } }
  else .next s

/-- ROOT_PLL_RELOCK (R25): the module returns to its power-up state while the fast tier is zeroized. -/
def execRootPllRelock (s : State) : Res :=
  if s.pwr.rails && s.pwr.rootLost && !s.on Reg.CLK_STATUS_ROOT_LOCK then .next (powerUp s) else .next s

/-- FULL_ZEROIZATION_COMPLETE (R293, R436): `bad` are the channels that failed their check. After a relock the record of R25
follows. -/
def execFullZeroizationComplete (bad : List Nat) (s : State) : Res :=
  if s.pwr.zeroizing && clocked s then
    let lost := s.pwr.rootLost
    let s := { s with pwr := { s.pwr with zeroizing := false, rootLost := false } }
    let s := ((List.range 256).filter bad.contains).foldl
      (fun s ch => raise s [] { code := 0x0730, cls := 3, detail := [ch] }) s
    .next (if lost then raise (s.put Reg.CLK_STATUS_ROOT_LOSS_SEEN 1) pwrLast { code := 0x0C10, cls := 3 } else s)
  else .next s

/-! ### Resets and removal (R416 to R420) -/

/-- MODULE_RESET_PIN (R416, R417). -/
def execModuleResetPin (s : State) : Res := .next (if clocked s then moduleReset s else s)

/-- A write of PWR_RESET. -/
def pwrReset (s : State) (x : Wr) : State :=
  if !x.one 0 then s else if otherOwns s x.w.port then wrRecord s pwrLast 0x0C40 x [] else moduleReset s

/-- PWR_RESET_MODULE (R416, R417). -/
def execPwrResetModule (w : HostWr) (s : State) : Res := .next (hostWrite s 0x10220 w pwrReset)

/-- A write of PWR_REMOVE. -/
def pwrRemove (s : State) (x : Wr) : State :=
  if !x.one 0 then s else if otherOwns s x.w.port then wrRecord s pwrLast 0x0C40 x [] else beginRemoval s

/-- PWR_REMOVE_PREPARE (R417, R419). -/
def execPwrRemovePrepare (w : HostWr) (s : State) : Res := .next (hostWrite s 0x10218 w pwrRemove)

/-- REMOVE_REQ (R419). -/
def execRemoveReq (s : State) : Res := .next (if clocked s then beginRemoval s else s)

/-- MATE_SENSE_LOST (R420): REMOVE on every UP flow, the record, and steps 3 to 5 of R419 at once. -/
def execMateSenseLost (s : State) : Res :=
  if clocked s && s.on Reg.PWR_STATUS_MATE_SENSE then
    let s := removeFrames (s.put Reg.PWR_STATUS_MATE_SENSE 0)
    let s := raise s pwrLast { code := 0x0C42, cls := 3 }
    if removeReady s then .next s
    else
      let s := (SMap.keys s.flows).foldl (fun (s : State) k =>
        s.setFlow (k / 65536) (k % 65536) { s.flow (k / 65536) (k % 65536) with removing := false }) s
      .next (removalNext ({ s with pwr := { s.pwr with removing := true } }.put Reg.PWR_REMOVE_STATE 1))
  else .next s

/-! ### Steps of the a-clock (R22 to R24, R91, R211, R411) -/

/-- A STORE of a virtual core has transfers on core c's channels. -/
def storeOn (s : State) (c : Nat) : Bool :=
  (List.range 16).any fun n =>
    ((s.chan c n).active.any fun x => x.desc.srcSp == 1 && x.desc.ofLaunch)
      || (s.chan c n).shadow.any fun x => x.desc.srcSp == 1 && x.desc.ofLaunch

/-- Core c runs a stage of a caravan instance. -/
def inInstance (s : State) (c : Nat) : Bool :=
  (List.range 16).any fun p => (carsOf s p).any fun d => (instCores s p d).contains c

/-- Core c stands at the boundary at which its step changes: of a stage, where nothing of the work part is in progress (R211);
of a gang, at a pass boundary (R91); else at a tile boundary, where nothing issued is in progress but fetch parts (R23). -/
def tileBoundary (s : State) (c : Nat) : Bool :=
  let e := SMap.get EngCtx.empty s.engs c
  let v := SMap.get VecCtx.empty s.vec c
  let quiet := e.draining.isNone && v.run.isNone && v.gsRun.all (·.fetch)
  e.filling.isNone &&
    if inInstance s c then quiet && !storeOn s c
    else (gangCores s).any (·.contains c) || quiet

/-- ACLK_STEP_CHANGE (R23): a core that runs alone. -/
def execAclkStepChange (c : Core) (s : State) : Res :=
  .next (if clocked s && stepGroup s c == [c.val] && tileBoundary s c && !aclocksStand s then takeStep s [c.val] else s)

/-- Issue is held no longer on a list of cores. -/
def endHold (s : State) (cs : List Nat) : State := cs.foldl (fun s c => s.put (Reg.CAR_STATUS_HOLD c) 0) s

/-- Every core of a running instance that stands at its tile boundary stops issuing (R211). -/
def holdIssue (s : State) (cs : List Nat) : State :=
  (cs.filter fun c => s.on (Reg.CAR_STATUS_ACTIVE c) && tileBoundary s c).foldl
    (fun s c => s.put (Reg.CAR_STATUS_HOLD c) 1) s

/-- CARAVAN_STEP_CHANGE (R24, R91, R211, R363): the cores of a caravan, of a gang or of a pair change to the slowest step
requested among them, together, once each has reached its boundary; till then the cores of a caravan that have reached theirs
hold issue. Where no change is due, nothing is held. -/
def execCaravanStepChange (c : Core) (s : State) : Res :=
  let cs := stepGroup s c
  let slowest := (cs.map (requested s)).foldl max 0
  .next (if !clocked s || cs == [c.val] || aclocksStand s then s
    else if cs.all fun d => s.get (Reg.CLK_ACLK_STEP_STEP d) == slowest then endHold s cs
    else if cs.all (tileBoundary s) then takeStep (endHold s cs) cs
    else holdIssue s cs)

/-! ### Temperatures (R292, R410, R412) -/

/-- The step that held die levels request. -/
def dieReq (held : Nat) : Nat := if bitsOf held 2 1 = 1 then 3 else if bitsOf held 1 1 = 1 then 2 else bitsOf held 0 1

/-- The levels held at a key, and those set. -/
def held (s : State) (k : Nat) : Nat := SMap.get 0 s.heat k
def setHeld (s : State) (k v : Nat) : State := { s with heat := SMap.set 0 s.heat k v }

/-- The levels entered at a temperature. -/
def entered (temp : Nat) (ths : List Nat) : Nat := ths.zipIdx.foldl (fun n x => if x.1 ≤ temp then n + 2 ^ x.2 else n) 0

/-- DIE_REQ of erg e from its levels. -/
def showDie (s : State) (e : Nat) : State := s.put (Reg.THM_STATUS_DIE_REQ e) (dieReq (held s (32 + e)))

/-- THM_COUPLING from the levels of every stack: levels 1 and 2 of the gang's own stack, level 3 of any stack of its erg. -/
def showCoupling (s : State) : State :=
  (List.range 32).foldl (fun (s : State) g =>
    let erg := (List.range 4).any fun j => bitsOf (held s (g / 4 * 4 + j)) 2 1 == 1
    s.put (Reg.THM_COUPLING_REQ g) (if erg then 3 else dieReq (bitsOf (held s g) 0 2))) s

/-- Some sensor has reached its limit: die at `d`, stack at `t`. -/
def hotAt (s : State) (d t : Nat) : Bool :=
  ((List.range 8).any fun e => d ≤ s.get (Reg.THM_DIE_TEMP e)) || (List.range 32).any fun k => t ≤ s.get (Reg.THM_STACK_TEMP k)

/-- A thermal trip (R412): every running launch stops, Sirocco runs end with no change of state; the second one enters Ochre
mode. -/
def trip (s : State) : State :=
  let s := (s.put Reg.THM_STATUS_TRIPPED 1).bump Reg.THM_STATUS_TRIPS 1
  let s := (List.range 16).foldl (fun (s : State) p =>
    let s := if (s.launch p).isSome then stopCar s thmLast p { code := 0x0C31 } none else s
    if s.get (Reg.HLT_SIROCCO_STATE p) = 2 then
      { s with sirocco := SMap.set none s.sirocco p none }.put (Reg.HLT_SIROCCO_STATE p) 0
    else s) s
  let s := raise s thmLast { code := 0x0C31, cls := 3 }
  if s.get Reg.THM_STATUS_TRIPS < 2 then s else enterOchre s 4 true

/-- What the readings ask for: the shutdown limit (R408), a trip, or the end of one, at which the cores restart at the steps
then requested (R412). -/
def judgeHeat (s : State) : State :=
  if hotAt s 115 105 then powerLost s true
  else if s.on Reg.THM_STATUS_TRIPPED then
    if hotAt s 96 91 then s
    else
      let s := s.put Reg.THM_STATUS_TRIPPED 0
      if aclocksStand s then s else (List.range 128).foldl (fun (s : State) c => takeStep s [c]) s
  else if hotAt s 105 96 then trip s
  else s

/-- The reading of one erg's die sensors. -/
def readDie (s : State) (e temp : Nat) : State :=
  let s := s.put (Reg.THM_DIE_TEMP e) temp
  let old := held s (32 + e)
  let new := old ||| entered temp [97, 100, 103]
  let s := showDie (setHeld s (32 + e) new) e
  if bitsOf new 2 1 = 1 && bitsOf old 2 1 = 0 then raise s thmLast { code := 0x0C30, cls := 0, detail := [e] } else s

/-- The readings beside those of the ergs, where the command carries them: the hottest power stage, the hottest LPDDR5X package,
the oasis die (R425; that they come with the die sensors' is a DESIGN CHOICE, log entry 22). -/
def readOther (s : State) (temps : List Nat) : State :=
  ([(8, Reg.THM_OTHER_POWER_STAGE), (9, Reg.THM_OTHER_LPDDR), (10, Reg.THM_OTHER_OASIS)] : List (Nat × Fld)).foldl
    (fun (s : State) x => match temps[x.1]? with
      | some t => s.put x.2 t
      | none => s) s

/-- DIE_SENSOR_READ (R410, R412, R425): the hottest sensor of each erg, then the other readings. -/
def execDieSensorRead (temps : List Nat) (s : State) : Res :=
  if clocked s then
    .next (judgeHeat (readOther ((temps.take 8).zipIdx.foldl (fun s x => readDie s x.2 x.1) s) temps))
  else .next s

/-- The reading of one stack. -/
def readStack (s : State) (k temp : Nat) : State :=
  let s := s.put (Reg.THM_STACK_TEMP k) temp
  let old := held s k
  let new := old ||| entered temp [90, 93, 95]
  let s := setHeld s k new
  let rose := fun (b : Nat) => bitsOf new b 1 == 1 && bitsOf old b 1 == 0
  let s := if rose 0 then s.bump Reg.THM_COUPLING_COUNT_GANG_EVENTS 1 else s
  if rose 2 then
    raise (s.bump Reg.THM_COUPLING_COUNT_ERG_EVENTS 1) [Reg.THM_STATUS_LAST_CODE] { code := 0x0740, cls := 0, unit := k }
  else s

/-- STACK_SENSOR_READ (R292, R412). -/
def execStackSensorRead (temps : List Nat) (s : State) : Res :=
  if clocked s then .next (judgeHeat (showCoupling ((temps.take 32).zipIdx.foldl (fun s x => readStack s x.2 x.1) s)))
  else .next s

/-- A level held at key k ends, unless the last reading is not below its release temperature. -/
def releaseLevel (s : State) (k level temp : Nat) (ths : List Nat) : State :=
  match level with
  | 0 => s
  | n + 1 =>
    match ths[n]? with
    | some th => if bitsOf (held s k) n 1 = 1 && temp < th then setHeld s k (held s k - 2 ^ n) else s
    | none => s

/-- DIE_LEVEL_RELEASE (R410): 1 ms continuously below. -/
def execDieLevelRelease (e : Erg) (level : Nat) (s : State) : Res :=
  .next (if clocked s then showDie (releaseLevel s (32 + e) level (s.get (Reg.THM_DIE_TEMP e)) [94, 97, 100]) e else s)

/-- COUPLING_LEVEL_RELEASE (R292): 1 ms continuously below. -/
def execCouplingLevelRelease (st : Stack) (level : Nat) (s : State) : Res :=
  .next (if clocked s then showCoupling (releaseLevel s st level (s.get (Reg.THM_STACK_TEMP st)) [87, 90, 92]) else s)

/-! ### Power control (R411) -/

/-- Power control requests a step: the first one above 0 after a time at 0 writes its record. -/
def requestStep (s : State) (n : Nat) : State :=
  let was := s.get Reg.PWR_STATUS_PWR_REQ
  let s := s.put Reg.PWR_STATUS_PWR_REQ n
  if was = 0 && n != 0 then raise s pwrLast { code := 0x0C21, cls := 0 } else s

/-- The effective input limit. -/
def effectiveLimit (s : State) : Nat := min (s.get Reg.PWR_LIMIT_HOST_LIMIT) (s.get Reg.PWR_LIMIT_MGMT_LIMIT)

/-- POWER_CONTROL_TICK (R411): the readings in the units of PWR_INPUT; while the core current limit holds, the request
stays. -/
def execPowerControlTick (vin iin pin icore : Nat) (s : State) : Res :=
  if clocked s then
    let s := ((s.put Reg.PWR_INPUT_VIN vin).put Reg.PWR_INPUT_IIN iin).put Reg.PWR_INPUT_PIN pin
    let s := s.put Reg.PWR_INPUT_ICORE icore
    let req := s.get Reg.PWR_STATUS_PWR_REQ
    if s.on Reg.PWR_STATUS_CUR_LIMIT then .next s
    else if effectiveLimit s < pin then .next (requestStep s (min 3 (req + 1)))
    else if 100 * pin ≤ 95 * effectiveLimit s then .next (requestStep s (req - 1))
    else .next s
  else .next s

/-- CORE_CURRENT_LIMIT (R411). -/
def execCoreCurrentLimit (s : State) : Res :=
  if clocked s && !s.on Reg.PWR_STATUS_CUR_LIMIT then
    .next (raise (requestStep (s.put Reg.PWR_STATUS_CUR_LIMIT 1) 3) pwrLast { code := 0x0C22, cls := 0 })
  else .next s

/-- CORE_CURRENT_LIMIT_RELEASE (R411). -/
def execCoreCurrentLimitRelease (s : State) : Res := .next (if clocked s then s.put Reg.PWR_STATUS_CUR_LIMIT 0 else s)

/-- A power limit in W that R422 and R425 allow. -/
def limitOk (w : Nat) : Bool := 600 ≤ w && w ≤ 1500

/-- A write of PWR_LIMIT. -/
def pwrLimit (s : State) (x : Wr) : State :=
  match x.val 0 with
  | some n => if limitOk n then storeAll s x else wrRecord s pwrLast 0x0C23 x []
  | none => s

/-- PWR_LIMIT_WRITE (R411, R425). -/
def execPwrLimitWrite (w : HostWr) (s : State) : Res := .next (hostWrite s 0x10210 w pwrLimit)

/-! ### Management over MCTP (R421, R422) -/

/-- An answer of the management controller. -/
def mctpSay (s : State) (what : String) (fields : List Nat) : State := s.emit (.response what fields)

/-- The SMBus address of the module (R414). -/
def smbusAddr : Nat := 0x60 + Config.addrStraps.toNat

/-- A message on the management bus is addressed to the module: at its SMBus address, or at the dynamic address that an I3C
controller has assigned it (R421). -/
def addressed (s : State) (b : MctpBus) : Bool :=
  match b with
  | .smbus a => a == smbusAddr
  | .i3c a => s.pwr.i3c != 0 && a == s.pwr.i3c
  | .assign _ => false

/-- An MCTP control message (R421). Command and completion codes are those of the MCTP base specification (PRESUMED, log entry
23): 1 Set Endpoint ID (operation, EID), 2 Get Endpoint ID, 3 Get Endpoint UUID, 4 Get MCTP Version Support, 5 Get Message Type
Support; completion 0 success, 2 invalid data, 5 unsupported command. -/
def mctpControl (s : State) (code : Nat) (body : List Nat) : State :=
  let eid := body.getD 1 0
  if code = 1 then
    if body.getD 0 0 < 2 && 8 ≤ eid && eid < 255 then
      mctpSay { s with pwr := { s.pwr with eid := eid } } "MCTP_CONTROL" [1, 0, eid]
    else mctpSay s "MCTP_CONTROL" [1, 2]
  else if code = 2 then mctpSay s "MCTP_CONTROL" [2, 0, s.pwr.eid]
  else if code = 3 then mctpSay s "MCTP_CONTROL" [3, 0, Config.endpointUuid]
  else if code = 4 then mctpSay s "MCTP_CONTROL" [4, 0, 1, 3]
  else if code = 5 then mctpSay s "MCTP_CONTROL" [5, 0, 0, 5, 6, 0x7E]
  else mctpSay s "MCTP_CONTROL" [code, 5]

/-- MCTP_CONTROL_MESSAGE (R421, R422): a message to another address is none of the module's. Message types 5 and 6 are SPDM and
secured SPDM, whose requests are commands of their own, as those of R422 are; a vendor-defined PCI message (0x7E) must carry the
vendor ID of the identity registers, and a command byte outside R422's table returns completion code 1. Every other type is
answered with a control error. -/
def execMctpControlMessage (x : MctpMsg) (code : Nat) (body : List Nat) (s : State) : Res :=
  if !clocked s then .next s
  else match x.bus with
    | .assign a => .next { s with pwr := { s.pwr with i3c := a } }
    | b =>
      if !addressed s b then .next s
      else if x.type = 0 then .next (mctpControl s code body)
      else if x.type = 5 || x.type = 6 then .next s
      else if x.type = 0x7E && x.vendor = s.get Reg.ID_DEVICE_VENDOR_ID then
        .next (if 1 ≤ code && code ≤ 6 then s else mctpSay s "VENDOR_DEFINED" [1])
      else .next (mctpSay s "MCTP_CONTROL_ERROR" [x.type])

/-- The registers that GET_TELEMETRY returns (R422). -/
def telemetryRegs : List Nat :=
  [0x10200, 0x10208, 0x10210, 0x20000, 0x20008, 0x20010, 0x20100, 0x20108, 0x20110, 0x20118, 0x10000, 0x3008]

/-- GET_TELEMETRY (R422). -/
def execGetTelemetry (s : State) : Res :=
  .next (if clocked s then mctpSay s "GET_TELEMETRY" (0 :: telemetryRegs.map (wordAt s)) else s)

/-- The words of module log slot i. -/
def logWords (s : State) (i : Nat) : List Nat := (List.range 8).map fun w => s.get (Reg.HLT_LOG_RECORD i w)

/-- The redaction of R376: DETAIL and SEQ 0, REDACTED set. -/
def redact (ws : List Nat) : List Nat :=
  [ws.getD 0 0 ||| 2 ^ 27, ws.getD 1 0 / 2 ^ 32 * 2 ^ 32, 0, 0, 0, 0, 0, 0]

/-- A record as GET_LOG returns it: redacted where it is charged to a partition. -/
def logShown (ws : List Nat) : List Nat :=
  if ws.getD 0 0 % 65536 != 0 && bitsOf (ws.getD 0 0) 32 8 < 16 then redact ws else ws

/-- GET_LOG (R422): up to 8 records from a slot on. -/
def execGetLog (slot count : Nat) (s : State) : Res :=
  if !clocked s then .next s
  else if 512 ≤ slot || 8 < count then .next (mctpSay s "GET_LOG" [1])
  else .next (mctpSay s "GET_LOG" (0 :: (List.range count).flatMap fun i => logShown (logWords s ((slot + i) % 512))))

/-- SET_POWER_LIMIT (R422). -/
def execSetPowerLimit (watts : Nat) (s : State) : Res :=
  if !clocked s then .next s
  else if limitOk watts then .next (mctpSay (s.put Reg.PWR_LIMIT_MGMT_LIMIT watts) "SET_POWER_LIMIT" [0])
  else .next (mctpSay (raise s pwrLast { code := 0x0C23, cls := 0 }) "SET_POWER_LIMIT" [1])

/-- PREPARE_REMOVAL (R422, R419): busy where a removal is in progress, so that this request has no effect (DESIGN CHOICE, log entry
23: R422 gives code 2 and does not say when). -/
def execPrepareRemoval (s : State) : Res :=
  .next (if !clocked s then s
    else if s.get Reg.PWR_REMOVE_STATE = 1 then mctpSay s "PREPARE_REMOVAL" [2]
    else mctpSay (beginRemoval s) "PREPARE_REMOVAL" [0])

/-- MCTP_MODULE_RESET (R422, R416). -/
def execMctpModuleReset (s : State) : Res :=
  .next (if clocked s then mctpSay (moduleReset s) "MODULE_RESET" [0] else s)

/-- GET_EVENT (R422): the oldest unread record of CLASS 3; none where all are read. -/
def execGetEvent (s : State) : Res :=
  if !clocked s then .next s
  else match s.unread with
    | ws :: r => .next (mctpSay { s with unread := r } "GET_EVENT" (0 :: ws))
    | [] => .next (mctpSay s "GET_EVENT" [0])

end Sys2Proof.Machine
end

