-- ==== Sys2Proof/Machine/Dump.lean ====
section
/-!
DEFINITION. The diagnostic dump (R379), whose layout the spec does not give (log entry 21).
-/

namespace Sys2Proof.Machine

/-- The offsets of the registers of a map from its first, from its (count, stride) dimensions. -/
def dimOffsets (dims : List (Nat × Nat)) : List Nat :=
  dims.foldr (fun d os => (List.range d.1).flatMap fun i => os.map (i * d.2 + ·)) [0]

/-- A field that the module sets: of a status, or a counter. -/
def FRow.isStatus (f : FRow) : Bool := f.acc == .ro || f.acc == .ctr || f.acc == .w1c

/-- The status and counter fields of the register at a key of the register file, each at its place. -/
def statusWord (s : State) (fs : List FRow) (key : Nat) : Nat :=
  (fs.filter FRow.isStatus).foldl (fun n f => n + s.get (f.fld key) * 2 ^ f.lo) 0

/-- The maps with status or counter fields; the module log and the mailbox's responses are none. -/
def statusRows : List RRow :=
  regRows.filter fun r => r.fields.any FRow.isStatus && !(["HLT_LOG", "SEC_MBX_RESP"].contains r.name)

/-- Every status and counter register of every block: of banked ones both copies, of the queues those that are enabled. -/
def dumpRegs (s : State) : List Byte :=
  statusRows.flatMap fun r =>
    (match r.kind with
      | .queue => ((List.range 65536).filter fun q => s.on (Reg.QUE_CFG_ENABLE q)).map fun q => queueBase q + (r.base - 0x100800)
      | .banked => (dimOffsets r.dims).flatMap fun o => [r.base + o + bankOff .h0, r.base + o + bankOff .h1]
      | _ => (dimOffsets r.dims).map (r.base + ·)).flatMap fun key => leBytes 8 (statusWord s r.fields key)

/-- The module log as port b reads it (R376). -/
def dumpLog (s : State) (b : Port) : List Byte :=
  (List.range 512).flatMap fun i => (List.range 8).flatMap fun w => leBytes 8 (shownLog s b i w)

/-- A bit for each of 8n things, in n bytes. -/
def bitBytes (n : Nat) (p : Nat → Bool) : List Byte :=
  (List.range n).map fun i =>
    BitVec.ofNat 8 ((List.range 8).foldl (fun v j => if p (8 * i + j) then v + 2 ^ j else v) 0)

/-- n bytes that the spec leaves open: the firmware's trace, keys and signatures of the silicon. -/
def freeBytes (s : State) (n : Nat) : List Byte × State :=
  ((List.range n).map fun i => BitVec.ofNat 8 (Config.freeValue (s.free + i)), { s with free := s.free + n })

/-- What the model knows of the dump (R379): the identity digest, the stepping and the firmware's security version; the module
log; the state and the failure code of every core; the registers, among them the counters of the oasis link and the fabric; the
channels mapped out and the frames quarantined. -/
def dumpBody (s : State) (b : Port) : List Byte :=
  idDigest s ++ leBytes 4 (stepping s) ++ leBytes 4 (s.get Reg.SEC_STATUS_FW_SVN)
    ++ dumpLog s b
    ++ ((List.range 128).flatMap fun c => leBytes 2 (coreState s c) ++ leBytes 2 (SMap.get 0 s.failCode c))
    ++ dumpRegs s
    ++ bitBytes 32 (fun ch => s.on (Reg.MEM_MAPPED_OUT_OUT ch))
    ++ bitBytes 12288 (fun f => frameState s f == some .quarantined)

/-- The signature block that ends the dump (R385, R386): slots 0xFF, and the identity keys and signatures of the silicon. -/
def dumpBlock (signed rsaPub rsaSig slhPub slhSig : List Byte) : List Byte :=
  leBytes 48 (Config.sha384 signed).toNat ++ [0xFF, 0xFF] ++ List.replicate 14 0 ++ rsaPub ++ rsaSig ++ slhPub ++ slhSig
    ++ List.replicate 48 0

/-- The 1 MiB of the dump: what the model knows, filled up with zeros; 256 KiB of the firmware's trace; the signature block. -/
def dumpBytes (s : State) (b : Port) : List Byte × State :=
  let room := 0x100000 - 0x40000 - 17152
  let body := (padTo room (dumpBody s b)).take room
  let (trace, s) := freeBytes s 0x40000
  let (rsaPub, s) := freeBytes s 384
  let (rsaSig, s) := freeBytes s 384
  let (slhPub, s) := freeBytes s 48
  let (slhSig, s) := freeBytes s 16224
  (body ++ trace ++ dumpBlock (body ++ trace) rsaPub rsaSig slhPub slhSig, s)

/-- DIAGNOSTIC_DUMP_COMPLETE (R379): the dump stands in host memory at HLT_DUMP_ADDR, through the port that asked for it; or that
could not be written. -/
def execDiagnosticDumpComplete (ok : Bool) (s : State) : Res :=
  match s.dump with
  | none => .next s
  | some b =>
    let s := { s with dump := none }
    if ok then
      let (bs, s) := dumpBytes s b
      .next ((s.emit (.hostWrite b none (s.get Reg.HLT_DUMP_ADDR_ADDR * 64) bs)).put Reg.HLT_DUMP_CTRL_STATE 2)
    else .next (raise (s.put Reg.HLT_DUMP_CTRL_STATE 3) hltLast { code := 0x0A50, cls := 0, unit := b.num })

end Sys2Proof.Machine
end

