-- ==== Sys2Proof/Machine/RegWrite.lean ====
section
/-!
DEFINITION. A host write of any register, by the register's own rule (R8 to R14, R428, R430, R438), of the MSI-X table (R427), and accesses of the wrong
size or alignment (R10, R439).
-/

namespace Sys2Proof.Machine

/-- The rule of the register that a write names; where the register has none of its own, its fields are stored as their access
codes say. -/
def regRule (s : State) (x : Wr) : State :=
  let i := fun (k : Nat) => x.idx.getD k 0
  match x.name with
  | "SYN_CTRL" => synCtrl s x
  | "SYN_STEP" => synStep s x
  | "SYN_VERSION_CTRL" => synVersionCtrl s x
  | "SYN_SEED_KEY" => synSeedKey s x
  | "SYN_RIPPLE_CTRL" => synRippleCtrl s x
  | "SYN_REPLAY_CTRL" => synReplayCtrl s x
  | "OAS_CTRL" => oasCtrl s x
  | "OAS_QUEUE" => oasQueueWr s x
  | "OAS_XFER" => oasXferWr s x
  | "OAS_DIGEST_KEY" => oasKey s x
  | "MEM_INTERLEAVE" => interleaveWr s x
  | "MEM_MAPOUT" => mapoutWr s x
  | "MEM_ZEROIZE" => zeroizeWr s x
  | "MEM_REG" => memReg (i 0) (i 1) s x
  | "MEM_PART_STATUS" => partStatusWr (i 0) s x
  | "DMA_CH_CTRL" => chCtrl (16 * i 0 + i 1) (i 2) s x
  | "DMA_DQ" => dqCtrl (i 0) (i 1) x.w s x
  | "QUE_SEL" => queSel s x
  | "QUE_SQ_BASE" => queBase s x
  | "QUE_CQ_BASE" => queBase s x
  | "QUE_CFG" => queCfg s x
  | "FAB_CTRL" => fabCtrl s x
  | "FAB_PORT_MAC" => fabAddr s x
  | "FAB_PORT_GW" => fabAddr s x
  | "FAB_PORT_IP_LO" => fabAddr s x
  | "FAB_PORT_IP_HI" => fabAddr s x
  | "FAB_AREA_CTRL" => fabAreaCtrl s x
  | "FAB_FLOW_CMD" => fabFlowCmd s x
  | "HLT_CTRL" => hltCtrl s x
  | "HLT_FENCE" => hltFence s x
  | "HLT_DUMP_CTRL" => hltDump s x
  | "HLT_SIROCCO" => hltSirocco s x
  | "HLT_PAIR_CTRL" => hltPair s x
  | "HLT_MIRAGE_CTRL" => hltMirageCtrl s x
  | "HLT_MIRAGE_STATUS" => hltMirageStatus s x
  | "HLT_ERR_CTRL" => hltErrCtrl s x
  | "SEC_MBX_CTRL" => mbxCtrl s x
  | "PWR_LIMIT" => pwrLimit s x
  | "PWR_REMOVE" => pwrRemove s x
  | "PWR_RESET" => pwrReset s x
  | _ => storeAll s x

/-- A write of 4 bytes of BAR4 through port b (R427): a word of the MSI-X table, where a pending vector that it unmasks is sent;
elsewhere it is discarded. -/
def msixWrite (s : State) (b : Port) (off v : Nat) : State :=
  let k := off / 4 % 4
  let n := off / 16
  let v := if k = 0 then v / 4 * 4 else if k = 3 then v % 2 else v
  if off < 0x8000 then
    let s := { s with msixTable := SMap.set 0 s.msixTable (8192 * b.num + off / 4) (v ^^^ (if k = 3 then 1 else 0)) }
    if k = 3 ∧ v = 0 ∧ SMap.get false s.msixPend (2048 * b.num + n) then
      sendMsix { s with msixPend := SMap.set false s.msixPend (2048 * b.num + n) false } b n
    else s
  else s

/-- A write of BAR4 at a multiple of 8: its halves, the lower first. -/
def bar4Write (s : State) (off : Nat) (w : HostWr) : State :=
  let d := w.data.toNat
  match w.size with
  | .low => msixWrite s w.port off (d % 2 ^ 32)
  | .high => msixWrite s w.port (off + 4) (d % 2 ^ 32)
  | .full => msixWrite (msixWrite s w.port off (d % 2 ^ 32)) w.port (off + 4) (d / 2 ^ 32)

/-- REGISTER_WRITE (R8, R427): an aligned write of 4 or 8 bytes of BAR0 or BAR4. A write of BAR2 is a doorbell, a command of its
own. -/
def execRegisterWrite (at_ : RegAddr) (w : HostWr) (s : State) : Res :=
  .next (if at_.bar = 0 then hostWrite s at_.off w regRule
    else if at_.bar = 4 && clocked s then bar4Write s at_.off w
    else s)

/-- An access of the size and alignment that R10 allows. -/
def accessOk (a : BarAccess) : Bool := (a.size == 4 || a.size == 8) && a.off % a.size == 0

/-- A BAR0 offset is that of a banked window onto the selected queue. -/
def atQueue (off : Nat) : Bool := (findReg (off / 8 * 8)).any fun x => x.1.kind == .queue

/-- The partition that an access is charged to (R439): of the page, whether or not a register stands there, or of the queue block
of the doorbell or of the selected queue. -/
def accessPart (s : State) (a : BarAccess) : Nat :=
  let blockPart := fun (q : Nat) => if s.on (Reg.QUE_BLOCK_ASSIGNED (q / 256)) then queuePart s q else 0xFF
  if a.bar = 2 then blockPart (a.off / 8)
  else if atQueue a.off then
    (if s.isWritten (Reg.QUE_SEL_QUEUE a.port) then blockPart (s.get (Reg.QUE_SEL_QUEUE a.port)) else 0xFF)
  else match pagePart s a.off with
    | some p => if partState s p = 0 then 0xFF else p
    | none => 0xFF

/-- The core whose page an access addresses. -/
def accessCore (a : BarAccess) : Nat := if a.bar = 2 then 0xFF else (pageCore a.off).getD 0xFF

/-- An access touches SEC_STATUS, which answers in STAGE 0 too (R435). -/
def atSecStatus (a : BarAccess) : Bool :=
  a.bar == 0 && match findReg (a.off / 8 * 8) with
    | some (r, _) => r.name == "SEC_STATUS"
    | none => false

/-- REGISTER_ACCESS_INVALID (R10): a read completes with all bits 1, a write is discarded. In STAGE 0 every register but SEC_STATUS
reads 0 and nothing is recorded (R435). -/
def execRegisterAccessInvalid (acc : BarAccess) (s : State) : Res :=
  if accessOk acc || !clocked s then .next s
  else
    let answer := fun (s : State) (b : Byte) => if acc.write then s else s.emit (.readData (List.replicate acc.size b))
    if stage s = 0 && !atSecStatus acc then .next (answer s 0)
    else
      let s := raise s pwrLast
        { code := 0x0C02, cls := 0, part := accessPart s acc, core := accessCore acc, unit := acc.port.num,
          detail := [acc.off, acc.bar + 256 * acc.size + (if acc.write then 65536 else 0),
            if acc.write then acc.data.toNat else 0] }
      .next (answer s 0xFF)

end Sys2Proof.Machine
end

