-- ==== Sys2Proof/Machine/Dispatch.lean ====
section
/-!
DEFINITION. The effect of every command: one arm per row of the opcode table, each a direct call of its meaning.
-/

namespace Sys2Proof.Machine

/-- The effect of a command on everything but the queue. -/
def exec (i : Instr) (s : State) : Host.Outcome State Fault Refusal :=
  match i with
  | .nop a pr => Sys2Proof.Machine.execNop a pr s
  | .endI a => Sys2Proof.Machine.execEndI a s
  | .loop a f => Sys2Proof.Machine.execLoop a f s
  | .endloop a => Sys2Proof.Machine.execEndloop a s
  | .stream a f => Sys2Proof.Machine.execStream a f s
  | .load a pr f => Sys2Proof.Machine.execLoad a pr f s
  | .store a pr f => Sys2Proof.Machine.execStore a pr f s
  | .prefetch a pr f => Sys2Proof.Machine.execPrefetch a pr f s
  | .tableSetup a pr f => Sys2Proof.Machine.execTableSetup a pr f s
  | .codebookSet a pr f => Sys2Proof.Machine.execCodebookSet a pr f s
  | .opb a pr f => Sys2Proof.Machine.execOpb a pr f s
  | .drain a pr f => Sys2Proof.Machine.execDrain a pr f s
  | .vop a pr f => Sys2Proof.Machine.execVop a pr f s
  | .reduce a pr f => Sys2Proof.Machine.execReduce a pr f s
  | .indexStream a pr f => Sys2Proof.Machine.execIndexStream a pr f s
  | .gather a pr f => Sys2Proof.Machine.execGather a pr f s
  | .scatterAdd a pr f => Sys2Proof.Machine.execScatterAdd a pr f s
  | .segmentReduce a pr f => Sys2Proof.Machine.execSegmentReduce a pr f s
  | .anchorRead a pr f => Sys2Proof.Machine.execAnchorRead a pr f s
  | .quantCodes a pr f => Sys2Proof.Machine.execQuantCodes a pr f s
  | .signal a pr token => Sys2Proof.Machine.execSignal a pr token s
  | .wait a pr token value => Sys2Proof.Machine.execWait a pr token value s
  | .barrier a => Sys2Proof.Machine.execBarrier a s
  | .mbBegin a pr mb step => Sys2Proof.Machine.execMbBegin a pr mb step s
  | .mbEnd a pr mb step => Sys2Proof.Machine.execMbEnd a pr mb step s
  | .stepEnd a pr step => Sys2Proof.Machine.execStepEnd a pr step s
  | .coll a pr f => Sys2Proof.Machine.execColl a pr f s
  | .caravan a pr f => Sys2Proof.Machine.execCaravan a pr f s
  | .update a pr f => Sys2Proof.Machine.execUpdate a pr f s
  | .hostNop p seq => Sys2Proof.Machine.execHostNop p seq s
  | .copyToDevice p seq => Sys2Proof.Machine.execCopyToDevice p seq s
  | .copyToHost p seq => Sys2Proof.Machine.execCopyToHost p seq s
  | .copyDevice p seq => Sys2Proof.Machine.execCopyDevice p seq s
  | .loadModule p seq image => Sys2Proof.Machine.execLoadModule p seq image s
  | .loadNative p seq image v => Sys2Proof.Machine.execLoadNative p seq image v s
  | .unload p seq => Sys2Proof.Machine.execUnload p seq s
  | .launch p seq => Sys2Proof.Machine.execLaunch p seq s
  | .abort p seq => Sys2Proof.Machine.execAbort p seq s
  | .launchStart x => Sys2Proof.Machine.execLaunchStart x s
  | .commandAccept q bytes => Sys2Proof.Machine.execCommandAccept q bytes s
  | .interruptAggregationTimeout q => Sys2Proof.Machine.execInterruptAggregationTimeout q s
  | .doorbellWrite off w => Sys2Proof.Machine.execDoorbellWrite off w s
  | .queSelWrite w => Sys2Proof.Machine.execQueSelWrite w s
  | .queCfgWrite w => Sys2Proof.Machine.execQueCfgWrite w s
  | .setHelper port host seedOk => Sys2Proof.Machine.execSetHelper port host seedOk s
  | .identityDerivationComplete digest => Sys2Proof.Machine.execIdentityDerivationComplete digest s
  | .loadFirmware port image v => Sys2Proof.Machine.execLoadFirmware port image v s
  | .loadCert port chain isOurs => Sys2Proof.Machine.execLoadCert port chain isOurs s
  | .partCreate port => Sys2Proof.Machine.execPartCreate port s
  | .partFrames port => Sys2Proof.Machine.execPartFrames port s
  | .partQblocks port => Sys2Proof.Machine.execPartQblocks port s
  | .partLock port => Sys2Proof.Machine.execPartLock port s
  | .partStart port => Sys2Proof.Machine.execPartStart port s
  | .partTeardown port => Sys2Proof.Machine.execPartTeardown port s
  | .getMlog port => Sys2Proof.Machine.execGetMlog port s
  | .testChallenge port nonce => Sys2Proof.Machine.execTestChallenge port nonce s
  | .testUnlock port response v => Sys2Proof.Machine.execTestUnlock port response v s
  | .frameZeroizeComplete frame bad => Sys2Proof.Machine.execFrameZeroizeComplete frame bad s
  | .lockInterface t p => Sys2Proof.Machine.execLockInterface t p s
  | .startInterface t p => Sys2Proof.Machine.execStartInterface t p s
  | .stopInterface t p => Sys2Proof.Machine.execStopInterface t p s
  | .getDeviceInterfaceReport t p => Sys2Proof.Machine.execGetDeviceInterfaceReport t p s
  | .getDeviceInterfaceState t p => Sys2Proof.Machine.execGetDeviceInterfaceState t p s
  | .keyProg t p stream tx unsupported => Sys2Proof.Machine.execKeyProg t p stream tx unsupported s
  | .kSetGo t p tx => Sys2Proof.Machine.execKSetGo t p tx s
  | .kSetStop t p tx => Sys2Proof.Machine.execKSetStop t p tx s
  | .ideIntegrityFailure p => Sys2Proof.Machine.execIdeIntegrityFailure p s
  | .unprotectedAccess p acc => Sys2Proof.Machine.execUnprotectedAccess p acc s
  | .spdmGetCertificate r slot off len => Sys2Proof.Machine.execSpdmGetCertificate r slot off len s
  | .spdmChallenge r slot nonce => Sys2Proof.Machine.execSpdmChallenge r slot nonce s
  | .spdmGetMeasurements r index sign nonce => Sys2Proof.Machine.execSpdmGetMeasurements r index sign nonce s
  | .spdmKeyExchange r slot op share => Sys2Proof.Machine.execSpdmKeyExchange r slot op share s
  | .spdmSlhSignatureRequest x => Sys2Proof.Machine.execSpdmSlhSignatureRequest x s
  | .mctpControlMessage x code body => Sys2Proof.Machine.execMctpControlMessage x code body s
  | .getTelemetry => Sys2Proof.Machine.execGetTelemetry s
  | .getLog slot count => Sys2Proof.Machine.execGetLog slot count s
  | .setPowerLimit watts => Sys2Proof.Machine.execSetPowerLimit watts s
  | .prepareRemoval => Sys2Proof.Machine.execPrepareRemoval s
  | .mctpModuleReset => Sys2Proof.Machine.execMctpModuleReset s
  | .getEvent => Sys2Proof.Machine.execGetEvent s
  | .registerWrite at_ w => Sys2Proof.Machine.execRegisterWrite at_ w s
  | .registerAccessInvalid acc => Sys2Proof.Machine.execRegisterAccessInvalid acc s
  | .memInterleaveWrite w => Sys2Proof.Machine.execMemInterleaveWrite w s
  | .memMapoutStart w => Sys2Proof.Machine.execMemMapoutStart w s
  | .channelMappedOut => Sys2Proof.Machine.execChannelMappedOut s
  | .memZeroizeAll w => Sys2Proof.Machine.execMemZeroizeAll w s
  | .memRegEnableWrite p e w => Sys2Proof.Machine.execMemRegEnableWrite p e w s
  | .tokenRefill => Sys2Proof.Machine.execTokenRefill s
  | .fastTierAccess r addr len data ev => Sys2Proof.Machine.execFastTierAccess r addr len data ev s
  | .atomic r addr wide op xs ev => Sys2Proof.Machine.execAtomic r addr wide op xs ev s
  | .lineEviction slice set back => Sys2Proof.Machine.execLineEviction slice set back s
  | .memPartStatusFaultedClear p w => Sys2Proof.Machine.execMemPartStatusFaultedClear p w s
  | .stackSensorRead temps => Sys2Proof.Machine.execStackSensorRead temps s
  | .couplingLevelRelease st level => Sys2Proof.Machine.execCouplingLevelRelease st level s
  | .dieSensorRead temps => Sys2Proof.Machine.execDieSensorRead temps s
  | .dieLevelRelease e level => Sys2Proof.Machine.execDieLevelRelease e level s
  | .powerControlTick vin iin pin icore => Sys2Proof.Machine.execPowerControlTick vin iin pin icore s
  | .coreCurrentLimit => Sys2Proof.Machine.execCoreCurrentLimit s
  | .coreCurrentLimitRelease => Sys2Proof.Machine.execCoreCurrentLimitRelease s
  | .aclkStepChange c => Sys2Proof.Machine.execAclkStepChange c s
  | .caravanStepChange c => Sys2Proof.Machine.execCaravanStepChange c s
  | .pwrLimitWrite w => Sys2Proof.Machine.execPwrLimitWrite w s
  | .pwrRemovePrepare w => Sys2Proof.Machine.execPwrRemovePrepare w s
  | .pwrResetModule w => Sys2Proof.Machine.execPwrResetModule w s
  | .powerOn => Sys2Proof.Machine.execPowerOn s
  | .rootPllLock testsPass => Sys2Proof.Machine.execRootPllLock testsPass s
  | .powerLoss cause => Sys2Proof.Machine.execPowerLoss cause s
  | .vinOutOfRange => Sys2Proof.Machine.execVinOutOfRange s
  | .coolantInletHot temp => Sys2Proof.Machine.execCoolantInletHot temp s
  | .moduleResetPin => Sys2Proof.Machine.execModuleResetPin s
  | .perstAssert port => Sys2Proof.Machine.execPerstAssert port s
  | .perstRelease port => Sys2Proof.Machine.execPerstRelease port s
  | .hostLinkLost port => Sys2Proof.Machine.execHostLinkLost port s
  | .rootClockLost => Sys2Proof.Machine.execRootClockLost s
  | .rootPllRelock => Sys2Proof.Machine.execRootPllRelock s
  | .lanePllLockLoss lane => Sys2Proof.Machine.execLanePllLockLoss lane s
  | .removeReq => Sys2Proof.Machine.execRemoveReq s
  | .mateSenseLost => Sys2Proof.Machine.execMateSenseLost s
  | .stepSyncInEdge => Sys2Proof.Machine.execStepSyncInEdge s
  | .boundaryReady p => Sys2Proof.Machine.execBoundaryReady p s
  | .boundaryEarliestReached p => Sys2Proof.Machine.execBoundaryEarliestReached p s
  | .boundaryLatestReached p => Sys2Proof.Machine.execBoundaryLatestReached p s
  | .lateDropExpiry p => Sys2Proof.Machine.execLateDropExpiry p s
  | .scaleRecordUpdate p record step ev => Sys2Proof.Machine.execScaleRecordUpdate p record step ev s
  | .microBatchTableWaitTimeout a => Sys2Proof.Machine.execMicroBatchTableWaitTimeout a s
  | .versionWaitTimeout a => Sys2Proof.Machine.execVersionWaitTimeout a s
  | .synCtrlWrite p w => Sys2Proof.Machine.execSynCtrlWrite p w s
  | .synStepWrite p w => Sys2Proof.Machine.execSynStepWrite p w s
  | .closeAll p w => Sys2Proof.Machine.execCloseAll p w s
  | .synVersionEnable p w => Sys2Proof.Machine.execSynVersionEnable p w s
  | .synSeedKeyWrite p w => Sys2Proof.Machine.execSynSeedKeyWrite p w s
  | .synRippleEnable p w => Sys2Proof.Machine.execSynRippleEnable p w s
  | .replayStart p w => Sys2Proof.Machine.execReplayStart p w s
  | .replayAbort p w => Sys2Proof.Machine.execReplayAbort p w s
  | .passIssue x => Sys2Proof.Machine.execPassIssue x s
  | .passComplete c evs => Sys2Proof.Machine.execPassComplete c evs s
  | .drainIssue x => Sys2Proof.Machine.execDrainIssue x s
  | .outputUnitComplete c => Sys2Proof.Machine.execOutputUnitComplete c s
  | .drainComplete c evs => Sys2Proof.Machine.execDrainComplete c evs s
  | .operandWaitTimeout c => Sys2Proof.Machine.execOperandWaitTimeout c s
  | .vectorIssue x gs => Sys2Proof.Machine.execVectorIssue x gs s
  | .vectorComplete c gs finds => Sys2Proof.Machine.execVectorComplete c gs finds s
  | .vectorWaitTimeout c gs => Sys2Proof.Machine.execVectorWaitTimeout c gs s
  | .indexFifoFill x => Sys2Proof.Machine.execIndexFifoFill x s
  | .tokenWaitTimeout a => Sys2Proof.Machine.execTokenWaitTimeout a s
  | .bankLoad c bank v => Sys2Proof.Machine.execBankLoad c bank v s
  | .bankSwitch c => Sys2Proof.Machine.execBankSwitch c s
  | .caravanInstanceStart p cdef => Sys2Proof.Machine.execCaravanInstanceStart p cdef s
  | .fetchPartStart p cdef stage => Sys2Proof.Machine.execFetchPartStart p cdef stage s
  | .handOverGranuleLand p cdef stage fault => Sys2Proof.Machine.execHandOverGranuleLand p cdef stage fault s
  | .caravanInstanceEnd p cdef => Sys2Proof.Machine.execCaravanInstanceEnd p cdef s
  | .descriptorLoad e dq given => Sys2Proof.Machine.execDescriptorLoad e dq given s
  | .burstGrant c credit => Sys2Proof.Machine.execBurstGrant c credit s
  | .burstLand c ch host ev => Sys2Proof.Machine.execBurstLand c ch host ev s
  | .transferComplete c ch => Sys2Proof.Machine.execTransferComplete c ch s
  | .paceResume c ch level => Sys2Proof.Machine.execPaceResume c ch level s
  | .dmaChDisable c ch w => Sys2Proof.Machine.execDmaChDisable c ch w s
  | .dmaChHaltedClear c ch w => Sys2Proof.Machine.execDmaChHaltedClear c ch w s
  | .dqStop e dq w => Sys2Proof.Machine.execDqStop e dq w s
  | .dqStopped e dq => Sys2Proof.Machine.execDqStopped e dq s
  | .dqResume e dq w => Sys2Proof.Machine.execDqResume e dq w s
  | .oasCtrlEnable p w => Sys2Proof.Machine.execOasCtrlEnable p w s
  | .updateRequestStart => Sys2Proof.Machine.execUpdateRequestStart s
  | .workingCopyWriteStart slowBad finds => Sys2Proof.Machine.execWorkingCopyWriteStart slowBad finds s
  | .updateCommit => Sys2Proof.Machine.execUpdateCommit s
  | .oasQueueCancel p w => Sys2Proof.Machine.execOasQueueCancel p w s
  | .oasInit p w => Sys2Proof.Machine.execOasInit p w s
  | .oasRead p w => Sys2Proof.Machine.execOasRead p w s
  | .oasDigest p w => Sys2Proof.Machine.execOasDigest p w s
  | .initQuant p w => Sys2Proof.Machine.execInitQuant p w s
  | .oasTransferComplete p bad finds => Sys2Proof.Machine.execOasTransferComplete p bad finds s
  | .oasDigestKeyWrite p n w => Sys2Proof.Machine.execOasDigestKeyWrite p n w s
  | .oasisLinkModuleRetired x => Sys2Proof.Machine.execOasisLinkModuleRetired x s
  | .fabCtrlWrite w => Sys2Proof.Machine.execFabCtrlWrite w s
  | .fabricPortDown f => Sys2Proof.Machine.execFabricPortDown f s
  | .fabricPortUp f => Sys2Proof.Machine.execFabricPortUp f s
  | .fabAreaCtrlEnable p w => Sys2Proof.Machine.execFabAreaCtrlEnable p w s
  | .flowOpen p w => Sys2Proof.Machine.execFlowOpen p w s
  | .flowClose p w => Sys2Proof.Machine.execFlowClose p w s
  | .handshake p flow x => Sys2Proof.Machine.execHandshake p flow x s
  | .handshakeTimeout p flow => Sys2Proof.Machine.execHandshakeTimeout p flow s
  | .data h payload => Sys2Proof.Machine.execData h payload s
  | .ack h cum map => Sys2Proof.Machine.execAck h cum map s
  | .req h => Sys2Proof.Machine.execReq h s
  | .grant h => Sys2Proof.Machine.execGrant h s
  | .creditGrant p => Sys2Proof.Machine.execCreditGrant p s
  | .ctrlAbort h tag inst => Sys2Proof.Machine.execCtrlAbort h tag inst s
  | .ctrlDetach h tag inst => Sys2Proof.Machine.execCtrlDetach h tag inst s
  | .ctrlRemove h => Sys2Proof.Machine.execCtrlRemove h s
  | .ctrlClose h => Sys2Proof.Machine.execCtrlClose h s
  | .groupKey h tag x => Sys2Proof.Machine.execGroupKey h tag x s
  | .groupKeyDistribution p group => Sys2Proof.Machine.execGroupKeyDistribution p group s
  | .retransmitTimeout p flow psn => Sys2Proof.Machine.execRetransmitTimeout p flow psn s
  | .ackTimer p flow => Sys2Proof.Machine.execAckTimer p flow s
  | .portRotationRejoin p flow f => Sys2Proof.Machine.execPortRotationRejoin p flow f s
  | .receiveQueueBind => Sys2Proof.Machine.execReceiveQueueBind s
  | .instanceComplete p group inst => Sys2Proof.Machine.execInstanceComplete p group inst s
  | .collectiveWaitTimeout p group inst => Sys2Proof.Machine.execCollectiveWaitTimeout p group inst s
  | .receiverDetach p group inst rank => Sys2Proof.Machine.execReceiverDetach p group inst rank s
  | .hostFence w => Sys2Proof.Machine.execHostFence w s
  | .hltCtrlWrite w => Sys2Proof.Machine.execHltCtrlWrite w s
  | .siroccoStart p w => Sys2Proof.Machine.execSiroccoStart p w s
  | .siroccoRunStart p => Sys2Proof.Machine.execSiroccoRunStart p s
  | .siroccoJudge p digests => Sys2Proof.Machine.execSiroccoJudge p digests s
  | .siroccoRerun p digests => Sys2Proof.Machine.execSiroccoRerun p digests s
  | .pairEnableWrite p w => Sys2Proof.Machine.execPairEnableWrite p w s
  | .mirageCheckStart p => Sys2Proof.Machine.execMirageCheckStart p s
  | .mirageVerdict p fail bad link => Sys2Proof.Machine.execMirageVerdict p fail bad link s
  | .mirageClear p w => Sys2Proof.Machine.execMirageClear p w s
  | .mirageHaltedClear p w => Sys2Proof.Machine.execMirageHaltedClear p w s
  | .diagnosticDump w => Sys2Proof.Machine.execDiagnosticDump w s
  | .hltErrCtrlEnable p w => Sys2Proof.Machine.execHltErrCtrlEnable p w s
  | .oasisQueueFull a => Sys2Proof.Machine.execOasisQueueFull a s
  | .hostLinkUp port gen => Sys2Proof.Machine.execHostLinkUp port gen s
  | .flowClosingTimeout p flow => Sys2Proof.Machine.execFlowClosingTimeout p flow s
  | .vinBackInRange => Sys2Proof.Machine.execVinBackInRange s
  | .coolantInletNormal temp => Sys2Proof.Machine.execCoolantInletNormal temp s
  | .oasisDieInternalFault => Sys2Proof.Machine.execOasisDieInternalFault s
  | .fullZeroizationComplete bad => Sys2Proof.Machine.execFullZeroizationComplete bad s
  | .bankLoadComplete c => Sys2Proof.Machine.execBankLoadComplete c s
  | .diagnosticDumpComplete ok => Sys2Proof.Machine.execDiagnosticDumpComplete ok s
  | .testAccessPortInstruction k => Sys2Proof.Machine.execTestAccessPortInstruction k s
  | .nonXftFrameReceived f pause => Sys2Proof.Machine.execNonXftFrameReceived f pause s

end Sys2Proof.Machine
end

