-- ==== Sys2Proof/Machine/Idle.lean ====
section
/-!
DEFINITION. What a step does when no command waits (log entry 1).
-/

namespace Sys2Proof.Machine

/-- One microsecond of the management clock goes by (R373: TIME; DESIGN CHOICE), and a pulse on STEP_SYNC_IN is over by then
(R246: IN_LEVEL; no command is its falling edge; DESIGN CHOICE). -/
def idle (s : State) : State := { s with timeUs := s.timeUs + 1 }.put Reg.SYN_OUT_SEL_IN_LEVEL 0

end Sys2Proof.Machine
end

