-- ==== Sys2Proof/WellFormed.lean ====
section
/-!
DEFINITION. Which commands are well formed: every operand in the range that its field or its object gives it (R5 to R7, R10,
R147 to R168). The meanings do not rest on it: they answer for every command.
-/

namespace Sys2Proof

/-- A value of w bits. -/
def inBits (w v : Nat) : Bool := v < 2 ^ w

/-- PEN 0 leaves PCOND and PLEV 0 (R147). -/
def Pred.wf (p : Pred) : Bool := inBits 3 p.pcond && inBits 2 p.plev && (p.pen || (p.pcond == 0 && p.plev == 0))

def LoopF.wf (f : LoopF) : Bool :=
  inBits 2 f.nlev && inBits 16 f.count0 && inBits 16 f.count1 && inBits 16 f.count2 && inBits 16 f.count3

/-- INIT is a parameter number where INIT_PARAM is 1 (R152). -/
def StreamF.wf (f : StreamF) : Bool := inBits 2 f.s && (!f.initParam || inBits 2 f.init.toNat)

def MoveF.wf (f : MoveF) : Bool := inBits 12 f.desc && inBits 11 f.gran && inBits 32 f.off && inBits 32 f.count

def PrefetchF.wf (f : PrefetchF) : Bool := inBits 12 f.desc && inBits 32 f.off && inBits 32 f.count

def TableF.wf (f : TableF) : Bool := inBits 5 f.accShift && inBits 12 f.adesc && inBits 12 f.wdesc && inBits 12 f.sdesc

def CodebookF.wf (f : CodebookF) : Bool := inBits 12 f.desc && inBits 32 f.constOff

def OpbF.wf (f : OpbF) : Bool :=
  inBits 12 f.bdesc && inBits 12 f.adesc && inBits 7 f.holdT && inBits 2 f.slot && inBits 3 f.width && inBits 3 f.path
    && inBits 32 f.bcol && inBits 32 f.arow && inBits 6 f.blocks && inBits 16 f.kb0 && inBits 32 f.high

def DrainF.wf (f : DrainF) : Bool :=
  inBits 11 f.xbase && inBits 12 f.outDesc && inBits 2 f.dest && inBits 2 f.format && inBits 2 f.slot && inBits 32 f.ocol
    && inBits 32 f.orow && inBits 32 f.high

def VopF.wf (f : VopF) : Bool :=
  inBits 2 f.fout && inBits 2 f.fin && inBits 8 f.op && inBits 11 f.dst && inBits 11 f.src3 && inBits 11 f.src2
    && inBits 11 f.src1 && inBits 12 f.sdesc && inBits 16 f.vectors

def ReduceF.wf (f : ReduceF) : Bool :=
  inBits 2 f.fin && inBits 11 f.dst && inBits 11 f.src && inBits 7 f.k && inBits 2 f.mode && inBits 4 f.op && inBits 32 f.pos0
    && inBits 32 f.count && inBits 20 f.xidx && inBits 12 f.xdesc && inBits 32 f.rows

def IndexF.wf (f : IndexF) : Bool := inBits 12 f.idesc && inBits 32 f.first && inBits 32 f.count

def GatherF.wf (f : GatherF) : Bool := inBits 11 f.dst && inBits 12 f.tdesc && inBits 32 f.count

/-- A signed 9-bit anchor (R165). -/
def anchorWf (x : Int) : Bool := -256 ≤ x && x < 256

def ScatterF.wf (f : ScatterF) : Bool := anchorWf f.anchor && inBits 11 f.src && inBits 12 f.tdesc && inBits 32 f.count

def AnchorF.wf (f : AnchorF) : Bool :=
  anchorWf f.anchor && inBits 11 f.dst && inBits 12 f.tdesc && inBits 32 f.row0 && inBits 32 f.rows

def SegF.wf (f : SegF) : Bool :=
  inBits 2 f.fin && inBits 3 f.op && inBits 11 f.dst && inBits 11 f.src && inBits 12 f.xdesc && inBits 32 f.last
    && inBits 32 f.first && inBits 11 f.rowlen && inBits 32 f.rows

def QuantF.wf (f : QuantF) : Bool := inBits 12 f.src && inBits 12 f.dst && inBits 32 f.kb0 && inBits 32 f.blocks

def CollF.wf (f : CollF) : Bool :=
  inBits 16 f.group && inBits 12 f.ddesc && inBits 12 f.sdesc && inBits 4 f.op && inBits 32 f.doff && inBits 32 f.soff
    && inBits 8 f.token && inBits 32 f.length

def CaravanF.wf (f : CaravanF) : Bool := inBits 12 f.cdef && inBits 32 f.param && inBits 32 f.tiles

def UpdateF.wf (f : UpdateF) : Bool := inBits 12 f.vdesc && inBits 12 f.wdesc && inBits 32 f.sched && inBits 32 f.step

/-- A Tynte instruction as a module can carry it. -/
def Tynte.wf : Tynte → Bool
  | .nop => true
  | .endI => true
  | .loop f => f.wf
  | .endloop => true
  | .stream f => f.wf
  | .load f => f.wf && !f.rel
  | .store f => f.wf
  | .prefetch f => f.wf
  | .tableSetup f => f.wf
  | .codebookSet f => f.wf
  | .opb f => f.wf
  | .drain f => f.wf
  | .vop f => f.wf
  | .reduce f => f.wf
  | .indexStream f => f.wf
  | .gather f => f.wf
  | .scatterAdd f => f.wf
  | .segmentReduce f => f.wf
  | .anchorRead f => f.wf
  | .quantCodes f => f.wf
  | .signal k => inBits 8 k
  | .wait k v => inBits 8 k && inBits 32 v
  | .barrier => true
  | .mbBegin m k => inBits 32 m && inBits 32 k
  | .mbEnd m k => inBits 32 m && inBits 32 k
  | .stepEnd k => inBits 32 k
  | .coll f => f.wf
  | .caravan f => f.wf
  | .update f => f.wf

/-- A header field of a frame in the width that R332 gives it. -/
def FrameHdr.wf (h : FrameHdr) : Bool :=
  inBits 4 h.version && inBits 4 h.type && inBits 20 h.dst && inBits 4 h.op && inBits 2 h.phase && inBits 16 h.groupTag && inBits 32 h.psn
    && inBits 32 h.inst && inBits 32 h.offset && inBits 16 h.srcRank

/-- The register of a write begins on 8 bytes and lies in BAR0 (R10, R428). -/
def offWf (off : Nat) : Bool := off % 8 == 0 && off < 0x1000000

/-- An address of the management bus has 7 bits. -/
def MctpBus.wf : MctpBus → Bool
  | .smbus a => inBits 7 a
  | .i3c a => inBits 7 a
  | .assign a => inBits 7 a

/-- A command whose operands are all in range. -/
def Instr.wf : Instr → Bool
  | .nop _ pr => pr.wf
  | .endI _ => true
  | .loop _ f => f.wf
  | .endloop _ => true
  | .stream _ f => f.wf
  | .load _ pr f => pr.wf && f.wf && !f.rel
  | .store _ pr f => pr.wf && f.wf
  | .prefetch _ pr f => pr.wf && f.f.wf
  | .tableSetup _ pr f => pr.wf && f.wf
  | .codebookSet _ pr f => pr.wf && f.wf
  | .opb _ pr f => pr.wf && f.wf
  | .drain _ pr f => pr.wf && f.wf
  | .vop _ pr f => pr.wf && f.wf
  | .reduce _ pr f => pr.wf && f.wf
  | .indexStream _ pr f => pr.wf && f.wf
  | .gather _ pr f => pr.wf && f.wf
  | .scatterAdd _ pr f => pr.wf && f.wf
  | .segmentReduce _ pr f => pr.wf && f.wf
  | .anchorRead _ pr f => pr.wf && f.wf
  | .quantCodes _ pr f => pr.wf && f.wf
  | .signal _ pr token => pr.wf && inBits 8 token
  | .wait _ pr token value => pr.wf && inBits 8 token && inBits 32 value
  | .barrier _ => true
  | .mbBegin _ pr mb step => pr.wf && inBits 32 mb && inBits 32 step
  | .mbEnd _ pr mb step => pr.wf && inBits 32 mb && inBits 32 step
  | .stepEnd _ pr step => pr.wf && inBits 32 step
  | .coll _ pr f => pr.wf && f.wf
  | .caravan _ pr f => pr.wf && f.wf
  | .update _ pr f => pr.wf && f.wf
  | .hostNop _ seq => inBits 32 seq
  | .copyToDevice _ seq => inBits 32 seq
  | .copyToHost _ seq => inBits 32 seq
  | .copyDevice _ seq => inBits 32 seq
  | .loadModule _ seq _ => inBits 32 seq
  | .loadNative _ seq _ _ => inBits 32 seq
  | .unload _ seq => inBits 32 seq
  | .launch _ seq => inBits 32 seq
  | .abort _ seq => inBits 32 seq
  | .launchStart _ => true
  | .commandAccept _ _ => true
  | .interruptAggregationTimeout _ => true
  | .doorbellWrite off _ => off % 8 == 0 && off < 524288
  | .queSelWrite _ => true
  | .queCfgWrite _ => true
  | .setHelper _ _ _ => true
  | .identityDerivationComplete _ => true
  | .loadFirmware _ _ _ => true
  | .loadCert _ _ _ => true
  | .partCreate _ => true
  | .partFrames _ => true
  | .partQblocks _ => true
  | .partLock _ => true
  | .partStart _ => true
  | .partTeardown _ => true
  | .getMlog _ => true
  | .testChallenge _ _ => true
  | .testUnlock _ _ _ => true
  | .frameZeroizeComplete frame _ => frame < 98304
  | .lockInterface _ _ => true
  | .startInterface _ _ => true
  | .stopInterface _ _ => true
  | .getDeviceInterfaceReport _ _ => true
  | .getDeviceInterfaceState _ _ => true
  | .keyProg _ _ n _ _ => inBits 8 n
  | .kSetGo _ _ _ => true
  | .kSetStop _ _ _ => true
  | .ideIntegrityFailure _ => true
  | .unprotectedAccess _ _ => true
  | .spdmGetCertificate _ slot off len => inBits 8 slot && inBits 32 off && inBits 32 len
  | .spdmChallenge _ slot _ => inBits 8 slot
  | .spdmGetMeasurements _ index _ _ => inBits 8 index
  | .spdmKeyExchange _ slot _ _ => inBits 8 slot
  | .spdmSlhSignatureRequest _ => true
  | .mctpControlMessage x code _ => x.bus.wf && inBits 8 x.type && inBits 16 x.vendor && inBits 8 code
  | .getTelemetry => true
  | .getLog slot count => slot < 512 && inBits 8 count
  | .setPowerLimit watts => inBits 16 watts
  | .prepareRemoval => true
  | .mctpModuleReset => true
  | .getEvent => true
  | .registerWrite x _ => (x.bar == 0 && offWf x.off) || (x.bar == 4 && x.off < 65536 && x.off % 8 == 0)
  | .registerAccessInvalid _ => true
  | .memInterleaveWrite _ => true
  | .memMapoutStart _ => true
  | .channelMappedOut => true
  | .memZeroizeAll _ => true
  | .memRegEnableWrite _ _ _ => true
  | .tokenRefill => true
  | .fastTierAccess _ _ _ _ _ => true
  | .atomic _ _ _ _ _ _ => true
  | .lineEviction _ set back => set < 16384 && back.retries ≤ 8
  | .memPartStatusFaultedClear _ _ => true
  | .stackSensorRead temps => temps.length == 32 && temps.all (inBits 8)
  | .couplingLevelRelease _ level => 1 ≤ level && level ≤ 3
  | .dieSensorRead temps => 8 ≤ temps.length && temps.length ≤ 11 && temps.all (inBits 8)
  | .dieLevelRelease _ level => 1 ≤ level && level ≤ 3
  | .powerControlTick vin iin pin icore => inBits 16 vin && inBits 16 iin && inBits 16 pin && inBits 16 icore
  | .coreCurrentLimit => true
  | .coreCurrentLimitRelease => true
  | .aclkStepChange _ => true
  | .caravanStepChange _ => true
  | .pwrLimitWrite _ => true
  | .pwrRemovePrepare _ => true
  | .pwrResetModule _ => true
  | .powerOn => true
  | .rootPllLock _ => true
  | .powerLoss _ => true
  | .vinOutOfRange => true
  | .coolantInletHot temp => inBits 8 temp
  | .moduleResetPin => true
  | .perstAssert _ => true
  | .perstRelease _ => true
  | .hostLinkLost _ => true
  | .rootClockLost => true
  | .rootPllRelock => true
  | .lanePllLockLoss _ => true
  | .removeReq => true
  | .mateSenseLost => true
  | .stepSyncInEdge => true
  | .boundaryReady _ => true
  | .boundaryEarliestReached _ => true
  | .boundaryLatestReached _ => true
  | .lateDropExpiry _ => true
  | .scaleRecordUpdate _ record step _ => inBits 13 record && inBits 32 step
  | .microBatchTableWaitTimeout _ => true
  | .versionWaitTimeout _ => true
  | .synCtrlWrite _ _ => true
  | .synStepWrite _ _ => true
  | .closeAll _ _ => true
  | .synVersionEnable _ _ => true
  | .synSeedKeyWrite _ _ => true
  | .synRippleEnable _ _ => true
  | .replayStart _ _ => true
  | .replayAbort _ _ => true
  | .passIssue _ => true
  | .passComplete _ _ => true
  | .drainIssue _ => true
  | .outputUnitComplete _ => true
  | .drainComplete _ _ => true
  | .operandWaitTimeout _ => true
  | .vectorIssue _ _ => true
  | .vectorComplete _ _ _ => true
  | .vectorWaitTimeout _ _ => true
  | .indexFifoFill _ => true
  | .tokenWaitTimeout _ => true
  | .bankLoad _ bank _ => bank < 2
  | .bankSwitch _ => true
  | .caravanInstanceStart _ cdef => inBits 12 cdef
  | .fetchPartStart _ cdef stage => inBits 12 cdef && stage < 8
  | .handOverGranuleLand _ cdef stage _ => inBits 12 cdef && stage < 8
  | .caravanInstanceEnd _ cdef => inBits 12 cdef
  | .descriptorLoad _ dq _ => dq < 32
  | .burstGrant _ _ => true
  | .burstLand _ _ _ _ => true
  | .transferComplete _ _ => true
  | .paceResume _ _ level => inBits 12 level
  | .dmaChDisable _ _ _ => true
  | .dmaChHaltedClear _ _ _ => true
  | .dqStop _ dq _ => dq < 32
  | .dqStopped _ dq => dq < 32
  | .dqResume _ dq _ => dq < 32
  | .oasCtrlEnable _ _ => true
  | .updateRequestStart => true
  | .workingCopyWriteStart _ _ => true
  | .updateCommit => true
  | .oasQueueCancel _ _ => true
  | .oasInit _ _ => true
  | .oasRead _ _ => true
  | .oasDigest _ _ => true
  | .initQuant _ _ => true
  | .oasTransferComplete _ _ _ => true
  | .oasDigestKeyWrite _ _ _ => true
  | .oasisLinkModuleRetired _ => true
  | .fabCtrlWrite _ => true
  | .fabricPortDown _ => true
  | .fabricPortUp _ => true
  | .fabAreaCtrlEnable _ _ => true
  | .flowOpen _ _ => true
  | .flowClose _ _ => true
  | .handshake _ flow x => inBits 16 flow && x.hdr.wf && x.peer.length == 48
  | .handshakeTimeout _ flow => inBits 16 flow
  | .data h _ => h.wf
  | .ack h cum _ => h.wf && inBits 32 cum
  | .req h => h.wf
  | .grant h => h.wf
  | .creditGrant _ => true
  | .ctrlAbort h tag inst => h.wf && inBits 16 tag && inBits 32 inst
  | .ctrlDetach h tag inst => h.wf && inBits 16 tag && inBits 32 inst
  | .ctrlRemove h => h.wf
  | .ctrlClose h => h.wf
  | .groupKey h tag x => h.wf && inBits 16 tag && inBits 32 x.epoch && inBits 256 x.key
  | .groupKeyDistribution _ group => inBits 16 group
  | .retransmitTimeout _ flow psn => inBits 16 flow && inBits 32 psn
  | .ackTimer _ flow => inBits 16 flow
  | .portRotationRejoin _ flow _ => inBits 16 flow
  | .receiveQueueBind => true
  | .instanceComplete _ group inst => inBits 16 group && inBits 32 inst
  | .collectiveWaitTimeout _ group inst => inBits 16 group && inBits 32 inst
  | .receiverDetach _ group inst rank => inBits 16 group && inBits 32 inst && inBits 16 rank
  | .hostFence _ => true
  | .hltCtrlWrite _ => true
  | .siroccoStart _ _ => true
  | .siroccoRunStart _ => true
  | .siroccoJudge _ _ => true
  | .siroccoRerun _ _ => true
  | .pairEnableWrite _ _ => true
  | .mirageCheckStart _ => true
  | .mirageVerdict _ _ _ _ => true
  | .mirageClear _ _ => true
  | .mirageHaltedClear _ _ => true
  | .diagnosticDump _ => true
  | .hltErrCtrlEnable _ _ => true
  | .oasisQueueFull _ => true
  | .hostLinkUp _ gen => 4 ≤ gen && gen ≤ 6
  | .flowClosingTimeout _ flow => inBits 16 flow
  | .vinBackInRange => true
  | .coolantInletNormal temp => inBits 8 temp
  | .oasisDieInternalFault => true
  | .fullZeroizationComplete bad => bad.all (· < 256)
  | .bankLoadComplete _ => true
  | .diagnosticDumpComplete _ => true
  | .testAccessPortInstruction _ => true
  | .nonXftFrameReceived _ _ => true

end Sys2Proof
end

