-- ==== Sys2Proof/Safety.lean ====
section
/-!
DEFINITION. What the statements mean by a sound state and by a run that goes on.
-/

namespace Sys2Proof.Machine

/-- The canonical form of device memory: addresses strictly rising, no entry equal to 0, which is what an unlisted address reads
as (log entry 4). -/
def Memory.wf (m : SMap Byte) : Bool := SMap.wf 0 m

/-- Device memory, the register file and the record of what has been written stand in their canonical forms. -/
def Canonical (s : State) : Prop := Memory.wf s.mem = true ∧ SMap.wf 0 s.regs = true ∧ SMap.wf false s.written = true

/-- The register field f reads n. -/
def Reads (s : State) (f : Fld) (n : Nat) : Prop := s.get f = n

/-- Every register field but those listed reads as before. -/
def OtherFields (s t : State) (fs : List Fld) : Prop := ∀ f : Fld, f.id ∉ fs.map Fld.id → t.get f = s.get f

/-- Virtual core a.vcore issues an instruction with predicate pr in context x: it may execute, and the predicate holds (R149). -/
def Issues (s : State) (a : At) (fetch : Bool) (pr : Pred) (x : Ctx) : Prop :=
  tynteCtx s a fetch = some x ∧ predHolds x.vc pr = true

/-- How many iterations of a loop nest lie before the one with these counters: level 0 counts fastest (R154). -/
def nestIndex : List Nat → List Nat → Nat
  | n :: ns, i :: is => i + n * nestIndex ns is
  | _, _ => 0

/-- A frame passes the MAC (R333): its link is up, it is whole, of version 1 and of a listed type. -/
def Whole (s : State) (h : FrameHdr) : Prop :=
  s.get (Reg.FAB_PORT_STATUS_LINK_UP h.fport) ≠ 0 ∧ h.check = .ok ∧ h.version = 1 ∧ h.type ≤ 5

/-- A unicast frame reaches flow f of partition p and belongs to it (R333): it passes the MAC, names a flow that takes it, and its
tag verifies under the flow's keys. `u` is the state in which the flow's record has been looked up (R284); `ack` says that it is
an ACK. -/
def Arrives (s u : State) (h : FrameHdr) (ack : Bool) (p f : Nat) : Prop :=
  Whole s h ∧ h.dst ≠ 0xFFFFF ∧ u = lookTargets s h ∧ target u h ack = some (p, f) ∧ h.authOk = true ∧ flowState u p f ≠ 1

/-- The sequenced frame of number psn is new to flow f: at most 1,024 above what has come without a gap, and not come before
(R339). -/
def NewFrame (s : State) (p f psn : Nat) : Prop :=
  (psn + 2 ^ 32 - (SMap.get PeerRx.empty (s.flow p f).rx 0).cum) % 2 ^ 32 ≤ 1024
    ∧ (SMap.get PeerRx.empty (s.flow p f).rx 0).seen.contains psn = false

/-- An ACK with this CUM_PSN and map acknowledges frame t (R339). -/
def acked (cum : Nat) (map : List Nat) (t : TxFrame) : Bool :=
  ((cum + 2 ^ 32 - t.psn) % 2 ^ 32 != 0 && (cum + 2 ^ 32 - t.psn) % 2 ^ 32 < 2 ^ 31) || map.contains t.psn

/-- The security controller serves request r of port b, with opcode op, and no check that all commands share refuses it
(R396). -/
def Serves (s : State) (b : Port) (op : Nat) (r : List Byte) : Prop :=
  (∃ rest, s.sec.order = (b, r) :: rest) ∧ fieldOf r 0 1 = op
    ∧ (s.sec.attempts < 4 ∨ s.get Reg.SEC_STATUS_IDENTITY ≠ 0) ∧ (op = 0x01 → s.sec.noIdentity = false)
    ∧ (ochre s = true → ochreRefuses op = false) ∧ mbxStageOk s op = true
    ∧ (0x10 ≤ op → op ≤ 0x16 → fieldOf r 8 1 < 16 → owned s (fieldOf r 8 1) = true → portOf s (fieldOf r 8 1) = b)

end Sys2Proof.Machine
end

