-- ==== Sys2Proof/Certificates/Slice0/Obligations.lean ====
section
/-!
DEFINITION. The statements for the provers.
-/

open Sys2Proof Sys2Proof.Machine

/-! ## The queue of commands -/

/-- A step runs the command at the front of the queue, with the rest of the queue waiting; on an empty queue the management clock
runs on by one microsecond and the level shown of STEP_SYNC_IN falls, which is the model's own choice (log entry 1). -/
def Obligations.StepRunsTheFront : Prop :=
  (∀ (s : State) (c : Instr), step { s with pending := c :: s.pending } = exec c s)
  ∧ ∀ s : State, s.pending = [] → step s = .next ({ s with timeUs := s.timeUs + 1 }.put Reg.SYN_OUT_SEL_IN_LEVEL 0)

/-- No command changes the queue of the commands that wait. -/
def Obligations.ExecLeavesTheQueue : Prop :=
  ∀ (c : Instr) (s t : State), exec c s = .next t → t.pending = s.pending

/-- Every step keeps device memory, the register file and the record of what has been written in their canonical forms. -/
def Obligations.StepKeepsCanonical : Prop :=
  ∀ s t : State, Canonical s → step s = .next t → Canonical t

/-- After reset every register field reads its After power-up value and counts as unwritten (R435), no command waits or runs, no
partition exists, nothing is stored, and the canonical forms hold. -/
def Obligations.ResetState : Prop :=
  Canonical State.reset ∧ (∀ f : Fld, Reads State.reset f f.rst ∧ State.reset.isWritten f = false)
    ∧ State.reset.pending = [] ∧ State.reset.mem = [] ∧ State.reset.cmds = [] ∧ State.reset.launches = []
    ∧ stage State.reset = 0 ∧ (∀ p : Part, partState State.reset p = 0) ∧ State.reset.out = []

/-! ## Tynte instructions -/

/-- R149: a predicated instruction whose condition is false changes no state. -/
def Obligations.SkippedInstructionChangesNothing : Prop :=
  ∀ (s : State) (a : At) (pr : Pred), (∀ fetch x, tynteCtx s a fetch = some x → predHolds x.vc pr = false) →
    exec (.nop a pr) s = .next s ∧ (∀ f, exec (.load a pr f) s = .next s) ∧ (∀ f, exec (.store a pr f) s = .next s)
    ∧ (∀ f ev, exec (.prefetch a pr ⟨f, ev⟩) s = .next s) ∧ (∀ f, exec (.tableSetup a pr f) s = .next s)
    ∧ (∀ f, exec (.codebookSet a pr f) s = .next s) ∧ (∀ f, exec (.opb a pr f) s = .next s)
    ∧ (∀ f, exec (.drain a pr f) s = .next s) ∧ (∀ f, exec (.vop a pr f) s = .next s)
    ∧ (∀ f, exec (.reduce a pr f) s = .next s) ∧ (∀ f, exec (.indexStream a pr f) s = .next s)
    ∧ (∀ f, exec (.gather a pr f) s = .next s) ∧ (∀ f, exec (.scatterAdd a pr f) s = .next s)
    ∧ (∀ f, exec (.segmentReduce a pr f) s = .next s) ∧ (∀ f, exec (.anchorRead a pr f) s = .next s)
    ∧ (∀ f, exec (.quantCodes a pr f) s = .next s) ∧ (∀ k, exec (.signal a pr k) s = .next s)
    ∧ (∀ k v, exec (.wait a pr k v) s = .next s) ∧ (∀ m t, exec (.mbBegin a pr m t) s = .next s)
    ∧ (∀ m t, exec (.mbEnd a pr m t) s = .next s) ∧ (∀ t, exec (.stepEnd a pr t) s = .next s)
    ∧ (∀ f, exec (.coll a pr f) s = .next s) ∧ (∀ f, exec (.caravan a pr f) s = .next s)
    ∧ ∀ f, exec (.update a pr f) s = .next s

/-- NOP, LOOP, ENDLOOP, STREAM and TABLE_SETUP retire; a loop nest opens with every counter at 0 and level 0 counts fastest,
a stream gets its definition, the table context is replaced. Nothing else changes; a TABLE_SETUP in a stage body also enters
its tile. The fetch part of a stage body runs a loop nest of its own and retires nothing (log entry 46). -/
def Obligations.ControlInstructions : Prop :=
  (∀ (s : State) (a : At) (x : Ctx), tynteCtx s a a.fetch = some x →
    (x.fetch = false →
      (∀ f, (s.vc x.p x.v).loopc = none → exec (.loop a f) s = .next (retire (s.setVc x.p x.v { s.vc x.p x.v with
        loopc := some ⟨[f.count0, f.count1, f.count2, f.count3].take (f.nlev + 1), List.replicate (f.nlev + 1) 0⟩ }) x.c))
      ∧ (∀ l i, (s.vc x.p x.v).loopc = some l → nextIter l.counts l.ctrs = some i →
        exec (.endloop a) s = .next (retire (s.setVc x.p x.v { s.vc x.p x.v with loopc := some ⟨l.counts, i⟩ }) x.c))
      ∧ ∀ l, (s.vc x.p x.v).loopc = some l → nextIter l.counts l.ctrs = none →
        exec (.endloop a) s = .next (retire (s.setVc x.p x.v { s.vc x.p x.v with loopc := none }) x.c))
    ∧ (x.fetch = true →
      (∀ f, (s.vc x.p x.v).fetchLoop = none → exec (.loop a f) s = .next (s.setVc x.p x.v { s.vc x.p x.v with
        fetchLoop := some ⟨[f.count0, f.count1, f.count2, f.count3].take (f.nlev + 1), List.replicate (f.nlev + 1) 0⟩ }))
      ∧ (∀ l i, (s.vc x.p x.v).fetchLoop = some l → nextIter l.counts l.ctrs = some i →
        exec (.endloop a) s = .next (s.setVc x.p x.v { s.vc x.p x.v with fetchLoop := some ⟨l.counts, i⟩ }))
      ∧ ∀ l, (s.vc x.p x.v).fetchLoop = some l → nextIter l.counts l.ctrs = none →
        exec (.endloop a) s = .next (s.setVc x.p x.v { s.vc x.p x.v with fetchLoop := none })))
  ∧ ∀ (s : State) (a : At) (x : Ctx), tynteCtx s a false = some x →
    (∀ pr, predHolds x.vc pr = true → exec (.nop a pr) s = .next (retire s x.c))
    ∧ (∀ f, f.initParam = false → exec (.stream a f) s = .next (retire (s.setVc x.p x.v { s.vc x.p x.v with
        streams := SMap.set none (s.vc x.p x.v).streams f.s
          (some ⟨f.init.toNat, [f.inc0.toInt, f.inc1.toInt, f.inc2.toInt, f.inc3.toInt]⟩) }) x.c))
    ∧ (∀ f l, f.initParam = true → s.launch x.p = some l → exec (.stream a f) s = .next (retire (s.setVc x.p x.v
        { s.vc x.p x.v with
          streams := SMap.set none (s.vc x.p x.v).streams f.s
            (some ⟨l.params.getD (f.init.toNat % 4) 0, [f.inc0.toInt, f.inc1.toInt, f.inc2.toInt, f.inc3.toInt]⟩) })
        x.c))
    ∧ (∀ pr f u ts, predHolds x.vc pr = true → stageGo s x.p x.v x.c = true →
        bindAll s x [f.adesc, f.wdesc, f.sdesc] [] = .bound u ts → exec (.tableSetup a pr f) s = .next (carEnter
          (retire ((issued u x).setVc x.p x.v { (issued u x).vc x.p x.v with table := some f }) x.c) x.p x.v))

/-- The iterations of a loop nest: ENDLOOP's next counters are the next iteration of COUNT_3 × … × COUNT_0, and it ends the
nest after the last one. -/
def Obligations.LoopNestRunsEveryIteration : Prop :=
  ∀ counts ctrs : List Nat, List.Forall₂ (fun n i => i < n) counts ctrs →
    (∀ next, nextIter counts ctrs = some next →
      List.Forall₂ (fun n i => i < n) counts next ∧ nestIndex counts next = nestIndex counts ctrs + 1)
    ∧ (nextIter counts ctrs = none → nestIndex counts ctrs + 1 = counts.prod)

/-- SIGNAL, WAIT and the token wait's timeout; BARRIER and END.
TOKEN_WAIT_TIMEOUT, MICRO_BATCH_TABLE_WAIT_TIMEOUT and OASIS_QUEUE_FULL stop the command that waits, with the code of
the wait. -/
def Obligations.OrderInstructions : Prop :=
  (∀ (s : State) (a : At) (x : Ctx), tynteCtx s a false = some x →
      (∀ pr k, predHolds x.vc pr = true → (s.vc x.p x.v).quiet = true →
        exec (.signal a pr k) s = .next (addToken (retire s x.c) x.p (k % 256)))
      ∧ (∀ pr k n, predHolds x.vc pr = true → n ≤ tokenOf s x.p (k % 256) → exec (.wait a pr k n) s = .next (retire s x.c))
      ∧ (∀ pr k n, predHolds x.vc pr = true → tokenOf s x.p (k % 256) < n → x.car = none → exec (.wait a pr k n) s =
          .next ((s.setVc x.p x.v { s.vc x.p x.v with hold := .token (k % 256) n }).put (Reg.SEQ_STATUS_WAIT_TOKEN x.c) 1))
      ∧ ((s.vc x.p x.v).quiet = true → x.car = none → ∃ t,
          t = turnCore (reachBarrier ((s.setVc x.p x.v { s.vc x.p x.v with hold := .barrier }).put
            (Reg.SEQ_STATUS_WAIT_BARRIER x.c) 1) x.p x.v) x.p x.c x.v
          ∧ exec (.barrier a) s = .next (if barrierMet t x.p then newPhase t x.p (barrierOver t x.p) else t)))
  ∧ (∀ (s : State) (a : At) (x : Ctx), tynteCtx s a a.fetch = some x →
      (∀ l, (s.vc x.p x.v).quiet = true → (s.vc x.p x.v).loopc = none → x.car = none → s.launch x.p = some l → ∃ t,
          t = turnCore (retire ((s.setLaunch x.p (some { l with ended := l.ended ++ [x.v] })).setVc x.p x.v
            { s.vc x.p x.v with done := true }) x.c) x.p x.c x.v
          ∧ exec (.endI a) s = .next (tryCommit (if barrierMet t x.p then newPhase t x.p (barrierOver t x.p) else t) x.p))
      ∧ (∀ d i k, x.car = some (d, i, k) → x.fetch = false →
          exec (.endI a) s = .next (tryCommit (carTileEnd s x.p x.v d i k) x.p))
      ∧ ∀ d i k, x.car = some (d, i, k) → x.fetch = true → (i.stage k).fetching = true → (s.vc x.p x.v).fetchLoop = none → ∃ j,
          j = i.mapStage k (fun y => { y with fetching := false })
          ∧ exec (.endI a) s = .next (carPublish (s.setCar x.p d (some j)) j))
  ∧ ∀ (s : State) (a : At) (p : Nat), partOfCore s a.core = some p → (s.vc p a.vcore).core = a.core →
      (∀ t n, (s.vc p a.vcore).hold = .token t n → s.get (Reg.ENG_ISSUE_TIMEOUT_LIMIT a.core) ≠ 0 →
        exec (.tokenWaitTimeout a) s = .next (stopLaunch s [Reg.SEQ_STATUS_LAST_CODE a.core] p
          { code := 0x0332, core := a.core, vcore := a.vcore, detail := [t, n, tokenOf s p t] }))
      ∧ (∀ m t, (s.vc p a.vcore).hold = .microBatch m t → s.get (Reg.SYN_VERSION_CTRL_TIMEOUT p) ≠ 0 →
        64 ≤ (openMbs s p).length → exec (.microBatchTableWaitTimeout a) s =
          .next (stopLaunch s [Reg.SEQ_STATUS_LAST_CODE a.core] p
            { code := 0x0514, core := a.core, vcore := a.vcore, detail := [m, t] }))
      ∧ ((s.vc p a.vcore).hold = .oasisQueue → s.get (Reg.ENG_ISSUE_TIMEOUT_LIMIT a.core) ≠ 0 → 64 ≤ oasDepth s p →
        exec (.oasisQueueFull a) s = .next (stopLaunch s [Reg.SEQ_STATUS_LAST_CODE a.core, Reg.OAS_STATUS_LAST_CODE] p
          { code := 0x0618, core := a.core, vcore := a.vcore }))

/-- LOAD, STORE, PREFETCH and CODEBOOK_SET: a transfer of the stretch named, on a queue of the core; the lines brought
into the cache, for the tokens that their fills take; the codebook written. -/
def Obligations.MoveInstructions : Prop :=
  ∀ (s : State) (a : At) (pr : Pred) (x : Ctx),
    (∀ (f : MoveF) (u : State) (t : TDesc) off g n, Issues s a true pr x → descFree s x [f.desc] = true →
      bindAll s x [f.desc] [] = .bound u [some t] → values x [(32, f.off)] = some [off] → granAt x f.gran = some g →
      moveInside t f.rows off f.count = true → f.count ≠ 0 → n = (if f.rows then f.count * rowBytes t else 64 * f.count) →
      ∃ iid w, openParts (issued u x) x 1 0 = (w, iid) ∧ exec (.load a pr f) s = .next (pushDesc w x.p x.c
        (codeDesc w x x.c iid (if f.rows then t.base + off * t.stride 1 else t.base + 64 * off) (stgAddr 2 g) (roundUp n 64)
          0 1 1 0 0 0 (if f.rows then Fill.rows (rowBytes t) (t.stride 1) n else .plain) false)))
    ∧ (∀ (f : MoveF) (t : TDesc) off g n, Issues s a false pr x → descFree s x [f.desc] = true →
      boundDesc s x.p x.v f.desc = some t → values x [(32, f.off)] = some [off] → granAt x f.gran = some g →
      moveInside t f.rows off f.count = true → f.count ≠ 0 → n = (if f.rows then f.count * rowBytes t else 64 * f.count) →
      presentAll s x.c 2 g (granulesOf n) 1 = true → stageGo s x.p x.v x.c = true →
      ∃ iid w, openParts s x 1 (f.desc + 1) = (w, iid) ∧ exec (.store a pr f) s = .next (carEnter (pushDesc w x.p x.c
        (codeDesc w x x.c iid (stgAddr 2 g) (if f.rows then t.base + off * t.stride 1 else t.base + 64 * off) (roundUp n 64)
          1 0 1 0 0 0 (if f.rows then Fill.toRows (rowBytes t) (t.stride 1) n else .plain) f.rel)) x.p x.v))
    ∧ (∀ (f : PrefetchF) (u v : State) (t : TDesc) off ev lines as det, Issues s a true pr x → descFree s x [f.desc] = true →
      bindAll s x [f.desc] [] = .bound u [some t] → values x [(32, f.off)] = some [off] → moveInside t false off f.count = true →
      f.count ≠ 0 → lines = (List.range f.count).map (t.base + 64 * off + 64 * ·) → partRefusal (issued u x) x.p lines = none →
      as = lines.filterMap (xlate (issued u x) x.p) → mayTake (issued u x) (tokenKeys (issued u x) false 0 as) = true →
      readFinds (issued u x) x.p (span (t.base + 64 * off) (64 * f.count)) ev = (v, 0, det) →
      (f.pin = false → exec (.prefetch a pr ⟨f, ev⟩) s = .next (retire (access v false as) x.c))
      ∧ ∀ w, f.pin = true → pinRange v x.p (.prefetch x.p (x.car.map (·.1))) (t.base + 64 * off) (64 * f.count) = (0, w) →
        exec (.prefetch a pr ⟨f, ev⟩) s = .next (retire w x.c))
    ∧ (∀ (f : CodebookF) (t : TDesc) (u : State), Issues s a false pr x → descFree s x [f.desc] = true →
      boundDesc s x.p x.v f.desc = some t → pWrite s x.p t.auxBase (leBytes 32 (x.g.constAt f.constOff 32)) = some u →
      exec (.codebookSet a pr f) s = .next (carEnter (retire u x.c) x.p x.v))
    ∧ (∀ (f : MoveF) (u : State) (t : TDesc) off g, Issues s a true pr x → descFree s x [f.desc] = true →
      bindAll s x [f.desc] [] = .bound u [some t] → values x [(32, f.off)] = some [off] → granAt x f.gran = some g →
      moveInside t f.rows off f.count = false →
      exec (.load a pr f) s = .next (seqFault (issued u x) x 0x0330 [f.desc, off, f.count]))

/-- OPB queues its passes and fills, DRAIN its drains, at the engine of the lead core. In a stage body the fetch part begins the
fills, and the work part queues the pass that they belong to (R192). -/
def Obligations.EngineInstructions : Prop :=
  (∀ (s : State) (a : At) (pr : Pred) (x : Ctx), Issues s a a.fetch pr x →
    (∀ (f : OpbF) (u w : State) ts bcol arow kb0 high iid gang v z tab wd, x.car = none ∨ x.fetch = true → tab = tableFor s x a.word →
      wd = (tab.map (·.wdesc)).getD 0xFFF → descFree s x [f.adesc, f.bdesc, wd] = true →
      bindAll s x [f.adesc, f.bdesc, wd] [] = .bound u ts →
      values x [(32, f.bcol), (32, f.arow), (16, f.kb0), (32, f.high)] = some [bcol, arow, kb0, high] →
      (f.path = 3 → bcol % 32 = 0) → gang = (f.tile && ((issued u x).vc x.p x.v).gang) →
      openParts (issued u x) x (opbFills f gang + (if x.fetch then 0 else opbCount f gang)) 0 = (v, iid) →
      z = (if x.fetch then v.setVc x.p x.v { v.vc x.p x.v with fills := iid :: (v.vc x.p x.v).fills } else v) →
      opbPasses z x f a.word (tab.getD ⟨0, 0xFFF, 0xFFF, 0xFFF⟩) (ts.getD 0 none) (ts.getD 1 none) (ts.getD 2 none)
        bcol arow kb0 high iid gang (fun s y => if x.fetch then makePass s x.c y else addPass s x.c y) = some w →
      exec (.opb a pr f) s = .next w)
    ∧ (∀ (f : OpbF) y, x.car ≠ none → x.fetch = false →
      ((s.eng x.c).made.find? fun y => y.part == x.p && y.vcore == x.v) = some y → ∃ iid w, openParts s x 1 0 = (w, iid)
      ∧ exec (.opb a pr f) s = .next (addPass (w.setEng x.c { w.eng x.c with made := (w.eng x.c).made.erase y }) x.c
        { y with iid := iid })))
  ∧ ∀ (s : State) (a : At) (pr : Pred) (x : Ctx), Issues s a false pr x →
    (∀ (f : DrainF) ocol orow high g gang n, descFree s x [f.outDesc] = true →
      values x [(32, f.ocol), (32, f.orow), (32, f.high)] = some [ocol, orow, high] → granAt x f.xbase = some g →
      gang = (f.tile && (s.vc x.p x.v).gang) →
      (gang = true → (s.eng x.c).queue = [] ∧ (s.eng x.c).filling = none) → n = (if f.tile then 4 else 1) →
      ∃ iid w, openParts s x n (if f.dest = 2 then f.outDesc + 1 else 0) = (w, iid) ∧ exec (.drain a pr f) s =
        .next ((List.range n).foldl (fun s q => pushDrain s x f g orow ocol high iid gang q) w))

/-- VOP, REDUCE and QUANT_CODES hand their work to the vector unit, with the streamed operands resolved. SEGMENT_REDUCE, GATHER,
SCATTER_ADD and ANCHOR_READ hand their work to the gather/scatter unit (R128, R170); INDEX_STREAM asks for indexes. -/
def Obligations.VectorInstructions : Prop :=
  (∀ (s : State) (a : At) (pr : Pred) (x : Ctx), Issues s a false pr x →
      (∀ (f : VopF) d s1 s2 s3, granules x [f.dst, f.src1, f.src2, f.src3] = some [d, s1, s2, s3] →
        exec (.vop a pr f) s = .next (pushJob s x false (.vop { f with dst := d, src1 := s1, src2 := s2, src3 := s3 }) 0))
      ∧ (∀ (f : ReduceF) d s1 pos, descFree s x [f.xdesc] = true → granules x [f.dst, f.src] = some [d, s1] →
        values x [(32, f.pos0)] = some [pos] → exec (.reduce a pr f) s = .next (pushJob s x false
          (.reduce { f with dst := d, src := s1, pos0 := pos }) (if f.op = 9 ∧ f.xdesc ≠ 0xFFF then f.xdesc + 1 else 0)))
      ∧ (∀ (f : SegF) d s1 m n, descFree s x [f.xdesc] = true → granules x [f.dst, f.src] = some [d, s1] →
        values x [(32, f.first), (32, f.last)] = some [m, n] → exec (.segmentReduce a pr f) s = .next (pushJob s x true
          (.segmentReduce { f with dst := d, src := s1, first := m, last := n })
          (if f.op = 6 ∧ f.xdesc ≠ 0xFFF then f.xdesc + 1 else 0)))
      ∧ (∀ (f : QuantF) kb, descFree s x [f.src, f.dst] = true → values x [(32, f.kb0)] = some [kb] →
        exec (.quantCodes a pr f) s = .next (pushJob s x false (.quantCodes { f with kb0 := kb }) (f.dst + 1))))
  ∧ ∀ (s : State) (a : At) (pr : Pred) (x : Ctx),
      (∀ (f : GatherF) d, Issues s a (gatherFetch s a f) pr x → descFree s x [f.tdesc] = true → granAt x f.dst = some d →
        exec (.gather a pr f) s = .next (pushJob s x true (.gather { f with dst := d }) 0))
      ∧ (∀ (f : ScatterF) g, Issues s a false pr x → descFree s x [f.tdesc] = true → granAt x f.src = some g →
        exec (.scatterAdd a pr f) s = .next (pushJob s x true (.scatterAdd { f with src := g }) (f.tdesc + 1)))
      ∧ (∀ (f : AnchorF) d r, Issues s a false pr x → descFree s x [f.tdesc] = true → granAt x f.dst = some d →
        values x [(32, f.row0)] = some [r] →
        exec (.anchorRead a pr f) s = .next (pushJob s x true (.anchorRead { f with dst := d, row0 := r }) 0))
      ∧ (∀ (f : IndexF) m, Issues s a true pr x → descFree s x [f.idesc] = true → values x [(32, f.first)] = some [m] →
        f.count ≠ 0 → ∃ iid w, openParts s x 1 0 = (w, iid) ∧ exec (.indexStream a pr f) s = .next (w.setVu x.c
          { w.vu x.c with feeds := (w.vu x.c).feeds ++ [⟨x.p, x.v, iid, f.idesc, m, f.count⟩] }))

/-- MB_BEGIN opens the micro-batch for its virtual core or waits for an entry, MB_END leaves it, STEP_END holds at the
boundary; an MB_BEGIN of a later step faults with 0x0512, a STEP_END of another step with 0x0510.
CARAVAN holds its virtual core at the rendezvous, COLL starts an instance of its group, UPDATE puts its request into the
oasis queue or waits for room. -/
def Obligations.StepInstructions : Prop :=
  (∀ (s : State) (a : At) (pr : Pred) (x : Ctx), Issues s a false pr x →
      (∀ mb step m t, values x [(32, mb), (32, step)] = some [m, t] → m < 2 ^ 31 → t ≤ s.get (Reg.SYN_STEP_STEP x.p) →
        ((s.mb x.p m).isOpen = true → (s.mb x.p m).step = t) → ((s.mb x.p m).isOpen = true ∨ (openMbs s x.p).length < 64) →
        ∃ u, u = issued (s.setMb x.p m { s.mb x.p m with isOpen := true, step := t, inside := (s.mb x.p m).inside ++ [x.v] }) x
        ∧ exec (.mbBegin a pr mb step) s =
          .next (retire (mbCount (u.setVc x.p x.v { u.vc x.p x.v with span := some (m, t) }) x.p) x.c))
      ∧ (∀ mb step m t, values x [(32, mb), (32, step)] = some [m, t] → m < 2 ^ 31 → t ≤ s.get (Reg.SYN_STEP_STEP x.p) →
        (s.mb x.p m).isOpen = false → 64 ≤ (openMbs s x.p).length →
        exec (.mbBegin a pr mb step) s = .next (s.setVc x.p x.v { s.vc x.p x.v with hold := .microBatch m t }))
      ∧ (∀ mb step m t, values x [(32, mb), (32, step)] = some [m, t] → s.get (Reg.SYN_STEP_STEP x.p) < t →
        exec (.mbBegin a pr mb step) s = .next (seqFault s x 0x0512 [m, t, s.get (Reg.SYN_STEP_STEP x.p)]))
      ∧ (∀ mb step m t n, values x [(32, mb), (32, step)] = some [m, t] → n = m % 2 ^ 31 →
        (s.vc x.p x.v).span = some (n, t) → (s.vc x.p x.v).quiet = true → ∃ u,
        u = s.setMb x.p n { s.mb x.p n with
          inside := (s.mb x.p n).inside.erase x.v, closing := (s.mb x.p n).closing || m < 2 ^ 31,
            enders := if (s.mb x.p n).enders.contains x.v then (s.mb x.p n).enders else (s.mb x.p n).enders ++ [x.v] }
        ∧ exec (.mbEnd a pr mb step) s =
          .next (mbEnded (retire (u.setVc x.p x.v { s.vc x.p x.v with span := none }) x.c) x.p n))
      ∧ (∀ step t, values x [(32, step)] = some [t] → s.get (Reg.SYN_CTRL_ENABLE x.p) ≠ 0 → (s.vc x.p x.v).quiet = true →
        s.get (Reg.HLT_MIRAGE_STATUS_HALTED x.p) = 0 → t = s.get (Reg.SYN_STEP_STEP x.p) → t ≠ 0xFFFFFFFF →
        ∃ u, u = turnCore (reachBarrier (s.setVc x.p x.v { s.vc x.p x.v with hold := .stepEnd }) x.p x.v) x.p x.c x.v
        ∧ exec (.stepEnd a pr step) s = .next (if barrierMet u x.p then newPhase u x.p (barrierOver u x.p) else u))
      ∧ (∀ step t, values x [(32, step)] = some [t] → s.get (Reg.SYN_CTRL_ENABLE x.p) ≠ 0 → (s.vc x.p x.v).quiet = true →
        s.get (Reg.HLT_MIRAGE_STATUS_HALTED x.p) = 0 → t ≠ s.get (Reg.SYN_STEP_STEP x.p) →
        exec (.stepEnd a pr step) s = .next (seqFault s x 0x0510 [t, s.get (Reg.SYN_STEP_STEP x.p)])))
  ∧ ∀ (s : State) (a : At) (pr : Pred) (x : Ctx), Issues s a false pr x →
      (∀ (f : CaravanF) param, (s.vc x.p x.v).quiet = true → x.car = none → values x [(32, f.param)] = some [param] → ∃ u,
        u = nextParticipant ((s.setVc x.p x.v { s.vc x.p x.v with hold := .caravan f.cdef }).put
          (Reg.CAR_STATUS_RENDEZVOUS x.c) 1) x.p x.c f.cdef
        ∧ exec (.caravan a pr f) s = .next (if (participants x.g f.cdef).head? = some x.v then
            u.setCar x.p f.cdef (some ⟨((u.launch x.p).map (·.handle)).getD 0, f.tiles, param, []⟩) else u))
      ∧ (∀ (f : CollF) (w : State) ts td so do_ n me, descFree s x [f.ddesc, f.sdesc] = true →
        ts = boundDesc s x.p x.v f.sdesc → td = boundDesc s x.p x.v f.ddesc →
        values x [(32, f.soff), (32, f.doff)] = some [so, do_] → w = issued s x → allWritten w [Reg.FAB_TIMERS_INST_MS, Reg.FAB_TIMERS_RETRY_MAX, Reg.FAB_TIMERS_RTO_US,
          Reg.FAB_TIMERS_DETACH_US] = true → w.get (Reg.FAB_AREA_CTRL_ENABLE x.p) ≠ 0 → groupBad w x.p f.group = false →
        (isVoteGroup w x.p f.group = true → w.get (Reg.HLT_MIRAGE_STATUS_EXPELLED x.p) = 0) →
        ((w.tr x.p).replay = none → flowDown w x.p f.group = none) → n = (membersOf w x.p f.group).length →
        me = ((membersOf w x.p f.group).findIdx? fun m => m.2 == groupFld w x.p f.group 8 4).getD 0 →
        rangeIn ts (f.op != 5 || me == 0) so (srcUnits f.op n f.length) = true →
        rangeIn td (f.op != 5 || me != 0) do_ (dstUnits f.op n f.length) = true →
        exec (.coll a pr f) s = .next (collStart w x f ts td so do_))
      ∧ (∀ (f : UpdateF) t vt wt step0 j, descFree s x [f.vdesc, f.wdesc] = true → values x [(32, f.step)] = some [t] →
        boundDesc s x.p x.v f.vdesc = some vt → x.g.desc f.wdesc = some wt → step0 = x.g.constAt f.sched 4 → t = step0 + j →
        j < x.g.constAt (f.sched + 4) 4 → s.get (Reg.HLT_MIRAGE_STATUS_EXPELLED x.p) = 0 →
        s.get (Reg.HLT_MIRAGE_STATUS_HALTED x.p) = 0 → s.get (Reg.OAS_CTRL_ENABLE x.p) ≠ 0 → faultedCode s x.p = 0 →
        (64 ≤ oasDepth s x.p → (s.tr x.p).replay = none →
          exec (.update a pr f) s = .next (s.setVc x.p x.v { s.vc x.p x.v with hold := .oasisQueue }))
        ∧ (oasDepth s x.p < 64 → ∃ r u w, r = ({
            part := x.p, vcore := x.v, core := x.c, seq := launchSeq s x.p,
            record := (masterOf s x.p wt.base).getD 0xFFFFFFFF, step := t, eta := x.g.constAt (f.sched + 16 + 8 * j) 4,
            lambda := x.g.constAt (f.sched + 20 + 8 * j) 4,
            delta := ((versionOf s x.p wt.base).map (versionDelta s x.p)).getD 0, vt := vt, wt := wt } : OasReq)
          ∧ u = launchTile (issued s x) x.p x.v x.c ((issued s x).vc x.p x.v).nextId 0 (requestBytes r)
          ∧ w = u.setVc x.p x.v { u.vc x.p x.v with nextId := (u.vc x.p x.v).nextId + 1 }
          ∧ exec (.update a pr f) s = .next (retire (if (w.tr x.p).replay.isSome then w
              else setOasQueue w x.p (oasQueue w x.p ++ [r])) x.c)))

/-! ## Tynte encodings, number formats and sums -/

/-- Words written out from R147 to R168 decode to the instructions they stand for; an opcode that R148 does not list, a LEN that
is not the table's and a reserved bit that is not 0 are refused. -/
def Obligations.TynteWords : Prop :=
  decodeTynte [0x7400] = some (.nop, ⟨true, 3, 2⟩, 1)
    ∧ decodeTynte [0x10102, 0x50003] = some (.loop ⟨1, 3, 5, 0, 0⟩, ⟨false, 0, 0⟩, 2)
    ∧ decodeTynte [0x11230112, 0x2000000010] = some (.prefetch ⟨0x123, true, 0x10, 0x20⟩, ⟨false, 0, 0⟩, 2)
    ∧ decodeTynte [0x03050081] = some (.wait 5 3, ⟨false, 0, 0⟩, 1)
    ∧ decodeTynte [0x05] = none ∧ decodeTynte [0x11230212, 0x2000000010, 0] = none ∧ decodeTynte [0x10000] = none

/-- Every well-formed Tynte instruction is read back from the words that encode it, whatever words follow (R147 to R168). -/
def Obligations.TynteRoundTrip : Prop :=
  ∀ (t : Tynte) (p : Pred) (rest : List Nat), t.wf = true → p.wf = true →
    decodeTynte (encodeTynte t p ++ rest) = some (t, p, (encodeTynte t p).length)

/-- R36: code 0 means the value 0 in every codebook, custom or preset, and the refitter never changes ENTRY[0]. -/
def Obligations.CodeZeroMeansZero : Prop :=
  (∀ b c, codebookOf b = some c → c.entries.getD 0 0 = 0)
    ∧ ∀ cb book c e floor t blocks, codebookOf cb = some book → fieldOf cb 17 1 = 0 →
      fieldOf (refit cb c e floor t blocks).1 0 1 = fieldOf cb 0 1

/-- R38: with v = w × 2^(−E) exact, the code chosen has the nearest entry; of codes that carry one entry the lowest stands; of two
distinct entries equally near the one with the even code is chosen, and the lower code where the parities are the same. A value
0 takes code 0. -/
def Obligations.QuantizerChoosesTheNearest : Prop :=
  ∀ (book : Codebook) (w m c : Nat), book.entries ≠ [] → 0 < m → c = chooseCode book w m →
    c < book.entries.length
    ∧ (∀ i < book.entries.length, nearer (exactOf w book.e).1 (exactOf w book.e).2 (book.entries.getD c 0 * m)
        (book.entries.getD i 0 * m) ≠ .gt)
    ∧ (∀ i < book.entries.length, book.entries.getD i 0 = book.entries.getD c 0 → c ≤ i)
    ∧ (∀ i < book.entries.length, nearer (exactOf w book.e).1 (exactOf w book.e).2 (book.entries.getD c 0 * m)
        (book.entries.getD i 0 * m) = .eq → book.entries.getD i 0 ≠ book.entries.getD c 0 →
        (∀ j < book.entries.length, book.entries.getD j 0 = book.entries.getD i 0 → j = i) →
        (∀ j < book.entries.length, book.entries.getD j 0 = book.entries.getD c 0 → j = c) →
        (c % 2 = 0 ∧ i % 2 = 1) ∨ (c % 2 = i % 2 ∧ c < i))
    ∧ ((exactOf w book.e).1 = 0 → book.entries.getD 0 0 = 0 → c = 0)

/-- R115: the result of a reproducible sum is a function of the multiset of values alone: the records of any parts, in any order
of combination, add up to the record of the unsplit values, whatever the order of the values. -/
def Obligations.ReproducibleSumsIgnoreTheSplit : Prop :=
  ∀ (parts ps : List (List Nat)) (xs : List Nat), parts.flatten.Perm xs → ps.Perm parts →
    emaxOf parts.flatten = emaxOf xs ∧ reproSum (ps.map (reproOf (emaxOf xs))) = some (reproOf (emaxOf xs) xs)
    ∧ (parts.map emaxOf).foldl (fun a b => match a, b with
        | some x, some y => some (max x y)
        | some x, none => some x
        | none, y => y) none = emaxOf xs

/-! ## Host queues and host commands -/

/-- QUE_SEL_WRITE stores the selection; QUE_CFG_WRITE enables a queue that is configured, with empty rings and PHASE 1, and
disables it; a queue that is not configured is refused with 0x0801.
While a queue is enabled, its sizes and its vector stay, and a write that would change them is recorded with 0x0817; ENABLE = 0
takes it out of service all the same, and ENABLE = 1 leaves its rings alone.
A queue that goes into service has empty rings, PHASE 1 and ENABLE 1; one that leaves it has ENABLE 0 and nothing else of it
changes but the flags CQ_FULL and IDLE. -/
def Obligations.QueueConfiguration : Prop :=
  (∀ (s : State) (w : HostWr),
      (∀ u x, judge s 0x100800 w = (u, some x) → exec (.queSelWrite w) s = .next (storeAll u x))
      ∧ (∀ u x, judge s 0x100818 w = (u, some x) → u.get (Reg.QUE_CFG_ENABLE (keyQueue x.key)) = 0 → x.val 0 = some 1 →
        (queueOk (storeBut u x [0]) (keyQueue x.key) = true →
          exec (.queCfgWrite w) s = .next (openQueue (storeBut u x [0]) (keyQueue x.key)))
        ∧ (queueOk (storeBut u x [0]) (keyQueue x.key) = false →
          exec (.queCfgWrite w) s = .next (wrRecord (storeBut u x [0]) (portLast w.port) 0x0801 x [])))
      ∧ (∀ u x, judge s 0x100818 w = (u, some x) → u.get (Reg.QUE_CFG_ENABLE (keyQueue x.key)) = 0 → x.val 0 = some 0 →
        exec (.queCfgWrite w) s = .next (queueFlags ((storeBut u x [0]).put (Reg.QUE_CFG_ENABLE (keyQueue x.key)) 0)
          (keyQueue x.key)))
      ∧ (∀ u x y, judge s 0x100818 w = (u, some x) → u.get (Reg.QUE_CFG_ENABLE (keyQueue x.key)) ≠ 0 →
        y = storeBut (if x.vals.any (fun v => (v.1.lo == 8 || v.1.lo == 16 || v.1.lo == 32)
            && changes (fun f => u.get (f.fld x.key)) v) then wrRecord u (portLast w.port) 0x0817 x [] else u) x [0, 8, 16, 32] →
        (x.val 0 = some 0 → exec (.queCfgWrite w) s =
          .next (queueFlags (y.put (Reg.QUE_CFG_ENABLE (keyQueue x.key)) 0) (keyQueue x.key)))
        ∧ (x.val 0 = some 1 → exec (.queCfgWrite w) s = .next y)
        ∧ (x.val 0 = none → exec (.queCfgWrite w) s = .next y))
      ∧ (∀ u x, judge s 0x100818 w = (u, some x) → u.get (Reg.QUE_CFG_ENABLE (keyQueue x.key)) = 0 → x.val 0 = none →
        exec (.queCfgWrite w) s = .next (storeBut u x [0]))
      ∧ (∀ u, judge s 0x100800 w = (u, none) → exec (.queSelWrite w) s = .next u)
      ∧ ∀ u, judge s 0x100818 w = (u, none) → exec (.queCfgWrite w) s = .next u)
  ∧ ∀ (s : State) (q : Nat), SMap.wf 0 s.regs = true → q < 65536 →
      Reads (openQueue s q) (Reg.QUE_STATE_SQ_HEAD q) 0 ∧ Reads (openQueue s q) (Reg.QUE_STATE_SQ_TAIL q) 0
      ∧ Reads (openQueue s q) (Reg.QUE_STATE_CQ_HEAD q) 0 ∧ Reads (openQueue s q) (Reg.QUE_STATE_CQ_TAIL q) 0
      ∧ Reads (openQueue s q) (Reg.QUE_STATUS_PHASE q) 1 ∧ Reads (openQueue s q) (Reg.QUE_CFG_ENABLE q) 1
      ∧ OtherFields s (openQueue s q) [Reg.QUE_STATE_SQ_HEAD q, Reg.QUE_STATE_SQ_TAIL q, Reg.QUE_STATE_CQ_HEAD q,
        Reg.QUE_STATE_CQ_TAIL q, Reg.QUE_STATUS_PHASE q, Reg.QUE_CFG_ENABLE q, Reg.QUE_STATUS_CQ_FULL q, Reg.QUE_STATUS_IDLE q]
      ∧ (openQueue s q).mem = s.mem ∧ (openQueue s q).out = s.out
      ∧ ∃ t, t = queueFlags (s.put (Reg.QUE_CFG_ENABLE q) 0) q ∧ Reads t (Reg.QUE_CFG_ENABLE q) 0
        ∧ OtherFields s t [Reg.QUE_CFG_ENABLE q, Reg.QUE_STATUS_CQ_FULL q, Reg.QUE_STATUS_IDLE q] ∧ t.mem = s.mem ∧ t.out = s.out

/-- DOORBELL_WRITE: the halves written go to SQ_TAIL and CQ_HEAD of the queue (R316); a bad doorbell changes no queue and
raises 0x0814. INTERRUPT_AGGREGATION_TIMEOUT sends the vector of the queue's records. -/
def Obligations.DoorbellsAndInterrupts : Prop :=
  ∀ (s : State),
    (∀ (q : QueueId) (w : HostWr), stage s ≠ 0 → doorbellOk s q w = true → SMap.wf 0 s.regs = true → ∃ t,
      exec (.doorbellWrite (8 * q) w) s = .next t ∧ t.mem = s.mem ∧ t.out = s.out
      ∧ Reads t (Reg.QUE_STATE_SQ_TAIL q) ((doorbellHalves w).1.getD (s.get (Reg.QUE_STATE_SQ_TAIL q)))
      ∧ Reads t (Reg.QUE_STATE_CQ_HEAD q) ((doorbellHalves w).2.getD (s.get (Reg.QUE_STATE_CQ_HEAD q)))
      ∧ OtherFields s t [Reg.QUE_STATE_SQ_TAIL q, Reg.QUE_STATE_CQ_HEAD q, Reg.QUE_STATUS_CQ_FULL q, Reg.QUE_STATUS_IDLE q])
    ∧ (∀ (q : QueueId) (w : HostWr), stage s ≠ 0 → doorbellOk s q w = false → exec (.doorbellWrite (8 * q) w) s = .next
        (raise s (portLast w.port ++ (if queueOf s w.port q then [Reg.QUE_STATUS_LAST_CODE q] else []))
          (accessRec 0x0814 (if s.on (Reg.QUE_BLOCK_ASSIGNED (q / 256)) then queuePart s q else 0xFF) 0xFF w 2
            (8 * q + (if w.size = .high then 4 else 0)))))
    ∧ (∀ q : QueueId, s.get (Reg.QUE_CFG_INT_EN q) ≠ 0 → s.get (Reg.QUE_CFG_AGG_TIME q) ≠ 0 → SMap.get 0 s.unsig q ≠ 0 →
      exec (.interruptAggregationTimeout q) s = .next (sendMsix { s with unsig := SMap.set 0 s.unsig q 0 }
        (Port.ofBit (s.get (Reg.QUE_BLOCK_PORT (q / 256)))) (s.get (Reg.QUE_CFG_VECTOR q))))
    ∧ ∀ (b : Port) v, sendMsix s b v = (if msixWord s b v 3 % 2 = 1
      then { s with msixPend := SMap.set false s.msixPend (2048 * b.num + v) true }
      else { s with out := .msix b v (msixWord s b v 0 + 2 ^ 32 * msixWord s b v 1) (msixWord s b v 2) :: s.out })

/-- COMMAND_ACCEPT: a command that passes the fetch check is accepted under the partition's next sequence number, SQ_HEAD
and INFLIGHT move on; one that does not ends FAILED with the check's code, an unanswered fetch with 0x0812. A queue is served in
its port's turn (R317): after four commands of one visit, or where nothing can be taken, the next queue in ascending order that
can be served follows. -/
def Obligations.CommandAcceptance : Prop :=
  (∀ (s : State) (q : QueueId), canAccept s q = true →
    blockQueue s (Port.ofBit (s.get (Reg.QUE_BLOCK_PORT (q / 256)))) ≠ some q.val →
    ∀ bytes, exec (.commandAccept q bytes) s = .next s)
  ∧ (∀ (s : State) (b : Port) (q n : Nat), SMap.get (65535, 4) s.visits b.num = (q, n) →
    (n < 4 → queueOf s b q = true → canAccept s q = true → blockQueue s b = some q)
    ∧ (∀ r, 4 ≤ n ∨ queueOf s b q = false ∨ canAccept s q = false →
      (enabledQueues s).find? (fun k => queueOf s b k && canAccept s k && q < k) = some r → blockQueue s b = some r))
  ∧ ∀ (s : State) (q : QueueId) (p seq : Nat) (b : Port) (v : State), canAccept s q = true → p = queuePart s q →
    seq = SMap.get 0 s.seqs p → b = Port.ofBit (s.get (Reg.QUE_BLOCK_PORT (q / 256))) → blockQueue s b = some q.val →
    v = (((blockVisit { s with seqs := SMap.set 0 s.seqs p ((seq + 1) % 2 ^ 32) } b q).put (Reg.QUE_STATE_SQ_HEAD q)
      ((s.get (Reg.QUE_STATE_SQ_HEAD q) + 1) % 2 ^ s.get (Reg.QUE_CFG_SQ_LOG q))).put (Reg.QUE_STATUS_INFLIGHT q)
      (s.get (Reg.QUE_STATUS_INFLIGHT q) + 1)).bumpWrap (Reg.QUE_PORT_STATUS_ACCEPTED b) 1 →
    (∀ raw, raw.length = 64 → ∃ t, t = recordOrder (queueFlags (v.setCmd p seq (cmdFrom q b raw)) q) p seq q b.num raw
      ∧ exec (.commandAccept q (some raw)) s =
        .next (if fetchCode raw = 0 then t else failCmd t (portLast b) p seq { code := fetchCode raw }
          (if fieldOf raw 0 1 = 0x13 then launchDetail 0 0xFF 0xFF else 0)))
    ∧ exec (.commandAccept q none) s = .next (failCmd ({ v with free := v.free + 1 }.setCmd p seq
        { cmdFrom q b (List.replicate 64 0) with cid := Config.freeValue v.free % 2 ^ 32 }) (portLast b) p seq
        { code := 0x0812 } 0)

/-- HOST_NOP, the three copies and UNLOAD, once they may start; ABORT at once, whatever its queue holds before it. -/
def Obligations.HostCommands : Prop :=
  ∀ (s : State) (p : Part) (seq : Nat) (raw : List Byte), raw = (s.cmd p seq).raw →
    (mayStart s p seq 0x00 = true → exec (.hostNop p seq) s = .next (completeCmd s p seq 0))
    ∧ (mayStart s p seq 0x01 = true → ochre s = false → exec (.copyToDevice p seq) s =
        .next (startCopy s p seq (fieldOf raw 8 8) (fieldOf raw 16 5) (fieldOf raw 24 8) 2 0 [fieldOf raw 16 5]))
    ∧ (mayStart s p seq 0x02 = true → exec (.copyToHost p seq) s =
        .next (startCopy s p seq (fieldOf raw 16 5) (fieldOf raw 8 8) (fieldOf raw 24 8) 0 2 [fieldOf raw 16 5]))
    ∧ (mayStart s p seq 0x03 = true → ochre s = false → exec (.copyDevice p seq) s = .next
        (startCopy s p seq (fieldOf raw 8 5) (fieldOf raw 16 5) (fieldOf raw 24 8) 0 0 [fieldOf raw 16 5, fieldOf raw 8 5]))
    ∧ (∀ h, h = fieldOf raw 8 1 → mayStart s p seq 0x12 = true → ochre s = false → handleInUse s p h = false → ∃ t u,
        t = { s with
          saved := SMap.drop (fun k => k / 2 ^ 13 == p.val && k / 2 ^ 7 % 64 == h) s.saved }
        ∧ u = ((List.range 128).filter fun c => inPart t p c && slotsOfHandle t h c).foldl
          (fun (s : State) c => { s with slotOwner := SMap.set 0 s.slotOwner c goneOwner }) t
        ∧ exec (.unload p seq) s = .next (completeCmd ((dropCode u p h).setProg p h Prog.empty) p seq 0))
    ∧ (∀ q t, (s.cmd p seq).phase = .accepted → (s.cmd p seq).op = 0x20 → q = fieldOf raw 8 2 → s.get (Reg.QUE_BLOCK_ASSIGNED (q / 256)) ≠ 0 →
      queuePart s q = p → abortTarget s p q (fieldOf raw 12 4) = some t → (s.cmd p t).op ≠ 0x20 →
      (s.cmd p t).phase ≠ .aborted → failedWith (s.cmd p t) = none → exec (.abort p seq) s = .next (abortCmd s p seq t))
    ∧ (∀ q, (s.cmd p seq).phase = .accepted → (s.cmd p seq).op = 0x20 → q = fieldOf raw 8 2 → s.get (Reg.QUE_BLOCK_ASSIGNED (q / 256)) ≠ 0 →
      queuePart s q = p → abortTarget s p q (fieldOf raw 12 4) = none →
      (committedLately s q (fieldOf raw 12 4) = false → exec (.abort p seq) s = .next (finishCmd s p seq completed 0 2 0))
      ∧ (committedLately s q (fieldOf raw 12 4) = true → ∃ r, (r = 1 ∨ r = 2)
        ∧ exec (.abort p seq) s = .next (finishCmd { s with free := s.free + 1 } p seq completed 0 r 0)))
    ∧ (ochre s = true → mayStart s p seq 0x01 = true → exec (.copyToDevice p seq) s = .next (refuseCmd s p seq 0x0A41 []))
    ∧ (ochre s = true → mayStart s p seq 0x03 = true → exec (.copyDevice p seq) s = .next (refuseCmd s p seq 0x0A41 []))
    ∧ (ochre s = true → mayStart s p seq 0x12 = true → exec (.unload p seq) s = .next (refuseCmd s p seq 0x0A41 []))

/-- LOAD_MODULE and LOAD_NATIVE commit once every check holds; LAUNCH waits for its turn and LAUNCH_START begins it. -/
def Obligations.LoadsAndLaunches : Prop :=
  ∀ (s : State) (p : Part) (seq : Nat) (raw im : List Byte) (h size : Nat), raw = (s.cmd p seq).raw → h = fieldOf raw 8 1 →
    size = fieldOf raw 24 4 → im.length = size →
    (∀ m g t n, mayStart s p seq 0x10 = true → loadRefusal s p h size (fieldOf im 28 4) = 0 →
      m = measure s p (sha384 im) h 1 seq →
      g = { Prog.empty with state := 2, image := im, area := size + 2 * fieldOf im 28 4 + 65536, recAddr := fieldOf raw 32 5,
                            digest := sha384 im } →
      loadCheck m p g size = (0, n) → settle m p h g = (0, t) → ¬ m.stalls < (completeCmd t p seq 0).stalls →
      exec (.loadModule p seq (some im)) s = .next (completeCmd t p seq 0))
    ∧ (∀ v m g t, mayStart s p seq 0x11 = true → loadRefusal s p h size (nativeSection im 0).2 = 0 →
      m = measure s p (sha384 im) h 2 seq →
      g = { Prog.empty with state := 2, isNative := true, image := im, area := size + 2 * (nativeSection im 0).2 + 65536,
                            digest := sha384 im } →
      nativeHeaderOk m im size (ergsOf (placement m p g)).length = true → nativeSigned im v = true → m.sec.nativeMin ≤ fieldOf im 28 4 →
      descsOk g (partBytes m p) = true → versionsOk m p (partBytes m p) g = true → scacheCode m p g = 0 →
      settle m p h g = (0, t) → exec (.loadNative p seq (some im) v) s = .next (completeCmd t p seq 0))
    ∧ (mayStart s p seq 0x13 = true → launchRefusal s p seq = 0 →
      exec (.launch p seq) s = .next (s.setCmd p seq { s.cmd p seq with phase := .queued }))
    ∧ (∀ t g u v w ev det, launchTurn s p = some seq → (s.cmd p seq).phase = .queued → s.launch p = none →
      s.get (Reg.HLT_SIROCCO_STATE p) = 0 → partState s p = 3 → launchRefusal s p seq = 0 →
      ((s.prog p h).isNative = true → scacheCode s p (s.prog p h) = 0) →
      (if (s.prog p h).marked then settle s p h (s.prog p h) else (0, s)) = (0, t) →
      u = (if (s.prog p h).marked then
        raise t [] { code := 0x0340, cls := 0, part := p, seq := seq, detail := [h, (t.prog p h).live] } else t) →
      g = u.prog p h → v = (if g.isNative then pinNative u p g else u) → (pinResident v p g).1 = 0 →
      readFinds v p (lineByte (residentLines g)) ev = (w, 0, det) → ¬ s.stalls < (beginLaunch (pinResident w p g).2.2 p seq g).stalls →
      exec (.launchStart ⟨p, ev⟩) s = .next (beginLaunch (pinResident w p g).2.2 p seq g))

/-- After R321: the completion record of a command is written at CQ_TAIL of its queue, CQ_TAIL moves on, PHASE turns at
the ring's end, INFLIGHT loses one, and the command is gone; device memory is unchanged. -/
def Obligations.CompletionRecord : Prop :=
  ∀ (s : State) (p seq outcome code result detail q : Nat), SMap.wf 0 s.regs = true → q = (s.cmd p seq).queue → q < 65536 →
    s.get (Reg.QUE_CFG_INT_EN q) = 0 → ∃ t, t = finishCmd s p seq outcome code result detail
    ∧ t.out = .hostWrite (s.cmd p seq).port (streamOf s p)
        (s.get (Reg.QUE_CQ_BASE_ADDR q) * 64 + s.get (Reg.QUE_STATE_CQ_TAIL q) * 32)
        (completionBytes (s.cmd p seq) seq code outcome result (s.get (Reg.QUE_STATUS_PHASE q))
          (s.get (Reg.QUE_STATE_SQ_HEAD q)) detail) :: s.out
    ∧ t.mem = s.mem ∧ t.cmds = SMap.set Cmd.empty s.cmds (cmdKey p seq) Cmd.empty
    ∧ Reads t (Reg.QUE_STATE_CQ_TAIL q)
        ((s.get (Reg.QUE_STATE_CQ_TAIL q) + 1) % 2 ^ s.get (Reg.QUE_CFG_CQ_LOG q) % 2 ^ 16)
    ∧ Reads t (Reg.QUE_STATUS_INFLIGHT q) ((s.get (Reg.QUE_STATUS_INFLIGHT q) - 1) % 2 ^ 17)
    ∧ Reads t (Reg.QUE_STATUS_PHASE q) (if s.get (Reg.QUE_STATE_CQ_TAIL q) + 1 = 2 ^ s.get (Reg.QUE_CFG_CQ_LOG q)
        then (1 - s.get (Reg.QUE_STATUS_PHASE q)) % 2 else s.get (Reg.QUE_STATUS_PHASE q))
    ∧ OtherFields s t [Reg.QUE_STATE_CQ_TAIL q, Reg.QUE_STATUS_INFLIGHT q, Reg.QUE_STATUS_PHASE q, Reg.QUE_STATUS_LAST_CODE q,
      Reg.QUE_STATUS_CQ_FULL q, Reg.QUE_STATUS_IDLE q]

/-! ## Training steps -/

/-- R237 to R239: a boundary that becomes ready is taken at once without synchronization, and waits with it; a rising edge
at the input takes a boundary that is past its earliest time, or is latched for the next; at the latest time the boundary is
taken without an edge, and an edge in the window that follows is dropped. An edge that is dropped, or comes while one is
latched, is counted by EXTRA_SYNC; without synchronization an edge does nothing to the partition. -/
def Obligations.StepBoundary : Prop :=
  ∀ (s : State) (p : Part) (b : Pending) (rest : List Pending),
    (∀ u, ((s.tr p).pending.any fun b => !b.ready) = true →
      u = s.setTr p { s.tr p with pending := readyFirst (s.tr p).pending } →
      exec (.boundaryReady p) s = .next (if s.get (Reg.SYN_CTRL_USE_SYNC p) = 0 then takeBoundary u p else holdingFlag u p))
    ∧ (∀ u, (s.tr p).pending = [] → stepReached s p = true → u = s.setTr p { s.tr p with pending := [⟨true, [], true, false⟩] } →
      exec (.boundaryReady p) s = .next (if s.get (Reg.SYN_CTRL_USE_SYNC p) = 0 then takeBoundary u p else holdingFlag u p))
    ∧ exec .stepSyncInEdge s = .next ((List.range 16).foldl syncEdge (s.put Reg.SYN_OUT_SEL_IN_LEVEL 1))
    ∧ (s.get (Reg.SYN_CTRL_USE_SYNC p) ≠ 0 → (s.tr p).lateDrop = false → s.get (Reg.SYN_STATUS_LATCHED p) = 0 →
      (s.tr p).pending = b :: rest → syncEdge s p = if b.ready ∧ b.early then takeBoundary s p
        else s.put (Reg.SYN_STATUS_LATCHED p) 1)
    ∧ (s.get (Reg.SYN_CTRL_USE_SYNC p) = 0 → syncEdge s p = s)
    ∧ (s.get (Reg.SYN_CTRL_USE_SYNC p) ≠ 0 → ((s.tr p).lateDrop = true ∨ s.get (Reg.SYN_STATUS_LATCHED p) ≠ 0) →
      syncEdge s p = s.bump (Reg.SYN_STATUS_EXTRA_SYNC p) 1)
    ∧ ((s.tr p).pending = b :: rest → b.ready = true → s.get (Reg.SYN_STATUS_LATCHED p) = 0 →
      exec (.boundaryEarliestReached p) s = .next (s.setTr p { s.tr p with pending := { b with early := true } :: rest }))
    ∧ ((s.tr p).pending = b :: rest → b.ready = true → s.get (Reg.SYN_STATUS_LATCHED p) ≠ 0 →
      exec (.boundaryEarliestReached p) s = .next (takeBoundary
        ((s.setTr p { s.tr p with pending := { b with early := true } :: rest }).put (Reg.SYN_STATUS_LATCHED p) 0) p))
    ∧ ((s.tr p).pending = b :: rest → b.ready = true → s.get (Reg.SYN_STATUS_LATCHED p) = 0 → ∃ u,
      u = takeBoundary (s.bump (Reg.SYN_STATUS_LATE_SYNC p) 1) p
      ∧ exec (.boundaryLatestReached p) s = .next (u.setTr p { u.tr p with lateDrop := true }))
    ∧ exec (.lateDropExpiry p) s = .next (s.setTr p { s.tr p with lateDrop := false })

/-- The host writes of the training registers (R228, R241, R246, R247): an ENABLE bit takes effect where its conditions
hold; CLOSE_ALL closes every micro-batch; a key write restarts the generator.
R244: a replay that may start restores the recorded step, key and counter, shows STATE 1 and starts the recorded
commands. -/
def Obligations.TrainingRegisterWrites : Prop :=
  (∀ (s : State) (p : Part) (w : HostWr) (u : State) (x : Wr),
      (judge s (0x80300 + 0x8000 * p) w = (u, some x) → x.val 0 = some 1 → windowOk (storeBut u x [0]) x.part = true →
        exec (.synCtrlWrite p w) s = .next ((storeBut u x [0]).put (Reg.SYN_CTRL_ENABLE x.part) 1))
      ∧ (judge s (0x80310 + 0x8000 * p) w = (u, some x) → u.launch x.part = none → (u.tr x.part).replay = none →
        exec (.synStepWrite p w) s = .next (storeAll u x))
      ∧ (judge s (0x80310 + 0x8000 * p) w = (u, some x) → u.launch x.part ≠ none →
        exec (.synStepWrite p w) s = .next (wrRecord u [] 0x0513 x []))
      ∧ (∀ v, judge s (0x80328 + 0x8000 * p) w = (u, some x) → x.val 17 = some 1 →
        v = (match x.val 16 with
          | some 1 => clearBindings ((storeBut u x [16, 17]).put (Reg.SYN_VERSION_CTRL_ENABLE x.part) 1) x.part
          | some _ => (storeBut u x [16, 17]).put (Reg.SYN_VERSION_CTRL_ENABLE x.part) 0
          | none => storeBut u x [16, 17]) →
        (launchBusy v x.part = false → exec (.closeAll p w) s = .next (closeAll v x.part))
        ∧ (launchBusy v x.part = true → exec (.closeAll p w) s = .next (wrRecord v [] 0x0515 x [])))
      ∧ (judge s (0x80328 + 0x8000 * p) w = (u, some x) → x.val 16 = some 1 → x.val 17 ≠ some 1 →
        exec (.synVersionEnable p w) s =
          .next (clearBindings ((storeBut u x [16, 17]).put (Reg.SYN_VERSION_CTRL_ENABLE x.part) 1) x.part))
      ∧ (judge s (0x80330 + 0x8000 * p) w = (u, some x) → x.val 0 ≠ none → exec (.synSeedKeyWrite p w) s =
          .next ((storeAll u x).setTr x.part { (storeAll u x).tr x.part with counter := 0 }))
      ∧ (judge s (0x80340 + 0x8000 * p) w = (u, some x) → x.val 0 = some 1 →
        allWritten (storeBut u x [0]) [Reg.SYN_RIPPLE_BASE_BASE x.part, Reg.SYN_RIPPLE_CTRL_SIZE x.part,
          Reg.SYN_SEED_KEY_KEY x.part] = true →
        exec (.synRippleEnable p w) s = .next ((storeBut u x [0]).put (Reg.SYN_RIPPLE_CTRL_ENABLE x.part) 1))
      ∧ (judge s (0x80348 + 0x8000 * p) w = (u, some x) → x.val 0 = some 1 → x.val 1 ≠ some 1 →
        exec (.replayStart p w) s = .next (replayStart (storeAll u x) x.part x))
      ∧ (∀ r, judge s (0x80348 + 0x8000 * p) w = (u, some x) → x.val 0 ≠ some 1 → x.val 1 = some 1 →
        ((storeAll u x).tr x.part).replay = some r → exec (.replayAbort p w) s = .next ((storeAll u x).setTr x.part
          { (storeAll u x).tr x.part with replay := some { r with abort := true } })))
  ∧ ∀ (s : State) (p : Nat) (x : Wr) (r : StepRec) (u v : State), (s.tr p).replay = none →
      s.isWritten (Reg.SYN_REPLAY_CTRL_STEP p) = true →
      u = ((((s.put (Reg.SYN_REPLAY_RESULT_SEQ p) 0).put (Reg.SYN_REPLAY_RESULT_VCORE p) 0xFF).put
        (Reg.SYN_REPLAY_CORES_TILE p) 0).put (Reg.SYN_REPLAY_CORES_REC_CORE p) 0xFF).put (Reg.SYN_REPLAY_CORES_NOW_CORE p) 0xFF →
      launchBusy u p = false → openMbs u p = [] →
      ((u.tr p).closed.find? fun r => r.step == s.get (Reg.SYN_REPLAY_CTRL_STEP p) && r.complete) = some r →
      (r.versions.all fun (_, _, i, _, tag) => [0, 1].any fun k => slotState u p i k != 0 && slotTag u p i k == tag) = true →
      pWrite u p (scaleAddr u p 0) r.scales = some v →
      ∃ w, w = v.setTr p { v.tr p with counter := (r.counter + 1) % 2 ^ 128 }
        ∧ replayStart s p x = startReplayed (((w.put (Reg.SYN_SEED_KEY_KEY p) r.key).put (Reg.SYN_STEP_STEP p)
            (s.get (Reg.SYN_REPLAY_CTRL_STEP p))).put (Reg.SYN_REPLAY_RESULT_STATE p) 1) p
            ⟨r, u.get (Reg.SYN_STEP_STEP p), 0, [], false⟩

/-- SCALE_RECORD_UPDATE and VERSION_WAIT_TIMEOUT. -/
def Obligations.ScalesAndVersions : Prop :=
  ∀ (s : State),
    (∀ (p : Part) (i t : Nat) ev v k z, s.get (Reg.ENG_SCALE_CTRL_ENABLE p) ≠ 0 → i < s.get (Reg.ENG_SCALE_CTRL_RECORDS p) →
      t < s.get (Reg.SYN_STEP_STEP p) → scaleField s p i 24 4 ≤ t → scaleUser s p i t = false →
      recordFinds s p i ev = (v, 0, k) → z = rippleScale (scaleUpdate v p i t) p i t → ¬ s.stalls < z.stalls →
      exec (.scaleRecordUpdate p i t ev) s = .next z)
    ∧ (∀ (p : Part) (i t : Nat) ev, scaleUser s p i t = true → exec (.scaleRecordUpdate p i t ev) s = .next s)
    ∧ (∀ (a : At) p d t, partOfCore s a.core = some p → (s.vc p a.vcore).bindWait = some (d, t) →
      (s.vc p a.vcore).core = a.core → s.get (Reg.SYN_VERSION_CTRL_TIMEOUT p) ≠ 0 → bindMissing s p a.vcore d = true →
      exec (.versionWaitTimeout (some a)) s = .next (stopLaunch s [Reg.SEQ_STATUS_LAST_CODE a.core] p
        { code := 0x0521, core := a.core, vcore := a.vcore, detail := [d, t] }))
    ∧ (∀ x, s.oasActive = some x → x.phase = 1 → s.get (Reg.SYN_VERSION_CTRL_TIMEOUT x.req.part) ≠ 0 → targetRefs s x ≠ 0 →
      exec (.versionWaitTimeout none) s = .next (endRequest (oasIdle (giveBack s x)) x.req 0x0521 x.record))

/-! ## The outer-product engine -/

/-- PASS_ISSUE: the pass that comes up (R195: outside a caravan the oldest item of the queue) issues where every condition of
R73, R79 to R81 and R200 holds; on each of its cores its slot is Filling.
PASS_COMPLETE: with every tag as it should be, the pass ends as endPass says and the instruction loses a part; a wrong tag stops the command with 0x0110, after the blocks before it. -/
def Obligations.EnginePasses : Prop :=
  (∀ (s t : State) (c : Core) (x : Pass) (rest : List EngItem) (book : Option Codebook) (z : Int) (u : Nat) (ev : MemEvent) det,
      nextPass s c = some (x, rest) → stageGo s x.part x.vcore c = true → (∀ d ∈ passCores c x, s.isWritten (Reg.ENG_ISSUE_TIMEOUT_LIMIT d) = true) →
      (x.gang = true → gangOk s c = true) → passContext s x.part x = (0, book, z, u) → passCode x book = 0 →
      freshAll s x.part [x.aScale, x.wScale] = true → (s.eng c).filling = none →
      (∀ d ∈ passCores c x, passSlot s d x u false = 0) → (∀ d ∈ passCores c x, d ≠ c.val → (s.eng d).queue = []) →
      (x.codebook.bind fun o => firstBad s x.part o 32) = none → ((passCores c x).any fun d => coreWaits s c d x) = false →
      passPresent s c x = true → skewOk s c x = true → recordReads s x.part (passReads s x) ev = some (t, 0, det) →
      exec (.passIssue ⟨c, ev⟩) s = .next (carEnter (startPass t c x rest z u) x.part x.vcore)
      ∧ ∀ d ∈ passCores c x, SMap.wf 0 t.regs = true → x.slot < 4 → slotSt (startPass t c x rest z u) d x.slot = 1)
  ∧ (∀ (s : State) (c : Core) (x : Pass) (rest : List EngItem), (s.eng c).queue = .pass x :: rest →
      (∀ y ∈ rest, stageNo s y.part y.vcore = stageNo s x.part x.vcore) → nextPass s c = some (x, rest))
  ∧ ∀ (s : State) (c : Core) (x : Pass), (s.eng c).filling = some x →
      ((∀ dk ∈ (passCores c x).zipIdx, tagFault s (lanesOf c x dk.2).colCore dk.1 x = none) → ∀ evs, (∀ e ∈ evs, e.2 = .ok) →
        exec (.passComplete c evs) s = .next (partDone (endPass s c x (s.eng c)) x.part x.vcore x.iid))
      ∧ ∀ d q want dt st, passFault s c x = some (d, q, want, dt, st) →
        exec (.passComplete c []) s = .next (engFault (if q = 0 then s else runTiles s c { x with blocks := q } (s.eng c)) d
          x.part x.vcore 0x0110 [x.slot, want, dt, st, x.kb0 + q])

/-- DRAIN_ISSUE, OUTPUT_UNIT_COMPLETE and DRAIN_COMPLETE: a Full slot is drained unit by unit, and then Free.
R96: an uncorrectable error in an accumulator or in staging that the check of a pass or a drain finds stops the command.
OPERAND_WAIT_TIMEOUT stops the command whose item waits (R75). -/
def Obligations.EngineDrains : Prop :=
  (∀ (s : State) (c : Core) (x : Drain),
      (∀ rest info o ev t det, nextDrain s c = some (x, rest) → stageGo s x.part x.vcore c = true → s.isWritten (Reg.ENG_ISSUE_TIMEOUT_LIMIT c) = true → x.format ≤ 3 →
        (x.format = 0 → x.outScale ≠ none ∧ freshAll s x.part [x.outScale] = true
          ∧ scalesCode s x.part ((x.outScale.map fun i => [i]).getD []) = 0
          ∧ (info.fp = true ∨ ratioOf (f32div info.unit o.1) ≠ none)) →
        slotSt s c x.slot = 2 → (s.eng c).draining = none → drainRoom s c x = true → quarterTurn s c x = true →
        info = SMap.get SlotInfo.empty s.slots (c * 4 + x.slot) → o = (x.outScale.map (scaleLatch s x.part)).getD (one32, one32, 0) →
        recordReads s x.part (if x.format = 0 then x.outScale.toList.map (scaleAddr s x.part) else []) ev = some (t, 0, det) →
        exec (.drainIssue ⟨c, ev⟩) s =
          .next (carEnter (startDrain t c x rest (s.eng c) (info.unit, o.1, o.2.1, o.2.2)) x.part x.vcore))
      ∧ (∀ rows cells bytes u v w y, (s.eng c).draining = some x → (s.eng c).units < drainUnits x.format →
        rows = (List.range (unitRows x.format)).map ((s.eng c).units * unitRows x.format + ·) →
        cells = rows.map (drainRow s c x (SMap.get SlotInfo.empty s.slots (c * 4 + x.slot)).fp (s.eng c).conv) →
        bytes = cells.flatten.flatMap (fun y => leBytes (drainSize x.format) y.1) →
        u = (match x.format, x.outScale with
          | 0, some i => observe s x.part i (s.eng c).par
              (cells.flatten.foldl (fun o y => o.fold y.2.1 y.2.2.1 y.2.2.2) Obs.empty)
          | _, _ => s) →
        (if unitsHeld u c x then some u else writeUnit u c x (s.eng c).units (drainSize x.format) rows cells bytes) = some v →
        w = launchTile v x.part x.vcore c x.iid x.quarter bytes → y = { w.eng c with units := (s.eng c).units + 1 } →
        ¬ s.stalls < (carPumpAll (w.setEng c y) x.part).stalls →
        exec (.outputUnitComplete c) s = .next (carPumpAll (w.setEng c y) x.part))
      ∧ ∀ tile evs, (s.eng c).draining = some x → drainUnits x.format ≤ (s.eng c).units → (∀ e ∈ evs, e = .ok) →
        tile = (List.range (drainUnits x.format)).flatMap (fun n => (unitData s c x (s.eng c) n).2.2) →
        (∀ r u v z, pairTile s x.part x.vcore c tile = (r, true) → releaseUnits r c x (s.eng c) = (u, none) →
          v = (if x.stats then writeStats u c x (s.eng c) else u) →
          z = (freeSlot (v.setEng c { v.eng c with draining := none, units := 0 }) c x.slot).put (Reg.ENG_STATUS_DRAIN_BUSY c) 0 →
          ¬ s.stalls < (carPumpAll (partDone z x.part x.vcore x.iid) x.part).stalls →
          exec (.drainComplete c evs) s = .next (carPumpAll (partDone z x.part x.vcore x.iid) x.part))
        ∧ ∀ r, pairTile s x.part x.vcore c tile = (r, false) → exec (.drainComplete c evs) s = .next r)
  ∧ ∀ (s : State) (c : Core),
      (∀ x k d b r, (s.eng c).filling = some x → (passCores c x)[k.val]? = some d →
        exec (.passComplete c [(k, .stgUncorrectable b r)]) s =
        .next (attributed (stopLaunch s [Reg.ENG_STATUS_LAST_CODE d] x.part
          { code := 0x0128, core := d, vcore := x.vcore, detail := [b, r] }) d 0x0128))
      ∧ (∀ x t r, (s.eng c).draining = some x → exec (.drainComplete c [.accUncorrectable t r]) s =
        .next (attributed (stopLaunch s [Reg.ENG_STATUS_LAST_CODE c] x.part
          { code := 0x0129, core := c, vcore := x.vcore, detail := [t, r] }) c 0x0129))
      ∧ (∀ x lead, waitingItem s c = some (.pass x, lead) → (lead = c.val → (s.eng c).filling = none) →
        (lead ≠ c.val → s.get (Reg.ENG_STATUS_FILL_BUSY c) = 0) → s.get (Reg.ENG_ISSUE_TIMEOUT_LIMIT c) ≠ 0 →
        exec (.operandWaitTimeout c) s = .next (engFault s c x.part x.vcore 0x0120 (waitList s lead (.pass x))))
      ∧ (∀ x lead, waitingItem s c = some (.drain x, lead) → (s.eng c).draining = none →
        s.get (Reg.ENG_ISSUE_TIMEOUT_LIMIT c) ≠ 0 →
        exec (.operandWaitTimeout c) s = .next (engFault s c x.part x.vcore 0x0120 (waitList s lead (.drain x))))

/-! ## The vector and gather/scatter units -/

/-- VECTOR_ISSUE and VECTOR_COMPLETE: the instruction of a unit that comes up (R195) issues once it may, and its results are
written when it completes; the gather/scatter unit goes on with the entries at hand. -/
def Obligations.VectorUnits : Prop :=
  ∀ (s : State) (c : Core) (j : VJob),
    (∀ gs rest t u ev det, nextJob s c gs = some (j, rest) → (if gs then (s.vu c).gsRun else (s.vu c).run) = none →
      s.isWritten (Reg.ENG_ISSUE_TIMEOUT_LIMIT c) = true → jobCode s j.part j.vcore j.inst = 0 → jobReady s c j = true →
      jobFresh s j.part j.inst = true → recordReads s j.part (jobReads s j.part j.vcore j.inst) ev = some (t, 0, det) →
      u = startJob t c gs j rest →
      exec (.vectorIssue ⟨c, ev⟩ gs) s = .next (if j.fetch then u else carEnter u j.part j.vcore))
    ∧ (∀ gs rest, jobQueue (s.vu c) gs = j :: rest → (∀ y ∈ rest, jobContext s y = jobContext s j) →
      nextJob s c gs = some (j, rest))
    ∧ (∀ gs rest, nextJob s c gs = some (j, rest) → (if gs then (s.vu c).gsRun else (s.vu c).run) = none →
      s.isWritten (Reg.ENG_ISSUE_TIMEOUT_LIMIT c) = true → jobFresh s j.part j.inst = true → jobCode s j.part j.vcore j.inst ≠ 0 →
      ∀ ev, exec (.vectorIssue ⟨c, ev⟩ gs) s = .next (vecFault s c j (jobCode s j.part j.vcore j.inst) []))
    ∧ (∀ o t v ev evs, (s.vu c).run = some j → (∀ e ∈ evs, e = .ok) → completionFinds s c j ev = (t, false) →
      (match jobTile t c j with
        | some bs => pairTile t j.part j.vcore c bs
        | none => (t, true)) = (v, true) →
      o = vecOut v c j (v.vu c).latch → o.code = 0 → ¬ s.stalls < (jobDone (endJob o c j (v.vu c).latch) c j).stalls →
      exec (.vectorComplete c false ⟨evs, ev⟩) s = .next (jobDone (endJob o c j (v.vu c).latch) c j))
    ∧ (∀ t ev evs, (s.vu c).gsRun = some j → (∀ e ∈ evs, e = .ok) → completionFinds s c j ev = (t, false) →
      ¬ s.stalls < (gsRunOn t c j).stalls → exec (.vectorComplete c true ⟨evs, ev⟩) s = .next (gsRunOn t c j))
    ∧ (waitingJob s c false = some j → (s.vu c).run = none → s.get (Reg.ENG_ISSUE_TIMEOUT_LIMIT c) ≠ 0 →
      exec (.vectorWaitTimeout c false) s = .next (vecFault s c j 0x0220 (jobAbsent s c j)))
    ∧ (∀ q rest t n (as bytes : List Nat) xs v w (wait : State → State) ev det, (s.vu c).feeds = q :: rest → boundDesc s q.part q.vcore q.desc = some t →
      n = min q.left (4096 - (s.vu c).fifo.length) → 0 < n →
      (List.range n).map (fun i => feedAddr t (q.next + i)) = as.map some →
      partRefusal s q.part (as.flatMap (offsetsFrom · 4)) = none →
      bytes = (as.flatMap (offsetsFrom · 4)).filterMap (xlate s q.part) → mayTake s (tokenKeys s false 0 bytes) = true →
      readFinds s q.part (among (as.flatMap (offsetsFrom · 4))) ev = (v, 0, det) → xs = as.map (fun a => pNat s q.part a 4) →
      w = access v false bytes →
      wait = (fun u => if (u.vu c).gsRun.isSome then u.put (Reg.VEC_STATUS_GS_WAIT c) (fifoDry u c).toNat else u) →
      (n < q.left → exec (.indexFifoFill ⟨c, ev⟩) s = .next (wait (w.setVu c { s.vu c with
        fifo := (s.vu c).fifo ++ xs,
        feeds := { q with next := q.next + n, left := q.left - n } :: rest })))
      ∧ (q.left = n → exec (.indexFifoFill ⟨c, ev⟩) s = .next (partDone (wait (w.setVu c { s.vu c with
        fifo := (s.vu c).fifo ++ xs, feeds := rest })) q.part q.vcore q.iid)))

/-! ## Caravans and instruction-memory banks -/

/-- CARAVAN_INSTANCE_START, FETCH_PART_START, HAND_OVER_GRANULE_LAND and CARAVAN_INSTANCE_END (R198 to R204). -/
def Obligations.CaravanInstances : Prop :=
  ∀ (s : State) (p : Part) (d : Nat) (i : CarInst), s.car p d = some i →
    (∀ l g st, s.launch p = some l → g = s.prog p l.handle → i.stages = [] →
      (∀ v ∈ participants g d, (s.vc p v).hold = .caravan d ∧ (s.vc p v).quiet = true) → st = freshStages s p g i d →
      (∀ c ∈ st.map (·.core), s.isWritten (Reg.ENG_ISSUE_TIMEOUT_LIMIT c) = true) →
      (∀ c ∈ st.map (·.core), s.get (Reg.CAR_STATUS_ACTIVE c) = 0) → ∃ j u v, j = ⟨l.handle, i.tiles, i.param, st⟩
      ∧ u = (participants g d).foldl (fun (s : State) v => s.setVc p v { s.vc p v with
          outer := (s.vc p v).loopc, loopc := none, fetchLoop := none }) s
      ∧ v = carPublish ((((st.map (·.core)).dedup).foldl (fun s c => openStages s j c) u).setCar p d (some j)) j
      ∧ exec (.caravanInstanceStart p d) s = .next (takeStep v (stepGroup v ((st.map (·.core)).dedup.headD 0))))
    ∧ (∀ k, k < i.stages.length → (i.stage k).fetching = false → (i.stage k).fetched < i.tiles →
      (i.stage k).fetched < max 4 ((i.stage k).entered + 4) → ∃ j u,
      j = i.mapStage k (fun x => { x with fetched := x.fetched + 1, fetching := true })
      ∧ u = s.setVc p (i.stage k).vcore { s.vc p (i.stage k).vcore with fetchLoop := none }
      ∧ exec (.fetchPartStart p d k) s = .next (carPublish (u.setCar p d (some j)) j))
    ∧ (∀ k x rest, (i.stage k).transit = x :: rest → meshOlder s x.order (i.stage (k - 1)).core (i.stage k).core = true →
      ∀ f, exec (.handOverGranuleLand p d k f) s = .next s)
    ∧ (∀ k tag data n order rest u j, (i.stage k).transit = ⟨tag, data, n, order⟩ :: rest →
      meshOlder s order (i.stage (k - 1)).core (i.stage k).core = false →
      u = (match n with
        | some n => clearPresent s (i.stage (k - 1)).core 2 n 1
        | none => s) → j = i.mapStage k (fun x => { x with transit := rest }) →
      (∀ want, want = expectedTag i.tiles (stInBytes (s.prog p i.handle) d k) (i.stage k).rxTile (i.stage k).rxBytes →
        (tag = want → want < 32768 → exec (.handOverGranuleLand p d k none) s = .next (carPump (landGranule u p d j k data) p d))
        ∧ (32768 ≤ tag → 32768 ≤ want → exec (.handOverGranuleLand p d k none) s =
          .next (u.setCar p d (some (j.mapStage k fun x => { x with ended := true }))))
        ∧ ∀ f, (if 32768 ≤ want then f < 32768 else f ≠ want) →
          exec (.handOverGranuleLand p d k (some f)) s = .next (stopCar (u.setCar p d (some j))
            [Reg.CAR_STATUS_LAST_CODE (i.stage k).core] p
            { code := 0x0420, core := (i.stage k).core, vcore := (i.stage k).vcore,
              detail := carDetail d j k (i.stage k).core (i.stage k).rxTile want f } (some d))))
    ∧ (carOver s p d i = true → exec (.caravanInstanceEnd p d) s = .next (tryCommit (closeCar s p d i) p))

/-- BANK_LOAD, BANK_LOAD_COMPLETE and BANK_SWITCH (R212 to R215): a load goes into the inactive bank and the banks switch at a
command boundary; a load aimed at the active bank changes no bank and is counted. A core executes a virtual core's instructions
from its active bank alone. -/
def Obligations.InstructionMemoryBanks : Prop :=
  (∀ (s : State) (a : At) fetch x l, tynteCtx s a fetch = some x → s.launch x.p = some l →
    (s.bank a.core).code.contains (savedKey x.p l.handle x.v) = true)
  ∧ ∀ (s : State) (c : Core) (b : BankCtx), s.bank c = b →
    (∀ bank v, bank % 2 = b.active → exec (.bankLoad c bank v) s =
      .next ((s.bump (Reg.CAR_IMEM_BUSY c) 1).emit (.response "BANK_LOAD" [0x0440])))
    ∧ (∀ bank (v : Vcore) p k, bank % 2 ≠ b.active → p = (partOfCore s c).getD 0 →
      k = savedKey p (((s.launch p).map (·.handle)).getD 0) v → exec (.bankLoad c bank v) s =
      .next ((s.setBank c { b with loading := some k, ready := none }).put (Reg.SEQ_STATUS_RELOAD c) 1))
    ∧ (∀ v, b.loading = some v → ∃ t, t = (s.setBank c { b with loading := none, ready := some v }).put (Reg.SEQ_STATUS_RELOAD c) 0
      ∧ exec (.bankLoadComplete c) s = .next (if b.waiting then switchBank t c else t))
    ∧ (∀ k, atBoundary s c = true → b.ready = some k → nextProgram s c k = true →
      exec (.bankSwitch c) s = .next (switchBank s c))
    ∧ (∀ k, atBoundary s c = true → b.ready = some k → nextProgram s c k = false → exec (.bankSwitch c) s = .next s)
    ∧ (atBoundary s c = true → b.ready = none → b.loading ≠ none →
      exec (.bankSwitch c) s = .next (s.setBank c { b with waiting := true }))
    ∧ (atBoundary s c = false → exec (.bankSwitch c) s = .next s)

/-! ## DMA -/

/-- DESCRIPTOR_LOAD, BURST_GRANT, BURST_LAND, TRANSFER_COMPLETE and PACE_RESUME (R298 to R307): the feeder visits its next
queue; a burst takes its tokens as it is granted, and lands after what was issued before it between the same endpoints (R20) and in
its partition's turn at the channel of the fast tier (R283). -/
def Obligations.Transfers : Prop :=
  ∀ (s : State) (c : Core) (n : DmaCh) (x : Xfer),
    (∀ (e : Erg) q bytes, clocked s = true → q < 32 → exec (.descriptorLoad e q (some bytes)) s =
      .next (visit (pushDescOn s (dqKey e q) (descOf s e bytes)) e (q / 16)))
    ∧ (∀ (e : Erg) q, clocked s = true → q < 32 → exec (.descriptorLoad e q none) s = .next (visit s e (q / 16)))
    ∧ (∀ credit ready u v, clocked s = true → ready = ((List.range 16).filter fun k => chReady s c k credit) → u = burstWaits s c credit →
      granted u c ready = some n.val → (u.chan c n).active = some x →
      v = takeKeys (slotGone u c n ready) (burstKeys u x x.granted (burstSize x)) →
      exec (.burstGrant c credit) s = .next (paceUp (v.setChan c n ⟨some { x with
        granted := x.granted + burstSize x,
          flight := x.flight ++ [flightOf u c x] }, (v.chan c n).shadow⟩) c n (burstSize x)))
    ∧ (∀ f rest host ev m i u v w y data det, clocked s = true → (s.chan c n).active = some x → olderFlight s x = false →
      notItsTurn s x = false → x.flight = f :: rest → x.code = 0 → x.stopped = false →
      m = (if x.desc.srcSp = 0 then (descSources x.desc x.landed f.size).length else f.size) →
      memFinds (served s x) (fun k => (burstAt (served s x) x x.landed m k).map (·.1)) (burstEvent m ev) = (u, 0, i) → burstData u c x x.landed f.size host = (0, [], data) →
      v = (if x.desc.srcSp = 0 ∨ x.desc.srcSp = 3 then touchAll u false 0 (burstReads u x x.landed f.size) else u) →
      burstStore v c x x.landed data = (0, det, w) →
      y = (w.setChan c n ⟨some { x with
          flight := rest, landed := x.landed + f.size, bytes := x.bytes + f.size }, (s.chan c n).shadow⟩).put
        (Reg.DMA_CH_BYTES_MOVED c n) (w.get (Reg.DMA_CH_BYTES_MOVED c n) + f.size) →
      exec (.burstLand c n host ev) s = .next (
        afterLand (if x.desc.vcore = 0xFF ∧ x.desc.firmware = false ∧ (w.cmd x.desc.part x.desc.seq).phase ≠ .absent then
            y.setCmd x.desc.part x.desc.seq { w.cmd x.desc.part x.desc.seq with
              moved := (w.cmd x.desc.part x.desc.seq).moved + f.size }
          else y) x.desc x.landed f.size false))
    ∧ (∀ host ev, (s.chan c n).active = some x → olderFlight s x = true ∨ notItsTurn s x = true →
      exec (.burstLand c n host ev) s = .next s)
    ∧ (∀ u, clocked s = true → (s.chan c n).active = some x → chState s c n ≠ 3 → x.flight = [] → x.landed = x.desc.len → x.stopped = false →
      u = promote ((dmaRecord s c n x).bumpWrap (Reg.DMA_CH_STATUS_COMPLETED c n) 1) c n →
      (x.desc.vcore = 0xFF → exec (.transferComplete c n) s = .next (copyEnded u x.desc))
      ∧ (x.desc.vcore ≠ 0xFF → x.desc.srcSp ≠ 1 → x.desc.rel = false → exec (.transferComplete c n) s =
        .next (tryCommit (partDone u x.desc.part x.desc.vcore x.desc.iid) x.desc.part))
      ∧ ∀ v w, x.desc.vcore ≠ 0xFF → x.desc.srcSp = 1 → x.desc.dstSp = 0 →
        v = launchTile u x.desc.part x.desc.vcore c x.desc.iid 0 (storeBytes u c x.desc) →
        w = (if x.desc.rel then clearPresent v c (stgBank x.desc.src) (bitsOf x.desc.src 0 11)
          ((x.desc.len + bankGran (stgBank x.desc.src) - 1) / bankGran (stgBank x.desc.src)) else v) →
        exec (.transferComplete c n) s = .next (tryCommit (partDone w x.desc.part x.desc.vcore x.desc.iid) x.desc.part))
    ∧ (∀ level k u, clocked s = true → k = s.get (Reg.DMA_CH_PACE_LEVEL_SRC c n) →
      u = { s with levels := SMap.set 0 s.levels k (min level (SMap.get 0 s.levels k)) } → chState s c n = 2 →
      s.get (Reg.DMA_CH_PACE_ENABLE c n) ≠ 0 → levelOf u c n < s.get (Reg.DMA_CH_PACE_LOW c n) * 16 →
      exec (.paceResume c n level) s = .next ((u.put (Reg.DMA_CH_STATUS_STATE c n)
        (if (s.chan c n).active.isSome then 1 else 0)).put (Reg.DMA_CH_PACE_RUN c n) 1))

/-- DMA_CH_DISABLE, DMA_CH_HALTED_CLEAR, DQ_STOP, DQ_STOPPED and DQ_RESUME (R308 to R312). -/
def Obligations.DmaStops : Prop :=
  ∀ (s : State) (w : HostWr) (u : State) (x : Wr),
    (∀ (c : Core) (n : DmaCh), judge s (chCtrlOff c n) w = (u, some x) → x.val 0 = some 1 →
      u.get (Reg.DMA_CH_CTRL_DISABLE c n) = 0 → exec (.dmaChDisable c n w) s = .next (disableChannel u c n))
    ∧ (∀ (c : Core) (n : DmaCh) y, judge s (chCtrlOff c n) w = (u, some x) → x.val 0 ≠ some 1 → x.val 1 = some 1 →
      u.get (Reg.DMA_CH_CTRL_HALTED c n) ≠ 0 → u.get (Reg.DMA_CH_CTRL_DISABLE c n) = 0 → (u.chan c n).active = some y →
      exec (.dmaChHaltedClear c n w) s = .next (promote ((freeRecord u c y.desc).put (Reg.DMA_CH_CTRL_HALTED c n) 0) c n))
    ∧ (∀ (e : Erg) n, n < 32 → judge s (dqOff e n) w = (u, some x) → u.get (Reg.DMA_DQ_BOUND e n) ≠ 0 →
      owned u (u.get (Reg.DMA_DQ_PARTITION e n)) = true → portOf u (u.get (Reg.DMA_DQ_PARTITION e n)) = w.port →
      (x.val 0 = some 1 → x.val 1 ≠ some 1 → u.get (Reg.DMA_DQ_STOPPED e n) = 0 → exec (.dqStop e n w) s =
        .next ((u.put (Reg.DMA_DQ_STOPPING e n) 1).put (Reg.DMA_DQ_STOP e n) 1))
      ∧ (x.val 0 ≠ some 1 → x.val 1 = some 1 → exec (.dqResume e n w) s =
        .next (((u.put (Reg.DMA_DQ_STOPPED e n) 0).put (Reg.DMA_DQ_STOPPING e n) 0).put (Reg.DMA_DQ_STOP e n) 0)))
    ∧ (∀ (e : Erg) n, clocked s = true → n < 32 → s.get (Reg.DMA_DQ_STOPPING e n) ≠ 0 → dqLoaded s e n = false → exec (.dqStopped e n) s =
      .next (((s.put (Reg.DMA_DQ_STOPPING e n) 0).put (Reg.DMA_DQ_STOP e n) 0).put (Reg.DMA_DQ_STOPPED e n) 1))
    ∧ (∀ (e : Erg) n, n < 32 → dqLoaded s e n = true → exec (.dqStopped e n) s = .next s)

/-! ## The oasis update -/

/-- UPDATE_REQUEST_START, WORKING_COPY_WRITE_START and UPDATE_COMMIT (R233, R257, R261, R262): the next request is taken,
its pass runs once nothing refers to the target slot, and the pass commits; while a Mirage check runs, neither (R366). -/
def Obligations.UpdatePass : Prop :=
  ∀ (s : State),
    (∀ p r rest u i k, s.oasActive = none → oasNext s = some p → oasQueue s p = r :: rest → s.get Reg.OAS_STATUS_READY ≠ 0 →
      masterFld s p r.record 6 1 = 0 → u = readRecords (setOasQueue { s with oasTurn := p } p rest) p r.record r.wt.base → memberCode u p = 0 →
      masterValid u p r.record = true → codebookOf (nextCb u p r.record) ≠ none → masterFld u p r.record 6 1 ≠ 2 → r.step = masterFld u p r.record 8 4 →
      versionOf u p r.wt.base = some i → targetSlot u p i r.step = some k →
      exec .updateRequestStart s = .next (takeRequest u p r i k))
    ∧ (∀ x i ev retries crcs u v z votes det, s.oasActive = some x → versionOf s x.req.part x.req.wt.base = some i →
      x.phase = 1 → versionField s x.req.part i (16 + 2 * (x.slot % 2)) 2 = 0 →
      s.get (Reg.HLT_MIRAGE_STATUS_RUNNING x.req.part) = 0 →
      u = linkCount (beginPass s x i) retries crcs → votes = allVotes u { x with phase := 2 } →
      partRefusal u x.req.part votes = none →
      readFinds u x.req.part (voteByte votes) ev = (v, 0, det) →
      z = runPass (votes.foldl (fun s o => pTouch s x.req.part o 2) v) { x with phase := 2 } → ¬ s.stalls < z.stalls →
      exec (.workingCopyWriteStart false ⟨ev, retries, crcs⟩) s = .next z)
    ∧ (∀ x i, s.oasActive = some x → versionOf s x.req.part x.req.wt.base = some i →
      versionField s x.req.part i (16 + 2 * (x.slot % 2)) 2 ≠ 0 ∨ s.get (Reg.HLT_MIRAGE_STATUS_RUNNING x.req.part) ≠ 0 →
      ∀ bad y, exec (.workingCopyWriteStart bad y) s = .next s)
    ∧ (∀ x, s.oasActive = some x → x.phase = 2 → s.get (Reg.HLT_MIRAGE_STATUS_RUNNING x.req.part) ≠ 0 →
      exec .updateCommit s = .next s)
    ∧ (∀ x, s.oasActive = some x → x.phase = 2 → s.get (Reg.HLT_MIRAGE_STATUS_RUNNING x.req.part) = 0 → x.unused = 0 →
      ¬ s.stalls < (commitPass s x).stalls → exec .updateCommit s = .next (commitPass s x))
    ∧ (∀ x, s.oasActive = some x → x.phase = 2 → s.get (Reg.HLT_MIRAGE_STATUS_RUNNING x.req.part) = 0 → x.unused ≠ 0 →
      ¬ s.stalls < (commitPass s x).stalls → exec .updateCommit s =
      .next (raise (commitPass s x) [Reg.OAS_STATUS_LAST_CODE]
        { code := 0x0620, cls := 0, part := x.req.part, seq := x.req.seq, detail := [x.unused] }))

/-- OAS_CTRL_ENABLE, OAS_QUEUE_CANCEL, OAS_DIGEST_KEY_WRITE and the four operations of OAS_XFER (R250, R255, R263, R266).
OAS_TRANSFER_COMPLETE: READ writes the current masters at FOFF, DIGEST records their XD128 digest, INIT takes the masters
at FOFF. OASIS_LINK_MODULE_RETIRED and OASIS_DIE_INTERNAL_FAULT (R269, R371). -/
def Obligations.OasisTransfers : Prop :=
  (∀ (s : State) (p : Part) (w : HostWr) (u : State) (x : Wr),
      (judge s (oasOff p 0x10) w = (u, some x) → x.val 16 = some 1 →
        allWritten (storeBut u x [16]) [Reg.OAS_SLOW_REGION_BASE x.part, Reg.OAS_SLOW_REGION_SIZE x.part,
          Reg.OAS_MASTER_TABLE_BASE x.part, Reg.OAS_CTRL_MFLOOR x.part, Reg.OAS_CTRL_RECORDS x.part] = true →
        (oasConfigOk (storeBut u x [16]) x.part = true → exec (.oasCtrlEnable p w) s =
          .next ((storeBut u x [16]).put (Reg.OAS_CTRL_ENABLE x.part) 1))
        ∧ (oasConfigOk (storeBut u x [16]) x.part = false → exec (.oasCtrlEnable p w) s =
          .next (wrRecord ((storeBut u x [16]).put (Reg.OAS_CTRL_ENABLE x.part) 0) [Reg.OAS_STATUS_LAST_CODE] 0x0602 x [])))
      ∧ (judge s (oasOff p 0x18) w = (u, some x) → x.val 16 = some 1 →
        exec (.oasQueueCancel p w) s = .next (cancelRequests u x.part 0x0614))
      ∧ (∀ n : Fin 2, judge s (oasOff p (0x30 + 8 * n)) w = (u, some x) → x.vals ≠ [] →
        u.get (Reg.HLT_MIRAGE_CTRL_ENABLE x.part) = 0 → exec (.oasDigestKeyWrite p n w) s = .next (
          if allWritten (storeAll u x) [Reg.OAS_DIGEST_KEY_KEY x.part 0, Reg.OAS_DIGEST_KEY_KEY x.part 1]
          then (storeAll u x).put (Reg.OAS_DIGEST_CTRL_KEY_VALID x.part) 1 else storeAll u x))
      ∧ (∀ v i op, judge s (oasOff p 0x20) w = (u, some x) → x.val 0 = some 1 → v = storeAll u x →
        i = v.get (Reg.OAS_XFER_RECORD x.part) → op = v.get (Reg.OAS_XFER_OP x.part) →
        allWritten v [Reg.OAS_XFER_FOFF x.part, Reg.OAS_XFER_RECORD x.part, Reg.OAS_XFER_OP x.part] = true →
        v.get (Reg.OAS_CTRL_ENABLE x.part) ≠ 0 → (op = 3 → v.isWritten (Reg.OAS_XFER_SLOT x.part) = true) →
        restricted u = false → restricted v = false → xferOf v x.part = none → v.get (Reg.HLT_MIRAGE_STATUS_RUNNING x.part) = 0 →
        v.get Reg.OAS_STATUS_READY ≠ 0 → masterValid v x.part i = true → masterFld v x.part i 6 1 ≠ 1 →
        (∀ r ∈ oasQueue v x.part, r.record ≠ i) → (∀ a, v.oasActive = some a → ¬ (a.req.part = x.part ∧ a.record = i)) →
        (op = 0 ∨ op = 3 → codebookOf (nextCb v x.part i) ≠ none) →
        (op = 3 → versionOf v x.part (masterFld v x.part i 0 5) ≠ none) →
        (op = 2 → v.get (Reg.OAS_DIGEST_CTRL_KEY_VALID x.part) ≠ 0) →
        allWritten v [Reg.OAS_MASTER_TABLE_BASE x.part, Reg.OAS_CTRL_RECORDS x.part] = true → ∃ t,
        t = xferBegin (readRecords v x.part i (masterFld v x.part i 0 5)) x.part
        ∧ exec (.oasInit p w) s = .next t ∧ exec (.oasRead p w) s = .next t
        ∧ exec (.oasDigest p w) s = .next t ∧ exec (.initQuant p w) s = .next t))
  ∧ ∀ (s : State),
      (∀ (p : Part) (t : OasXfer) bad ev retries crcs u v z was n det, xferOf s p = some t →
        was = (if masterFld s p t.record 6 1 = 2 then 2 else 0) → n = masterBytes s p t.record → u = linkCount s retries crcs →
        (t.op = 2 → z = xferEnd (setMaster (setMaster u p t.record 96 16
            (xd128 t.key (rdDev u (mbufAddr u p t.record (masterFld u p t.record 7 1 % 2)) n)))
            p t.record 112 4 (masterFld u p t.record 8 4)) p t 0 was → ¬ s.stalls < z.stalls →
          exec (.oasTransferComplete p [] ⟨ev, retries, crcs⟩) s = .next z)
        ∧ (t.op ≠ 2 → partRefusal u p ((List.range n).map (t.foff + ·)) = none →
          (t.op = 1 → z = xferRead u p t was bad → ¬ s.stalls < z.stalls →
            exec (.oasTransferComplete p bad ⟨ev, retries, crcs⟩) s = .next z)
          ∧ (t.op ≠ 1 → readFinds u p (span t.foff n) ev = (v, 0, det) →
            z = xferInit (pTouch v p t.foff n) p t was ((pRead v p t.foff n).getD []) → ¬ s.stalls < z.stalls →
            exec (.oasTransferComplete p bad ⟨ev, retries, crcs⟩) s = .next z)))
      ∧ (∀ (m : Fin 4) retries crcs, clocked s = true → bitsOf (s.get (Reg.OAS_LINK_STATUS_MOD m)) 1 1 ≠ 1 → ∃ w u,
          w = linkCount s retries crcs
        ∧ u = raise ((w.put (Reg.OAS_LINK_STATUS_MOD m) 2).put
          Reg.OAS_LINK_STATUS_UP_COUNT (s.get Reg.OAS_LINK_STATUS_UP_COUNT - bitsOf (s.get (Reg.OAS_LINK_STATUS_MOD m)) 0 1))
          [Reg.OAS_STATUS_LAST_CODE] { code := 0x0640, cls := 3, unit := m.val, detail := [m.val] }
        ∧ exec (.oasisLinkModuleRetired ⟨m, retries, crcs⟩) s = .next (
          if (List.range 4).all fun k => bitsOf (u.get (Reg.OAS_LINK_STATUS_MOD k)) 1 1 == 1
          then oasLost (raise u [Reg.OAS_STATUS_LAST_CODE] { code := 0x0641, cls := 3 }) 0x0641 else u))
      ∧ (∀ (m : Fin 4) retries crcs, bitsOf (s.get (Reg.OAS_LINK_STATUS_MOD m)) 1 1 = 1 →
        exec (.oasisLinkModuleRetired ⟨m, retries, crcs⟩) s = .next s)
      ∧ (clocked s = true → exec .oasisDieInternalFault s = .next (oasLost s 0x0A40))

/-! ## The fast tier -/

/-- MEM_INTERLEAVE_WRITE, MEM_MAPOUT_START, CHANNEL_MAPPED_OUT and MEM_ZEROIZE_ALL (R275 to R277, R293). -/
def Obligations.InterleaveAndMapOut : Prop :=
  ∀ (s : State) (w : HostWr) (u : State) (x : Wr),
    (∀ n v, judge s 0x2000 w = (u, some x) → x.vals ≠ [] →
      u.get Reg.MEM_CAPACITY_FREE_FRAMES = u.get Reg.MEM_CAPACITY_BACKED_FRAMES → n = 384 * u.get Reg.MEM_CAPACITY_LIVE_CHANNELS →
      v = (storeAll u x).put Reg.MEM_INTERLEAVE_VALID 1 → exec (.memInterleaveWrite w) s =
        .next ((((({ v with frames := [], frameBase := .zeroizing noPart, pageMap := [], cache := [] }.put
          Reg.MEM_CAPACITY_BACKED_FRAMES n).put Reg.MEM_CAPACITY_FREE_FRAMES 0).put Reg.MEM_ZEROIZE_PENDING n).put
          Reg.MEM_ZEROIZE_QUARANTINED 0)))
    ∧ (judge s 0x2000 w = (u, some x) → x.vals ≠ [] →
      u.get Reg.MEM_CAPACITY_FREE_FRAMES ≠ u.get Reg.MEM_CAPACITY_BACKED_FRAMES →
      exec (.memInterleaveWrite w) s = .next (wrRecord u [] 0x0714 x []))
    ∧ (∀ c v, judge s 0x2010 w = (u, some x) → x.val 16 = some 1 → v = storeAll u x → v.mapout = none →
      v.isWritten Reg.MEM_MAPOUT_CHANNEL = true → v.get Reg.MEM_INTERLEAVE_VALID ≠ 0 → c = v.get Reg.MEM_MAPOUT_CHANNEL →
      (v.get (Reg.MEM_MAPPED_OUT_OUT c) ≠ 0 → exec (.memMapoutStart w) s = .next (v.put Reg.MEM_MAPOUT_STATE 2))
      ∧ (v.get (Reg.MEM_MAPPED_OUT_OUT c) = 0 → exec (.memMapoutStart w) s = .next (mapNext
        ({ v with mapout := some (c, v.on Reg.MEM_MAPOUT_FORCE, false) }.put Reg.MEM_MAPOUT_STATE 1) true
        fun s => wrRecord s [] 0x0715 x [])))
    ∧ (∀ c force, s.mapout = some (c, force, true) → setAny s c (fun x => match x with
        | .zeroizing _ => true
        | _ => false) = false → exec .channelMappedOut s = .next (mapOut s c))
    ∧ (∀ n keep v, judge s 0x2018 w = (u, some x) → x.val 32 = some 1 → u.get Reg.MEM_INTERLEAVE_VALID ≠ 0 →
      keep = (u.frames.filter fun e => match e.2 with
        | .owned _ => true
        | .zeroizing p => p != noPart
        | _ => false) → n = u.get Reg.MEM_CAPACITY_FREE_FRAMES + u.get Reg.MEM_ZEROIZE_QUARANTINED →
      v = { u with frames := keep, frameBase := .zeroizing noPart,
                   cache := SMap.drop (fun ln => !(match frameState u (ln * 64 / frameBytes) with
                     | some (.owned _) => true
                     | _ => false)) u.cache } →
      ∃ y, y = v.put Reg.MEM_ZEROIZE_PENDING (u.get Reg.MEM_ZEROIZE_PENDING + n)
      ∧ exec (.memZeroizeAll w) s = .next (((y.put Reg.MEM_CAPACITY_FREE_FRAMES 0).put Reg.MEM_ZEROIZE_QUARANTINED 0).put
        Reg.MEM_ZEROIZE_ALL (zeroizeLeft y).toNat))

/-- R294: a zeroized frame reads as zeros everywhere and is free, and no byte outside it changes; a frame that failed
verification is quarantined. -/
def Obligations.FrameZeroization : Prop :=
  ∀ (s : State) (f : Nat) (bad : Option Nat), frameState s f = some (.zeroizing noPart) → s.mapout = none →
    clocked s = true → s.pwr.removing = false → SMap.wf s.frameBase s.frames = true → ∃ t, exec (.frameZeroizeComplete f bad) s = .next t
    ∧ (∀ a, a / frameBytes = f → SMap.get 0 t.mem a = 0) ∧ (∀ a, a / frameBytes ≠ f → SMap.get 0 t.mem a = SMap.get 0 s.mem a)
    ∧ SMap.get t.frameBase t.frames f = (if bad = none then .free else .quarantined)

/-- MEM_REG_ENABLE_WRITE, TOKEN_REFILL and MEM_PART_STATUS_FAULTED_CLEAR (R282, R290).
LINE_EVICTION: where a set is full, a line that is not dirty leaves the cache; a dirty one too, for a token of its owner;
memory keeps its bytes. A write-back that is lost raises 0x0721. -/
def Obligations.BucketsAndCache : Prop :=
  (∀ (s : State) (p : Part) (e : Erg) (w : HostWr) (u : State) (x : Wr),
      (judge s (memRegOff p e) w = (u, some x) → x.val 48 = some 1 →
        allWritten (storeBut u x [48]) [Reg.MEM_REG_RATE p e, Reg.MEM_REG_BURST p e] = true →
        (storeBut u x [48]).get (Reg.MEM_REG_ENABLE p e) = 0 → ∃ v, v = capBucket (storeBut u x [48]) p e
        ∧ exec (.memRegEnableWrite p e w) s =
          .next ((setBucket v p e (bucketDepth v p e)).put (Reg.MEM_REG_ENABLE p e) 1))
      ∧ (judge s (memRegOff p e) w = (u, some x) → x.val 48 = none →
        exec (.memRegEnableWrite p e w) s = .next (capBucket (storeBut u x [48]) p e))
      ∧ (∃ t, exec .tokenRefill s = .next t ∧ t.mem = s.mem ∧ t.regs = s.regs ∧
        ∀ (q : Part) (h : Erg), SMap.wf 0 s.tokens = true → bucket t q h = if s.get (Reg.MEM_REG_ENABLE q h) = 0 then bucket s q h
          else min (bucketDepth s q h) (bucket s q h + s.get (Reg.MEM_REG_RATE q h)))
      ∧ (judge s (0x80148 + 0x8000 * p) w = (u, some x) → exec (.memPartStatusFaultedClear p w) s = .next (
          if (storeAll u x).get (Reg.MEM_PART_STATUS_FAULTED p) = 0
          then { storeAll u x with faultCode := SMap.set 0 (storeAll u x).faultCode p 0 } else storeAll u x)))
  ∧ ∀ (s : State) (e : Erg) (set ln : Nat), clocked s = true → lruOf s e set = some ln →
      (∀ retries lost, waysUsed s ln < 24 → exec (.lineEviction e set ⟨retries, lost⟩) s = .next s)
      ∧ (∀ retries lost, 24 ≤ waysUsed s ln → (SMap.get CLine.empty s.cache ln).dirty = false →
        exec (.lineEviction e set ⟨retries, lost⟩) s = .next { s with cache := SMap.set CLine.empty s.cache ln CLine.empty })
      ∧ (∀ retries lost ks, 24 ≤ waysUsed s ln → (SMap.get CLine.empty s.cache ln).dirty = true → ks = bucketKey s (64 * ln) →
        (mayTake s ks = false → exec (.lineEviction e set ⟨retries, lost⟩) s = .next (waitKeys s ks))
        ∧ (mayTake s ks = true → ∃ t,
          t = (takeKeys s ks).bump (Reg.MEM_CHAN_ERR_CRC_RETRIES e ((chanOf s (64 * ln)).1 % 32)) (min retries 8)
          ∧ exec (.lineEviction e set ⟨retries, false⟩) s = .next { t with cache := SMap.set CLine.empty t.cache ln CLine.empty })
        ∧ (∀ p, mayTake s ks = true → ownerOf s (64 * ln) = some p → ∃ t,
          t = loseLine ((takeKeys s ks).bump (Reg.MEM_CHAN_ERR_CRC_RETRIES e ((chanOf s (64 * ln)).1 % 32)) 8) ln
          ∧ exec (.lineEviction e set ⟨retries, true⟩) s = .next (becomeFaulted (raise t (memLast p (64 * ln))
              { code := 0x0721, cls := 2, detail := [64 * ln], part := p }) p 0x0721)))

/-- FAST_TIER_ACCESS and ATOMIC: a read answers the bytes that the addresses hold, a write stores its bytes at exactly the
addresses it goes to, an atomic stores its results and answers the old values; an address in neither tier faults
(the model's fault, log entry 57), and an access to a place that is refused ends as accessStops says. -/
def Obligations.FastTierAccesses : Prop :=
  ∀ (s : State) (r : Requester) (addr : Nat) (a : Nat) (as : List Nat),
    (∀ n v ev ks i, clocked s = true → placeOf s r addr n = .at (a :: as) → ks = tokenKeys s false 0 (a :: as) →
      mayTake s ks = true → memFinds (takeKeys s ks) (among (a :: as)) ev = (v, 0, i) →
      ∃ t, exec (.fastTierAccess r addr n none ev) s = .next t ∧ t.mem = v.mem
        ∧ t.out = .readData ((a :: as).map fun b => SMap.get 0 v.mem b) :: v.out)
    ∧ (∀ n v (bs : List Byte) ev ks i, clocked s = true → placeOf s r addr n = .at (a :: as) →
      ks = tokenKeys s true 0 (a :: as) → mayTake s ks = true →
      memFinds (takeKeys s ks) (among (a :: as)) (writeEvent ev) = (v, 0, i) →
      ∃ t, exec (.fastTierAccess r addr n (some bs) ev) s = .next t
        ∧ t.mem = SMap.setAll 0 v.mem ((a :: as).zip bs) ∧ t.regs = v.regs
        ∧ ∀ b, b ∉ a :: as → SMap.get 0 t.mem b = SMap.get 0 v.mem b)
    ∧ (∀ wide op xs ev v ks i, clocked s = true → addr % atomicSize wide op = 0 → addr % 64 + atomicSize wide op * xs.length ≤ 64 →
      placeOf s r addr (atomicSize wide op * xs.length) = .at (a :: as) → ks = tokenKeys s false 0 (a :: as) →
      mayTake s ks = true → memFinds (takeKeys s ks) (among (a :: as)) ev = (v, 0, i) →
      ∃ t olds new, olds = (List.range xs.length).map (fun i => leNat ((((a :: as).drop (atomicSize wide op * i)).take
          (atomicSize wide op)).map fun b => SMap.get 0 v.mem b))
        ∧ new = (olds.zip xs).map (fun (o, x) => atomicResult wide op o x)
        ∧ exec (.atomic r addr wide op xs ev) s = .next t
        ∧ t.mem = SMap.setAll 0 v.mem ((a :: as).zip (new.flatMap fun y => leBytes (atomicSize wide op) y.1))
        ∧ t.out = .readData (olds.flatMap (leBytes (atomicSize wide op))) :: v.out
        ∧ OtherFields v t [Reg.CCH_ATOMIC_SAT_COUNT (sliceOfAddr a)])
    ∧ (∀ n data ev, clocked s = true → placeOf s r addr n = .nowhere →
      exec (.fastTierAccess r addr n data ev) s = .fault .noSuchDeviceAddress)
    ∧ (∀ n data ev code det, clocked s = true → placeOf s r addr n = .refused code det →
      exec (.fastTierAccess r addr n data ev) s = .next (accessStops s r none code det))
    ∧ (∀ n ev ks, clocked s = true → placeOf s r addr n = .at (a :: as) → ks = tokenKeys s false 0 (a :: as) →
      mayTake s ks = false → exec (.fastTierAccess r addr n none ev) s = .next (waitKeys s ks))

/-- R279, R280: what partition p writes at its offset lands in frames that it owns, and no other byte of memory changes; it
reads back what it wrote; and no register field changes but the cycles in which partitions waited for tokens (R282, R283). -/
def Obligations.PartitionWritesStayInside : Prop :=
  ∀ (s t : State) (p x : Nat) (bs : List Byte), pWrite s p x bs = some t → Memory.wf s.mem = true →
    (∀ a, SMap.get 0 t.mem a ≠ SMap.get 0 s.mem a → frameState s (a / frameBytes) = some (.owned p)
      ∧ ∃ i, i < bs.length ∧ xlate s p (x + i) = some a)
    ∧ (∀ f : Fld, (∀ q, f.id ≠ (Reg.MEM_PART_WAIT_CYCLES q).id) → t.get f = s.get f)
    ∧ t.frames = s.frames ∧ t.pageMap = s.pageMap
    ∧ ((∀ i j a, i < bs.length → j < bs.length → xlate s p (x + i) = some a → xlate s p (x + j) = some a → i = j) →
      pRead t p x bs.length = some bs)

/-! ## Errors, fences and degraded operation -/

/-- HOST_FENCE, HLT_CTRL_WRITE, DIAGNOSTIC_DUMP, DIAGNOSTIC_DUMP_COMPLETE and HLT_ERR_CTRL_ENABLE (R356, R379, R381).
The Sirocco commands and PAIR_ENABLE_WRITE (R357 to R362): a run starts or waits for the launch; with every core of
every group in agreement it ends. -/
def Obligations.HealthCommands : Prop :=
  (∀ (s : State) (w : HostWr) (u : State) (x : Wr),
      (∀ v c, judge s 0x3030 w = (u, some x) → x.val 8 = some 1 → v = storeAll u x → v.isWritten Reg.HLT_FENCE_CORE = true →
        c = v.get Reg.HLT_FENCE_CORE →
        (coreState v c ≠ 2 → (∀ p, partOfCore v c = some p → portOf v p = x.w.port) → exec (.hostFence w) s =
          .next (judgeLive (turnGrey v c 0x0A11 (some x.w.port.num)) false))
        ∧ (coreState v c = 2 → exec (.hostFence w) s = .next (wrRecord v hltLast 0x0A02 x [])))
      ∧ (∀ n, judge s 0x3000 w = (u, some x) → x.val 0 = some n →
        (1 ≤ n → n ≤ 128 → n ≤ u.get Reg.HLT_STATUS_LIVE_COUNT → exec (.hltCtrlWrite w) s = .next (storeAll u x))
        ∧ (u.get Reg.HLT_STATUS_LIVE_COUNT < n → exec (.hltCtrlWrite w) s = .next (wrRecord u hltLast 0x0A04 x [])))
      ∧ (judge s 0x3048 w = (u, some x) → x.val 0 = some 1 → u.isWritten Reg.HLT_DUMP_ADDR_ADDR = true → u.dump = none →
        exec (.diagnosticDump w) s = .next ({ u with dump := some x.w.port }.put Reg.HLT_DUMP_CTRL_STATE 1))
      ∧ (∀ b, s.dump = some b →
        (∀ v bs, dumpBytes { s with dump := none } b = (bs, v) → bs.length = 0x100000 ∧ exec (.diagnosticDumpComplete true) s =
          .next ((v.emit (.hostWrite b none (s.get Reg.HLT_DUMP_ADDR_ADDR * 64) bs)).put Reg.HLT_DUMP_CTRL_STATE 2))
        ∧ exec (.diagnosticDumpComplete false) s = .next (raise ({ s with dump := none }.put Reg.HLT_DUMP_CTRL_STATE 3) hltLast
          { code := 0x0A50, cls := 0, unit := b.num }))
      ∧ (∀ (p : Part) v, judge s (0x804A8 + 0x8000 * p) w = (u, some x) → x.val 0 = some 1 → v = storeBut u x [0] →
        allWritten v [Reg.HLT_ERR_CTRL_VECTOR x.part, Reg.HLT_ERR_CTRL_LOG x.part, Reg.HLT_ERR_RING_ADDR x.part] = true →
        4 ≤ v.get (Reg.HLT_ERR_CTRL_LOG x.part) → v.get (Reg.HLT_ERR_CTRL_LOG x.part) ≤ 16 →
        v.get (Reg.HLT_ERR_CTRL_ENABLE x.part) = 0 → ∃ y,
        y = (v.put (Reg.HLT_ERR_PTR_HEAD x.part) 0).put (Reg.HLT_ERR_PTR_TAIL x.part) 0
        ∧ exec (.hltErrCtrlEnable p w) s =
          .next ({ y with errWrap := SMap.set false y.errWrap x.part false }.put (Reg.HLT_ERR_CTRL_ENABLE x.part) 1)))
  ∧ ∀ (s : State) (p : Part),
      (∀ w u x v, judge s (0x80400 + 0x8000 * p) w = (u, some x) → x.val 0 = some 1 →
        v = (if (x.val 48).isSome then { storeAll u x with sirSteps := SMap.set 0 (storeAll u x).sirSteps x.part 0 }
          else storeAll u x) →
        u.isWritten (Reg.SYN_SEED_KEY_KEY x.part) = true →
        v.get (Reg.HLT_SIROCCO_STATE x.part) = 0 → exec (.siroccoStart p w) s = .next (
          if v.launch x.part = none ∧ aclocksStand v = false then siroccoBegin v x.part
          else v.put (Reg.HLT_SIROCCO_STATE x.part) 1))
      ∧ (s.get (Reg.HLT_SIROCCO_STATE p) = 1 → s.launch p = none → aclocksStand s = false →
        exec (.siroccoRunStart p) s = .next (siroccoBegin s p))
      ∧ (∀ x ds d, SMap.get none s.sirocco p = some x → x.rerun = false → ochre s = false →
        (∀ g ∈ judged s { x with digests := SMap.setAll none [] ds }, ∀ e ∈ g, e.2 = some d) →
        exec (.siroccoJudge p ds) s = .next (siroccoEnd s p))
      ∧ (∀ x ds a b v odd, SMap.get none s.sirocco p = some x → x.rerun = true →
        (majorityCores (judged s x)).take 2 = [a, b] → SMap.get none (SMap.setAll none [] ds) a = some v →
        SMap.get none (SMap.setAll none [] ds) b = some v →
        odd = (x.again.filter fun c => coreState s c != 2 && SMap.get none (SMap.setAll none [] ds) c != some v) →
        exec (.siroccoRerun p ds) s = .next (if ochre (oddOnes s odd) then oddOnes s odd else siroccoEnd (oddOnes s odd) p))
      ∧ (∀ w u x, judge s (0x80408 + 0x8000 * p) w = (u, some x) →
        ((storeAll u x).get (Reg.HLT_PAIR_CTRL_ENABLE x.part) = u.get (Reg.HLT_PAIR_CTRL_ENABLE x.part) →
          exec (.pairEnableWrite p w) s = .next (storeAll u x))
        ∧ ((storeAll u x).get (Reg.HLT_PAIR_CTRL_ENABLE x.part) ≠ u.get (Reg.HLT_PAIR_CTRL_ENABLE x.part) →
          exec (.pairEnableWrite p w) s = .next ((List.range 64).foldl (fun (s : State) h =>
            if (s.prog x.part h).state = 2 then s.setProg x.part h { s.prog x.part h with marked := true } else s) (storeAll u x))))

/-- The Mirage commands (R366 to R370): a check starts when it is due, with the leader's keys in a MULTICAST; it goes on with the
digests and a contribution to the ALLGATHER, and ends with its verdict or its failure; the host clears a halt and an exclusion. -/
def Obligations.MirageCheck : Prop :=
  ∀ (s : State) (p : Part),
    (∀ rs m, s.get (Reg.HLT_MIRAGE_CTRL_ENABLE p) ≠ 0 → s.get (Reg.HLT_MIRAGE_STATUS_RUNNING p) = 0 →
      s.get (Reg.HLT_MIRAGE_STATUS_EXPELLED p) = 0 → ochre s = false → rs = validRecords s p → rs ≠ [] →
      (∀ i ∈ rs, masterFld s p i 6 1 = 0) → (∀ a, s.oasActive = some a → a.req.part ≠ p.val) →
      m = (rs.map fun i => masterFld s p i 8 4).foldl min (2 ^ 32 - 1) →
      m % s.get (Reg.HLT_MIRAGE_CTRL_EVERY p) = 0 → (s.mir p).lastTried ≠ some m →
      exec (.mirageCheckStart p) s = .next (beginCheck s p m)
      ∧ (∀ u, isLeader s p = false → u = (s.setMir p { s.mir p with m := m, key := (s.mir p).next, next := 0, stage := 1 }).put
        (Reg.HLT_MIRAGE_STATUS_RUNNING p) 1 → exchangeCode u p = 0 → beginCheck s p m = mirageColl u p 5 (padTo 64 []))
      ∧ (∀ key u v, isLeader s p = true → s.get (Reg.HLT_MIRAGE_CTRL_INLINE p) = 0 → drawKey s p = (key, v) →
        u = (v.setMir p { s.mir p with m := m, key := key, next := 0, stage := 1 }).put (Reg.HLT_MIRAGE_STATUS_RUNNING p) 1 →
        exchangeCode u p = 0 → beginCheck s p m = mirageColl (putKey u p key) p 5 (keyUnit key m 0)))
    ∧ (∀ y fail bad link, checkColl s p = some y → fail ≠ 0 → exec (.mirageVerdict p fail bad link) s =
      .next (raise (mirageEnd (tellAbort s y) y.part) [Reg.HLT_STATUS_LAST_CODE]
        { code := 0x0A33, cls := 0, part := y.part, detail := [fail] }))
    ∧ (∀ y bad link, checkColl s p = some y → collDone s y = false → exec (.mirageVerdict p 0 bad link) s = .next s)
    ∧ (∀ y retries crcs u, checkColl s p = some y → collDone s y = true →
      u = linkCount { s with colls := s.colls.filter fun x => !(x.part == p && x.ctl.isSome) } retries crcs →
      s.get (Reg.HLT_MIRAGE_CTRL_INLINE p) = 0 →
      (∀ key next v, (s.mir p).stage = 1 →
        (key, next) = (if y.me = 0 then ((s.mir p).key, (s.mir p).next) else (fieldOf (y.heard 0) 0 16, fieldOf (y.heard 0) 20 16)) →
        v = mirageDigests (putKey u p key) p key false →
        exec (.mirageVerdict p 0 [] (retries, crcs)) s = .next (mirageColl
          (v.setMir p { s.mir p with key := key, next := next, stage := 2 }) p 3
          (contribution (partDigest v p key) (s.mir p).m (ownRank v p))))
      ∧ (∀ bad cs v, (s.mir p).stage = 2 → cs = (y.members.zipIdx.map fun (m, r) =>
          (m.2, fieldOf (if r = y.me then y.ctl.getD [] else y.heard r) 0 16)) → v = verdict u p (s.mir p).m cs →
        exec (.mirageVerdict p 0 bad (retries, crcs)) s = .next (mirageEnd (v.setMir p { s.mir p with digested := true }) p)))
    ∧ (∀ w u x, judge s (0x80418 + 0x8000 * p) w = (u, some x) → x.val 4 = some 1 → ∃ v,
      v = (List.range 64).foldl (fun (s : State) k => s.put (Reg.HLT_MIRAGE_EXCL_RANK x.part k) 0xFFFF) (storeAll u x)
      ∧ exec (.mirageClear p w) s = .next ((v.put (Reg.HLT_MIRAGE_STATUS_EXCLUDED x.part) 0).put
        (Reg.HLT_MIRAGE_STATUS_EXPELLED x.part) 0))
    ∧ (∀ w u x, judge s (0x80418 + 0x8000 * p) w = (u, some x) → x.val 4 ≠ some 1 →
      exec (.mirageHaltedClear p w) s = .next (storeAll u x))

/-- R368: where every contribution agrees the check's step is recorded and nothing else changes; where no value has more
than half, nobody is expelled and the member halts with record 0x0A31. -/
def Obligations.MirageVerdicts : Prop :=
  ∀ (s : State) (p m : Nat) (cs : List (Nat × Nat)),
    (∀ v, cs ≠ [] → (∀ c ∈ cs, c.2 = v) → verdict s p m cs = s.put (Reg.HLT_MIRAGE_STATUS_LAST_STEP p) m)
    ∧ ((∀ v, ¬ cs.length < 2 * (cs.filter fun c => c.2 == v).length) → verdict s p m cs =
        raise (s.put (Reg.HLT_MIRAGE_STATUS_HALTED p) 1) hltLast { code := 0x0A31, cls := 2, part := p })
    ∧ ∀ u, u = verdict s p m cs → u.mem = s.mem ∧ u.cmds = s.cmds ∧ u.launches = s.launches ∧ u.pending = s.pending

/-! ## The fabric -/

/-- R333: a frame that reaches its flow acts on it once; any other is counted under UNMATCHED or AUTH_FAILED, or not at all on
a port without link, and changes nothing else but, where the Ethernet layer could not correct n code words, FEC_UNCORRECTED, and
what looking up the records that it names does to the cache (R284). -/
def Obligations.FramesReceived : Prop :=
  ∀ (s : State) (h : FrameHdr) (ack group : Bool) (act : State → Nat → Nat → Nat → State),
    (∀ p f u, Arrives s u h ack p f → (group = true → fromExcluded u p f h.groupTag = false) →
      receive s h ack group act = act u p f 0)
    ∧ (s.get (Reg.FAB_PORT_STATUS_LINK_UP h.fport) = 0 → receive s h ack group act = s)
    ∧ (∀ n, s.get (Reg.FAB_PORT_STATUS_LINK_UP h.fport) ≠ 0 → h.check = .fec n → receive s h ack group act =
      unmatched (s.bumpWrap (Reg.FAB_PORT_STATUS_FEC_UNCORRECTED h.fport) n))
    ∧ (s.get (Reg.FAB_PORT_STATUS_LINK_UP h.fport) ≠ 0 → h.check = .fcs → receive s h ack group act = unmatched s)
    ∧ (s.get (Reg.FAB_PORT_STATUS_LINK_UP h.fport) ≠ 0 → h.check = .ok → h.version ≠ 1 ∨ 5 < h.type →
      receive s h ack group act = unmatched s)
    ∧ (∀ u, Whole s h → h.dst ≠ 0xFFFFF → u = lookTargets s h →
      (target u h ack = none → receive s h ack group act = unmatched u)
      ∧ ∀ p f, target u h ack = some (p, f) → h.authOk = false →
        receive s h ack group act = u.bump Reg.FAB_COUNTS_AUTH_FAILED 1)
    ∧ (∀ u, Whole s h → h.dst = 0xFFFFF → u = lookTargets s h →
      (mcastTargets u h = [] → receive s h ack group act = unmatched u)
      ∧ ∀ p f g, mcastTargets u h = [(p, f, g)] → h.authOk = true → flowState u p f = 2 → excluded u p g h.srcRank = false →
        receive s h ack group act = act u p f h.srcRank)

/-- DATA, ACK, REQ and GRANT act on the flow that they reach. A DATA frame that belongs to its flow and whose payload is no whole
number of units, or more than 8,192 bytes, is discarded and counted under UNMATCHED (the model's choice, log entry 18: R331 states
the limits and no effect of a frame that breaks them).
The CTRL frames act once on the flow that they reach, by their sequence number: ABORT, DETACH, REMOVE, CLOSE and
GROUP_KEY.
R339: a frame that was taken before is not taken again.
The last two clauses say where each frame completes, by conditions on the state and the frame alone: DATA lands in the
instance that it names, ABORT and DETACH end it, REMOVE and CLOSE end the flow, GROUP_KEY keys the MCAST flow; an ACK takes the
frames that it acknowledges, REQ and GRANT move the stream's ready position and its limit. -/
def Obligations.XftFrames : Prop :=
  (∀ (s w : State) (h : FrameHdr) (p f : Nat),
      (∀ payload, Arrives s w h false p f → fromExcluded w p f h.groupTag = false →
        (payload.length % 64 = 0 → payload.length ≤ 8192 → exec (.data h payload) s = .next (dataOn h payload w p f 0))
        ∧ (payload.length % 64 ≠ 0 ∨ 8192 < payload.length → exec (.data h payload) s = .next (unmatched w)))
      ∧ (∀ cum map, Arrives s w h true p f → exec (.ack h cum map) s = .next (ackOn h cum map w p f))
      ∧ (Arrives s w h false p f → fromExcluded w p f h.groupTag = false → exec (.req h) s = .next (reqOn h w p f))
      ∧ (Arrives s w h false p f → fromExcluded w p f h.groupTag = false → exec (.grant h) s = .next (grantOn h w p f)))
  ∧ (∀ (s w : State) (h : FrameHdr) (p f : Nat) (u : State), Arrives s w h false p f → acceptSeq w p f 0 h.psn = (u, true) →
      isMcast u p f = false →
      (∀ tag inst, exec (.ctrlAbort h tag inst) s = .next (abortOn tag inst u p f))
      ∧ (∀ tag inst, exec (.ctrlDetach h tag inst) s = .next (detachOn h tag inst u p f))
      ∧ exec (.ctrlRemove h) s = .next (failFlow (sendAck u p f 0) p f 0x0922)
      ∧ exec (.ctrlClose h) s = .next (failFlow (sendAck u p f 0) p f 0x0923)
      ∧ ∀ tag x, exec (.groupKey h tag x) s = .next (groupKeyOn tag x u p f))
  ∧ (∀ (s w : State) (h : FrameHdr) (p f : Nat) (u : State), Arrives s w h false p f → acceptSeq w p f 0 h.psn = (u, false) →
      (∀ payload, payload.length % 64 = 0 → payload.length ≤ 8192 → fromExcluded w p f h.groupTag = false →
        exec (.data h payload) s = .next u)
      ∧ (∀ tag inst, exec (.ctrlAbort h tag inst) s = .next u) ∧ (∀ tag inst, exec (.ctrlDetach h tag inst) s = .next u)
      ∧ exec (.ctrlRemove h) s = .next u ∧ exec (.ctrlClose h) s = .next u
      ∧ (∀ tag x, exec (.groupKey h tag x) s = .next u) ∧ u.mem = w.mem ∧ u.colls = w.colls)
  ∧ (∀ (s w : State) (h : FrameHdr) (p f : Nat) (u : State), Arrives s w h false p f → NewFrame w p f h.psn →
      u = (acceptSeq w p f 0 h.psn).1 →
      (∀ payload n x r, payload.length = 64 * n → n ≤ 128 → fromExcluded w p f h.groupTag = false →
        instOf u p h.groupTag h.inst = some x → senderOf h x f = some r → x.op = h.op → x.ctl = none →
        h.offset + n ≤ unitsIn (x.rxPieces r) →
        (∀ q ∈ slices (x.rxPieces r) h.offset n, q.1.kind = .out → ∀ i, i < 64 * q.2.2 →
          (xlate u x.part (x.dst + 64 * (x.outAt q.1.rank + q.2.1) + i)).isSome = true) →
        ∃ v z, landData (recordFabric u p ⟨f, h.psn, x.seq, x.group, x.nth, r, h.phase, h.offset, payload⟩) x r h.offset payload
            = (none, v, z)
          ∧ z.rx = SMap.set RxSt.empty x.rx r { x.rxAt r with
              parts := if n = 0 then (x.rxAt r).parts else addRange h.offset (h.offset + n) (x.rxAt r).parts }
          ∧ exec (.data h payload) s = .next (pumpColl (putColl v z) p x.group x.inst))
      ∧ (isMcast u p f = false →
        (∀ tag inst x, fromExcluded u p f tag = false → instOf u p tag inst = some x →
          exec (.ctrlAbort h tag inst) s = .next (failColl u x 0x0914 [] false))
        ∧ (∀ tag inst x r m, fromExcluded u p f tag = false → instOf u p tag inst = some x → senderOf h x f = some r →
          x.members[r]? = some m → exec (.ctrlDetach h tag inst) s =
            .next (failColl u x 0x0930 [tag, inst, m.2, landedPrefix (x.rxAt (65536 + r))] false))
        ∧ exec (.ctrlRemove h) s = .next (failFlow (sendAck u p f 0) p f 0x0922)
        ∧ exec (.ctrlClose h) s = .next (failFlow (sendAck u p f 0) p f 0x0923)
        ∧ ∀ tag x g m v, fromExcluded u p f tag = false → groupOfTag u p tag = some g → groupFld u p g 8 4 ≠ 0 →
          listFlow u p g 0 = f → isRelay u p g = false → m = groupFld u p g 12 4 →
          v = u.setFlow p m { u.flow p m with
            keyed := true, epoch := x.epoch, txKey := x.key % 2 ^ 256, rxKey := x.key % 2 ^ 256, txCount := 0 } →
          exec (.groupKey h tag x) s = .next (if flowState v p m = 1 then setFlowState v p m 2 else v)))
  ∧ ∀ (s w : State) (h : FrameHdr) (p f : Nat),
      (∀ cum map, Arrives s w h true p f → h.mcast = false → (w.flow p f).held = [] →
        (∀ t ∈ (w.flow p f).unacked, t.waiting = [0]) →
        (∀ t ∈ (w.flow p f).unacked, acked cum map t = true → t.ctrl = 0) →
        (∀ t ∈ (w.flow p f).unacked, acked cum map t = false →
          (map.filter fun n => (n + 2 ^ 32 - t.psn) % 2 ^ 32 < 2 ^ 31 && n != t.psn).length < 64) →
        exec (.ack h cum map) s = .next (pumpAll (removalNext (holderUp
          (w.setFlow p f { w.flow p f with
            unacked := (w.flow p f).unacked.filter fun t => !acked cum map t,
            timeouts := if (w.flow p f).unacked.any (fun t => acked cum [] t) then 0 else (w.flow p f).timeouts }) p)) p))
      ∧ ∀ x r, Arrives s w h false p f → fromExcluded w p f h.groupTag = false → instOf w p h.groupTag h.inst = some x →
        senderOf h x f = some r →
        (x.op ≠ h.op → exec (.req h) s = .next (failColl w x 0x0913 [] true)
          ∧ exec (.grant h) s = .next (failColl w x 0x0913 [] true))
        ∧ (x.op = h.op → h.offset ≤ unitsIn (x.rxPieces r) → exec (.req h) s = .next (putColl w (x.setRx r
          { x.rxAt r with ready := max (x.rxAt r).ready h.offset })))
        ∧ ∀ k, k = (if h.mcast then 131072 + r else r) → x.op = h.op →
          h.offset ≤ unitsIn (x.txPieces (if h.mcast then 65536 else r)) →
          exec (.grant h) s = .next (pumpColl (putColl w (x.setTx k
            { x.txAt k with limit := max (x.txAt k).limit h.offset })) p x.group x.inst)

/-- FLOW_OPEN, FLOW_CLOSE, the handshake with its timeout, the end of CLOSING, and GROUP_KEY_DISTRIBUTION (R335, R336,
R338).
The timers of a flow: ACK_TIMER, RETRANSMIT_TIMEOUT and PORT_ROTATION_REJOIN (R339, R340). -/
def Obligations.Flows : Prop :=
  (∀ (s : State) (p : Part) (f : Nat),
      (∀ w u x v, judge s (0x210018 + 0x1000 * p) w = (u, some x) → x.val 16 = some 1 → v = storeAll u x →
        allWritten v [Reg.FAB_FLOW_CMD_OP x.part, Reg.FAB_FLOW_CMD_FLOW x.part, Reg.FAB_TIMERS_RTO_US,
          Reg.FAB_TIMERS_RETRY_MAX] = true → firstBad v x.part (flowAddr v x.part f) 256 = none →
        v.get (Reg.FAB_AREA_CTRL_ENABLE x.part) ≠ 0 → f = v.get (Reg.FAB_FLOW_CMD_FLOW x.part) →
        f < v.get (Reg.FAB_AREA_CTRL_FLOWS x.part) →
        (v.get (Reg.FAB_FLOW_CMD_OP x.part) = 0 → flowFld v x.part f 70 1 % 2 = 1 →
          flowState v x.part f = 0 ∨ flowState v x.part f = 3 →
          exec (.flowOpen p w) s = .next (openFlow (v.put (Reg.FAB_FLOW_CMD_STATE x.part) 2) x.part f))
        ∧ (v.get (Reg.FAB_FLOW_CMD_OP x.part) = 1 → flowState v x.part f = 2 →
          exec (.flowClose p w) s = .next (closeFlow (v.put (Reg.FAB_FLOW_CMD_STATE x.part) 2) x.part f)))
      ∧ (∀ x u v, Whole s x.hdr → u = lookTargets s x.hdr → target u x.hdr false = some (p.val, f) → (u.flow p f).shake = 2 →
        v = sendMessages u p f 1 [128, 128, 4] →
        (x.rsa = true → x.slh = true → pRead v p (flowAddr v p f + 72) 48 = some x.peer →
          exec (.handshake p f x) s = .next (setFlowState (drawFlowKeys v p f) p f 2))
        ∧ (x.rsa = false ∨ x.slh = false ∨ pRead v p (flowAddr v p f + 72) 48 ≠ some x.peer →
          exec (.handshake p f x) s = .next (failFlow v p f 0x0921)))
      ∧ (∀ x u, Whole s x.hdr → u = lookTargets s x.hdr → target u x.hdr false = none →
        exec (.handshake p f x) s = .next (unmatched u))
      ∧ (f ∈ flowsOf s p → flowState s p f = 1 →
        exec (.handshakeTimeout p f) s = .next (failFlow s p f 0x0921))
      ∧ (f ∈ flowsOf s p → flowState s p f = 4 → ∃ u, u = setFlowState s p f 0 ∧ exec (.flowClosingTimeout p f) s =
        .next (removalNext (u.setFlow p f { u.flow p f with unacked := [], removing := false })))
      ∧ (∀ g m e u v, g ∈ groupsOf s p → isRelay s p g = false → groupFld s p g 8 4 = 0 → m = groupFld s p g 12 4 →
        flowState s p m = 1 → (s.flow p m).keyed = false → (∀ r ∈ peersOf s p g, flowState s p (listFlow s p g r) = 2) →
        e = SMap.get 0 s.epochs (p * 65536 + g) + 1 →
        u = { s with free := s.free + 1, epochs := SMap.set 0 s.epochs (p * 65536 + g) e } →
        v = u.setFlow p m { u.flow p m with
          keyed := true, epoch := e, txKey := Config.freeValue s.free % 2 ^ 256, rxKey := Config.freeValue s.free % 2 ^ 256,
          txCount := 0 } →
        exec (.groupKeyDistribution p g) s = .next ((peersOf v p g).foldl (fun s r => sendCtrl s p (listFlow s p g r) 5
          (leBytes 2 (groupFld v p g 0 2) ++ leBytes 4 e ++ leBytes 32 (Config.freeValue s.free))) v)))
  ∧ ∀ (s : State) (p : Part) (f : Nat),
      (flowState s p f = 2 → exec (.ackTimer p f) s =
        .next (repeatCredit (((s.flow p f).rx.filter fun e => e.2.sinceAck != 0).foldl (fun s e => sendAck s p f e.1) s) p f))
      ∧ (∀ psn t, flowState s p f = 2 → ((s.flow p f).unacked.find? fun t => t.psn == psn) = some t →
        (s.get Reg.FAB_TIMERS_RETRY_MAX ≤ (s.flow p f).timeouts + 1 →
          exec (.retransmitTimeout p f psn) s = .next (failFlow s p f 0x0920)))
      ∧ (∀ psn t, flowState s p f = 2 ∨ flowState s p f = 4 → ((s.flow p f).unacked.find? fun t => t.psn == psn) = some t →
        ((s.flow p f).timeouts + 1 < s.get Reg.FAB_TIMERS_RETRY_MAX → exec (.retransmitTimeout p f psn) s =
          .next (retransmit (s.setFlow p f { s.flow p f with
            timeouts := (s.flow p f).timeouts + 1,
              out := if t.fport < 4 ∧ t.fport ∉ (s.flow p f).out then t.fport :: (s.flow p f).out else (s.flow p f).out }) p f psn)))
      ∧ (∀ n : FPort, n.val ∈ (s.flow p f).out → exec (.portRotationRejoin p f n) s =
        .next (s.setFlow p f { s.flow p f with out := (s.flow p f).out.filter (· != n.val), turn := n }))
      ∧ (∀ psn, (∀ t ∈ (s.flow p f).unacked, t.psn ≠ psn) → exec (.retransmitTimeout p f psn) s = .next s)

/-- The collective instance from outside: CREDIT_GRANT, RECEIVE_QUEUE_BIND, INSTANCE_COMPLETE, COLLECTIVE_WAIT_TIMEOUT and
RECEIVER_DETACH (R341, R344, R348 to R350).
The fabric ports and the fabric's registers: FABRIC_PORT_DOWN, FABRIC_PORT_UP, NON_XFT_FRAME_RECEIVED, FAB_CTRL_WRITE and
FAB_AREA_CTRL_ENABLE (R328, R329, R342, R351). -/
def Obligations.CollectivesAndPorts : Prop :=
  (∀ (s : State) (p : Part) (x : Coll),
      (∀ f k n u, grantNext s p = some (f, x, k, n) → u = putColl s (x.setRx k { x.rxAt k with limit := (x.rxAt k).limit + n }) →
        exec (.creditGrant p) s = .next (emitFrame { u with creditTurn := SMap.set 0 u.creditTurn p ((f + 1) % 65536) } x.part f 3
          (if k < 65536 then 0 else 4) x.op 0 x.tag 0 x.inst ((x.rxAt k).limit + n) []).1)
      ∧ (∀ q, s.colls.find? (fun x => x.frq.isNone && !x.quiet && x.ctl.isNone && !(x.needSrc && d14Busy s x.core)) = some x →
        (List.range 64).find? (fun q => !(s.colls.any fun y => y.frq == some q)) = some q →
        exec .receiveQueueBind s = .next (bindQueue s x q))
      ∧ (∀ g i, s.coll p g i = some x → collDone s x = true → x.ctl = none →
        exec (.instanceComplete p g i) s = .next (tryCommit (endColl s x) p))
      ∧ (∀ g i, s.coll p g i = some x → s.get Reg.FAB_TIMERS_INST_MS ≠ 0 →
        exec (.collectiveWaitTimeout p g i) s = .next (failColl s x 0x0916 [] true))
      ∧ (∀ g i, s.coll p g i = some x → s.get Reg.FAB_TIMERS_INST_MS = 0 → exec (.collectiveWaitTimeout p g i) s = .next s)
      ∧ (∀ g i rank r, s.coll p g i = some x → (x.attached.find? fun r => (x.members[r]?).map (·.2) == some rank) = some r →
        (x.txAt 65536).sent < unitsIn (x.txPieces 65536) → holdsBack x r = true → (∃ q ∈ x.attached, holdsBack x q = false) →
        exec (.receiverDetach p g i rank) s = .next (detachRx s x r rank)))
  ∧ ∀ (s : State) (f : FPort),
      (s.get (Reg.FAB_PORT_STATUS_LINK_UP f) = 0 → exec (.fabricPortDown f) s = .next s)
      ∧ (s.get (Reg.FAB_PORT_STATUS_LINK_UP f) ≠ 0 → ∃ u, u = raise (s.put (Reg.FAB_PORT_STATUS_LINK_UP f) 0) []
          { code := 0x0940, cls := 3, unit := f }
        ∧ exec (.fabricPortDown f) s = .next ((SMap.keys u.flows).foldl (fun (s : State) k =>
          ((s.flow (k / 65536) (k % 65536)).unacked.filter fun t => t.fport == f.val).foldl
            (fun s t => retransmit s (k / 65536) (k % 65536) t.psn) s) u))
      ∧ (clocked s = true → s.get Reg.FAB_CTRL_ENABLE ≠ 0 → ochre s = false → s.get Reg.PWR_REMOVE_STATE ≠ 2 → SMap.wf 0 s.regs = true → ∃ t,
        exec (.fabricPortUp f) s = .next t ∧ Reads t (Reg.FAB_PORT_STATUS_LINK_UP f) 1
        ∧ OtherFields s t [Reg.FAB_PORT_STATUS_LINK_UP f, Reg.FAB_PORT_STATUS_LANES_LOCKED f, Reg.CLK_STATUS_FAB_LANE_LOCK f 0,
          Reg.CLK_STATUS_FAB_LANE_LOCK f 1])
      ∧ (s.get (Reg.FAB_PORT_STATUS_LINK_UP f) ≠ 0 → exec (.nonXftFrameReceived f true) s =
          .next (s.bump Reg.FAB_COUNTS_PAUSE_DISCARDED 1)
        ∧ exec (.nonXftFrameReceived f false) s = .next (s.bump Reg.FAB_COUNTS_UNMATCHED 1))
      ∧ (∀ w u x v, judge s 0x200000 w = (u, some x) → x.val 0 = some 1 → u.get Reg.FAB_CTRL_ENABLE = 0 → v = storeBut u x [0] →
        (3 ≤ stage v → fabCtrlCode v = 0 → exec (.fabCtrlWrite w) s = .next (v.put Reg.FAB_CTRL_ENABLE 1))
        ∧ (stage v < 3 → exec (.fabCtrlWrite w) s = .next (wrRecord v [Reg.PWR_STATUS_LAST_CODE] 0x0C03 x [])))
      ∧ (∀ (p : Part) w u x v, judge s (0x210008 + 0x1000 * p) w = (u, some x) → x.val 31 = some 1 → v = storeBut u x [31] →
        fabAreaCode v x.part = 0 →
        exec (.fabAreaCtrlEnable p w) s = .next (v.put (Reg.FAB_AREA_CTRL_ENABLE x.part) 1))

/-! ## Security -/

/-- The mailbox commands of identity, firmware and test access: SET_HELPER, IDENTITY_DERIVATION_COMPLETE, LOAD_FIRMWARE,
LOAD_CERT, TEST_CHALLENGE and TEST_UNLOCK (R387 to R391, R401). -/
def Obligations.IdentityAndFirmware : Prop :=
  ∀ (s : State) (b : Port) (r : List Byte),
    (∀ h, Serves s b 0x01 r → s.sec.deriving_ = false → helperOk s h = true →
      exec (.setHelper b (some h) true) s = .next { s with sec := { s.sec with deriving_ := true, helper := h } })
    ∧ (∀ rest d u, s.sec.deriving_ = true → s.sec.order = (b, r) :: rest →
      u = (List.range 6).foldl (fun (s : State) n => s.put (Reg.SEC_ID_DIGEST_DIGEST n) (fieldOf d (8 * n) 8))
        { s with sec := { s.sec with deriving_ := false } } →
      exec (.identityDerivationComplete d) s =
        .next (respond ((u.put Reg.SEC_STATUS_IDENTITY 1).put Reg.SEC_STATUS_STAGE 2) b r 0 []))
    ∧ (∀ im v, Serves s b 0x02 r → firmwareOk s im (fieldOf r 16 4) = true →
      vendorHalves im (fieldOf im 88 4) (im.take (fieldOf im 88 4)) v = (true, true) → Config.svnFloor.toNat ≤ fieldOf im 12 4 →
      ∃ u, u = (s.put Reg.SEC_STATUS_STAGE 3).put Reg.SEC_STATUS_FW_SVN (fieldOf im 12 4)
      ∧ exec (.loadFirmware b (some im) v) s = .next (respond { u with sec := { u.sec with
          fwLoaded := true, fwDigest := sliceOf im (fieldOf im 88 4) 48, nativeMin := fieldOf im 16 4,
          fwMgmt := sliceOf im (fieldOf im 64 4) (fieldOf im 68 4), fwErg := sliceOf im (fieldOf im 72 4) (fieldOf im 76 4),
          fwSec := sliceOf im (fieldOf im 80 4) (fieldOf im 84 4) } } b r 0 []))
    ∧ (∀ im v, Serves s b 0x02 r → firmwareOk s im (fieldOf r 16 4) = true → v.rsa = false → v.slh = false →
      Config.svnFloor.toNat ≤ fieldOf im 12 4 → exec (.loadFirmware b (some im) v) s = .next (firmwareFails s b r 0x0B11 [3]))
    ∧ (∀ c, Serves s b 0x03 r → stage s = 2 ∨ stage s = 3 → c.length = fieldOf r 24 4 → ∃ u,
      u = { s with sec := { s.sec with certs := s.sec.certs.set (fieldOf r 8 1) c } }
      ∧ exec (.loadCert b (some c) true) s = .next (respond (u.put Reg.SEC_STATUS_CERT_SLOTS
          (u.get Reg.SEC_STATUS_CERT_SLOTS ||| 2 ^ fieldOf r 8 1)) b r 0 []))
    ∧ (∀ nonce n u, Serves s b 0x20 r → s.sec.testFails < 3 → n = padTo 48 (nonce.take 48) →
      u = { s with sec := { s.sec with nonce := some n } } → exec (.testChallenge b nonce) s =
        .next (respond (u.emit (.response "TEST_CHALLENGE" ((n ++ idDigest u).map BitVec.toNat))) b r 0 n))
    ∧ (∀ bs v, Serves s b 0x21 r → bs.length = 17248 → s.sec.nonce = some (sliceOf bs 0 48) → sliceOf bs 48 48 = idDigest s →
      testHalves bs v = (true, true) → exec (.testUnlock b (some bs) v) s = .next (openTests { s with sec := { s.sec with nonce := none } } b))
    ∧ (∀ response v, Serves s b 0x21 r → v.rsa = false ∨ v.slh = false → exec (.testUnlock b response v) s =
        .next (mbxRefuse { s with sec := { s.sec with nonce := none, testFails := s.sec.testFails + 1 } } b r 0x0B50 0xFF []))

/-- The partition lifecycle by mailbox (R280, R397, R398) and GET_MLOG (R393).
R430, R397: the mailbox of one port does not act on a partition that the other port owns; it is refused with 0x0B32. -/
def Obligations.PartitionLifecycle : Prop :=
  (∀ (s : State) (b : Port) (r : List Byte) (p : Nat), p = fieldOf r 8 1 →
      (∀ cores, Serves s b 0x10 r → cores = ((List.range 128).filter fun c => bitsOf (fieldOf r 16 16) c 1 == 1) →
        partState s p = 0 → s.get Reg.PWR_REMOVE_STATE = 0 → 1 ≤ fieldOf r 36 4 → fieldOf r 32 4 + fieldOf r 36 4 ≤ 98304 →
        spanFree s p (fieldOf r 32 4) (fieldOf r 36 4) = true → (∀ c ∈ cores, coreState s c ≠ 2 ∧ partOfCore s c = none) →
        exec (.partCreate b) s =
          .next (respond (createPart s p b cores (fieldOf r 32 4) (fieldOf r 36 4) (fieldOf r 9 1)) b r 0 []))
      ∧ (∀ page frame n, Serves s b 0x11 r → page = fieldOf r 16 4 → frame = fieldOf r 20 4 → n = fieldOf r 24 4 →
        partState s p = 1 → s.get Reg.MEM_INTERLEAVE_VALID ≠ 0 → page + n ≤ (SMap.get (0, 0) s.span p).2 → frame + n ≤ 98304 →
        (∀ i < n, frameState s (frame + i) = some .free ∧ (SMap.get (⟨0, false⟩ : PEntry) s.pageMap
          (s.get (Reg.MEM_PART_MAP_PM_BASE p) + page + i)).valid = false) →
        exec (.partFrames b) s = .next (respond (assignFrames s p page frame n) b r 0 []))
      ∧ (∀ blocks, Serves s b 0x12 r → blocks = (List.range (fieldOf r 10 1)).map (fieldOf r 9 1 + ·) → partState s p = 1 →
        fieldOf r 9 1 + fieldOf r 10 1 ≤ 256 → (∀ k ∈ blocks, s.get (Reg.QUE_BLOCK_ASSIGNED k) = 0) →
        exec (.partQblocks b) s = .next (respond (assignBlocks s p b blocks) b r 0 []))
      ∧ (Serves s b 0x13 r → partState s p = 1 → s.get (Reg.SEC_PART_STATUS_TDISP p) = 0 → lockCode s p = 0 →
        exec (.partLock b) s = .next (respond (lockPart s p) b r 0 []))
      ∧ (Serves s b 0x14 r → partState s p = 2 → s.get (Reg.SEC_PART_STATUS_TDISP p) = 0 →
        exec (.partStart b) s = .next (respond (s.put (Reg.SEC_PART_STATUS_STATE p) 3) b r 0 []))
      ∧ (Serves s b 0x15 r → owned s p = true → exec (.partTeardown b) s = .next (respond (teardown s p true 0) b r 0 []))
      ∧ (Serves s b 0x16 r → partState s p ≠ 0 → exec (.getMlog b) s =
          .next (respond (s.emit (.hostWrite b (streamOf s p) (fieldOf r 16 8) (SMap.get MLog.empty s.mlogs p).kept.flatten)) b r 0 []))
      ∧ (Serves s b 0x13 r → partState s p ≠ 1 → exec (.partLock b) s = .next (mbxRefuse s b r 0x0B30 p []))
      ∧ (Serves s b 0x14 r → partState s p ≠ 2 → exec (.partStart b) s = .next (mbxRefuse s b r 0x0B30 p [])))
  ∧ ∀ (s : State) (b : Port) (r rest) (p : Nat), s.sec.order = (b, r) :: rest → p = fieldOf r 8 1 → p < 16 → owned s p = true →
      portOf s p ≠ b → s.sec.attempts < 4 → ochre s = false → stage s = 3 →
      (fieldOf r 0 1 = 0x11 → exec (.partFrames b) s = .next (mbxRefuse s b r 0x0B32 p []))
      ∧ (fieldOf r 0 1 = 0x12 → exec (.partQblocks b) s = .next (mbxRefuse s b r 0x0B32 p []))
      ∧ (fieldOf r 0 1 = 0x13 → exec (.partLock b) s = .next (mbxRefuse s b r 0x0B32 p []))
      ∧ (fieldOf r 0 1 = 0x14 → exec (.partStart b) s = .next (mbxRefuse s b r 0x0B32 p []))
      ∧ (fieldOf r 0 1 = 0x15 → exec (.partTeardown b) s = .next (mbxRefuse s b r 0x0B32 p []))

/-- The TDISP and IDE messages over a secured session about a TDI of the transport's port (R394, R397).
R395: an IDE integrity failure turns a running TDI's partition to ERROR with record 0x0B40 and stops its launch; an access
to the TDI outside the stream is dropped with record 0x0B42. -/
def Obligations.TrustedInterfaces : Prop :=
  (∀ (s : State) (t : Transport) (p : Part), tdi s t p = true →
      (partState s p = 1 → ochre s = false → lockCode s p = 0 →
        exec (.lockInterface t p) s = .next (spdmSay (lockPart s p) t "LOCK_INTERFACE" [p.val]))
      ∧ (partState s p = 2 → ochre s = false → (s.ide p).active = 3 → s.get (Reg.ID_PORT_GEN (portOf s p)) = 6 →
        exec (.startInterface t p) s =
          .next (spdmSay (s.put (Reg.SEC_PART_STATUS_STATE p) 3) t "START_INTERFACE" [p.val]))
      ∧ exec (.stopInterface t p) s = .next (spdmSay (teardown s p true 0) t "STOP_INTERFACE" [p.val])
      ∧ exec (.getDeviceInterfaceReport t p) s = .next (spdmSay s t "DEVICE_INTERFACE_REPORT"
          ((tdiRanges s p).flatMap fun r => [r.1, r.2.1, r.2.2]))
      ∧ exec (.getDeviceInterfaceState t p) s = .next (spdmSay s t "DEVICE_INTERFACE_STATE" [partState s p])
      ∧ (∀ tx n, (s.ide p).active = 0 ∨ (s.ide p).stream = n →
        ((List.range 16).filter fun q => q != p.val && owned s q && portOf s q == portOf s p && (s.ide q).programmed != 0).length < 16 →
        exec (.keyProg t p n tx false) s = .next (spdmSay (s.setIde p ⟨n, (if (s.ide p).stream = n then (s.ide p).programmed
          else 0) ||| dirBit tx, (s.ide p).active⟩) t "KEY_PROG" [0]))
      ∧ (∀ tx, (s.ide p).programmed &&& dirBit tx ≠ 0 → exec (.kSetGo t p tx) s =
          .next (spdmSay (s.setIde p { s.ide p with active := (s.ide p).active ||| dirBit tx }) t "K_SET_GO" [0]))
      ∧ (∀ tx, (s.ide p).programmed &&& dirBit tx ≠ 0 → (s.ide p).active &&& dirBit tx ≠ 0 → exec (.kSetStop t p tx) s =
          .next (spdmSay (s.setIde p ⟨(s.ide p).stream, (s.ide p).programmed - dirBit tx, (s.ide p).active - dirBit tx⟩) t
            "K_SET_STOP" [0])))
  ∧ ∀ (s : State) (p : Part), partState s p = 3 → s.get (Reg.SEC_PART_STATUS_TDISP p) ≠ 0 →
      exec (.ideIntegrityFailure p) s = .next (stopCar (s.put (Reg.SEC_PART_STATUS_STATE p) 4) (secLast p) p
        { code := 0x0B40, cls := 2 } none)
      ∧ (∀ acc, inTdi s p acc.bar acc.off = true → acc.write = true → exec (.unprotectedAccess p acc) s =
        .next (raise s (secLast p) { code := 0x0B42, cls := 0, part := p, unit := acc.port.num,
                                     core := if acc.bar = 0 then (pageCore acc.off).getD 0xFF else 0xFF,
                                     detail := [acc.off, acc.bar + 256 * acc.size + 65536, acc.data.toNat] }))
      ∧ (∀ acc, inTdi s p acc.bar acc.off = true → acc.write = false → exec (.unprotectedAccess p acc) s =
        .next ((raise s (secLast p) { code := 0x0B42, cls := 0, part := p, unit := acc.port.num,
                                      core := if acc.bar = 0 then (pageCore acc.off).getD 0xFF else 0xFF,
                                      detail := [acc.off, acc.bar + 256 * acc.size, 0] }).emit
          (.response "UNSUPPORTED_REQUEST" [acc.port.num, acc.bar, acc.off])))

/-- The SPDM requests (R391 to R393): the responder answers, in the version that the transport's first request fixed, on a
transport that reaches it; every request ends the availability of the last signed response's second signature. An empty
certificate slot is reported as unprovisioned; what the responder does not support receives UnsupportedRequest. -/
def Obligations.SpdmRequests : Prop :=
  ∀ (s : State) (t : Transport) (v : Nat) (q : SpdmReq) (u : State), q = ⟨t, v, false⟩ → v = 0x12 ∨ v = 0x13 →
    u = s.setSpdm t { s.spdm t with signed := none, version := v } →
    (answers s t = true → (s.spdm t).version = 0 ∨ (s.spdm t).version = v →
      (∀ slot off len, s.sec.certs.getD slot [] ≠ [] → exec (.spdmGetCertificate q slot off len) s =
        .next (spdmSay u t "CERTIFICATE" ((sliceOf (s.sec.certs.getD slot []) off len).map BitVec.toNat)))
      ∧ (∀ slot nonce, s.sec.certs.getD slot [] ≠ [] →
        exec (.spdmChallenge q slot nonce) s = .next (spdmSign u t "CHALLENGE_AUTH" [slot] nonce))
      ∧ (∀ slot off len nonce share, s.sec.certs.getD slot [] = [] → ∃ x, x = spdmSay u t "SPDM_SLOT_UNPROVISIONED" [slot]
        ∧ exec (.spdmGetCertificate q slot off len) s = .next x ∧ exec (.spdmChallenge q slot nonce) s = .next x
        ∧ exec (.spdmKeyExchange q slot .exchange share) s = .next x)
      ∧ (∀ i m nonce, i ≠ 0 → i ≠ 0xFF → measurement u t i = some m →
        exec (.spdmGetMeasurements q i false nonce) s = .next (spdmSay u t "MEASUREMENTS" (m.map BitVec.toNat))
        ∧ exec (.spdmGetMeasurements q i true nonce) s = .next (spdmSign u t "MEASUREMENTS" (m.map BitVec.toNat) nonce))
      ∧ (∀ slot share, s.sec.certs.getD slot [] ≠ [] → s.get Reg.SEC_STATUS_IDENTITY ≠ 0 →
        exec (.spdmKeyExchange q slot .exchange share) s =
          .next (spdmSign (u.setSpdm t { u.spdm t with session := true, updates := 0 }) t "KEY_EXCHANGE_RSP" [slot] share))
      ∧ ((s.spdm t).session = true → ∀ slot share,
        exec (.spdmKeyExchange q slot .heartbeat share) s = .next (spdmSay u t "HEARTBEAT_ACK" [])
        ∧ exec (.spdmKeyExchange q slot .keyUpdate share) s =
          .next (spdmSay (u.setSpdm t { u.spdm t with updates := (s.spdm t).updates + 1 }) t "KEY_UPDATE_ACK" [])
        ∧ exec (.spdmKeyExchange q slot .endSession share) s =
          .next (spdmSay (u.setSpdm t { u.spdm t with session := false, updates := 0 }) t "END_SESSION_ACK" []))
      ∧ (∀ slot op share, exec (.spdmKeyExchange ⟨t, v, true⟩ slot op share) s =
        .next (spdmSay u t "SPDM_ERROR_UNSUPPORTED_REQUEST" []))
      ∧ (∀ vendor cmd, vendor ≠ 0x1D7A ∨ cmd ≠ 1 → exec (.spdmSlhSignatureRequest ⟨q, vendor, cmd⟩) s =
        .next (spdmSay u t "SPDM_ERROR_UNSUPPORTED_REQUEST" []))
      ∧ ((s.spdm t).signed ≠ none →
        exec (.spdmSlhSignatureRequest ⟨q, 0x1D7A, 1⟩) s = .next (spdmSay u t "SLH_SIGNATURE" [])))
    ∧ (answers s t = false → ∀ slot nonce, exec (.spdmChallenge q slot nonce) s = .next s)

/-- R401, R415: the standard test instructions. Each is loaded: IDCODE answers the stepping, 0x0075 and the manufacturer's code,
SAMPLE/PRELOAD captures the contacts, and EXTEST, CLAMP and HIGHZ act as BYPASS while a partition exists or in STAGE 3, whenever
they were loaded. Private instructions are inert, and after the unlock the model refuses them by name. -/
def Obligations.TestAccessPort : Prop :=
  ∀ (s : State),
    (∀ k, k = .bypass ∨ k = .extest ∨ k = .clamp ∨ k = .highz →
      exec (.testAccessPortInstruction k) s = .next { s with pwr := { s.pwr with jtag := k } })
    ∧ (∀ k, s.pwr.jtag = k → k = .extest ∨ k = .clamp ∨ k = .highz →
      (stage s = 3 ∨ (∃ p : Part, partState s p ≠ 0) → jtagNow s = .bypass ∧ boundaryDrives s = none)
      ∧ (stage s ≠ 3 → (∀ p : Part, partState s p = 0) → jtagNow s = k
        ∧ boundaryDrives s = if k = .highz then none else some s.pwr.boundary))
    ∧ (s.pwr.jtag = .bypass ∨ s.pwr.jtag = .idcode ∨ s.pwr.jtag = .samplePreload → jtagNow s = s.pwr.jtag ∧ boundaryDrives s = none)
    ∧ exec (.testAccessPortInstruction .idcode) s = .next ({ s with pwr := { s.pwr with jtag := .idcode } }.emit
      (.response "IDCODE" [stepping s * 2 ^ 28 + s.get Reg.ID_DEVICE_PART * 2 ^ 12 + s.get Reg.ID_DEVICE_MANUFACTURER * 2 + 1]))
    ∧ exec (.testAccessPortInstruction .samplePreload) s =
      .next { s with pwr := { s.pwr with jtag := .samplePreload, boundary := contacts s } }
    ∧ (∀ n, s.get Reg.SEC_STATUS_TEST_OPENED = 0 → exec (.testAccessPortInstruction (.priv n)) s = .next s)
    ∧ (∀ n, s.get Reg.SEC_STATUS_TEST_OPENED ≠ 0 → exec (.testAccessPortInstruction (.priv n)) s = .refused .privateTestMode)

/-! ## The host's register accesses -/

/-- A host write (R8, R10 to R12, R430, R435, R438, R439): a write to no register and a write in STAGE 0 change nothing; any
other is judged, and what the judgement lets through goes to the register's own rule. A page's registers take writes of the
port that owns its partition only; after LOCK no RWL field is written; in Ochre mode and in STAGE 4 only what R438 lists. An
access of a size or an alignment that R10 does not allow is recorded with code 0x0C02, and a read answers with bits 1. A read of
no register, one in STAGE 0 of any but SEC_STATUS, and one of a page of the other port's partition but for SEC_PART_STATUS
return 0. -/
def Obligations.HostRegisterAccesses : Prop :=
  ∀ (s : State) (off : Nat) (w : HostWr),
    (findReg off = none → exec (.registerWrite ⟨0, off⟩ w) s = .next s)
    ∧ (stage s = 0 → exec (.registerWrite ⟨0, off⟩ w) s = .next s)
    ∧ (clocked s = true → exec (.registerWrite ⟨4, off⟩ w) s = .next (bar4Write s off w))
    ∧ (∀ u x, judge s off w = (u, some x) → exec (.registerWrite ⟨0, off⟩ w) s = .next (regRule u x)
      ∧ x.off = off ∧ u.mem = s.mem ∧ u.cmds = s.cmds ∧ u.pending = s.pending
      ∧ (∀ v ∈ x.vals, v.1.acc = .rwl → x.part < 16 → ∀ r i, findReg off = some (r, i) → r.kind ≠ .queue →
        s.get (Reg.SEC_PART_STATUS_LOCK x.part) = 0)
      ∧ (restricted s = true → ochreOk x.name = false → ∀ v ∈ x.vals, ochreField v = true)
      ∧ ∀ r i, findReg off = some (r, i) → r.kind = .part → owned s x.part = true ∧ portOf s x.part = w.port)
    ∧ (∀ u, judge s off w = (u, none) → exec (.registerWrite ⟨0, off⟩ w) s = .next u)
    ∧ (∀ acc, accessOk acc = true → exec (.registerAccessInvalid acc) s = .next s)
    ∧ (∀ acc u, accessOk acc = false → clocked s = true → stage s ≠ 0 ∨ atSecStatus acc = true → u = raise s pwrLast
        { code := 0x0C02, cls := 0, part := accessPart s acc, core := accessCore acc, unit := acc.port.num,
          detail := [acc.off, acc.bar + 256 * acc.size + (if acc.write then 65536 else 0),
            if acc.write then acc.data.toNat else 0] } →
      exec (.registerAccessInvalid acc) s =
        .next (if acc.write then u else u.emit (.readData (List.replicate acc.size 0xFF))))
    ∧ (∀ b, findReg off = none → hostRead s b off = 0)
    ∧ (∀ b r i, findReg off = some (r, i) → stage s = 0 → r.name ≠ "SEC_STATUS" → hostRead s b off = 0)
    ∧ ∀ b r i p, findReg off = some (r, i) → regPart s r i = some p → owned s p = true → portOf s p ≠ b →
      r.name ≠ "SEC_PART_STATUS" → hostRead s b off = 0

/-- The access codes (R8) on one field: a field that is written takes the value and no other field changes; RO and W1S fields
keep theirs; a 1 clears a W1C field and a 0 leaves it. -/
def Obligations.AccessCodes : Prop :=
  ∀ (s : State) (key : Nat) (f : FRow) (v : Nat), SMap.wf 0 s.regs = true →
    ((f.acc = .rw ∨ f.acc = .rwl ∨ f.acc = .wo ∨ f.acc = .ctr) → Reads (storeField s key (f, v)) (f.fld key) (v % 2 ^ (f.hi - f.lo + 1))
      ∧ (storeField s key (f, v)).isWritten (f.fld key) = true)
    ∧ (f.acc = .ro ∨ f.acc = .w1s → storeField s key (f, v) = s)
    ∧ (f.acc = .w1c → v = 1 → Reads (storeField s key (f, v)) (f.fld key) 0)
    ∧ (f.acc = .w1c → v ≠ 1 → storeField s key (f, v) = s)
    ∧ OtherFields s (storeField s key (f, v)) [f.fld key] ∧ (storeField s key (f, v)).mem = s.mem

/-! ## Error records -/

/-- R375: every record enters the module log, a ring of 512 records, over the oldest; a record charged to a partition whose ring
is enabled is written at TAIL over the owning port, with PHASE 1 on the first pass and inverted on each wrap, and VECTOR is
sent where INT_EN is 1, or pends where the port's MSI-X table masks it (R427); a full ring counts it under DROPPED. -/
def Obligations.ErrorRecords : Prop :=
  ∀ (s : State) (r : Rec) (i : Nat) (t : State), SMap.wf 0 s.regs = true → i = s.get Reg.HLT_LOG_STATUS_NEXT % 512 →
    t = logRec s r →
    (∀ w : Fin 8, Reads t (Reg.HLT_LOG_RECORD i w) ((recWords s.timeUs r).getD w 0))
    ∧ Reads t Reg.HLT_LOG_STATUS_NEXT ((i + 1) % 512)
    ∧ OtherFields s t ((List.range 8).map (Reg.HLT_LOG_RECORD i) ++ [Reg.HLT_LOG_STATUS_NEXT, Reg.HLT_LOG_STATUS_TOTAL]
      ++ if r.part < 16 then [Reg.HLT_ERR_PTR_TAIL r.part, Reg.HLT_ERR_PTR_DROPPED r.part] else [])
    ∧ t.mem = s.mem
    ∧ (¬ (r.part < 16 ∧ s.get (Reg.HLT_ERR_CTRL_ENABLE r.part) ≠ 0) → t.out = s.out)
    ∧ ∀ (size tail : Nat) (word : Nat → Nat), (∀ k, word k = msixWord s (portOf s r.part) (s.get (Reg.HLT_ERR_CTRL_VECTOR r.part)) k) →
      r.part < 16 → s.get (Reg.HLT_ERR_CTRL_ENABLE r.part) ≠ 0 →
      size = 2 ^ s.get (Reg.HLT_ERR_CTRL_LOG r.part) → tail = s.get (Reg.HLT_ERR_PTR_TAIL r.part) →
      ((tail + 1) % size = s.get (Reg.HLT_ERR_PTR_HEAD r.part) % size → t.out = s.out
        ∧ Reads t (Reg.HLT_ERR_PTR_TAIL r.part) tail
        ∧ Reads t (Reg.HLT_ERR_PTR_DROPPED r.part) (min (s.get (Reg.HLT_ERR_PTR_DROPPED r.part) + 1)
          (2 ^ (Reg.HLT_ERR_PTR_DROPPED r.part).w - 1)))
      ∧ ((tail + 1) % size ≠ s.get (Reg.HLT_ERR_PTR_HEAD r.part) % size →
        t.out = (if s.get (Reg.HLT_ERR_CTRL_INT_EN r.part) ≠ 0 ∧ word 3 % 2 = 0
            then [.msix (portOf s r.part) (s.get (Reg.HLT_ERR_CTRL_VECTOR r.part)) (word 0 + 2 ^ 32 * word 1) (word 2)] else [])
          ++ .hostWrite (portOf s r.part) (streamOf s r.part) (s.get (Reg.HLT_ERR_RING_ADDR r.part) * 64 + tail * 64)
            (((recWords s.timeUs r).headD 0 + (if SMap.get false s.errWrap r.part then 0 else 2 ^ 24))
              :: (recWords s.timeUs r).tail |>.flatMap (leBytes 8)) :: s.out
        ∧ Reads t (Reg.HLT_ERR_PTR_TAIL r.part) ((tail + 1) % size % 2 ^ (Reg.HLT_ERR_PTR_TAIL r.part).w)
        ∧ Reads t (Reg.HLT_ERR_PTR_DROPPED r.part) (s.get (Reg.HLT_ERR_PTR_DROPPED r.part))
        ∧ t.msixPend = (if s.get (Reg.HLT_ERR_CTRL_INT_EN r.part) ≠ 0 ∧ word 3 % 2 = 1
          then SMap.set false s.msixPend (2048 * (portOf s r.part).num + s.get (Reg.HLT_ERR_CTRL_VECTOR r.part)) true else s.msixPend)
        ∧ t.errWrap = if tail + 1 = size then SMap.set false s.errWrap r.part (!SMap.get false s.errWrap r.part)
          else s.errWrap)

/-! ## Power, clocks, temperatures and management -/

/-- The host links, the lane PLLs, the supply and the root clock (R25, R26, R325, R387, R406, R408, R416, R418). -/
def Obligations.LinksSupplyAndClocks : Prop :=
  ∀ (s : State) (b : Port),
    (∀ g, clocked s = true → inPerst s b = false → 4 ≤ g → g ≤ 6 → exec (.hostLinkUp b g) s =
      .next (((s.put (hostLock b) 1).put (Reg.ID_PORT_GEN b) g).put (Reg.QUE_PORT_STATUS_LINK_UP b) 1))
    ∧ exec (.hostLinkLost b) s = .next (removalNext (linkLost s b))
    ∧ (∃ u, u = (removalNext (linkLost (setPerst s b true) b)).setSpdm (.doe b) Spdm.empty
      ∧ exec (.perstAssert b) s = .next ({ u with
          msixTable := SMap.drop (fun k => k / 8192 == b.num) u.msixTable,
          msixPend := SMap.drop (fun k => k / 2048 == b.num) u.msixPend }.put (Reg.ID_PORT_GEN b) 0))
    ∧ exec (.perstRelease b) s = .next (setPerst s b false)
    ∧ exec (.lanePllLockLoss (.host b)) s = .next (removalNext (linkLost (s.put (hostLock b) 0) b))
    ∧ (∀ f h, exec (.lanePllLockLoss (.fabric f h)) s = .next (portDown ((s.put (Reg.CLK_STATUS_FAB_LANE_LOCK f h) 0).put
        (Reg.FAB_PORT_STATUS_LANES_LOCKED f) 0) f))
    ∧ (∀ cause, s.pwr.rails = true → exec (.powerLoss cause) s = .next (powerLost s (cause != .vinRemoved)))
    ∧ (s.pwr.rails = false → exec (.powerLoss .vinRemoved) s = .next { s with pwr := { s.pwr with latched := false } })
    ∧ (s.pwr.rails = false → s.pwr.latched = false → exec .powerOn s = .next ({ State.reset with
        pending := s.pending, out := s.out, free := s.free, pwr := { PwrCtx.empty with perst := s.pwr.perst } }.put
          Reg.CLK_STATUS_ROOT_LOCK 0))
    ∧ (∀ u, s.pwr.rails = true → s.pwr.rootLost = false → u = s.put Reg.CLK_STATUS_ROOT_LOCK 1 →
      exec (.rootPllLock false) s = .next u
      ∧ (stage u ≠ 0 ∨ s.pwr.zeroizing = true → exec (.rootPllLock true) s = .next u)
      ∧ (stage u = 0 → s.pwr.zeroizing = false → ∃ t up, exec (.rootPllLock true) s = .next t
        ∧ up = ((List.range 4).filter fun m => bitsOf (u.get (Reg.OAS_LINK_STATUS_MOD m)) 1 1 == 0)
        ∧ t = (((up.foldl (fun (s : State) m => s.put (Reg.OAS_LINK_STATUS_MOD m) 1) u).put
          Reg.OAS_LINK_STATUS_UP_COUNT up.length).put Reg.OAS_STATUS_READY (if up = [] then 0 else 1)).put Reg.SEC_STATUS_STAGE 1))
    ∧ (∀ ok, s.pwr.rails = false ∨ s.pwr.rootLost = true → exec (.rootPllLock ok) s = .next s)
    ∧ (clocked s = true → s.get Reg.PWR_STATUS_VIN_OK ≠ 0 → exec .vinOutOfRange s =
      .next (raise (s.put Reg.PWR_STATUS_VIN_OK 0) pwrLast { code := 0x0C20, cls := 0 }))
    ∧ (s.get Reg.PWR_STATUS_VIN_OK = 0 → exec .vinOutOfRange s = .next s)
    ∧ (clocked s = true → exec .vinBackInRange s = .next (s.put Reg.PWR_STATUS_VIN_OK 1))
    ∧ (∀ u, clocked s = true → u = (List.range 16).foldl (fun s p => teardown s p false 0) (linkLost (linkLost s .h0) .h1) →
      ∃ t, t = (((dropCommands u).put Reg.CLK_STATUS_ROOT_LOCK 0).put Reg.CLK_STATUS_REF_PRESENT 0).put Reg.SEC_STATUS_STAGE 0
      ∧ exec .rootClockLost s = .next { t with pwr := { t.pwr with rootLost := true } })
    ∧ (s.pwr.rails = true → s.pwr.rootLost = true → s.get Reg.CLK_STATUS_ROOT_LOCK = 0 →
      exec .rootPllRelock s = .next (powerUp s))
    ∧ (∀ u, s.pwr.zeroizing = true → clocked s = true →
      u = { s with pwr := { s.pwr with zeroizing := false, rootLost := false } } →
      exec (.fullZeroizationComplete []) s = .next (if s.pwr.rootLost
        then raise (u.put Reg.CLK_STATUS_ROOT_LOSS_SEEN 1) pwrLast { code := 0x0C10, cls := 3 } else u))

/-- The return to the power-up state (R400, R436): every register field reads its After power-up value but the kept ones, and no
byte of the fast tier, slow-tier key, command, launch or frame entry is left. -/
def Obligations.PowerUpState : Prop :=
  ∀ (s : State) (f : Fld),
    (f.id ∉ keptFields.map Fld.id → (powerUp s).get f = f.rst)
    ∧ (f ∈ keptFields → s.get f < 2 ^ f.w → (powerUp s).get f = s.get f)
    ∧ (∀ a, a < slowBase → SMap.get 0 (powerUp s).mem a = 0) ∧ (powerUp s).slowKeys = [] ∧ (powerUp s).cmds = [] ∧ (powerUp s).launches = [] ∧ (powerUp s).frames = []
    ∧ (powerUp s).pending = s.pending ∧ (powerUp s).out = s.out

/-- Temperatures, power control and the steps of the a-clock (R23, R24, R292, R409 to R412). -/
def Obligations.TemperaturesAndSteps : Prop :=
  ∀ (s : State),
    (∀ temps u, clocked s = true → u = (temps.take 8).zipIdx.foldl (fun s x => readDie s x.2 x.1) s →
      (temps.length ≤ 8 → exec (.dieSensorRead temps) s = .next (judgeHeat u))
      ∧ ∀ a b c rest, temps.drop 8 = a :: b :: c :: rest → exec (.dieSensorRead temps) s =
        .next (judgeHeat (((u.put Reg.THM_OTHER_POWER_STAGE a).put Reg.THM_OTHER_LPDDR b).put Reg.THM_OTHER_OASIS c)))
    ∧ (∀ temps, clocked s = true → exec (.stackSensorRead temps) s =
      .next (judgeHeat (showCoupling ((temps.take 32).zipIdx.foldl (fun s x => readStack s x.2 x.1) s))))
    ∧ (∀ (e : Erg) n, clocked s = true → exec (.dieLevelRelease e n) s =
      .next (showDie (releaseLevel s (32 + e) n (s.get (Reg.THM_DIE_TEMP e)) [94, 97, 100]) e))
    ∧ (∀ (k : Stack) n, clocked s = true → exec (.couplingLevelRelease k n) s =
      .next (showCoupling (releaseLevel s k n (s.get (Reg.THM_STACK_TEMP k)) [87, 90, 92])))
    ∧ (∀ t, clocked s = true → 35 < t → s.get Reg.THM_STATUS_INLET_HOT = 0 → ∃ u, u = s.put Reg.THM_OTHER_INLET t
      ∧ (u.get Reg.THM_STATUS_INLET_HOT = 0 → exec (.coolantInletHot t) s =
        .next (raise (u.put Reg.THM_STATUS_INLET_HOT 1) thmLast { code := 0x0C33, cls := 0 })))
    ∧ (∀ t, clocked s = true → t ≤ 35 → exec (.coolantInletNormal t) s =
      .next ((s.put Reg.THM_OTHER_INLET t).put Reg.THM_STATUS_INLET_HOT 0))
    ∧ (∀ vin iin pin icore u, clocked s = true → u = (((s.put Reg.PWR_INPUT_VIN vin).put Reg.PWR_INPUT_IIN iin).put
        Reg.PWR_INPUT_PIN pin).put Reg.PWR_INPUT_ICORE icore → u.get Reg.PWR_STATUS_CUR_LIMIT = 0 →
      (effectiveLimit u < pin → exec (.powerControlTick vin iin pin icore) s =
        .next (requestStep u (min 3 (u.get Reg.PWR_STATUS_PWR_REQ + 1))))
      ∧ (pin ≤ effectiveLimit u → 100 * pin ≤ 95 * effectiveLimit u → exec (.powerControlTick vin iin pin icore) s =
        .next (requestStep u (u.get Reg.PWR_STATUS_PWR_REQ - 1)))
      ∧ (pin ≤ effectiveLimit u → 95 * effectiveLimit u < 100 * pin →
        exec (.powerControlTick vin iin pin icore) s = .next u))
    ∧ (clocked s = true → s.get Reg.PWR_STATUS_CUR_LIMIT = 0 → exec .coreCurrentLimit s =
      .next (raise (requestStep (s.put Reg.PWR_STATUS_CUR_LIMIT 1) 3) pwrLast { code := 0x0C22, cls := 0 }))
    ∧ (clocked s = true → exec .coreCurrentLimitRelease s = .next (s.put Reg.PWR_STATUS_CUR_LIMIT 0))
    ∧ (∀ c : Core, aclocksStand s = false →
      (clocked s = true → stepGroup s c = [c.val] → tileBoundary s c = true →
        exec (.aclkStepChange c) s = .next (takeStep s [c.val]))
      ∧ (∀ cs n, clocked s = true → stepGroup s c = cs → cs ≠ [c.val] → n = (cs.map (requested s)).foldl max 0 →
        ((∀ d ∈ cs, s.get (Reg.CLK_ACLK_STEP_STEP d) = n) → exec (.caravanStepChange c) s = .next (endHold s cs))
        ∧ ((∃ d ∈ cs, s.get (Reg.CLK_ACLK_STEP_STEP d) ≠ n) → (∀ d ∈ cs, tileBoundary s d = true) →
          exec (.caravanStepChange c) s = .next (takeStep (endHold s cs) cs))
        ∧ ((∃ d ∈ cs, s.get (Reg.CLK_ACLK_STEP_STEP d) ≠ n) → (∃ d ∈ cs, tileBoundary s d = false) →
          exec (.caravanStepChange c) s = .next (holdIssue s cs)))
      ∧ (tileBoundary s c = false → exec (.aclkStepChange c) s = .next s))

/-- A step change (R24, R411): every core of the group runs at the slowest step that coupling, die temperature or power control
requests of one of them, and no other register changes. -/
def Obligations.SlowestStepOfTheGroup : Prop :=
  ∀ (s : State) (cs : List Nat), SMap.wf 0 s.regs = true → (∀ c ∈ cs, c < 128) → (∀ c ∈ cs, requested s c ≤ 3) →
    (∀ c ∈ cs, (∀ d ∈ cs, requested s d ≤ (takeStep s cs).get (Reg.CLK_ACLK_STEP_STEP c))
      ∧ ∃ d ∈ cs, (takeStep s cs).get (Reg.CLK_ACLK_STEP_STEP c) = requested s d)
    ∧ OtherFields s (takeStep s cs) (cs.map Reg.CLK_ACLK_STEP_STEP) ∧ (takeStep s cs).mem = s.mem

/-- Resets, removal and the management messages (R416, R417, R419 to R422, R425). -/
def Obligations.ResetsRemovalAndManagement : Prop :=
  ∀ (s : State), clocked s = true →
    exec .moduleResetPin s = .next (moduleReset s)
    ∧ (∀ w u x, judge s 0x10220 w = (u, some x) → x.val 0 = some 1 →
      (otherOwns u x.w.port = false → exec (.pwrResetModule w) s = .next (moduleReset u))
      ∧ (otherOwns u x.w.port = true → exec (.pwrResetModule w) s = .next (wrRecord u pwrLast 0x0C40 x [])))
    ∧ (∀ w u x, judge s 0x10218 w = (u, some x) → x.val 0 = some 1 →
      (otherOwns u x.w.port = false → exec (.pwrRemovePrepare w) s = .next (beginRemoval u))
      ∧ (otherOwns u x.w.port = true → exec (.pwrRemovePrepare w) s = .next (wrRecord u pwrLast 0x0C40 x [])))
    ∧ exec .removeReq s = .next (beginRemoval s)
    ∧ (s.get Reg.PWR_REMOVE_STATE ≠ 0 → beginRemoval s = s)
    ∧ (∀ u, s.get Reg.PWR_STATUS_MATE_SENSE ≠ 0 →
      u = raise (removeFrames (s.put Reg.PWR_STATUS_MATE_SENSE 0)) pwrLast { code := 0x0C42, cls := 3 } →
      (removeReady u = true → exec .mateSenseLost s = .next u)
      ∧ (removeReady u = false → SMap.keys u.flows = [] → exec .mateSenseLost s = .next (removalNext
        ({ u with pwr := { u.pwr with removing := true } }.put Reg.PWR_REMOVE_STATE 1))))
    ∧ (∀ w u x n, judge s 0x10210 w = (u, some x) → x.val 0 = some n →
      (600 ≤ n → n ≤ 1500 → exec (.pwrLimitWrite w) s = .next (storeAll u x))
      ∧ (n < 600 ∨ 1500 < n → exec (.pwrLimitWrite w) s = .next (wrRecord u pwrLast 0x0C23 x [])))
    ∧ (∀ a code body x, x.bus = .assign a → exec (.mctpControlMessage x code body) s = .next { s with pwr := { s.pwr with i3c := a } })
    ∧ (∀ x, addressed s x.bus = true →
      (∀ eid, x.type = 0 → 8 ≤ eid → eid < 255 → exec (.mctpControlMessage x 1 [0, eid]) s =
        .next (mctpSay { s with pwr := { s.pwr with eid := eid } } "MCTP_CONTROL" [1, 0, eid]))
      ∧ (∀ code body, x.type = 0x7E → x.vendor = s.get Reg.ID_DEVICE_VENDOR_ID → code < 1 ∨ 6 < code →
        exec (.mctpControlMessage x code body) s = .next (mctpSay s "VENDOR_DEFINED" [1]))
      ∧ (∀ code body, x.type ≠ 0 → x.type ≠ 5 → x.type ≠ 6 → x.type ≠ 0x7E ∨ x.vendor ≠ s.get Reg.ID_DEVICE_VENDOR_ID →
        exec (.mctpControlMessage x code body) s = .next (mctpSay s "MCTP_CONTROL_ERROR" [x.type])))
    ∧ (∀ x code body, (∀ a, x.bus ≠ .assign a) → addressed s x.bus = false → exec (.mctpControlMessage x code body) s = .next s)
    ∧ exec .getTelemetry s = .next (mctpSay s "GET_TELEMETRY" (0 :: telemetryRegs.map (wordAt s)))
    ∧ (∀ slot n, slot < 512 → n ≤ 8 → exec (.getLog slot n) s = .next (mctpSay s "GET_LOG"
        (0 :: (List.range n).flatMap fun i => logShown (logWords s ((slot + i) % 512)))))
    ∧ (∀ n, 600 ≤ n → n ≤ 1500 →
      exec (.setPowerLimit n) s = .next (mctpSay (s.put Reg.PWR_LIMIT_MGMT_LIMIT n) "SET_POWER_LIMIT" [0]))
    ∧ (∀ n, n < 600 ∨ 1500 < n → exec (.setPowerLimit n) s =
      .next (mctpSay (raise s pwrLast { code := 0x0C23, cls := 0 }) "SET_POWER_LIMIT" [1]))
    ∧ (s.get Reg.PWR_REMOVE_STATE ≠ 1 → exec .prepareRemoval s = .next (mctpSay (beginRemoval s) "PREPARE_REMOVAL" [0]))
    ∧ (s.get Reg.PWR_REMOVE_STATE = 1 → exec .prepareRemoval s = .next (mctpSay s "PREPARE_REMOVAL" [2]))
    ∧ exec .mctpModuleReset s = .next (mctpSay (moduleReset s) "MODULE_RESET" [0])
    ∧ (∀ ws r, s.unread = ws :: r → exec .getEvent s = .next (mctpSay { s with unread := r } "GET_EVENT" (0 :: ws)))
    ∧ (s.unread = [] → exec .getEvent s = .next (mctpSay s "GET_EVENT" [0]))
end

