-- ==== Sys2Proof/Laws/SMap.lean ====
section
/-!
SUPPORT. The laws of sparse maps: a read after a write, and the canonical form that every operation keeps.
-/

namespace Sys2Proof.Machine

theorem SMap.above_mono {α : Type} (m : SMap α) (j k : Nat) (hjk : j < k) (h : SMap.above k m = true) :
    SMap.above j m = true := by
  cases m with
  | nil => rfl
  | cons x m =>
    obtain ⟨i, u⟩ := x
    simp only [SMap.above, Bool.and_eq_true, decide_eq_true_eq] at *
    exact ⟨by omega, h.2⟩

/-- A key below every key of a map reads as the default. -/
theorem SMap.get_above {α : Type} (d : α) (m : SMap α) (j k : Nat) (h : SMap.above j m = true) (hk : k ≤ j) :
    SMap.get d m k = d := by
  induction m generalizing j with
  | nil => rfl
  | cons x m ih =>
    obtain ⟨i, u⟩ := x
    simp only [SMap.above, Bool.and_eq_true, decide_eq_true_eq] at h
    have : k ≠ i := by omega
    simp only [SMap.get, this, if_false]
    exact ih i h.2 (by omega)

theorem SMap.above_set {α : Type} [DecidableEq α] (d : α) (m : SMap α) (j k : Nat) (v : α) (h : SMap.above j m = true)
    (hk : j < k) : SMap.above j (SMap.set d m k v) = true := by
  induction m generalizing j with
  | nil => simp only [SMap.set]; split <;> simp [SMap.above, hk]
  | cons x m ih =>
    obtain ⟨i, u⟩ := x
    simp only [SMap.above, Bool.and_eq_true, decide_eq_true_eq] at h
    simp only [SMap.set]
    split
    · rename_i h1; split <;> simp [SMap.above, h.1, h.2, hk, h1]
    · split
      · rename_i h2; subst h2
        split
        · exact SMap.above_mono m j _ h.1 h.2
        · simp [SMap.above, h.2, hk]
      · simp only [SMap.above, Bool.and_eq_true, decide_eq_true_eq]
        exact ⟨h.1, ih i h.2 (by omega)⟩

/-- A write keeps the canonical form. -/
theorem SMap.wf_set {α : Type} [DecidableEq α] (d : α) (m : SMap α) (k : Nat) (v : α) (h : SMap.wf d m = true) :
    SMap.wf d (SMap.set d m k v) = true := by
  induction m with
  | nil => simp only [SMap.set]; split <;> simp_all [SMap.wf, SMap.above]
  | cons x m ih =>
    obtain ⟨i, u⟩ := x
    simp only [SMap.wf, Bool.and_eq_true, decide_eq_true_eq] at h
    obtain ⟨⟨h1, h2⟩, h3⟩ := h
    simp only [SMap.set]
    split
    · split
      · simp [SMap.wf, *]
      · simp [SMap.wf, SMap.above, *]
    · split
      · rename_i hk
        split
        · exact h3
        · subst hk; simp [SMap.wf, *]
      · simp [SMap.wf, h1, ih h3]
        exact SMap.above_set d m i k v h2 (by omega)

theorem SMap.above_drop {α : Type} (p : Nat → Bool) (m : SMap α) (j : Nat) (h : SMap.above j m = true) :
    SMap.above j (SMap.drop p m) = true := by
  induction m generalizing j with
  | nil => rfl
  | cons x m ih =>
    obtain ⟨i, u⟩ := x
    simp only [SMap.above, Bool.and_eq_true, decide_eq_true_eq] at h
    simp only [SMap.drop]
    split
    · exact SMap.above_mono _ j i h.1 (ih i h.2)
    · simp only [SMap.above, Bool.and_eq_true, decide_eq_true_eq]
      exact ⟨h.1, ih i h.2⟩

/-- Dropping entries keeps the canonical form. -/
theorem SMap.wf_drop {α : Type} [DecidableEq α] (d : α) (p : Nat → Bool) (m : SMap α) (h : SMap.wf d m = true) :
    SMap.wf d (SMap.drop p m) = true := by
  induction m with
  | nil => rfl
  | cons x m ih =>
    obtain ⟨i, u⟩ := x
    simp only [SMap.wf, Bool.and_eq_true, decide_eq_true_eq] at h
    simp only [SMap.drop]
    split
    · exact ih h.2
    · simp [SMap.wf, h.1.1, ih h.2, SMap.above_drop p m i h.1.2]

/-- A list of writes keeps the canonical form. -/
theorem SMap.wf_setAll {α : Type} [DecidableEq α] (d : α) (m : SMap α) (l : List (Nat × α)) (h : SMap.wf d m = true) :
    SMap.wf d (SMap.setAll d m l) = true := by
  induction l generalizing m with
  | nil => exact h
  | cons x l ih => exact ih _ (SMap.wf_set d m _ _ h)

/-- A read of the key just written gives the value written, in a map in canonical form. -/
theorem SMap.get_set_same {α : Type} [DecidableEq α] (d : α) (m : SMap α) (k : Nat) (v : α) (h : SMap.wf d m = true) :
    SMap.get d (SMap.set d m k v) k = v := by
  induction m with
  | nil =>
    simp only [SMap.set]
    split
    · rename_i hv; rw [hv]; rfl
    · simp [SMap.get]
  | cons x m ih =>
    obtain ⟨i, u⟩ := x
    simp only [SMap.wf, Bool.and_eq_true, decide_eq_true_eq] at h
    obtain ⟨⟨h1, h2⟩, h3⟩ := h
    simp only [SMap.set]
    split
    · rename_i hk
      split
      · rename_i hv
        have : k ≠ i := by omega
        simp only [SMap.get, this, if_false]
        rw [hv]; exact SMap.get_above d m i k h2 (by omega)
      · simp [SMap.get]
    · split
      · rename_i hk
        split
        · rename_i hv
          rw [hv]; exact SMap.get_above d m i k h2 (by omega)
        · simp [SMap.get]
      · rename_i hk
        have : k ≠ i := by omega
        simp only [SMap.get, this, if_false]
        exact ih h3

/-- A value other than the default reads as written, whatever the map. -/
theorem SMap.get_set_new {α : Type} [DecidableEq α] (d : α) (m : SMap α) (k : Nat) (v : α) (h : v ≠ d) :
    SMap.get d (SMap.set d m k v) k = v := by
  induction m with
  | nil => simp [SMap.set, SMap.get, h]
  | cons x m ih =>
    obtain ⟨j, u⟩ := x
    simp only [SMap.set]
    split
    · simp [SMap.get]
    · split
      · simp [SMap.get]
      · rename_i h2
        simp only [SMap.get, if_neg h2, ih]

/-- A write leaves every other key alone. -/
theorem SMap.get_set_other {α : Type} [DecidableEq α] (d : α) (m : SMap α) (k j : Nat) (v : α) (h : j ≠ k) :
    SMap.get d (SMap.set d m k v) j = SMap.get d m j := by
  induction m with
  | nil =>
    simp only [SMap.set]
    split
    · rfl
    · simp [SMap.get, h]
  | cons x m ih =>
    obtain ⟨i, u⟩ := x
    simp only [SMap.set]
    split
    · split
      · rfl
      · simp [SMap.get, h]
    · split
      · rename_i hk
        split
        · subst hk; simp [SMap.get, h]
        · subst hk; simp [SMap.get, h]
      · simp only [SMap.get]
        split
        · rfl
        · exact ih

/-- A dropped key reads as the default, every other as before. -/
theorem SMap.get_drop {α : Type} (d : α) (p : Nat → Bool) (m : SMap α) (k : Nat) :
    SMap.get d (SMap.drop p m) k = if p k then d else SMap.get d m k := by
  induction m with
  | nil => simp [SMap.drop, SMap.get]
  | cons x m ih =>
    obtain ⟨i, u⟩ := x
    simp only [SMap.drop]
    by_cases hk : k = i
    · subst hk
      by_cases hp : p k
      · simp [hp, ih]
      · simp [hp, SMap.get]
    · by_cases hp : p i
      · simp [hp, ih, SMap.get, hk]
      · simp [hp, SMap.get, hk, ih]

/-- A list of writes leaves the keys that it does not name alone. -/
theorem SMap.get_setAll_other {α : Type} [DecidableEq α] (d : α) (m : SMap α) (l : List (Nat × α)) (j : Nat)
    (h : j ∉ l.map Prod.fst) : SMap.get d (SMap.setAll d m l) j = SMap.get d m j := by
  induction l generalizing m with
  | nil => rfl
  | cons x l ih =>
    simp only [List.map_cons, List.mem_cons, not_or] at h
    show SMap.get d (SMap.setAll d (SMap.set d m x.1 x.2) l) j = _
    rw [ih _ h.2, SMap.get_set_other d m x.1 j x.2 h.1]

end Sys2Proof.Machine
end

