-- ==== Sys2Proof/Laws/Regs.lean ====
section
/-!
SUPPORT. Register fields: a read after a write of the same field, and of another one.
-/

namespace Sys2Proof.Machine

/-- A field reads as written, cut to its width. -/
theorem get_put_same (s : State) (f : Fld) (v : Nat) (h : SMap.wf 0 s.regs = true) : (s.put f v).get f = v % 2 ^ f.w := by
  simp only [State.get, State.put, SMap.get_set_same 0 s.regs f.id _ h, Nat.xor_assoc, Nat.xor_self, Nat.xor_zero]

/-- A write leaves every other field alone. -/
theorem get_put_other (s : State) (f g : Fld) (v : Nat) (h : g.id ≠ f.id) : (s.put f v).get g = s.get g := by
  simp only [State.get, State.put, SMap.get_set_other 0 s.regs f.id g.id _ h]

@[simp] theorem get_markWritten (s : State) (f g : Fld) : (s.markWritten f).get g = s.get g := rfl
@[simp] theorem get_emit (s : State) (o : Out) (g : Fld) : (s.emit o).get g = s.get g := rfl
@[simp] theorem get_storeAt (s : State) (as : List Nat) (bs : List Byte) (g : Fld) : (storeAt s as bs).get g = s.get g := rfl

/-- A cleared field reads its After power-up value. -/
theorem get_clear (s : State) (f : Fld) (h : SMap.wf 0 s.regs = true) (hf : f.rst < 2 ^ f.w) : (s.clear f).get f = f.rst := by
  rw [State.clear, get_put_same s f _ h, Nat.mod_eq_of_lt hf]

/-- A write keeps the register file canonical. -/
theorem wf_put (s : State) (f : Fld) (v : Nat) (h : SMap.wf 0 s.regs = true) : SMap.wf 0 (s.put f v).regs = true :=
  SMap.wf_set 0 _ _ _ h

/-- A range that is reset reads its After power-up values; the rest is left alone. -/
theorem get_resetRange (s : State) (lo hi : Nat) (f : Fld) :
    (s.resetRange lo hi).get f = if lo * 64 ≤ f.id ∧ f.id < hi * 64 then f.rst else s.get f := by
  simp only [State.get, State.resetRange, SMap.get_drop]
  by_cases h : lo * 64 ≤ f.id <;> by_cases h' : f.id < hi * 64 <;> simp [h, h']

/-- After reset every field reads its After power-up value. -/
theorem get_reset (f : Fld) : State.reset.get f = f.rst := by simp [State.get, State.reset, SMap.get]

/-- Nothing but the fields of a write changes. -/
theorem otherFields_put (s : State) (f : Fld) (v : Nat) : OtherFields s (s.put f v) [f] := by
  intro g hg
  exact get_put_other s f g v (by simpa using hg)

theorem otherFields_refl (s : State) (fs : List Fld) : OtherFields s s fs := fun _ _ => rfl

theorem otherFields_trans (s t u : State) (fs gs : List Fld) (h : OtherFields s t fs) (h' : OtherFields t u gs) :
    OtherFields s u (fs ++ gs) := by
  intro g hg
  simp only [List.map_append, List.mem_append, not_or] at hg
  rw [h' g hg.2, h g hg.1]

end Sys2Proof.Machine
end

