-- ==== Sys2Proof/Laws/Memory.lean ====
section
/-!
SUPPORT. The memory operations: each keeps the canonical form of device memory, and none changes a byte outside the addresses
it stores to.
-/

namespace Sys2Proof.Machine

/-- After reset device memory is in its canonical form. -/
theorem reset_mem_wf : Memory.wf State.reset.mem = true := rfl

/-- An access to the cache changes the cache and its clock alone. -/
theorem touch_frame (s : State) (a : Nat) (wr : Bool) :
    { touch s a wr with
      cache := s.cache
      tick := s.tick } = s := by
  unfold touch
  dsimp only
  split
  · split
    · rfl
    · split <;> rfl
  · rfl

@[simp] theorem touch_mem (s : State) (a : Nat) (wr : Bool) : (touch s a wr).mem = s.mem :=
  (congrArg State.mem (touch_frame s a wr) :)

/-- So do accesses to a list of addresses. -/
theorem touchAll_frame (s : State) (wr : Bool) (last : Nat) (as : List Nat) :
    { touchAll s wr last as with
      cache := s.cache
      tick := s.tick } = s := by
  induction as generalizing s last with
  | nil => rfl
  | cons a r ih =>
    unfold touchAll
    split
    · exact ih s last
    · have h := congrArg (fun t : State => { t with
        cache := s.cache
        tick := s.tick }) (ih (touch s a wr) (a / 64 + 1))
      exact h.trans (touch_frame s a wr)

@[simp] theorem touchAll_mem (s : State) (wr : Bool) (last : Nat) (as : List Nat) : (touchAll s wr last as).mem = s.mem :=
  (congrArg State.mem (touchAll_frame s wr last as) :)
@[simp] theorem touchAll_regs (s : State) (wr : Bool) (last : Nat) (as : List Nat) : (touchAll s wr last as).regs = s.regs :=
  (congrArg State.regs (touchAll_frame s wr last as) :)
@[simp] theorem touchAll_pending (s : State) (wr : Bool) (last : Nat) (as : List Nat) :
    (touchAll s wr last as).pending = s.pending := (congrArg State.pending (touchAll_frame s wr last as) :)
@[simp] theorem touchAll_written (s : State) (wr : Bool) (last : Nat) (as : List Nat) :
    (touchAll s wr last as).written = s.written := (congrArg State.written (touchAll_frame s wr last as) :)
@[simp] theorem touchAll_out (s : State) (wr : Bool) (last : Nat) (as : List Nat) : (touchAll s wr last as).out = s.out :=
  (congrArg State.out (touchAll_frame s wr last as) :)
@[simp] theorem touchAll_frames (s : State) (wr : Bool) (last : Nat) (as : List Nat) :
    (touchAll s wr last as).frames = s.frames := (congrArg State.frames (touchAll_frame s wr last as) :)
@[simp] theorem touchAll_frameBase (s : State) (wr : Bool) (last : Nat) (as : List Nat) :
    (touchAll s wr last as).frameBase = s.frameBase := (congrArg State.frameBase (touchAll_frame s wr last as) :)
@[simp] theorem touchAll_pageMap (s : State) (wr : Bool) (last : Nat) (as : List Nat) :
    (touchAll s wr last as).pageMap = s.pageMap := (congrArg State.pageMap (touchAll_frame s wr last as) :)

/-- What paying for an access changes: the token buckets, the count of stalls and the wait cycles of partitions. -/
def Pays (s t : State) : Prop :=
  { t with
    tokens := s.tokens
    stalls := s.stalls
    regs := s.regs } = s
  ∧ (SMap.wf 0 s.regs = true → SMap.wf 0 t.regs = true)
  ∧ ∀ f : Fld, (∀ q, f.id ≠ (Reg.MEM_PART_WAIT_CYCLES q).id) → t.get f = s.get f

theorem pays_refl (s : State) : Pays s s := ⟨rfl, id, fun _ _ => rfl⟩

theorem pays_trans {s t u : State} (h : Pays s t) (h' : Pays t u) : Pays s u := by
  refine ⟨?_, fun w => h'.2.1 (h.2.1 w), fun f hf => (h'.2.2 f hf).trans (h.2.2 f hf)⟩
  have e := congrArg (fun v : State => { v with
    tokens := s.tokens
    stalls := s.stalls
    regs := s.regs }) h'.1
  exact e.trans h.1

theorem pays_foldl {α : Type} (g : State → α → State) (hg : ∀ s x, Pays s (g s x)) (s : State) (l : List α) :
    Pays s (l.foldl g s) := by
  induction l generalizing s with
  | nil => exact pays_refl s
  | cons x l ih => exact pays_trans (hg s x) (ih (g s x))

theorem pays_bump (s : State) (p n : Nat) : Pays s (s.bumpWrap (Reg.MEM_PART_WAIT_CYCLES p) n) :=
  ⟨rfl, fun w => wf_put s _ _ w, fun f hf => get_put_other s _ f _ (hf p)⟩

/-- Paying for an access changes nothing else (R282, R283). -/
theorem pays_payTokens (s : State) (ks : List Nat) : Pays s (payTokens s ks) := by
  unfold payTokens
  dsimp only
  split
  · exact ⟨rfl, id, fun _ _ => rfl⟩
  · split
    · exact pays_trans (pays_foldl _ (fun s p => pays_bump s p 1) s _) ⟨rfl, id, fun _ _ => rfl⟩
    · refine pays_trans ?_ (pays_foldl _ (fun s p => pays_bump s p _) _ _)
      exact ⟨rfl, id, fun _ _ => rfl⟩

/-- An access changes the cache, its clock, and what paying for it changes. -/
theorem access_frame (s : State) (wr : Bool) (as : List Nat) :
    { access s wr as with
      cache := s.cache
      tick := s.tick
      tokens := s.tokens
      stalls := s.stalls
      regs := s.regs } = s := by
  have h := (pays_payTokens s (tokenKeys s wr 0 as)).1
  have e := touchAll_frame (payTokens s (tokenKeys s wr 0 as)) wr 0 as
  have e' := congrArg (fun v : State => { v with
    cache := s.cache
    tick := s.tick
    tokens := s.tokens
    stalls := s.stalls
    regs := s.regs }) e
  have h' := congrArg (fun v : State => { v with
    cache := s.cache
    tick := s.tick }) h
  exact e'.trans h'

/-- Every register field but the wait cycles reads as before an access. -/
theorem access_get (s : State) (wr : Bool) (as : List Nat) (f : Fld) (hf : ∀ q, f.id ≠ (Reg.MEM_PART_WAIT_CYCLES q).id) :
    (access s wr as).get f = s.get f := by
  have h := (pays_payTokens s (tokenKeys s wr 0 as)).2.2 f hf
  rw [← h]
  unfold access State.get
  rw [touchAll_regs]

theorem access_regs_wf (s : State) (wr : Bool) (as : List Nat) (h : SMap.wf 0 s.regs = true) :
    SMap.wf 0 (access s wr as).regs = true := by
  unfold access
  rw [touchAll_regs]
  exact (pays_payTokens s _).2.1 h

@[simp] theorem access_mem (s : State) (wr : Bool) (as : List Nat) : (access s wr as).mem = s.mem :=
  (congrArg State.mem (access_frame s wr as) :)
@[simp] theorem access_pending (s : State) (wr : Bool) (as : List Nat) : (access s wr as).pending = s.pending :=
  (congrArg State.pending (access_frame s wr as) :)
@[simp] theorem access_written (s : State) (wr : Bool) (as : List Nat) : (access s wr as).written = s.written :=
  (congrArg State.written (access_frame s wr as) :)
@[simp] theorem access_out (s : State) (wr : Bool) (as : List Nat) : (access s wr as).out = s.out :=
  (congrArg State.out (access_frame s wr as) :)
@[simp] theorem access_frames (s : State) (wr : Bool) (as : List Nat) : (access s wr as).frames = s.frames :=
  (congrArg State.frames (access_frame s wr as) :)
@[simp] theorem access_frameBase (s : State) (wr : Bool) (as : List Nat) : (access s wr as).frameBase = s.frameBase :=
  (congrArg State.frameBase (access_frame s wr as) :)
@[simp] theorem access_pageMap (s : State) (wr : Bool) (as : List Nat) : (access s wr as).pageMap = s.pageMap :=
  (congrArg State.pageMap (access_frame s wr as) :)

/-- Stored bytes keep the canonical form. -/
theorem storeAt_wf (s : State) (as : List Nat) (bs : List Byte) (h : Memory.wf s.mem = true) :
    Memory.wf (storeAt s as bs).mem = true := SMap.wf_setAll 0 _ _ h

/-- A byte outside the addresses stored to reads as before. -/
theorem storeAt_other (s : State) (as : List Nat) (bs : List Byte) (a : Nat) (h : a ∉ as) :
    SMap.get 0 (storeAt s as bs).mem a = SMap.get 0 s.mem a :=
  SMap.get_setAll_other 0 s.mem (as.zip bs) a fun hv => by
    obtain ⟨⟨b, v⟩, hb, rfl⟩ := List.mem_map.mp hv
    exact h (List.of_mem_zip hb).1

/-- What a translated offset says: the page is one of the partition's, and its frame is the partition's own (R279). -/
theorem xlate_owned (s : State) (p x a : Nat) (h : xlate s p x = some a) :
    frameState s (a / frameBytes) = some (.owned p) ∧ a % frameBytes = x % frameBytes
      ∧ x / frameBytes < s.get (Reg.MEM_PART_MAP_PAGES p) := by
  unfold xlate at h
  dsimp only at h
  split at h
  · rename_i hc
    simp only [Bool.and_eq_true, decide_eq_true_eq, beq_iff_eq] at hc
    injection h with h
    subst h
    have hf : 0 < frameBytes := by decide
    refine ⟨?_, ?_, hc.1.1⟩
    · rw [Nat.mul_comm, Nat.mul_add_div hf, Nat.div_eq_of_lt (Nat.mod_lt _ hf), Nat.add_zero]
      exact hc.2
    · rw [Nat.mul_comm, Nat.mul_add_mod, Nat.mod_mod]
  · cases h

/-- The addresses of a translated stretch, one for each byte. -/
theorem xlateAll_spec (s : State) (p x n : Nat) (as : List Nat) (h : xlateAll s p x n = some as) :
    as.length = n ∧ ∀ a ∈ as, ∃ i, i < n ∧ xlate s p (x + i) = some a := by
  induction n generalizing x as with
  | zero => cases h; simp
  | succ n ih =>
    unfold xlateAll at h
    split at h
    · rename_i a r ha hr
      injection h with h
      subst h
      obtain ⟨hl, hs⟩ := ih (x + 1) r hr
      refine ⟨by simp [hl], ?_⟩
      intro b hb
      rcases List.mem_cons.mp hb with rfl | hb
      · exact ⟨0, by omega, ha⟩
      · obtain ⟨i, hi, hx⟩ := hs b hb
        exact ⟨i + 1, by omega, by rw [← hx]; congr 1; omega⟩
    · cases h

/-- A partition's write: the addresses that its page map gives; nothing changes but memory, the cache and the token buckets. -/
theorem pWrite_cases (s t : State) (p x : Nat) (bs : List Byte) (h : pWrite s p x bs = some t) :
    ∃ as, xlateAll s p x bs.length = some as ∧ t = storeAt (access s true as) as bs := by
  unfold pWrite at h
  split at h
  · rename_i as ha
    injection h with h
    exact ⟨as, ha, h.symm⟩
  · cases h

theorem pWrite_wf (s t : State) (p x : Nat) (bs : List Byte) (h : pWrite s p x bs = some t) (hw : Memory.wf s.mem = true) :
    Memory.wf t.mem = true := by
  obtain ⟨as, _, rfl⟩ := pWrite_cases s t p x bs h
  exact storeAt_wf _ _ _ (by simpa using hw)

theorem pPut_wf (s : State) (p x n v : Nat) (h : Memory.wf s.mem = true) : Memory.wf (pPut s p x n v).mem = true := by
  unfold pPut
  cases hw : pWrite s p x (leBytes n v) with
  | none => exact h
  | some t => exact pWrite_wf s t p x _ hw h

theorem devWrite_wf (s : State) (a : Nat) (bs : List Byte) (h : Memory.wf s.mem = true) :
    Memory.wf (devWrite s a bs).mem = true := storeAt_wf _ _ _ (by simpa using h)

/-- A line that is lost keeps the canonical form. -/
theorem loseLine_wf (s : State) (ln : Nat) (h : Memory.wf s.mem = true) : Memory.wf (loseLine s ln).mem = true := by
  unfold loseLine
  dsimp only
  split
  · exact storeAt_wf _ _ _ h
  · exact h

theorem memFindAt_wf (s : State) (a : Nat) (k : MemKind) (h : Memory.wf s.mem = true) :
    Memory.wf (memFindAt s a k).1.mem = true := by
  unfold memFindAt
  dsimp only
  repeat' split
  all_goals first | exact h | exact loseLine_wf s _ h

/-- What an access finds keeps the canonical form. -/
theorem memFinds_wf (s : State) (at_ : Nat → Option Nat) (ev : MemEvent) (h : Memory.wf s.mem = true) :
    Memory.wf (memFinds s at_ ev).1.mem = true := by
  unfold memFinds
  generalize ev.finds = l
  induction l generalizing s with
  | nil => exact h
  | cons e r ih =>
    obtain ⟨i, k⟩ := e
    unfold findAll
    split
    · rename_i a _
      have ha := memFindAt_wf s a k h
      split
      · generalize memFindAt s a k = r' at ha ⊢
        obtain ⟨t, code⟩ := r'
        cases code with
        | zero => exact ih t ha
        | succ n => exact ha
      · exact ih s h
    · exact ih s h

/-- A frame that is zeroized keeps the canonical form. -/
theorem drop_mem_wf (s : State) (f : Nat → Bool) (h : Memory.wf s.mem = true) : Memory.wf (SMap.drop f s.mem) = true :=
  SMap.wf_drop 0 f s.mem h

end Sys2Proof.Machine
end

