-- ==== Sys2Proof/Laws/Records.lean ====
section
/-!
SUPPORT. Error records, and the judgement of a host write: what each of them leaves alone.
-/

namespace Sys2Proof.Machine

/-- The words of a record go into the register file alone. -/
theorem putLog_frame (s : State) (i w : Nat) (ws : List Nat) : { putLog s i w ws with regs := s.regs } = s := by
  induction ws generalizing s w with
  | nil => rfl
  | cons v r ih => exact congrArg (fun t : State => { t with regs := s.regs }) (ih (s.put (Reg.HLT_LOG_RECORD i w) v) (w + 1))

/-- Fields written together touch the register file alone. -/
theorem putAll_frame (s : State) (fs : List Fld) (v : Nat) : { s.putAll fs v with regs := s.regs } = s := by
  unfold State.putAll
  induction fs generalizing s with
  | nil => rfl
  | cons f r ih => exact congrArg (fun t : State => { t with regs := s.regs }) (ih (s.put f v))

/-- A vector: what goes to the hosts, or its pending bit. -/
theorem sendMsix_frame (s : State) (b : Port) (v : Nat) :
    { sendMsix s b v with
      out := s.out
      msixPend := s.msixPend } = s := by
  unfold sendMsix
  split <;> rfl

/-- A partition's error ring: registers, the port's memory and interrupts, and the wrap. -/
theorem ringRecord_frame (s : State) (p : Nat) (ws : List Nat) :
    { ringRecord s p ws with
      regs := s.regs
      out := s.out
      errWrap := s.errWrap
      msixPend := s.msixPend } = s := by
  let base := fun t : State => { t with
    regs := s.regs
    out := s.out
    errWrap := s.errWrap
    msixPend := s.msixPend }
  have hm : ∀ (t : State) (b : Port) (v : Nat), base t = s → base (sendMsix t b v) = s :=
    fun t b v h => (congrArg base (sendMsix_frame t b v)).trans h
  have hi : ∀ (c : Prop) [Decidable c] (t : State) (b : Port) (v : Nat), base t = s →
      base (if c then sendMsix t b v else t) = s := by
    intro c _ t b v h
    split
    · exact hm t b v h
    · exact h
  have hw : ∀ (c : Prop) [Decidable c] (t : State) (w : SMap Bool), base t = s →
      base (if c then { t with errWrap := w } else t) = s := by
    intro c _ t w h
    split <;> exact h
  unfold ringRecord
  dsimp only
  by_cases h1 : s.on (Reg.HLT_ERR_CTRL_ENABLE p)
  · rw [if_pos h1]
    split
    · rfl
    · exact hi _ _ _ _ (hw _ _ _ rfl)
  · rw [if_neg h1]

/-- A record: registers, what goes to the hosts, the unread records of the management interface and the wraps (R375). -/
theorem logRec_frame (s : State) (r : Rec) :
    { logRec s r with
      regs := s.regs
      out := s.out
      unread := s.unread
      errWrap := s.errWrap
      msixPend := s.msixPend } = s := by
  have hp := putLog_frame s (s.get Reg.HLT_LOG_STATUS_NEXT % 512) 0 (recWords s.timeUs r)
  unfold logRec
  dsimp only
  split
  · split
    · refine Eq.trans ?_ (congrArg (fun t : State => { t with
        regs := s.regs
        out := s.out
        unread := s.unread
        errWrap := s.errWrap
        msixPend := s.msixPend }) hp)
      exact congrArg (fun t : State => { t with
        regs := s.regs
        out := s.out
        unread := s.unread
        errWrap := s.errWrap
        msixPend := s.msixPend }) (ringRecord_frame _ r.part (recWords s.timeUs r))
    · refine Eq.trans ?_ (congrArg (fun t : State => { t with
        regs := s.regs
        out := s.out
        unread := s.unread
        errWrap := s.errWrap
        msixPend := s.msixPend }) hp)
      exact congrArg (fun t : State => { t with
        regs := s.regs
        out := s.out
        unread := s.unread
        errWrap := s.errWrap
        msixPend := s.msixPend }) (ringRecord_frame _ r.part (recWords s.timeUs r))
  · split
    · exact (congrArg (fun t : State => { t with
        regs := s.regs
        out := s.out
        unread := s.unread
        errWrap := s.errWrap
        msixPend := s.msixPend }) hp)
    · exact (congrArg (fun t : State => { t with
        regs := s.regs
        out := s.out
        unread := s.unread
        errWrap := s.errWrap
        msixPend := s.msixPend }) hp)

/-- A record with its LAST_CODE fields changes nothing else either. -/
theorem raise_frame (s : State) (last : List Fld) (r : Rec) :
    { raise s last r with
      regs := s.regs
      out := s.out
      unread := s.unread
      errWrap := s.errWrap
      msixPend := s.msixPend } = s :=
  (congrArg (fun t : State => { t with
    regs := s.regs
    out := s.out
    unread := s.unread
    errWrap := s.errWrap
    msixPend := s.msixPend }) (putAll_frame (logRec s r) last r.code)).trans (logRec_frame s r)

@[simp] theorem raise_mem (s : State) (last : List Fld) (r : Rec) : (raise s last r).mem = s.mem :=
  (congrArg State.mem (raise_frame s last r) :)
@[simp] theorem raise_pending (s : State) (last : List Fld) (r : Rec) : (raise s last r).pending = s.pending :=
  (congrArg State.pending (raise_frame s last r) :)
@[simp] theorem raise_written (s : State) (last : List Fld) (r : Rec) : (raise s last r).written = s.written :=
  (congrArg State.written (raise_frame s last r) :)
@[simp] theorem raise_cmds (s : State) (last : List Fld) (r : Rec) : (raise s last r).cmds = s.cmds :=
  (congrArg State.cmds (raise_frame s last r) :)
@[simp] theorem raise_launches (s : State) (last : List Fld) (r : Rec) : (raise s last r).launches = s.launches :=
  (congrArg State.launches (raise_frame s last r) :)
@[simp] theorem raise_frames (s : State) (last : List Fld) (r : Rec) : (raise s last r).frames = s.frames :=
  (congrArg State.frames (raise_frame s last r) :)
@[simp] theorem raise_flows (s : State) (last : List Fld) (r : Rec) : (raise s last r).flows = s.flows :=
  (congrArg State.flows (raise_frame s last r) :)
@[simp] theorem raise_pwr (s : State) (last : List Fld) (r : Rec) : (raise s last r).pwr = s.pwr :=
  (congrArg State.pwr (raise_frame s last r) :)
@[simp] theorem raise_sec (s : State) (last : List Fld) (r : Rec) : (raise s last r).sec = s.sec :=
  (congrArg State.sec (raise_frame s last r) :)

/-- A judgement that ends without a write in one branch was not that branch where it gives one. -/
theorem ite_none {α : Type} {c : Prop} [Decidable c] {a y : State × Option α} {s u : State} {x : α} (ha : a = (s, none))
    (h : (if c then a else y) = (u, some x)) : ¬ c ∧ y = (u, some x) := by
  by_cases hc : c
  · rw [if_pos hc, ha] at h
    simp at h
  · exact ⟨hc, by rwa [if_neg hc] at h⟩

/-- A write that is let through is the write that was judged, at a register that exists, outside STAGE 0 (R8, R387). -/
theorem judge_some {s u : State} {off : Nat} {w : HostWr} {x : Wr} (h : judge s off w = (u, some x)) :
    x.w = w ∧ x.off = off ∧ stage s ≠ 0 ∧ findReg off ≠ none := by
  unfold judge at h
  split at h
  · cases h
  · rename_i hf
    obtain ⟨c1, h⟩ := ite_none rfl h
    obtain ⟨c2, h⟩ := ite_none rfl h
    obtain ⟨c3, h⟩ := ite_none rfl h
    obtain ⟨c4, h⟩ := ite_none rfl h
    obtain ⟨c5, h⟩ := ite_none rfl h
    simp only [Prod.mk.injEq, Option.some.injEq] at h
    obtain ⟨_, rfl⟩ := h
    exact ⟨rfl, rfl, c1, by rw [hf]; exact Option.some_ne_none _⟩

/-- A write that is let through goes to the register's own rule; any other ends with the judgement. -/
theorem hostWrite_some {s u : State} {off : Nat} {w : HostWr} {x : Wr} (act : State → Wr → State)
    (h : judge s off w = (u, some x)) : hostWrite s off w act = act u x := by simp [hostWrite, h]

theorem hostWrite_none {s u : State} {off : Nat} {w : HostWr} (act : State → Wr → State) (h : judge s off w = (u, none)) :
    hostWrite s off w act = u := by simp [hostWrite, h]

/-- An instruction that issues takes its effect in its context; one that may not execute, or whose predicate is false, changes
no state (R149). -/
theorem withCtx_issues {s : State} {a : At} {fetch : Bool} {pr : Pred} {x : Ctx} (k : Ctx → State) (h : Issues s a fetch pr x) :
    withCtx s a pr fetch k = .next (k x) := by simp [withCtx, h.1, h.2]

theorem withCtx_skips {s : State} {a : At} {fetch : Bool} {pr : Pred} (k : Ctx → State)
    (h : ∀ x, tynteCtx s a fetch = some x → predHolds x.vc pr = false) : withCtx s a pr fetch k = .next s := by
  unfold withCtx
  cases hx : tynteCtx s a fetch with
  | none => rfl
  | some x => simp [h x hx]

end Sys2Proof.Machine
end

