-- ==== Sys2Proof/Laws/Keeps.lean ====
section
/-!
SUPPORT. A change of the state that leaves the queue of commands alone and keeps the canonical forms; the shared operations
are such changes, and such changes compose.
-/

namespace Sys2Proof.Machine

/-- From s to t the queue is unchanged, and t is canonical where s is. -/
def Keeps (s t : State) : Prop := t.pending = s.pending ∧ (Canonical s → Canonical t)

theorem keeps_refl (s : State) : Keeps s s := ⟨rfl, id⟩

theorem keeps_trans {s t u : State} (h : Keeps s t) (h' : Keeps t u) : Keeps s u := ⟨h'.1.trans h.1, fun c => h'.2 (h.2 c)⟩

/-- A change of anything but the queue, memory, the register file and the record of writes. -/
theorem keeps_of_eq {s t : State} (hp : t.pending = s.pending) (hm : t.mem = s.mem) (hr : t.regs = s.regs)
    (hw : t.written = s.written) : Keeps s t := ⟨hp, fun c => by rw [Canonical, hm, hr, hw]; exact c⟩

theorem keeps_foldl {α : Type} (g : State → α → State) (hg : ∀ s x, Keeps s (g s x)) (s : State) (l : List α) :
    Keeps s (l.foldl g s) := by
  induction l generalizing s with
  | nil => exact keeps_refl s
  | cons x l ih => exact keeps_trans (hg s x) (ih (g s x))

theorem keeps_put (s : State) (f : Fld) (v : Nat) : Keeps s (s.put f v) :=
  ⟨rfl, fun c => ⟨c.1, SMap.wf_set 0 _ _ _ c.2.1, c.2.2⟩⟩

theorem keeps_markWritten (s : State) (f : Fld) : Keeps s (s.markWritten f) :=
  ⟨rfl, fun c => ⟨c.1, c.2.1, SMap.wf_set false _ _ _ c.2.2⟩⟩

theorem keeps_putAll (s : State) (fs : List Fld) (v : Nat) : Keeps s (s.putAll fs v) :=
  keeps_foldl _ (fun s f => keeps_put s f v) s fs

theorem keeps_resetRange (s : State) (lo hi : Nat) : Keeps s (s.resetRange lo hi) :=
  ⟨rfl, fun c => ⟨c.1, SMap.wf_drop 0 _ _ c.2.1, SMap.wf_drop false _ _ c.2.2⟩⟩

theorem keeps_storeAt (s : State) (as : List Nat) (bs : List Byte) : Keeps s (storeAt s as bs) :=
  ⟨rfl, fun c => ⟨SMap.wf_setAll 0 _ _ c.1, c.2⟩⟩

theorem keeps_touchAll (s : State) (wr : Bool) (last : Nat) (as : List Nat) : Keeps s (touchAll s wr last as) :=
  keeps_of_eq (by simp) (by simp) (by simp) (by simp)

theorem keeps_access (s : State) (wr : Bool) (as : List Nat) : Keeps s (access s wr as) :=
  ⟨by simp, fun c => ⟨by simpa using c.1, access_regs_wf s wr as c.2.1, by simpa using c.2.2⟩⟩

theorem keeps_pWrite {s t : State} {p x : Nat} {bs : List Byte} (h : pWrite s p x bs = some t) : Keeps s t := by
  obtain ⟨as, _, rfl⟩ := pWrite_cases s t p x bs h
  exact keeps_trans (keeps_access s true as) (keeps_storeAt _ as bs)

/-- A change that its frame says leaves all but the register file alone, and keeps that canonical. -/
theorem keeps_of_regs {s t : State} (hp : t.pending = s.pending) (hm : t.mem = s.mem) (hw : t.written = s.written)
    (hr : SMap.wf 0 s.regs = true → SMap.wf 0 t.regs = true) : Keeps s t :=
  ⟨hp, fun c => by rw [Canonical, hm, hw]; exact ⟨c.1, hr c.2.1, c.2.2⟩⟩

theorem ringRecord_regs (s : State) (p : Nat) (ws : List Nat) (h : SMap.wf 0 s.regs = true) :
    SMap.wf 0 (ringRecord s p ws).regs = true := by
  unfold ringRecord
  dsimp only
  split
  · split
    · exact SMap.wf_set 0 _ _ _ h
    · have hm : ∀ (t : State) (b : Port) (v : Nat), (sendMsix t b v).regs = t.regs :=
        fun t b v => (congrArg State.regs (sendMsix_frame t b v) :)
      repeat' split
      all_goals first | exact SMap.wf_set 0 _ _ _ h | (rw [hm]; exact SMap.wf_set 0 _ _ _ h)
  · exact h

theorem logRec_regs (s : State) (r : Rec) (h : SMap.wf 0 s.regs = true) : SMap.wf 0 (logRec s r).regs = true := by
  have hp : ∀ (s : State) (i w : Nat) (ws : List Nat), SMap.wf 0 s.regs = true → SMap.wf 0 (putLog s i w ws).regs = true := by
    intro s i w ws
    induction ws generalizing s w with
    | nil => exact id
    | cons v r ih => exact fun h => ih _ (w + 1) (wf_put s _ v h)
  have hb : ∀ (s : State) (ws : List Nat) (i : Nat), SMap.wf 0 s.regs = true →
      SMap.wf 0 (((putLog s i 0 ws).put Reg.HLT_LOG_STATUS_NEXT ((i + 1) % 512)).bumpWrap Reg.HLT_LOG_STATUS_TOTAL 1).regs
        = true := fun s ws i h => wf_put _ _ _ (wf_put _ _ _ (hp s i 0 ws h))
  have hu : ∀ (t : State) (ws : List Nat), SMap.wf 0 t.regs = true →
      SMap.wf 0 (if r.cls = 3 then { t with unread := t.unread ++ [ws] } else t).regs = true := by
    intro t ws h
    split <;> exact h
  unfold logRec
  dsimp only
  split
  · exact ringRecord_regs _ _ _ (hu _ _ (hb s _ _ h))
  · exact hu _ _ (hb s _ _ h)

theorem keeps_logRec (s : State) (r : Rec) : Keeps s (logRec s r) := by
  have h := logRec_frame s r
  exact keeps_of_regs (congrArg State.pending h :) (congrArg State.mem h :) (congrArg State.written h :) (logRec_regs s r)

theorem keeps_raise (s : State) (last : List Fld) (r : Rec) : Keeps s (raise s last r) :=
  keeps_trans (keeps_logRec s r) (keeps_putAll _ _ _)

theorem keeps_storeField (s : State) (key : Nat) (x : FRow × Nat) : Keeps s (storeField s key x) := by
  unfold storeField
  dsimp only
  split
  · exact keeps_refl s
  · exact keeps_refl s
  · split
    · exact keeps_put s _ _
    · exact keeps_refl s
  · exact keeps_trans (keeps_put s _ _) (keeps_markWritten _ _)

theorem keeps_storeBut (s : State) (x : Wr) (los : List Nat) : Keeps s (storeBut s x los) :=
  keeps_foldl _ (fun s v => keeps_storeField s x.key v) s _

end Sys2Proof.Machine
end

