-- ==== Sys2Proof/Laws/Pick.lean ====
section
/-!
SUPPORT. What comes up for issue in a unit's queue (R195).
-/

namespace Sys2Proof.Machine

/-- Outside a caravan, and in a queue that one stage alone has filled, the oldest item comes up. -/
theorem pickItem_head {α : Type} (stage : α → Nat) (want ready : α → Bool) (x : α) (rest : List α)
    (hw : want x = true) (hs : ∀ y ∈ rest, stage y = stage x) :
    pickItem stage want ready (x :: rest) = some (x, rest) := by
  have hd : ((x :: rest).zipIdx.filter fun y =>
      want y.1 && !((x :: rest).take y.2).any fun z => stage z == stage y.1) = [(x, 0)] := by
    rw [List.zipIdx_cons, List.filter_cons]
    simp only [List.take_zero, List.any_nil, Bool.not_false, Bool.and_true, hw, if_true, List.cons.injEq, true_and]
    rw [List.filter_eq_nil_iff]
    rintro ⟨y, k⟩ h
    have h1 : 1 ≤ k := (List.mem_zipIdx h).1
    have h2 : y ∈ rest := List.fst_mem_of_mem_zipIdx h
    obtain ⟨n, rfl⟩ : ∃ n, k = n + 1 := ⟨k - 1, by omega⟩
    simp [hs y h2]
  unfold pickItem
  simp only [hd]
  cases hr : ready x <;> simp [List.filter, hr]

end Sys2Proof.Machine
end

