-- ==== Sys2Proof/Laws/State.lean ====
section
/-!
SUPPORT. What each named update of the state leaves alone: one lemma per field it does not touch.
-/

namespace Sys2Proof.Machine

variable (s : State)

/-! ### State.put -/

@[simp] theorem State.put_pending (f : Fld) (v : Nat) : (s.put f v).pending = s.pending := rfl
@[simp] theorem State.put_free (f : Fld) (v : Nat) : (s.put f v).free = s.free := rfl
@[simp] theorem State.put_timeUs (f : Fld) (v : Nat) : (s.put f v).timeUs = s.timeUs := rfl
@[simp] theorem State.put_written (f : Fld) (v : Nat) : (s.put f v).written = s.written := rfl
@[simp] theorem State.put_out (f : Fld) (v : Nat) : (s.put f v).out = s.out := rfl
@[simp] theorem State.put_mem (f : Fld) (v : Nat) : (s.put f v).mem = s.mem := rfl
@[simp] theorem State.put_cache (f : Fld) (v : Nat) : (s.put f v).cache = s.cache := rfl
@[simp] theorem State.put_tick (f : Fld) (v : Nat) : (s.put f v).tick = s.tick := rfl
@[simp] theorem State.put_nativePins (f : Fld) (v : Nat) : (s.put f v).nativePins = s.nativePins := rfl
@[simp] theorem State.put_frames (f : Fld) (v : Nat) : (s.put f v).frames = s.frames := rfl
@[simp] theorem State.put_frameBase (f : Fld) (v : Nat) : (s.put f v).frameBase = s.frameBase := rfl
@[simp] theorem State.put_pageMap (f : Fld) (v : Nat) : (s.put f v).pageMap = s.pageMap := rfl
@[simp] theorem State.put_mapout (f : Fld) (v : Nat) : (s.put f v).mapout = s.mapout := rfl
@[simp] theorem State.put_tokens (f : Fld) (v : Nat) : (s.put f v).tokens = s.tokens := rfl
@[simp] theorem State.put_levels (f : Fld) (v : Nat) : (s.put f v).levels = s.levels := rfl
@[simp] theorem State.put_grants (f : Fld) (v : Nat) : (s.put f v).grants = s.grants := rfl
@[simp] theorem State.put_stalls (f : Fld) (v : Nat) : (s.put f v).stalls = s.stalls := rfl
@[simp] theorem State.put_chanServed (f : Fld) (v : Nat) : (s.put f v).chanServed = s.chanServed := rfl
@[simp] theorem State.put_cmds (f : Fld) (v : Nat) : (s.put f v).cmds = s.cmds := rfl
@[simp] theorem State.put_recent (f : Fld) (v : Nat) : (s.put f v).recent = s.recent := rfl
@[simp] theorem State.put_seqs (f : Fld) (v : Nat) : (s.put f v).seqs = s.seqs := rfl
@[simp] theorem State.put_visits (f : Fld) (v : Nat) : (s.put f v).visits = s.visits := rfl
@[simp] theorem State.put_dma (f : Fld) (v : Nat) : (s.put f v).dma = s.dma := rfl
@[simp] theorem State.put_dmaEng (f : Fld) (v : Nat) : (s.put f v).dmaEng = s.dmaEng := rfl
@[simp] theorem State.put_dqs (f : Fld) (v : Nat) : (s.put f v).dqs = s.dqs := rfl
@[simp] theorem State.put_dcqCount (f : Fld) (v : Nat) : (s.put f v).dcqCount = s.dcqCount := rfl
@[simp] theorem State.put_dcqWritten (f : Fld) (v : Nat) : (s.put f v).dcqWritten = s.dcqWritten := rfl
@[simp] theorem State.put_feedLast (f : Fld) (v : Nat) : (s.put f v).feedLast = s.feedLast := rfl
@[simp] theorem State.put_stg (f : Fld) (v : Nat) : (s.put f v).stg = s.stg := rfl
@[simp] theorem State.put_gtag (f : Fld) (v : Nat) : (s.put f v).gtag = s.gtag := rfl
@[simp] theorem State.put_acc (f : Fld) (v : Nat) : (s.put f v).acc = s.acc := rfl
@[simp] theorem State.put_slots (f : Fld) (v : Nat) : (s.put f v).slots = s.slots := rfl
@[simp] theorem State.put_engs (f : Fld) (v : Nat) : (s.put f v).engs = s.engs := rfl
@[simp] theorem State.put_vec (f : Fld) (v : Nat) : (s.put f v).vec = s.vec := rfl
@[simp] theorem State.put_progs (f : Fld) (v : Nat) : (s.put f v).progs = s.progs := rfl
@[simp] theorem State.put_launches (f : Fld) (v : Nat) : (s.put f v).launches = s.launches := rfl
@[simp] theorem State.put_vcs (f : Fld) (v : Nat) : (s.put f v).vcs = s.vcs := rfl
@[simp] theorem State.put_saved (f : Fld) (v : Nat) : (s.put f v).saved = s.saved := rfl
@[simp] theorem State.put_slotOwner (f : Fld) (v : Nat) : (s.put f v).slotOwner = s.slotOwner := rfl
@[simp] theorem State.put_caravans (f : Fld) (v : Nat) : (s.put f v).caravans = s.caravans := rfl
@[simp] theorem State.put_banks (f : Fld) (v : Nat) : (s.put f v).banks = s.banks := rfl
@[simp] theorem State.put_tags (f : Fld) (v : Nat) : (s.put f v).tags = s.tags := rfl
@[simp] theorem State.put_shadows (f : Fld) (v : Nat) : (s.put f v).shadows = s.shadows := rfl
@[simp] theorem State.put_skewed (f : Fld) (v : Nat) : (s.put f v).skewed = s.skewed := rfl
@[simp] theorem State.put_mbs (f : Fld) (v : Nat) : (s.put f v).mbs = s.mbs := rfl
@[simp] theorem State.put_train (f : Fld) (v : Nat) : (s.put f v).train = s.train := rfl
@[simp] theorem State.put_oasQueues (f : Fld) (v : Nat) : (s.put f v).oasQueues = s.oasQueues := rfl
@[simp] theorem State.put_oasActive (f : Fld) (v : Nat) : (s.put f v).oasActive = s.oasActive := rfl
@[simp] theorem State.put_oasTurn (f : Fld) (v : Nat) : (s.put f v).oasTurn = s.oasTurn := rfl
@[simp] theorem State.put_oasXfers (f : Fld) (v : Nat) : (s.put f v).oasXfers = s.oasXfers := rfl
@[simp] theorem State.put_flows (f : Fld) (v : Nat) : (s.put f v).flows = s.flows := rfl
@[simp] theorem State.put_colls (f : Fld) (v : Nat) : (s.put f v).colls = s.colls := rfl
@[simp] theorem State.put_creditTurn (f : Fld) (v : Nat) : (s.put f v).creditTurn = s.creditTurn := rfl
@[simp] theorem State.put_epochs (f : Fld) (v : Nat) : (s.put f v).epochs = s.epochs := rfl
@[simp] theorem State.put_failCode (f : Fld) (v : Nat) : (s.put f v).failCode = s.failCode := rfl
@[simp] theorem State.put_heat (f : Fld) (v : Nat) : (s.put f v).heat = s.heat := rfl
@[simp] theorem State.put_sirocco (f : Fld) (v : Nat) : (s.put f v).sirocco = s.sirocco := rfl
@[simp] theorem State.put_sirSteps (f : Fld) (v : Nat) : (s.put f v).sirSteps = s.sirSteps := rfl
@[simp] theorem State.put_mirage (f : Fld) (v : Nat) : (s.put f v).mirage = s.mirage := rfl
@[simp] theorem State.put_dump (f : Fld) (v : Nat) : (s.put f v).dump = s.dump := rfl
@[simp] theorem State.put_sec (f : Fld) (v : Nat) : (s.put f v).sec = s.sec := rfl
@[simp] theorem State.put_mlogs (f : Fld) (v : Nat) : (s.put f v).mlogs = s.mlogs := rfl
@[simp] theorem State.put_span (f : Fld) (v : Nat) : (s.put f v).span = s.span := rfl
@[simp] theorem State.put_slowKeys (f : Fld) (v : Nat) : (s.put f v).slowKeys = s.slowKeys := rfl
@[simp] theorem State.put_ides (f : Fld) (v : Nat) : (s.put f v).ides = s.ides := rfl
@[simp] theorem State.put_spdms (f : Fld) (v : Nat) : (s.put f v).spdms = s.spdms := rfl
@[simp] theorem State.put_pwr (f : Fld) (v : Nat) : (s.put f v).pwr = s.pwr := rfl
@[simp] theorem State.put_unread (f : Fld) (v : Nat) : (s.put f v).unread = s.unread := rfl
@[simp] theorem State.put_errWrap (f : Fld) (v : Nat) : (s.put f v).errWrap = s.errWrap := rfl
@[simp] theorem State.put_unsig (f : Fld) (v : Nat) : (s.put f v).unsig = s.unsig := rfl
@[simp] theorem State.put_msixTable (f : Fld) (v : Nat) : (s.put f v).msixTable = s.msixTable := rfl
@[simp] theorem State.put_msixPend (f : Fld) (v : Nat) : (s.put f v).msixPend = s.msixPend := rfl
@[simp] theorem State.put_halves (f : Fld) (v : Nat) : (s.put f v).halves = s.halves := rfl
@[simp] theorem State.put_faultCode (f : Fld) (v : Nat) : (s.put f v).faultCode = s.faultCode := rfl

/-! ### State.putFree -/

@[simp] theorem State.putFree_pending (f : Fld) : (s.putFree f).pending = s.pending := rfl
@[simp] theorem State.putFree_timeUs (f : Fld) : (s.putFree f).timeUs = s.timeUs := rfl
@[simp] theorem State.putFree_written (f : Fld) : (s.putFree f).written = s.written := rfl
@[simp] theorem State.putFree_out (f : Fld) : (s.putFree f).out = s.out := rfl
@[simp] theorem State.putFree_mem (f : Fld) : (s.putFree f).mem = s.mem := rfl
@[simp] theorem State.putFree_cache (f : Fld) : (s.putFree f).cache = s.cache := rfl
@[simp] theorem State.putFree_tick (f : Fld) : (s.putFree f).tick = s.tick := rfl
@[simp] theorem State.putFree_nativePins (f : Fld) : (s.putFree f).nativePins = s.nativePins := rfl
@[simp] theorem State.putFree_frames (f : Fld) : (s.putFree f).frames = s.frames := rfl
@[simp] theorem State.putFree_frameBase (f : Fld) : (s.putFree f).frameBase = s.frameBase := rfl
@[simp] theorem State.putFree_pageMap (f : Fld) : (s.putFree f).pageMap = s.pageMap := rfl
@[simp] theorem State.putFree_mapout (f : Fld) : (s.putFree f).mapout = s.mapout := rfl
@[simp] theorem State.putFree_tokens (f : Fld) : (s.putFree f).tokens = s.tokens := rfl
@[simp] theorem State.putFree_levels (f : Fld) : (s.putFree f).levels = s.levels := rfl
@[simp] theorem State.putFree_grants (f : Fld) : (s.putFree f).grants = s.grants := rfl
@[simp] theorem State.putFree_stalls (f : Fld) : (s.putFree f).stalls = s.stalls := rfl
@[simp] theorem State.putFree_chanServed (f : Fld) : (s.putFree f).chanServed = s.chanServed := rfl
@[simp] theorem State.putFree_cmds (f : Fld) : (s.putFree f).cmds = s.cmds := rfl
@[simp] theorem State.putFree_recent (f : Fld) : (s.putFree f).recent = s.recent := rfl
@[simp] theorem State.putFree_seqs (f : Fld) : (s.putFree f).seqs = s.seqs := rfl
@[simp] theorem State.putFree_visits (f : Fld) : (s.putFree f).visits = s.visits := rfl
@[simp] theorem State.putFree_dma (f : Fld) : (s.putFree f).dma = s.dma := rfl
@[simp] theorem State.putFree_dmaEng (f : Fld) : (s.putFree f).dmaEng = s.dmaEng := rfl
@[simp] theorem State.putFree_dqs (f : Fld) : (s.putFree f).dqs = s.dqs := rfl
@[simp] theorem State.putFree_dcqCount (f : Fld) : (s.putFree f).dcqCount = s.dcqCount := rfl
@[simp] theorem State.putFree_dcqWritten (f : Fld) : (s.putFree f).dcqWritten = s.dcqWritten := rfl
@[simp] theorem State.putFree_feedLast (f : Fld) : (s.putFree f).feedLast = s.feedLast := rfl
@[simp] theorem State.putFree_stg (f : Fld) : (s.putFree f).stg = s.stg := rfl
@[simp] theorem State.putFree_gtag (f : Fld) : (s.putFree f).gtag = s.gtag := rfl
@[simp] theorem State.putFree_acc (f : Fld) : (s.putFree f).acc = s.acc := rfl
@[simp] theorem State.putFree_slots (f : Fld) : (s.putFree f).slots = s.slots := rfl
@[simp] theorem State.putFree_engs (f : Fld) : (s.putFree f).engs = s.engs := rfl
@[simp] theorem State.putFree_vec (f : Fld) : (s.putFree f).vec = s.vec := rfl
@[simp] theorem State.putFree_progs (f : Fld) : (s.putFree f).progs = s.progs := rfl
@[simp] theorem State.putFree_launches (f : Fld) : (s.putFree f).launches = s.launches := rfl
@[simp] theorem State.putFree_vcs (f : Fld) : (s.putFree f).vcs = s.vcs := rfl
@[simp] theorem State.putFree_saved (f : Fld) : (s.putFree f).saved = s.saved := rfl
@[simp] theorem State.putFree_slotOwner (f : Fld) : (s.putFree f).slotOwner = s.slotOwner := rfl
@[simp] theorem State.putFree_caravans (f : Fld) : (s.putFree f).caravans = s.caravans := rfl
@[simp] theorem State.putFree_banks (f : Fld) : (s.putFree f).banks = s.banks := rfl
@[simp] theorem State.putFree_tags (f : Fld) : (s.putFree f).tags = s.tags := rfl
@[simp] theorem State.putFree_shadows (f : Fld) : (s.putFree f).shadows = s.shadows := rfl
@[simp] theorem State.putFree_skewed (f : Fld) : (s.putFree f).skewed = s.skewed := rfl
@[simp] theorem State.putFree_mbs (f : Fld) : (s.putFree f).mbs = s.mbs := rfl
@[simp] theorem State.putFree_train (f : Fld) : (s.putFree f).train = s.train := rfl
@[simp] theorem State.putFree_oasQueues (f : Fld) : (s.putFree f).oasQueues = s.oasQueues := rfl
@[simp] theorem State.putFree_oasActive (f : Fld) : (s.putFree f).oasActive = s.oasActive := rfl
@[simp] theorem State.putFree_oasTurn (f : Fld) : (s.putFree f).oasTurn = s.oasTurn := rfl
@[simp] theorem State.putFree_oasXfers (f : Fld) : (s.putFree f).oasXfers = s.oasXfers := rfl
@[simp] theorem State.putFree_flows (f : Fld) : (s.putFree f).flows = s.flows := rfl
@[simp] theorem State.putFree_colls (f : Fld) : (s.putFree f).colls = s.colls := rfl
@[simp] theorem State.putFree_creditTurn (f : Fld) : (s.putFree f).creditTurn = s.creditTurn := rfl
@[simp] theorem State.putFree_epochs (f : Fld) : (s.putFree f).epochs = s.epochs := rfl
@[simp] theorem State.putFree_failCode (f : Fld) : (s.putFree f).failCode = s.failCode := rfl
@[simp] theorem State.putFree_heat (f : Fld) : (s.putFree f).heat = s.heat := rfl
@[simp] theorem State.putFree_sirocco (f : Fld) : (s.putFree f).sirocco = s.sirocco := rfl
@[simp] theorem State.putFree_sirSteps (f : Fld) : (s.putFree f).sirSteps = s.sirSteps := rfl
@[simp] theorem State.putFree_mirage (f : Fld) : (s.putFree f).mirage = s.mirage := rfl
@[simp] theorem State.putFree_dump (f : Fld) : (s.putFree f).dump = s.dump := rfl
@[simp] theorem State.putFree_sec (f : Fld) : (s.putFree f).sec = s.sec := rfl
@[simp] theorem State.putFree_mlogs (f : Fld) : (s.putFree f).mlogs = s.mlogs := rfl
@[simp] theorem State.putFree_span (f : Fld) : (s.putFree f).span = s.span := rfl
@[simp] theorem State.putFree_slowKeys (f : Fld) : (s.putFree f).slowKeys = s.slowKeys := rfl
@[simp] theorem State.putFree_ides (f : Fld) : (s.putFree f).ides = s.ides := rfl
@[simp] theorem State.putFree_spdms (f : Fld) : (s.putFree f).spdms = s.spdms := rfl
@[simp] theorem State.putFree_pwr (f : Fld) : (s.putFree f).pwr = s.pwr := rfl
@[simp] theorem State.putFree_unread (f : Fld) : (s.putFree f).unread = s.unread := rfl
@[simp] theorem State.putFree_errWrap (f : Fld) : (s.putFree f).errWrap = s.errWrap := rfl
@[simp] theorem State.putFree_unsig (f : Fld) : (s.putFree f).unsig = s.unsig := rfl
@[simp] theorem State.putFree_msixTable (f : Fld) : (s.putFree f).msixTable = s.msixTable := rfl
@[simp] theorem State.putFree_msixPend (f : Fld) : (s.putFree f).msixPend = s.msixPend := rfl
@[simp] theorem State.putFree_halves (f : Fld) : (s.putFree f).halves = s.halves := rfl
@[simp] theorem State.putFree_faultCode (f : Fld) : (s.putFree f).faultCode = s.faultCode := rfl

/-! ### State.markWritten -/

@[simp] theorem State.markWritten_pending (f : Fld) : (s.markWritten f).pending = s.pending := rfl
@[simp] theorem State.markWritten_free (f : Fld) : (s.markWritten f).free = s.free := rfl
@[simp] theorem State.markWritten_timeUs (f : Fld) : (s.markWritten f).timeUs = s.timeUs := rfl
@[simp] theorem State.markWritten_regs (f : Fld) : (s.markWritten f).regs = s.regs := rfl
@[simp] theorem State.markWritten_out (f : Fld) : (s.markWritten f).out = s.out := rfl
@[simp] theorem State.markWritten_mem (f : Fld) : (s.markWritten f).mem = s.mem := rfl
@[simp] theorem State.markWritten_cache (f : Fld) : (s.markWritten f).cache = s.cache := rfl
@[simp] theorem State.markWritten_tick (f : Fld) : (s.markWritten f).tick = s.tick := rfl
@[simp] theorem State.markWritten_nativePins (f : Fld) : (s.markWritten f).nativePins = s.nativePins := rfl
@[simp] theorem State.markWritten_frames (f : Fld) : (s.markWritten f).frames = s.frames := rfl
@[simp] theorem State.markWritten_frameBase (f : Fld) : (s.markWritten f).frameBase = s.frameBase := rfl
@[simp] theorem State.markWritten_pageMap (f : Fld) : (s.markWritten f).pageMap = s.pageMap := rfl
@[simp] theorem State.markWritten_mapout (f : Fld) : (s.markWritten f).mapout = s.mapout := rfl
@[simp] theorem State.markWritten_tokens (f : Fld) : (s.markWritten f).tokens = s.tokens := rfl
@[simp] theorem State.markWritten_levels (f : Fld) : (s.markWritten f).levels = s.levels := rfl
@[simp] theorem State.markWritten_grants (f : Fld) : (s.markWritten f).grants = s.grants := rfl
@[simp] theorem State.markWritten_stalls (f : Fld) : (s.markWritten f).stalls = s.stalls := rfl
@[simp] theorem State.markWritten_chanServed (f : Fld) : (s.markWritten f).chanServed = s.chanServed := rfl
@[simp] theorem State.markWritten_cmds (f : Fld) : (s.markWritten f).cmds = s.cmds := rfl
@[simp] theorem State.markWritten_recent (f : Fld) : (s.markWritten f).recent = s.recent := rfl
@[simp] theorem State.markWritten_seqs (f : Fld) : (s.markWritten f).seqs = s.seqs := rfl
@[simp] theorem State.markWritten_visits (f : Fld) : (s.markWritten f).visits = s.visits := rfl
@[simp] theorem State.markWritten_dma (f : Fld) : (s.markWritten f).dma = s.dma := rfl
@[simp] theorem State.markWritten_dmaEng (f : Fld) : (s.markWritten f).dmaEng = s.dmaEng := rfl
@[simp] theorem State.markWritten_dqs (f : Fld) : (s.markWritten f).dqs = s.dqs := rfl
@[simp] theorem State.markWritten_dcqCount (f : Fld) : (s.markWritten f).dcqCount = s.dcqCount := rfl
@[simp] theorem State.markWritten_dcqWritten (f : Fld) : (s.markWritten f).dcqWritten = s.dcqWritten := rfl
@[simp] theorem State.markWritten_feedLast (f : Fld) : (s.markWritten f).feedLast = s.feedLast := rfl
@[simp] theorem State.markWritten_stg (f : Fld) : (s.markWritten f).stg = s.stg := rfl
@[simp] theorem State.markWritten_gtag (f : Fld) : (s.markWritten f).gtag = s.gtag := rfl
@[simp] theorem State.markWritten_acc (f : Fld) : (s.markWritten f).acc = s.acc := rfl
@[simp] theorem State.markWritten_slots (f : Fld) : (s.markWritten f).slots = s.slots := rfl
@[simp] theorem State.markWritten_engs (f : Fld) : (s.markWritten f).engs = s.engs := rfl
@[simp] theorem State.markWritten_vec (f : Fld) : (s.markWritten f).vec = s.vec := rfl
@[simp] theorem State.markWritten_progs (f : Fld) : (s.markWritten f).progs = s.progs := rfl
@[simp] theorem State.markWritten_launches (f : Fld) : (s.markWritten f).launches = s.launches := rfl
@[simp] theorem State.markWritten_vcs (f : Fld) : (s.markWritten f).vcs = s.vcs := rfl
@[simp] theorem State.markWritten_saved (f : Fld) : (s.markWritten f).saved = s.saved := rfl
@[simp] theorem State.markWritten_slotOwner (f : Fld) : (s.markWritten f).slotOwner = s.slotOwner := rfl
@[simp] theorem State.markWritten_caravans (f : Fld) : (s.markWritten f).caravans = s.caravans := rfl
@[simp] theorem State.markWritten_banks (f : Fld) : (s.markWritten f).banks = s.banks := rfl
@[simp] theorem State.markWritten_tags (f : Fld) : (s.markWritten f).tags = s.tags := rfl
@[simp] theorem State.markWritten_shadows (f : Fld) : (s.markWritten f).shadows = s.shadows := rfl
@[simp] theorem State.markWritten_skewed (f : Fld) : (s.markWritten f).skewed = s.skewed := rfl
@[simp] theorem State.markWritten_mbs (f : Fld) : (s.markWritten f).mbs = s.mbs := rfl
@[simp] theorem State.markWritten_train (f : Fld) : (s.markWritten f).train = s.train := rfl
@[simp] theorem State.markWritten_oasQueues (f : Fld) : (s.markWritten f).oasQueues = s.oasQueues := rfl
@[simp] theorem State.markWritten_oasActive (f : Fld) : (s.markWritten f).oasActive = s.oasActive := rfl
@[simp] theorem State.markWritten_oasTurn (f : Fld) : (s.markWritten f).oasTurn = s.oasTurn := rfl
@[simp] theorem State.markWritten_oasXfers (f : Fld) : (s.markWritten f).oasXfers = s.oasXfers := rfl
@[simp] theorem State.markWritten_flows (f : Fld) : (s.markWritten f).flows = s.flows := rfl
@[simp] theorem State.markWritten_colls (f : Fld) : (s.markWritten f).colls = s.colls := rfl
@[simp] theorem State.markWritten_creditTurn (f : Fld) : (s.markWritten f).creditTurn = s.creditTurn := rfl
@[simp] theorem State.markWritten_epochs (f : Fld) : (s.markWritten f).epochs = s.epochs := rfl
@[simp] theorem State.markWritten_failCode (f : Fld) : (s.markWritten f).failCode = s.failCode := rfl
@[simp] theorem State.markWritten_heat (f : Fld) : (s.markWritten f).heat = s.heat := rfl
@[simp] theorem State.markWritten_sirocco (f : Fld) : (s.markWritten f).sirocco = s.sirocco := rfl
@[simp] theorem State.markWritten_sirSteps (f : Fld) : (s.markWritten f).sirSteps = s.sirSteps := rfl
@[simp] theorem State.markWritten_mirage (f : Fld) : (s.markWritten f).mirage = s.mirage := rfl
@[simp] theorem State.markWritten_dump (f : Fld) : (s.markWritten f).dump = s.dump := rfl
@[simp] theorem State.markWritten_sec (f : Fld) : (s.markWritten f).sec = s.sec := rfl
@[simp] theorem State.markWritten_mlogs (f : Fld) : (s.markWritten f).mlogs = s.mlogs := rfl
@[simp] theorem State.markWritten_span (f : Fld) : (s.markWritten f).span = s.span := rfl
@[simp] theorem State.markWritten_slowKeys (f : Fld) : (s.markWritten f).slowKeys = s.slowKeys := rfl
@[simp] theorem State.markWritten_ides (f : Fld) : (s.markWritten f).ides = s.ides := rfl
@[simp] theorem State.markWritten_spdms (f : Fld) : (s.markWritten f).spdms = s.spdms := rfl
@[simp] theorem State.markWritten_pwr (f : Fld) : (s.markWritten f).pwr = s.pwr := rfl
@[simp] theorem State.markWritten_unread (f : Fld) : (s.markWritten f).unread = s.unread := rfl
@[simp] theorem State.markWritten_errWrap (f : Fld) : (s.markWritten f).errWrap = s.errWrap := rfl
@[simp] theorem State.markWritten_unsig (f : Fld) : (s.markWritten f).unsig = s.unsig := rfl
@[simp] theorem State.markWritten_msixTable (f : Fld) : (s.markWritten f).msixTable = s.msixTable := rfl
@[simp] theorem State.markWritten_msixPend (f : Fld) : (s.markWritten f).msixPend = s.msixPend := rfl
@[simp] theorem State.markWritten_halves (f : Fld) : (s.markWritten f).halves = s.halves := rfl
@[simp] theorem State.markWritten_faultCode (f : Fld) : (s.markWritten f).faultCode = s.faultCode := rfl

/-! ### State.resetRange -/

@[simp] theorem State.resetRange_pending (lo hi : Nat) : (s.resetRange lo hi).pending = s.pending := rfl
@[simp] theorem State.resetRange_free (lo hi : Nat) : (s.resetRange lo hi).free = s.free := rfl
@[simp] theorem State.resetRange_timeUs (lo hi : Nat) : (s.resetRange lo hi).timeUs = s.timeUs := rfl
@[simp] theorem State.resetRange_out (lo hi : Nat) : (s.resetRange lo hi).out = s.out := rfl
@[simp] theorem State.resetRange_mem (lo hi : Nat) : (s.resetRange lo hi).mem = s.mem := rfl
@[simp] theorem State.resetRange_cache (lo hi : Nat) : (s.resetRange lo hi).cache = s.cache := rfl
@[simp] theorem State.resetRange_tick (lo hi : Nat) : (s.resetRange lo hi).tick = s.tick := rfl
@[simp] theorem State.resetRange_nativePins (lo hi : Nat) : (s.resetRange lo hi).nativePins = s.nativePins := rfl
@[simp] theorem State.resetRange_frames (lo hi : Nat) : (s.resetRange lo hi).frames = s.frames := rfl
@[simp] theorem State.resetRange_frameBase (lo hi : Nat) : (s.resetRange lo hi).frameBase = s.frameBase := rfl
@[simp] theorem State.resetRange_pageMap (lo hi : Nat) : (s.resetRange lo hi).pageMap = s.pageMap := rfl
@[simp] theorem State.resetRange_mapout (lo hi : Nat) : (s.resetRange lo hi).mapout = s.mapout := rfl
@[simp] theorem State.resetRange_tokens (lo hi : Nat) : (s.resetRange lo hi).tokens = s.tokens := rfl
@[simp] theorem State.resetRange_levels (lo hi : Nat) : (s.resetRange lo hi).levels = s.levels := rfl
@[simp] theorem State.resetRange_grants (lo hi : Nat) : (s.resetRange lo hi).grants = s.grants := rfl
@[simp] theorem State.resetRange_stalls (lo hi : Nat) : (s.resetRange lo hi).stalls = s.stalls := rfl
@[simp] theorem State.resetRange_chanServed (lo hi : Nat) : (s.resetRange lo hi).chanServed = s.chanServed := rfl
@[simp] theorem State.resetRange_cmds (lo hi : Nat) : (s.resetRange lo hi).cmds = s.cmds := rfl
@[simp] theorem State.resetRange_recent (lo hi : Nat) : (s.resetRange lo hi).recent = s.recent := rfl
@[simp] theorem State.resetRange_seqs (lo hi : Nat) : (s.resetRange lo hi).seqs = s.seqs := rfl
@[simp] theorem State.resetRange_visits (lo hi : Nat) : (s.resetRange lo hi).visits = s.visits := rfl
@[simp] theorem State.resetRange_dma (lo hi : Nat) : (s.resetRange lo hi).dma = s.dma := rfl
@[simp] theorem State.resetRange_dmaEng (lo hi : Nat) : (s.resetRange lo hi).dmaEng = s.dmaEng := rfl
@[simp] theorem State.resetRange_dqs (lo hi : Nat) : (s.resetRange lo hi).dqs = s.dqs := rfl
@[simp] theorem State.resetRange_dcqCount (lo hi : Nat) : (s.resetRange lo hi).dcqCount = s.dcqCount := rfl
@[simp] theorem State.resetRange_dcqWritten (lo hi : Nat) : (s.resetRange lo hi).dcqWritten = s.dcqWritten := rfl
@[simp] theorem State.resetRange_feedLast (lo hi : Nat) : (s.resetRange lo hi).feedLast = s.feedLast := rfl
@[simp] theorem State.resetRange_stg (lo hi : Nat) : (s.resetRange lo hi).stg = s.stg := rfl
@[simp] theorem State.resetRange_gtag (lo hi : Nat) : (s.resetRange lo hi).gtag = s.gtag := rfl
@[simp] theorem State.resetRange_acc (lo hi : Nat) : (s.resetRange lo hi).acc = s.acc := rfl
@[simp] theorem State.resetRange_slots (lo hi : Nat) : (s.resetRange lo hi).slots = s.slots := rfl
@[simp] theorem State.resetRange_engs (lo hi : Nat) : (s.resetRange lo hi).engs = s.engs := rfl
@[simp] theorem State.resetRange_vec (lo hi : Nat) : (s.resetRange lo hi).vec = s.vec := rfl
@[simp] theorem State.resetRange_progs (lo hi : Nat) : (s.resetRange lo hi).progs = s.progs := rfl
@[simp] theorem State.resetRange_launches (lo hi : Nat) : (s.resetRange lo hi).launches = s.launches := rfl
@[simp] theorem State.resetRange_vcs (lo hi : Nat) : (s.resetRange lo hi).vcs = s.vcs := rfl
@[simp] theorem State.resetRange_saved (lo hi : Nat) : (s.resetRange lo hi).saved = s.saved := rfl
@[simp] theorem State.resetRange_slotOwner (lo hi : Nat) : (s.resetRange lo hi).slotOwner = s.slotOwner := rfl
@[simp] theorem State.resetRange_caravans (lo hi : Nat) : (s.resetRange lo hi).caravans = s.caravans := rfl
@[simp] theorem State.resetRange_banks (lo hi : Nat) : (s.resetRange lo hi).banks = s.banks := rfl
@[simp] theorem State.resetRange_tags (lo hi : Nat) : (s.resetRange lo hi).tags = s.tags := rfl
@[simp] theorem State.resetRange_shadows (lo hi : Nat) : (s.resetRange lo hi).shadows = s.shadows := rfl
@[simp] theorem State.resetRange_skewed (lo hi : Nat) : (s.resetRange lo hi).skewed = s.skewed := rfl
@[simp] theorem State.resetRange_mbs (lo hi : Nat) : (s.resetRange lo hi).mbs = s.mbs := rfl
@[simp] theorem State.resetRange_train (lo hi : Nat) : (s.resetRange lo hi).train = s.train := rfl
@[simp] theorem State.resetRange_oasQueues (lo hi : Nat) : (s.resetRange lo hi).oasQueues = s.oasQueues := rfl
@[simp] theorem State.resetRange_oasActive (lo hi : Nat) : (s.resetRange lo hi).oasActive = s.oasActive := rfl
@[simp] theorem State.resetRange_oasTurn (lo hi : Nat) : (s.resetRange lo hi).oasTurn = s.oasTurn := rfl
@[simp] theorem State.resetRange_oasXfers (lo hi : Nat) : (s.resetRange lo hi).oasXfers = s.oasXfers := rfl
@[simp] theorem State.resetRange_flows (lo hi : Nat) : (s.resetRange lo hi).flows = s.flows := rfl
@[simp] theorem State.resetRange_colls (lo hi : Nat) : (s.resetRange lo hi).colls = s.colls := rfl
@[simp] theorem State.resetRange_creditTurn (lo hi : Nat) : (s.resetRange lo hi).creditTurn = s.creditTurn := rfl
@[simp] theorem State.resetRange_epochs (lo hi : Nat) : (s.resetRange lo hi).epochs = s.epochs := rfl
@[simp] theorem State.resetRange_failCode (lo hi : Nat) : (s.resetRange lo hi).failCode = s.failCode := rfl
@[simp] theorem State.resetRange_heat (lo hi : Nat) : (s.resetRange lo hi).heat = s.heat := rfl
@[simp] theorem State.resetRange_sirocco (lo hi : Nat) : (s.resetRange lo hi).sirocco = s.sirocco := rfl
@[simp] theorem State.resetRange_sirSteps (lo hi : Nat) : (s.resetRange lo hi).sirSteps = s.sirSteps := rfl
@[simp] theorem State.resetRange_mirage (lo hi : Nat) : (s.resetRange lo hi).mirage = s.mirage := rfl
@[simp] theorem State.resetRange_dump (lo hi : Nat) : (s.resetRange lo hi).dump = s.dump := rfl
@[simp] theorem State.resetRange_sec (lo hi : Nat) : (s.resetRange lo hi).sec = s.sec := rfl
@[simp] theorem State.resetRange_mlogs (lo hi : Nat) : (s.resetRange lo hi).mlogs = s.mlogs := rfl
@[simp] theorem State.resetRange_span (lo hi : Nat) : (s.resetRange lo hi).span = s.span := rfl
@[simp] theorem State.resetRange_slowKeys (lo hi : Nat) : (s.resetRange lo hi).slowKeys = s.slowKeys := rfl
@[simp] theorem State.resetRange_ides (lo hi : Nat) : (s.resetRange lo hi).ides = s.ides := rfl
@[simp] theorem State.resetRange_spdms (lo hi : Nat) : (s.resetRange lo hi).spdms = s.spdms := rfl
@[simp] theorem State.resetRange_pwr (lo hi : Nat) : (s.resetRange lo hi).pwr = s.pwr := rfl
@[simp] theorem State.resetRange_unread (lo hi : Nat) : (s.resetRange lo hi).unread = s.unread := rfl
@[simp] theorem State.resetRange_errWrap (lo hi : Nat) : (s.resetRange lo hi).errWrap = s.errWrap := rfl
@[simp] theorem State.resetRange_unsig (lo hi : Nat) : (s.resetRange lo hi).unsig = s.unsig := rfl
@[simp] theorem State.resetRange_msixTable (lo hi : Nat) : (s.resetRange lo hi).msixTable = s.msixTable := rfl
@[simp] theorem State.resetRange_msixPend (lo hi : Nat) : (s.resetRange lo hi).msixPend = s.msixPend := rfl
@[simp] theorem State.resetRange_halves (lo hi : Nat) : (s.resetRange lo hi).halves = s.halves := rfl
@[simp] theorem State.resetRange_faultCode (lo hi : Nat) : (s.resetRange lo hi).faultCode = s.faultCode := rfl

/-! ### State.emit -/

@[simp] theorem State.emit_pending (o : Out) : (s.emit o).pending = s.pending := rfl
@[simp] theorem State.emit_free (o : Out) : (s.emit o).free = s.free := rfl
@[simp] theorem State.emit_timeUs (o : Out) : (s.emit o).timeUs = s.timeUs := rfl
@[simp] theorem State.emit_regs (o : Out) : (s.emit o).regs = s.regs := rfl
@[simp] theorem State.emit_written (o : Out) : (s.emit o).written = s.written := rfl
@[simp] theorem State.emit_mem (o : Out) : (s.emit o).mem = s.mem := rfl
@[simp] theorem State.emit_cache (o : Out) : (s.emit o).cache = s.cache := rfl
@[simp] theorem State.emit_tick (o : Out) : (s.emit o).tick = s.tick := rfl
@[simp] theorem State.emit_nativePins (o : Out) : (s.emit o).nativePins = s.nativePins := rfl
@[simp] theorem State.emit_frames (o : Out) : (s.emit o).frames = s.frames := rfl
@[simp] theorem State.emit_frameBase (o : Out) : (s.emit o).frameBase = s.frameBase := rfl
@[simp] theorem State.emit_pageMap (o : Out) : (s.emit o).pageMap = s.pageMap := rfl
@[simp] theorem State.emit_mapout (o : Out) : (s.emit o).mapout = s.mapout := rfl
@[simp] theorem State.emit_tokens (o : Out) : (s.emit o).tokens = s.tokens := rfl
@[simp] theorem State.emit_levels (o : Out) : (s.emit o).levels = s.levels := rfl
@[simp] theorem State.emit_grants (o : Out) : (s.emit o).grants = s.grants := rfl
@[simp] theorem State.emit_stalls (o : Out) : (s.emit o).stalls = s.stalls := rfl
@[simp] theorem State.emit_chanServed (o : Out) : (s.emit o).chanServed = s.chanServed := rfl
@[simp] theorem State.emit_cmds (o : Out) : (s.emit o).cmds = s.cmds := rfl
@[simp] theorem State.emit_recent (o : Out) : (s.emit o).recent = s.recent := rfl
@[simp] theorem State.emit_seqs (o : Out) : (s.emit o).seqs = s.seqs := rfl
@[simp] theorem State.emit_visits (o : Out) : (s.emit o).visits = s.visits := rfl
@[simp] theorem State.emit_dma (o : Out) : (s.emit o).dma = s.dma := rfl
@[simp] theorem State.emit_dmaEng (o : Out) : (s.emit o).dmaEng = s.dmaEng := rfl
@[simp] theorem State.emit_dqs (o : Out) : (s.emit o).dqs = s.dqs := rfl
@[simp] theorem State.emit_dcqCount (o : Out) : (s.emit o).dcqCount = s.dcqCount := rfl
@[simp] theorem State.emit_dcqWritten (o : Out) : (s.emit o).dcqWritten = s.dcqWritten := rfl
@[simp] theorem State.emit_feedLast (o : Out) : (s.emit o).feedLast = s.feedLast := rfl
@[simp] theorem State.emit_stg (o : Out) : (s.emit o).stg = s.stg := rfl
@[simp] theorem State.emit_gtag (o : Out) : (s.emit o).gtag = s.gtag := rfl
@[simp] theorem State.emit_acc (o : Out) : (s.emit o).acc = s.acc := rfl
@[simp] theorem State.emit_slots (o : Out) : (s.emit o).slots = s.slots := rfl
@[simp] theorem State.emit_engs (o : Out) : (s.emit o).engs = s.engs := rfl
@[simp] theorem State.emit_vec (o : Out) : (s.emit o).vec = s.vec := rfl
@[simp] theorem State.emit_progs (o : Out) : (s.emit o).progs = s.progs := rfl
@[simp] theorem State.emit_launches (o : Out) : (s.emit o).launches = s.launches := rfl
@[simp] theorem State.emit_vcs (o : Out) : (s.emit o).vcs = s.vcs := rfl
@[simp] theorem State.emit_saved (o : Out) : (s.emit o).saved = s.saved := rfl
@[simp] theorem State.emit_slotOwner (o : Out) : (s.emit o).slotOwner = s.slotOwner := rfl
@[simp] theorem State.emit_caravans (o : Out) : (s.emit o).caravans = s.caravans := rfl
@[simp] theorem State.emit_banks (o : Out) : (s.emit o).banks = s.banks := rfl
@[simp] theorem State.emit_tags (o : Out) : (s.emit o).tags = s.tags := rfl
@[simp] theorem State.emit_shadows (o : Out) : (s.emit o).shadows = s.shadows := rfl
@[simp] theorem State.emit_skewed (o : Out) : (s.emit o).skewed = s.skewed := rfl
@[simp] theorem State.emit_mbs (o : Out) : (s.emit o).mbs = s.mbs := rfl
@[simp] theorem State.emit_train (o : Out) : (s.emit o).train = s.train := rfl
@[simp] theorem State.emit_oasQueues (o : Out) : (s.emit o).oasQueues = s.oasQueues := rfl
@[simp] theorem State.emit_oasActive (o : Out) : (s.emit o).oasActive = s.oasActive := rfl
@[simp] theorem State.emit_oasTurn (o : Out) : (s.emit o).oasTurn = s.oasTurn := rfl
@[simp] theorem State.emit_oasXfers (o : Out) : (s.emit o).oasXfers = s.oasXfers := rfl
@[simp] theorem State.emit_flows (o : Out) : (s.emit o).flows = s.flows := rfl
@[simp] theorem State.emit_colls (o : Out) : (s.emit o).colls = s.colls := rfl
@[simp] theorem State.emit_creditTurn (o : Out) : (s.emit o).creditTurn = s.creditTurn := rfl
@[simp] theorem State.emit_epochs (o : Out) : (s.emit o).epochs = s.epochs := rfl
@[simp] theorem State.emit_failCode (o : Out) : (s.emit o).failCode = s.failCode := rfl
@[simp] theorem State.emit_heat (o : Out) : (s.emit o).heat = s.heat := rfl
@[simp] theorem State.emit_sirocco (o : Out) : (s.emit o).sirocco = s.sirocco := rfl
@[simp] theorem State.emit_sirSteps (o : Out) : (s.emit o).sirSteps = s.sirSteps := rfl
@[simp] theorem State.emit_mirage (o : Out) : (s.emit o).mirage = s.mirage := rfl
@[simp] theorem State.emit_dump (o : Out) : (s.emit o).dump = s.dump := rfl
@[simp] theorem State.emit_sec (o : Out) : (s.emit o).sec = s.sec := rfl
@[simp] theorem State.emit_mlogs (o : Out) : (s.emit o).mlogs = s.mlogs := rfl
@[simp] theorem State.emit_span (o : Out) : (s.emit o).span = s.span := rfl
@[simp] theorem State.emit_slowKeys (o : Out) : (s.emit o).slowKeys = s.slowKeys := rfl
@[simp] theorem State.emit_ides (o : Out) : (s.emit o).ides = s.ides := rfl
@[simp] theorem State.emit_spdms (o : Out) : (s.emit o).spdms = s.spdms := rfl
@[simp] theorem State.emit_pwr (o : Out) : (s.emit o).pwr = s.pwr := rfl
@[simp] theorem State.emit_unread (o : Out) : (s.emit o).unread = s.unread := rfl
@[simp] theorem State.emit_errWrap (o : Out) : (s.emit o).errWrap = s.errWrap := rfl
@[simp] theorem State.emit_unsig (o : Out) : (s.emit o).unsig = s.unsig := rfl
@[simp] theorem State.emit_msixTable (o : Out) : (s.emit o).msixTable = s.msixTable := rfl
@[simp] theorem State.emit_msixPend (o : Out) : (s.emit o).msixPend = s.msixPend := rfl
@[simp] theorem State.emit_halves (o : Out) : (s.emit o).halves = s.halves := rfl
@[simp] theorem State.emit_faultCode (o : Out) : (s.emit o).faultCode = s.faultCode := rfl

/-! ### storeAt -/

@[simp] theorem storeAt_pending (as : List Nat) (bs : List Byte) : (storeAt s as bs).pending = s.pending := rfl
@[simp] theorem storeAt_free (as : List Nat) (bs : List Byte) : (storeAt s as bs).free = s.free := rfl
@[simp] theorem storeAt_timeUs (as : List Nat) (bs : List Byte) : (storeAt s as bs).timeUs = s.timeUs := rfl
@[simp] theorem storeAt_regs (as : List Nat) (bs : List Byte) : (storeAt s as bs).regs = s.regs := rfl
@[simp] theorem storeAt_written (as : List Nat) (bs : List Byte) : (storeAt s as bs).written = s.written := rfl
@[simp] theorem storeAt_out (as : List Nat) (bs : List Byte) : (storeAt s as bs).out = s.out := rfl
@[simp] theorem storeAt_cache (as : List Nat) (bs : List Byte) : (storeAt s as bs).cache = s.cache := rfl
@[simp] theorem storeAt_tick (as : List Nat) (bs : List Byte) : (storeAt s as bs).tick = s.tick := rfl
@[simp] theorem storeAt_nativePins (as : List Nat) (bs : List Byte) : (storeAt s as bs).nativePins = s.nativePins := rfl
@[simp] theorem storeAt_frames (as : List Nat) (bs : List Byte) : (storeAt s as bs).frames = s.frames := rfl
@[simp] theorem storeAt_frameBase (as : List Nat) (bs : List Byte) : (storeAt s as bs).frameBase = s.frameBase := rfl
@[simp] theorem storeAt_pageMap (as : List Nat) (bs : List Byte) : (storeAt s as bs).pageMap = s.pageMap := rfl
@[simp] theorem storeAt_mapout (as : List Nat) (bs : List Byte) : (storeAt s as bs).mapout = s.mapout := rfl
@[simp] theorem storeAt_tokens (as : List Nat) (bs : List Byte) : (storeAt s as bs).tokens = s.tokens := rfl
@[simp] theorem storeAt_levels (as : List Nat) (bs : List Byte) : (storeAt s as bs).levels = s.levels := rfl
@[simp] theorem storeAt_grants (as : List Nat) (bs : List Byte) : (storeAt s as bs).grants = s.grants := rfl
@[simp] theorem storeAt_stalls (as : List Nat) (bs : List Byte) : (storeAt s as bs).stalls = s.stalls := rfl
@[simp] theorem storeAt_chanServed (as : List Nat) (bs : List Byte) : (storeAt s as bs).chanServed = s.chanServed := rfl
@[simp] theorem storeAt_cmds (as : List Nat) (bs : List Byte) : (storeAt s as bs).cmds = s.cmds := rfl
@[simp] theorem storeAt_recent (as : List Nat) (bs : List Byte) : (storeAt s as bs).recent = s.recent := rfl
@[simp] theorem storeAt_seqs (as : List Nat) (bs : List Byte) : (storeAt s as bs).seqs = s.seqs := rfl
@[simp] theorem storeAt_visits (as : List Nat) (bs : List Byte) : (storeAt s as bs).visits = s.visits := rfl
@[simp] theorem storeAt_dma (as : List Nat) (bs : List Byte) : (storeAt s as bs).dma = s.dma := rfl
@[simp] theorem storeAt_dmaEng (as : List Nat) (bs : List Byte) : (storeAt s as bs).dmaEng = s.dmaEng := rfl
@[simp] theorem storeAt_dqs (as : List Nat) (bs : List Byte) : (storeAt s as bs).dqs = s.dqs := rfl
@[simp] theorem storeAt_dcqCount (as : List Nat) (bs : List Byte) : (storeAt s as bs).dcqCount = s.dcqCount := rfl
@[simp] theorem storeAt_dcqWritten (as : List Nat) (bs : List Byte) : (storeAt s as bs).dcqWritten = s.dcqWritten := rfl
@[simp] theorem storeAt_feedLast (as : List Nat) (bs : List Byte) : (storeAt s as bs).feedLast = s.feedLast := rfl
@[simp] theorem storeAt_stg (as : List Nat) (bs : List Byte) : (storeAt s as bs).stg = s.stg := rfl
@[simp] theorem storeAt_gtag (as : List Nat) (bs : List Byte) : (storeAt s as bs).gtag = s.gtag := rfl
@[simp] theorem storeAt_acc (as : List Nat) (bs : List Byte) : (storeAt s as bs).acc = s.acc := rfl
@[simp] theorem storeAt_slots (as : List Nat) (bs : List Byte) : (storeAt s as bs).slots = s.slots := rfl
@[simp] theorem storeAt_engs (as : List Nat) (bs : List Byte) : (storeAt s as bs).engs = s.engs := rfl
@[simp] theorem storeAt_vec (as : List Nat) (bs : List Byte) : (storeAt s as bs).vec = s.vec := rfl
@[simp] theorem storeAt_progs (as : List Nat) (bs : List Byte) : (storeAt s as bs).progs = s.progs := rfl
@[simp] theorem storeAt_launches (as : List Nat) (bs : List Byte) : (storeAt s as bs).launches = s.launches := rfl
@[simp] theorem storeAt_vcs (as : List Nat) (bs : List Byte) : (storeAt s as bs).vcs = s.vcs := rfl
@[simp] theorem storeAt_saved (as : List Nat) (bs : List Byte) : (storeAt s as bs).saved = s.saved := rfl
@[simp] theorem storeAt_slotOwner (as : List Nat) (bs : List Byte) : (storeAt s as bs).slotOwner = s.slotOwner := rfl
@[simp] theorem storeAt_caravans (as : List Nat) (bs : List Byte) : (storeAt s as bs).caravans = s.caravans := rfl
@[simp] theorem storeAt_banks (as : List Nat) (bs : List Byte) : (storeAt s as bs).banks = s.banks := rfl
@[simp] theorem storeAt_tags (as : List Nat) (bs : List Byte) : (storeAt s as bs).tags = s.tags := rfl
@[simp] theorem storeAt_shadows (as : List Nat) (bs : List Byte) : (storeAt s as bs).shadows = s.shadows := rfl
@[simp] theorem storeAt_skewed (as : List Nat) (bs : List Byte) : (storeAt s as bs).skewed = s.skewed := rfl
@[simp] theorem storeAt_mbs (as : List Nat) (bs : List Byte) : (storeAt s as bs).mbs = s.mbs := rfl
@[simp] theorem storeAt_train (as : List Nat) (bs : List Byte) : (storeAt s as bs).train = s.train := rfl
@[simp] theorem storeAt_oasQueues (as : List Nat) (bs : List Byte) : (storeAt s as bs).oasQueues = s.oasQueues := rfl
@[simp] theorem storeAt_oasActive (as : List Nat) (bs : List Byte) : (storeAt s as bs).oasActive = s.oasActive := rfl
@[simp] theorem storeAt_oasTurn (as : List Nat) (bs : List Byte) : (storeAt s as bs).oasTurn = s.oasTurn := rfl
@[simp] theorem storeAt_oasXfers (as : List Nat) (bs : List Byte) : (storeAt s as bs).oasXfers = s.oasXfers := rfl
@[simp] theorem storeAt_flows (as : List Nat) (bs : List Byte) : (storeAt s as bs).flows = s.flows := rfl
@[simp] theorem storeAt_colls (as : List Nat) (bs : List Byte) : (storeAt s as bs).colls = s.colls := rfl
@[simp] theorem storeAt_creditTurn (as : List Nat) (bs : List Byte) : (storeAt s as bs).creditTurn = s.creditTurn := rfl
@[simp] theorem storeAt_epochs (as : List Nat) (bs : List Byte) : (storeAt s as bs).epochs = s.epochs := rfl
@[simp] theorem storeAt_failCode (as : List Nat) (bs : List Byte) : (storeAt s as bs).failCode = s.failCode := rfl
@[simp] theorem storeAt_heat (as : List Nat) (bs : List Byte) : (storeAt s as bs).heat = s.heat := rfl
@[simp] theorem storeAt_sirocco (as : List Nat) (bs : List Byte) : (storeAt s as bs).sirocco = s.sirocco := rfl
@[simp] theorem storeAt_sirSteps (as : List Nat) (bs : List Byte) : (storeAt s as bs).sirSteps = s.sirSteps := rfl
@[simp] theorem storeAt_mirage (as : List Nat) (bs : List Byte) : (storeAt s as bs).mirage = s.mirage := rfl
@[simp] theorem storeAt_dump (as : List Nat) (bs : List Byte) : (storeAt s as bs).dump = s.dump := rfl
@[simp] theorem storeAt_sec (as : List Nat) (bs : List Byte) : (storeAt s as bs).sec = s.sec := rfl
@[simp] theorem storeAt_mlogs (as : List Nat) (bs : List Byte) : (storeAt s as bs).mlogs = s.mlogs := rfl
@[simp] theorem storeAt_span (as : List Nat) (bs : List Byte) : (storeAt s as bs).span = s.span := rfl
@[simp] theorem storeAt_slowKeys (as : List Nat) (bs : List Byte) : (storeAt s as bs).slowKeys = s.slowKeys := rfl
@[simp] theorem storeAt_ides (as : List Nat) (bs : List Byte) : (storeAt s as bs).ides = s.ides := rfl
@[simp] theorem storeAt_spdms (as : List Nat) (bs : List Byte) : (storeAt s as bs).spdms = s.spdms := rfl
@[simp] theorem storeAt_pwr (as : List Nat) (bs : List Byte) : (storeAt s as bs).pwr = s.pwr := rfl
@[simp] theorem storeAt_unread (as : List Nat) (bs : List Byte) : (storeAt s as bs).unread = s.unread := rfl
@[simp] theorem storeAt_errWrap (as : List Nat) (bs : List Byte) : (storeAt s as bs).errWrap = s.errWrap := rfl
@[simp] theorem storeAt_unsig (as : List Nat) (bs : List Byte) : (storeAt s as bs).unsig = s.unsig := rfl
@[simp] theorem storeAt_msixTable (as : List Nat) (bs : List Byte) : (storeAt s as bs).msixTable = s.msixTable := rfl
@[simp] theorem storeAt_msixPend (as : List Nat) (bs : List Byte) : (storeAt s as bs).msixPend = s.msixPend := rfl
@[simp] theorem storeAt_halves (as : List Nat) (bs : List Byte) : (storeAt s as bs).halves = s.halves := rfl
@[simp] theorem storeAt_faultCode (as : List Nat) (bs : List Byte) : (storeAt s as bs).faultCode = s.faultCode := rfl

/-! ### State.setCmd -/

@[simp] theorem State.setCmd_pending (p q : Nat) (c : Cmd) : (s.setCmd p q c).pending = s.pending := rfl
@[simp] theorem State.setCmd_free (p q : Nat) (c : Cmd) : (s.setCmd p q c).free = s.free := rfl
@[simp] theorem State.setCmd_timeUs (p q : Nat) (c : Cmd) : (s.setCmd p q c).timeUs = s.timeUs := rfl
@[simp] theorem State.setCmd_regs (p q : Nat) (c : Cmd) : (s.setCmd p q c).regs = s.regs := rfl
@[simp] theorem State.setCmd_written (p q : Nat) (c : Cmd) : (s.setCmd p q c).written = s.written := rfl
@[simp] theorem State.setCmd_out (p q : Nat) (c : Cmd) : (s.setCmd p q c).out = s.out := rfl
@[simp] theorem State.setCmd_mem (p q : Nat) (c : Cmd) : (s.setCmd p q c).mem = s.mem := rfl
@[simp] theorem State.setCmd_cache (p q : Nat) (c : Cmd) : (s.setCmd p q c).cache = s.cache := rfl
@[simp] theorem State.setCmd_tick (p q : Nat) (c : Cmd) : (s.setCmd p q c).tick = s.tick := rfl
@[simp] theorem State.setCmd_nativePins (p q : Nat) (c : Cmd) : (s.setCmd p q c).nativePins = s.nativePins := rfl
@[simp] theorem State.setCmd_frames (p q : Nat) (c : Cmd) : (s.setCmd p q c).frames = s.frames := rfl
@[simp] theorem State.setCmd_frameBase (p q : Nat) (c : Cmd) : (s.setCmd p q c).frameBase = s.frameBase := rfl
@[simp] theorem State.setCmd_pageMap (p q : Nat) (c : Cmd) : (s.setCmd p q c).pageMap = s.pageMap := rfl
@[simp] theorem State.setCmd_mapout (p q : Nat) (c : Cmd) : (s.setCmd p q c).mapout = s.mapout := rfl
@[simp] theorem State.setCmd_tokens (p q : Nat) (c : Cmd) : (s.setCmd p q c).tokens = s.tokens := rfl
@[simp] theorem State.setCmd_levels (p q : Nat) (c : Cmd) : (s.setCmd p q c).levels = s.levels := rfl
@[simp] theorem State.setCmd_grants (p q : Nat) (c : Cmd) : (s.setCmd p q c).grants = s.grants := rfl
@[simp] theorem State.setCmd_stalls (p q : Nat) (c : Cmd) : (s.setCmd p q c).stalls = s.stalls := rfl
@[simp] theorem State.setCmd_chanServed (p q : Nat) (c : Cmd) : (s.setCmd p q c).chanServed = s.chanServed := rfl
@[simp] theorem State.setCmd_recent (p q : Nat) (c : Cmd) : (s.setCmd p q c).recent = s.recent := rfl
@[simp] theorem State.setCmd_seqs (p q : Nat) (c : Cmd) : (s.setCmd p q c).seqs = s.seqs := rfl
@[simp] theorem State.setCmd_visits (p q : Nat) (c : Cmd) : (s.setCmd p q c).visits = s.visits := rfl
@[simp] theorem State.setCmd_dma (p q : Nat) (c : Cmd) : (s.setCmd p q c).dma = s.dma := rfl
@[simp] theorem State.setCmd_dmaEng (p q : Nat) (c : Cmd) : (s.setCmd p q c).dmaEng = s.dmaEng := rfl
@[simp] theorem State.setCmd_dqs (p q : Nat) (c : Cmd) : (s.setCmd p q c).dqs = s.dqs := rfl
@[simp] theorem State.setCmd_dcqCount (p q : Nat) (c : Cmd) : (s.setCmd p q c).dcqCount = s.dcqCount := rfl
@[simp] theorem State.setCmd_dcqWritten (p q : Nat) (c : Cmd) : (s.setCmd p q c).dcqWritten = s.dcqWritten := rfl
@[simp] theorem State.setCmd_feedLast (p q : Nat) (c : Cmd) : (s.setCmd p q c).feedLast = s.feedLast := rfl
@[simp] theorem State.setCmd_stg (p q : Nat) (c : Cmd) : (s.setCmd p q c).stg = s.stg := rfl
@[simp] theorem State.setCmd_gtag (p q : Nat) (c : Cmd) : (s.setCmd p q c).gtag = s.gtag := rfl
@[simp] theorem State.setCmd_acc (p q : Nat) (c : Cmd) : (s.setCmd p q c).acc = s.acc := rfl
@[simp] theorem State.setCmd_slots (p q : Nat) (c : Cmd) : (s.setCmd p q c).slots = s.slots := rfl
@[simp] theorem State.setCmd_engs (p q : Nat) (c : Cmd) : (s.setCmd p q c).engs = s.engs := rfl
@[simp] theorem State.setCmd_vec (p q : Nat) (c : Cmd) : (s.setCmd p q c).vec = s.vec := rfl
@[simp] theorem State.setCmd_progs (p q : Nat) (c : Cmd) : (s.setCmd p q c).progs = s.progs := rfl
@[simp] theorem State.setCmd_launches (p q : Nat) (c : Cmd) : (s.setCmd p q c).launches = s.launches := rfl
@[simp] theorem State.setCmd_vcs (p q : Nat) (c : Cmd) : (s.setCmd p q c).vcs = s.vcs := rfl
@[simp] theorem State.setCmd_saved (p q : Nat) (c : Cmd) : (s.setCmd p q c).saved = s.saved := rfl
@[simp] theorem State.setCmd_slotOwner (p q : Nat) (c : Cmd) : (s.setCmd p q c).slotOwner = s.slotOwner := rfl
@[simp] theorem State.setCmd_caravans (p q : Nat) (c : Cmd) : (s.setCmd p q c).caravans = s.caravans := rfl
@[simp] theorem State.setCmd_banks (p q : Nat) (c : Cmd) : (s.setCmd p q c).banks = s.banks := rfl
@[simp] theorem State.setCmd_tags (p q : Nat) (c : Cmd) : (s.setCmd p q c).tags = s.tags := rfl
@[simp] theorem State.setCmd_shadows (p q : Nat) (c : Cmd) : (s.setCmd p q c).shadows = s.shadows := rfl
@[simp] theorem State.setCmd_skewed (p q : Nat) (c : Cmd) : (s.setCmd p q c).skewed = s.skewed := rfl
@[simp] theorem State.setCmd_mbs (p q : Nat) (c : Cmd) : (s.setCmd p q c).mbs = s.mbs := rfl
@[simp] theorem State.setCmd_train (p q : Nat) (c : Cmd) : (s.setCmd p q c).train = s.train := rfl
@[simp] theorem State.setCmd_oasQueues (p q : Nat) (c : Cmd) : (s.setCmd p q c).oasQueues = s.oasQueues := rfl
@[simp] theorem State.setCmd_oasActive (p q : Nat) (c : Cmd) : (s.setCmd p q c).oasActive = s.oasActive := rfl
@[simp] theorem State.setCmd_oasTurn (p q : Nat) (c : Cmd) : (s.setCmd p q c).oasTurn = s.oasTurn := rfl
@[simp] theorem State.setCmd_oasXfers (p q : Nat) (c : Cmd) : (s.setCmd p q c).oasXfers = s.oasXfers := rfl
@[simp] theorem State.setCmd_flows (p q : Nat) (c : Cmd) : (s.setCmd p q c).flows = s.flows := rfl
@[simp] theorem State.setCmd_colls (p q : Nat) (c : Cmd) : (s.setCmd p q c).colls = s.colls := rfl
@[simp] theorem State.setCmd_creditTurn (p q : Nat) (c : Cmd) : (s.setCmd p q c).creditTurn = s.creditTurn := rfl
@[simp] theorem State.setCmd_epochs (p q : Nat) (c : Cmd) : (s.setCmd p q c).epochs = s.epochs := rfl
@[simp] theorem State.setCmd_failCode (p q : Nat) (c : Cmd) : (s.setCmd p q c).failCode = s.failCode := rfl
@[simp] theorem State.setCmd_heat (p q : Nat) (c : Cmd) : (s.setCmd p q c).heat = s.heat := rfl
@[simp] theorem State.setCmd_sirocco (p q : Nat) (c : Cmd) : (s.setCmd p q c).sirocco = s.sirocco := rfl
@[simp] theorem State.setCmd_sirSteps (p q : Nat) (c : Cmd) : (s.setCmd p q c).sirSteps = s.sirSteps := rfl
@[simp] theorem State.setCmd_mirage (p q : Nat) (c : Cmd) : (s.setCmd p q c).mirage = s.mirage := rfl
@[simp] theorem State.setCmd_dump (p q : Nat) (c : Cmd) : (s.setCmd p q c).dump = s.dump := rfl
@[simp] theorem State.setCmd_sec (p q : Nat) (c : Cmd) : (s.setCmd p q c).sec = s.sec := rfl
@[simp] theorem State.setCmd_mlogs (p q : Nat) (c : Cmd) : (s.setCmd p q c).mlogs = s.mlogs := rfl
@[simp] theorem State.setCmd_span (p q : Nat) (c : Cmd) : (s.setCmd p q c).span = s.span := rfl
@[simp] theorem State.setCmd_slowKeys (p q : Nat) (c : Cmd) : (s.setCmd p q c).slowKeys = s.slowKeys := rfl
@[simp] theorem State.setCmd_ides (p q : Nat) (c : Cmd) : (s.setCmd p q c).ides = s.ides := rfl
@[simp] theorem State.setCmd_spdms (p q : Nat) (c : Cmd) : (s.setCmd p q c).spdms = s.spdms := rfl
@[simp] theorem State.setCmd_pwr (p q : Nat) (c : Cmd) : (s.setCmd p q c).pwr = s.pwr := rfl
@[simp] theorem State.setCmd_unread (p q : Nat) (c : Cmd) : (s.setCmd p q c).unread = s.unread := rfl
@[simp] theorem State.setCmd_errWrap (p q : Nat) (c : Cmd) : (s.setCmd p q c).errWrap = s.errWrap := rfl
@[simp] theorem State.setCmd_unsig (p q : Nat) (c : Cmd) : (s.setCmd p q c).unsig = s.unsig := rfl
@[simp] theorem State.setCmd_msixTable (p q : Nat) (c : Cmd) : (s.setCmd p q c).msixTable = s.msixTable := rfl
@[simp] theorem State.setCmd_msixPend (p q : Nat) (c : Cmd) : (s.setCmd p q c).msixPend = s.msixPend := rfl
@[simp] theorem State.setCmd_halves (p q : Nat) (c : Cmd) : (s.setCmd p q c).halves = s.halves := rfl
@[simp] theorem State.setCmd_faultCode (p q : Nat) (c : Cmd) : (s.setCmd p q c).faultCode = s.faultCode := rfl

/-! ### State.setTr -/

@[simp] theorem State.setTr_pending (p : Nat) (x : TrainCtx) : (s.setTr p x).pending = s.pending := rfl
@[simp] theorem State.setTr_free (p : Nat) (x : TrainCtx) : (s.setTr p x).free = s.free := rfl
@[simp] theorem State.setTr_timeUs (p : Nat) (x : TrainCtx) : (s.setTr p x).timeUs = s.timeUs := rfl
@[simp] theorem State.setTr_regs (p : Nat) (x : TrainCtx) : (s.setTr p x).regs = s.regs := rfl
@[simp] theorem State.setTr_written (p : Nat) (x : TrainCtx) : (s.setTr p x).written = s.written := rfl
@[simp] theorem State.setTr_out (p : Nat) (x : TrainCtx) : (s.setTr p x).out = s.out := rfl
@[simp] theorem State.setTr_mem (p : Nat) (x : TrainCtx) : (s.setTr p x).mem = s.mem := rfl
@[simp] theorem State.setTr_cache (p : Nat) (x : TrainCtx) : (s.setTr p x).cache = s.cache := rfl
@[simp] theorem State.setTr_tick (p : Nat) (x : TrainCtx) : (s.setTr p x).tick = s.tick := rfl
@[simp] theorem State.setTr_nativePins (p : Nat) (x : TrainCtx) : (s.setTr p x).nativePins = s.nativePins := rfl
@[simp] theorem State.setTr_frames (p : Nat) (x : TrainCtx) : (s.setTr p x).frames = s.frames := rfl
@[simp] theorem State.setTr_frameBase (p : Nat) (x : TrainCtx) : (s.setTr p x).frameBase = s.frameBase := rfl
@[simp] theorem State.setTr_pageMap (p : Nat) (x : TrainCtx) : (s.setTr p x).pageMap = s.pageMap := rfl
@[simp] theorem State.setTr_mapout (p : Nat) (x : TrainCtx) : (s.setTr p x).mapout = s.mapout := rfl
@[simp] theorem State.setTr_tokens (p : Nat) (x : TrainCtx) : (s.setTr p x).tokens = s.tokens := rfl
@[simp] theorem State.setTr_levels (p : Nat) (x : TrainCtx) : (s.setTr p x).levels = s.levels := rfl
@[simp] theorem State.setTr_grants (p : Nat) (x : TrainCtx) : (s.setTr p x).grants = s.grants := rfl
@[simp] theorem State.setTr_stalls (p : Nat) (x : TrainCtx) : (s.setTr p x).stalls = s.stalls := rfl
@[simp] theorem State.setTr_chanServed (p : Nat) (x : TrainCtx) : (s.setTr p x).chanServed = s.chanServed := rfl
@[simp] theorem State.setTr_cmds (p : Nat) (x : TrainCtx) : (s.setTr p x).cmds = s.cmds := rfl
@[simp] theorem State.setTr_recent (p : Nat) (x : TrainCtx) : (s.setTr p x).recent = s.recent := rfl
@[simp] theorem State.setTr_seqs (p : Nat) (x : TrainCtx) : (s.setTr p x).seqs = s.seqs := rfl
@[simp] theorem State.setTr_visits (p : Nat) (x : TrainCtx) : (s.setTr p x).visits = s.visits := rfl
@[simp] theorem State.setTr_dma (p : Nat) (x : TrainCtx) : (s.setTr p x).dma = s.dma := rfl
@[simp] theorem State.setTr_dmaEng (p : Nat) (x : TrainCtx) : (s.setTr p x).dmaEng = s.dmaEng := rfl
@[simp] theorem State.setTr_dqs (p : Nat) (x : TrainCtx) : (s.setTr p x).dqs = s.dqs := rfl
@[simp] theorem State.setTr_dcqCount (p : Nat) (x : TrainCtx) : (s.setTr p x).dcqCount = s.dcqCount := rfl
@[simp] theorem State.setTr_dcqWritten (p : Nat) (x : TrainCtx) : (s.setTr p x).dcqWritten = s.dcqWritten := rfl
@[simp] theorem State.setTr_feedLast (p : Nat) (x : TrainCtx) : (s.setTr p x).feedLast = s.feedLast := rfl
@[simp] theorem State.setTr_stg (p : Nat) (x : TrainCtx) : (s.setTr p x).stg = s.stg := rfl
@[simp] theorem State.setTr_gtag (p : Nat) (x : TrainCtx) : (s.setTr p x).gtag = s.gtag := rfl
@[simp] theorem State.setTr_acc (p : Nat) (x : TrainCtx) : (s.setTr p x).acc = s.acc := rfl
@[simp] theorem State.setTr_slots (p : Nat) (x : TrainCtx) : (s.setTr p x).slots = s.slots := rfl
@[simp] theorem State.setTr_engs (p : Nat) (x : TrainCtx) : (s.setTr p x).engs = s.engs := rfl
@[simp] theorem State.setTr_vec (p : Nat) (x : TrainCtx) : (s.setTr p x).vec = s.vec := rfl
@[simp] theorem State.setTr_progs (p : Nat) (x : TrainCtx) : (s.setTr p x).progs = s.progs := rfl
@[simp] theorem State.setTr_launches (p : Nat) (x : TrainCtx) : (s.setTr p x).launches = s.launches := rfl
@[simp] theorem State.setTr_vcs (p : Nat) (x : TrainCtx) : (s.setTr p x).vcs = s.vcs := rfl
@[simp] theorem State.setTr_saved (p : Nat) (x : TrainCtx) : (s.setTr p x).saved = s.saved := rfl
@[simp] theorem State.setTr_slotOwner (p : Nat) (x : TrainCtx) : (s.setTr p x).slotOwner = s.slotOwner := rfl
@[simp] theorem State.setTr_caravans (p : Nat) (x : TrainCtx) : (s.setTr p x).caravans = s.caravans := rfl
@[simp] theorem State.setTr_banks (p : Nat) (x : TrainCtx) : (s.setTr p x).banks = s.banks := rfl
@[simp] theorem State.setTr_tags (p : Nat) (x : TrainCtx) : (s.setTr p x).tags = s.tags := rfl
@[simp] theorem State.setTr_shadows (p : Nat) (x : TrainCtx) : (s.setTr p x).shadows = s.shadows := rfl
@[simp] theorem State.setTr_skewed (p : Nat) (x : TrainCtx) : (s.setTr p x).skewed = s.skewed := rfl
@[simp] theorem State.setTr_mbs (p : Nat) (x : TrainCtx) : (s.setTr p x).mbs = s.mbs := rfl
@[simp] theorem State.setTr_oasQueues (p : Nat) (x : TrainCtx) : (s.setTr p x).oasQueues = s.oasQueues := rfl
@[simp] theorem State.setTr_oasActive (p : Nat) (x : TrainCtx) : (s.setTr p x).oasActive = s.oasActive := rfl
@[simp] theorem State.setTr_oasTurn (p : Nat) (x : TrainCtx) : (s.setTr p x).oasTurn = s.oasTurn := rfl
@[simp] theorem State.setTr_oasXfers (p : Nat) (x : TrainCtx) : (s.setTr p x).oasXfers = s.oasXfers := rfl
@[simp] theorem State.setTr_flows (p : Nat) (x : TrainCtx) : (s.setTr p x).flows = s.flows := rfl
@[simp] theorem State.setTr_colls (p : Nat) (x : TrainCtx) : (s.setTr p x).colls = s.colls := rfl
@[simp] theorem State.setTr_creditTurn (p : Nat) (x : TrainCtx) : (s.setTr p x).creditTurn = s.creditTurn := rfl
@[simp] theorem State.setTr_epochs (p : Nat) (x : TrainCtx) : (s.setTr p x).epochs = s.epochs := rfl
@[simp] theorem State.setTr_failCode (p : Nat) (x : TrainCtx) : (s.setTr p x).failCode = s.failCode := rfl
@[simp] theorem State.setTr_heat (p : Nat) (x : TrainCtx) : (s.setTr p x).heat = s.heat := rfl
@[simp] theorem State.setTr_sirocco (p : Nat) (x : TrainCtx) : (s.setTr p x).sirocco = s.sirocco := rfl
@[simp] theorem State.setTr_sirSteps (p : Nat) (x : TrainCtx) : (s.setTr p x).sirSteps = s.sirSteps := rfl
@[simp] theorem State.setTr_mirage (p : Nat) (x : TrainCtx) : (s.setTr p x).mirage = s.mirage := rfl
@[simp] theorem State.setTr_dump (p : Nat) (x : TrainCtx) : (s.setTr p x).dump = s.dump := rfl
@[simp] theorem State.setTr_sec (p : Nat) (x : TrainCtx) : (s.setTr p x).sec = s.sec := rfl
@[simp] theorem State.setTr_mlogs (p : Nat) (x : TrainCtx) : (s.setTr p x).mlogs = s.mlogs := rfl
@[simp] theorem State.setTr_span (p : Nat) (x : TrainCtx) : (s.setTr p x).span = s.span := rfl
@[simp] theorem State.setTr_slowKeys (p : Nat) (x : TrainCtx) : (s.setTr p x).slowKeys = s.slowKeys := rfl
@[simp] theorem State.setTr_ides (p : Nat) (x : TrainCtx) : (s.setTr p x).ides = s.ides := rfl
@[simp] theorem State.setTr_spdms (p : Nat) (x : TrainCtx) : (s.setTr p x).spdms = s.spdms := rfl
@[simp] theorem State.setTr_pwr (p : Nat) (x : TrainCtx) : (s.setTr p x).pwr = s.pwr := rfl
@[simp] theorem State.setTr_unread (p : Nat) (x : TrainCtx) : (s.setTr p x).unread = s.unread := rfl
@[simp] theorem State.setTr_errWrap (p : Nat) (x : TrainCtx) : (s.setTr p x).errWrap = s.errWrap := rfl
@[simp] theorem State.setTr_unsig (p : Nat) (x : TrainCtx) : (s.setTr p x).unsig = s.unsig := rfl
@[simp] theorem State.setTr_msixTable (p : Nat) (x : TrainCtx) : (s.setTr p x).msixTable = s.msixTable := rfl
@[simp] theorem State.setTr_msixPend (p : Nat) (x : TrainCtx) : (s.setTr p x).msixPend = s.msixPend := rfl
@[simp] theorem State.setTr_halves (p : Nat) (x : TrainCtx) : (s.setTr p x).halves = s.halves := rfl
@[simp] theorem State.setTr_faultCode (p : Nat) (x : TrainCtx) : (s.setTr p x).faultCode = s.faultCode := rfl

/-! ### State.setFlow -/

@[simp] theorem State.setFlow_pending (p f : Nat) (x : FlowCtx) : (s.setFlow p f x).pending = s.pending := rfl
@[simp] theorem State.setFlow_free (p f : Nat) (x : FlowCtx) : (s.setFlow p f x).free = s.free := rfl
@[simp] theorem State.setFlow_timeUs (p f : Nat) (x : FlowCtx) : (s.setFlow p f x).timeUs = s.timeUs := rfl
@[simp] theorem State.setFlow_regs (p f : Nat) (x : FlowCtx) : (s.setFlow p f x).regs = s.regs := rfl
@[simp] theorem State.setFlow_written (p f : Nat) (x : FlowCtx) : (s.setFlow p f x).written = s.written := rfl
@[simp] theorem State.setFlow_out (p f : Nat) (x : FlowCtx) : (s.setFlow p f x).out = s.out := rfl
@[simp] theorem State.setFlow_mem (p f : Nat) (x : FlowCtx) : (s.setFlow p f x).mem = s.mem := rfl
@[simp] theorem State.setFlow_cache (p f : Nat) (x : FlowCtx) : (s.setFlow p f x).cache = s.cache := rfl
@[simp] theorem State.setFlow_tick (p f : Nat) (x : FlowCtx) : (s.setFlow p f x).tick = s.tick := rfl
@[simp] theorem State.setFlow_nativePins (p f : Nat) (x : FlowCtx) : (s.setFlow p f x).nativePins = s.nativePins := rfl
@[simp] theorem State.setFlow_frames (p f : Nat) (x : FlowCtx) : (s.setFlow p f x).frames = s.frames := rfl
@[simp] theorem State.setFlow_frameBase (p f : Nat) (x : FlowCtx) : (s.setFlow p f x).frameBase = s.frameBase := rfl
@[simp] theorem State.setFlow_pageMap (p f : Nat) (x : FlowCtx) : (s.setFlow p f x).pageMap = s.pageMap := rfl
@[simp] theorem State.setFlow_mapout (p f : Nat) (x : FlowCtx) : (s.setFlow p f x).mapout = s.mapout := rfl
@[simp] theorem State.setFlow_tokens (p f : Nat) (x : FlowCtx) : (s.setFlow p f x).tokens = s.tokens := rfl
@[simp] theorem State.setFlow_levels (p f : Nat) (x : FlowCtx) : (s.setFlow p f x).levels = s.levels := rfl
@[simp] theorem State.setFlow_grants (p f : Nat) (x : FlowCtx) : (s.setFlow p f x).grants = s.grants := rfl
@[simp] theorem State.setFlow_stalls (p f : Nat) (x : FlowCtx) : (s.setFlow p f x).stalls = s.stalls := rfl
@[simp] theorem State.setFlow_chanServed (p f : Nat) (x : FlowCtx) : (s.setFlow p f x).chanServed = s.chanServed := rfl
@[simp] theorem State.setFlow_cmds (p f : Nat) (x : FlowCtx) : (s.setFlow p f x).cmds = s.cmds := rfl
@[simp] theorem State.setFlow_recent (p f : Nat) (x : FlowCtx) : (s.setFlow p f x).recent = s.recent := rfl
@[simp] theorem State.setFlow_seqs (p f : Nat) (x : FlowCtx) : (s.setFlow p f x).seqs = s.seqs := rfl
@[simp] theorem State.setFlow_visits (p f : Nat) (x : FlowCtx) : (s.setFlow p f x).visits = s.visits := rfl
@[simp] theorem State.setFlow_dma (p f : Nat) (x : FlowCtx) : (s.setFlow p f x).dma = s.dma := rfl
@[simp] theorem State.setFlow_dmaEng (p f : Nat) (x : FlowCtx) : (s.setFlow p f x).dmaEng = s.dmaEng := rfl
@[simp] theorem State.setFlow_dqs (p f : Nat) (x : FlowCtx) : (s.setFlow p f x).dqs = s.dqs := rfl
@[simp] theorem State.setFlow_dcqCount (p f : Nat) (x : FlowCtx) : (s.setFlow p f x).dcqCount = s.dcqCount := rfl
@[simp] theorem State.setFlow_dcqWritten (p f : Nat) (x : FlowCtx) : (s.setFlow p f x).dcqWritten = s.dcqWritten := rfl
@[simp] theorem State.setFlow_feedLast (p f : Nat) (x : FlowCtx) : (s.setFlow p f x).feedLast = s.feedLast := rfl
@[simp] theorem State.setFlow_stg (p f : Nat) (x : FlowCtx) : (s.setFlow p f x).stg = s.stg := rfl
@[simp] theorem State.setFlow_gtag (p f : Nat) (x : FlowCtx) : (s.setFlow p f x).gtag = s.gtag := rfl
@[simp] theorem State.setFlow_acc (p f : Nat) (x : FlowCtx) : (s.setFlow p f x).acc = s.acc := rfl
@[simp] theorem State.setFlow_slots (p f : Nat) (x : FlowCtx) : (s.setFlow p f x).slots = s.slots := rfl
@[simp] theorem State.setFlow_engs (p f : Nat) (x : FlowCtx) : (s.setFlow p f x).engs = s.engs := rfl
@[simp] theorem State.setFlow_vec (p f : Nat) (x : FlowCtx) : (s.setFlow p f x).vec = s.vec := rfl
@[simp] theorem State.setFlow_progs (p f : Nat) (x : FlowCtx) : (s.setFlow p f x).progs = s.progs := rfl
@[simp] theorem State.setFlow_launches (p f : Nat) (x : FlowCtx) : (s.setFlow p f x).launches = s.launches := rfl
@[simp] theorem State.setFlow_vcs (p f : Nat) (x : FlowCtx) : (s.setFlow p f x).vcs = s.vcs := rfl
@[simp] theorem State.setFlow_saved (p f : Nat) (x : FlowCtx) : (s.setFlow p f x).saved = s.saved := rfl
@[simp] theorem State.setFlow_slotOwner (p f : Nat) (x : FlowCtx) : (s.setFlow p f x).slotOwner = s.slotOwner := rfl
@[simp] theorem State.setFlow_caravans (p f : Nat) (x : FlowCtx) : (s.setFlow p f x).caravans = s.caravans := rfl
@[simp] theorem State.setFlow_banks (p f : Nat) (x : FlowCtx) : (s.setFlow p f x).banks = s.banks := rfl
@[simp] theorem State.setFlow_tags (p f : Nat) (x : FlowCtx) : (s.setFlow p f x).tags = s.tags := rfl
@[simp] theorem State.setFlow_shadows (p f : Nat) (x : FlowCtx) : (s.setFlow p f x).shadows = s.shadows := rfl
@[simp] theorem State.setFlow_skewed (p f : Nat) (x : FlowCtx) : (s.setFlow p f x).skewed = s.skewed := rfl
@[simp] theorem State.setFlow_mbs (p f : Nat) (x : FlowCtx) : (s.setFlow p f x).mbs = s.mbs := rfl
@[simp] theorem State.setFlow_train (p f : Nat) (x : FlowCtx) : (s.setFlow p f x).train = s.train := rfl
@[simp] theorem State.setFlow_oasQueues (p f : Nat) (x : FlowCtx) : (s.setFlow p f x).oasQueues = s.oasQueues := rfl
@[simp] theorem State.setFlow_oasActive (p f : Nat) (x : FlowCtx) : (s.setFlow p f x).oasActive = s.oasActive := rfl
@[simp] theorem State.setFlow_oasTurn (p f : Nat) (x : FlowCtx) : (s.setFlow p f x).oasTurn = s.oasTurn := rfl
@[simp] theorem State.setFlow_oasXfers (p f : Nat) (x : FlowCtx) : (s.setFlow p f x).oasXfers = s.oasXfers := rfl
@[simp] theorem State.setFlow_colls (p f : Nat) (x : FlowCtx) : (s.setFlow p f x).colls = s.colls := rfl
@[simp] theorem State.setFlow_creditTurn (p f : Nat) (x : FlowCtx) : (s.setFlow p f x).creditTurn = s.creditTurn := rfl
@[simp] theorem State.setFlow_epochs (p f : Nat) (x : FlowCtx) : (s.setFlow p f x).epochs = s.epochs := rfl
@[simp] theorem State.setFlow_failCode (p f : Nat) (x : FlowCtx) : (s.setFlow p f x).failCode = s.failCode := rfl
@[simp] theorem State.setFlow_heat (p f : Nat) (x : FlowCtx) : (s.setFlow p f x).heat = s.heat := rfl
@[simp] theorem State.setFlow_sirocco (p f : Nat) (x : FlowCtx) : (s.setFlow p f x).sirocco = s.sirocco := rfl
@[simp] theorem State.setFlow_sirSteps (p f : Nat) (x : FlowCtx) : (s.setFlow p f x).sirSteps = s.sirSteps := rfl
@[simp] theorem State.setFlow_mirage (p f : Nat) (x : FlowCtx) : (s.setFlow p f x).mirage = s.mirage := rfl
@[simp] theorem State.setFlow_dump (p f : Nat) (x : FlowCtx) : (s.setFlow p f x).dump = s.dump := rfl
@[simp] theorem State.setFlow_sec (p f : Nat) (x : FlowCtx) : (s.setFlow p f x).sec = s.sec := rfl
@[simp] theorem State.setFlow_mlogs (p f : Nat) (x : FlowCtx) : (s.setFlow p f x).mlogs = s.mlogs := rfl
@[simp] theorem State.setFlow_span (p f : Nat) (x : FlowCtx) : (s.setFlow p f x).span = s.span := rfl
@[simp] theorem State.setFlow_slowKeys (p f : Nat) (x : FlowCtx) : (s.setFlow p f x).slowKeys = s.slowKeys := rfl
@[simp] theorem State.setFlow_ides (p f : Nat) (x : FlowCtx) : (s.setFlow p f x).ides = s.ides := rfl
@[simp] theorem State.setFlow_spdms (p f : Nat) (x : FlowCtx) : (s.setFlow p f x).spdms = s.spdms := rfl
@[simp] theorem State.setFlow_pwr (p f : Nat) (x : FlowCtx) : (s.setFlow p f x).pwr = s.pwr := rfl
@[simp] theorem State.setFlow_unread (p f : Nat) (x : FlowCtx) : (s.setFlow p f x).unread = s.unread := rfl
@[simp] theorem State.setFlow_errWrap (p f : Nat) (x : FlowCtx) : (s.setFlow p f x).errWrap = s.errWrap := rfl
@[simp] theorem State.setFlow_unsig (p f : Nat) (x : FlowCtx) : (s.setFlow p f x).unsig = s.unsig := rfl
@[simp] theorem State.setFlow_msixTable (p f : Nat) (x : FlowCtx) : (s.setFlow p f x).msixTable = s.msixTable := rfl
@[simp] theorem State.setFlow_msixPend (p f : Nat) (x : FlowCtx) : (s.setFlow p f x).msixPend = s.msixPend := rfl
@[simp] theorem State.setFlow_halves (p f : Nat) (x : FlowCtx) : (s.setFlow p f x).halves = s.halves := rfl
@[simp] theorem State.setFlow_faultCode (p f : Nat) (x : FlowCtx) : (s.setFlow p f x).faultCode = s.faultCode := rfl

/-! ### State.setVc -/

@[simp] theorem State.setVc_pending (p v : Nat) (x : VC) : (s.setVc p v x).pending = s.pending := rfl
@[simp] theorem State.setVc_free (p v : Nat) (x : VC) : (s.setVc p v x).free = s.free := rfl
@[simp] theorem State.setVc_timeUs (p v : Nat) (x : VC) : (s.setVc p v x).timeUs = s.timeUs := rfl
@[simp] theorem State.setVc_regs (p v : Nat) (x : VC) : (s.setVc p v x).regs = s.regs := rfl
@[simp] theorem State.setVc_written (p v : Nat) (x : VC) : (s.setVc p v x).written = s.written := rfl
@[simp] theorem State.setVc_out (p v : Nat) (x : VC) : (s.setVc p v x).out = s.out := rfl
@[simp] theorem State.setVc_mem (p v : Nat) (x : VC) : (s.setVc p v x).mem = s.mem := rfl
@[simp] theorem State.setVc_cache (p v : Nat) (x : VC) : (s.setVc p v x).cache = s.cache := rfl
@[simp] theorem State.setVc_tick (p v : Nat) (x : VC) : (s.setVc p v x).tick = s.tick := rfl
@[simp] theorem State.setVc_nativePins (p v : Nat) (x : VC) : (s.setVc p v x).nativePins = s.nativePins := rfl
@[simp] theorem State.setVc_frames (p v : Nat) (x : VC) : (s.setVc p v x).frames = s.frames := rfl
@[simp] theorem State.setVc_frameBase (p v : Nat) (x : VC) : (s.setVc p v x).frameBase = s.frameBase := rfl
@[simp] theorem State.setVc_pageMap (p v : Nat) (x : VC) : (s.setVc p v x).pageMap = s.pageMap := rfl
@[simp] theorem State.setVc_mapout (p v : Nat) (x : VC) : (s.setVc p v x).mapout = s.mapout := rfl
@[simp] theorem State.setVc_tokens (p v : Nat) (x : VC) : (s.setVc p v x).tokens = s.tokens := rfl
@[simp] theorem State.setVc_levels (p v : Nat) (x : VC) : (s.setVc p v x).levels = s.levels := rfl
@[simp] theorem State.setVc_grants (p v : Nat) (x : VC) : (s.setVc p v x).grants = s.grants := rfl
@[simp] theorem State.setVc_stalls (p v : Nat) (x : VC) : (s.setVc p v x).stalls = s.stalls := rfl
@[simp] theorem State.setVc_chanServed (p v : Nat) (x : VC) : (s.setVc p v x).chanServed = s.chanServed := rfl
@[simp] theorem State.setVc_cmds (p v : Nat) (x : VC) : (s.setVc p v x).cmds = s.cmds := rfl
@[simp] theorem State.setVc_recent (p v : Nat) (x : VC) : (s.setVc p v x).recent = s.recent := rfl
@[simp] theorem State.setVc_seqs (p v : Nat) (x : VC) : (s.setVc p v x).seqs = s.seqs := rfl
@[simp] theorem State.setVc_visits (p v : Nat) (x : VC) : (s.setVc p v x).visits = s.visits := rfl
@[simp] theorem State.setVc_dma (p v : Nat) (x : VC) : (s.setVc p v x).dma = s.dma := rfl
@[simp] theorem State.setVc_dmaEng (p v : Nat) (x : VC) : (s.setVc p v x).dmaEng = s.dmaEng := rfl
@[simp] theorem State.setVc_dqs (p v : Nat) (x : VC) : (s.setVc p v x).dqs = s.dqs := rfl
@[simp] theorem State.setVc_dcqCount (p v : Nat) (x : VC) : (s.setVc p v x).dcqCount = s.dcqCount := rfl
@[simp] theorem State.setVc_dcqWritten (p v : Nat) (x : VC) : (s.setVc p v x).dcqWritten = s.dcqWritten := rfl
@[simp] theorem State.setVc_feedLast (p v : Nat) (x : VC) : (s.setVc p v x).feedLast = s.feedLast := rfl
@[simp] theorem State.setVc_stg (p v : Nat) (x : VC) : (s.setVc p v x).stg = s.stg := rfl
@[simp] theorem State.setVc_gtag (p v : Nat) (x : VC) : (s.setVc p v x).gtag = s.gtag := rfl
@[simp] theorem State.setVc_acc (p v : Nat) (x : VC) : (s.setVc p v x).acc = s.acc := rfl
@[simp] theorem State.setVc_slots (p v : Nat) (x : VC) : (s.setVc p v x).slots = s.slots := rfl
@[simp] theorem State.setVc_engs (p v : Nat) (x : VC) : (s.setVc p v x).engs = s.engs := rfl
@[simp] theorem State.setVc_vec (p v : Nat) (x : VC) : (s.setVc p v x).vec = s.vec := rfl
@[simp] theorem State.setVc_progs (p v : Nat) (x : VC) : (s.setVc p v x).progs = s.progs := rfl
@[simp] theorem State.setVc_launches (p v : Nat) (x : VC) : (s.setVc p v x).launches = s.launches := rfl
@[simp] theorem State.setVc_saved (p v : Nat) (x : VC) : (s.setVc p v x).saved = s.saved := rfl
@[simp] theorem State.setVc_slotOwner (p v : Nat) (x : VC) : (s.setVc p v x).slotOwner = s.slotOwner := rfl
@[simp] theorem State.setVc_caravans (p v : Nat) (x : VC) : (s.setVc p v x).caravans = s.caravans := rfl
@[simp] theorem State.setVc_banks (p v : Nat) (x : VC) : (s.setVc p v x).banks = s.banks := rfl
@[simp] theorem State.setVc_tags (p v : Nat) (x : VC) : (s.setVc p v x).tags = s.tags := rfl
@[simp] theorem State.setVc_shadows (p v : Nat) (x : VC) : (s.setVc p v x).shadows = s.shadows := rfl
@[simp] theorem State.setVc_skewed (p v : Nat) (x : VC) : (s.setVc p v x).skewed = s.skewed := rfl
@[simp] theorem State.setVc_mbs (p v : Nat) (x : VC) : (s.setVc p v x).mbs = s.mbs := rfl
@[simp] theorem State.setVc_train (p v : Nat) (x : VC) : (s.setVc p v x).train = s.train := rfl
@[simp] theorem State.setVc_oasQueues (p v : Nat) (x : VC) : (s.setVc p v x).oasQueues = s.oasQueues := rfl
@[simp] theorem State.setVc_oasActive (p v : Nat) (x : VC) : (s.setVc p v x).oasActive = s.oasActive := rfl
@[simp] theorem State.setVc_oasTurn (p v : Nat) (x : VC) : (s.setVc p v x).oasTurn = s.oasTurn := rfl
@[simp] theorem State.setVc_oasXfers (p v : Nat) (x : VC) : (s.setVc p v x).oasXfers = s.oasXfers := rfl
@[simp] theorem State.setVc_flows (p v : Nat) (x : VC) : (s.setVc p v x).flows = s.flows := rfl
@[simp] theorem State.setVc_colls (p v : Nat) (x : VC) : (s.setVc p v x).colls = s.colls := rfl
@[simp] theorem State.setVc_creditTurn (p v : Nat) (x : VC) : (s.setVc p v x).creditTurn = s.creditTurn := rfl
@[simp] theorem State.setVc_epochs (p v : Nat) (x : VC) : (s.setVc p v x).epochs = s.epochs := rfl
@[simp] theorem State.setVc_failCode (p v : Nat) (x : VC) : (s.setVc p v x).failCode = s.failCode := rfl
@[simp] theorem State.setVc_heat (p v : Nat) (x : VC) : (s.setVc p v x).heat = s.heat := rfl
@[simp] theorem State.setVc_sirocco (p v : Nat) (x : VC) : (s.setVc p v x).sirocco = s.sirocco := rfl
@[simp] theorem State.setVc_sirSteps (p v : Nat) (x : VC) : (s.setVc p v x).sirSteps = s.sirSteps := rfl
@[simp] theorem State.setVc_mirage (p v : Nat) (x : VC) : (s.setVc p v x).mirage = s.mirage := rfl
@[simp] theorem State.setVc_dump (p v : Nat) (x : VC) : (s.setVc p v x).dump = s.dump := rfl
@[simp] theorem State.setVc_sec (p v : Nat) (x : VC) : (s.setVc p v x).sec = s.sec := rfl
@[simp] theorem State.setVc_mlogs (p v : Nat) (x : VC) : (s.setVc p v x).mlogs = s.mlogs := rfl
@[simp] theorem State.setVc_span (p v : Nat) (x : VC) : (s.setVc p v x).span = s.span := rfl
@[simp] theorem State.setVc_slowKeys (p v : Nat) (x : VC) : (s.setVc p v x).slowKeys = s.slowKeys := rfl
@[simp] theorem State.setVc_ides (p v : Nat) (x : VC) : (s.setVc p v x).ides = s.ides := rfl
@[simp] theorem State.setVc_spdms (p v : Nat) (x : VC) : (s.setVc p v x).spdms = s.spdms := rfl
@[simp] theorem State.setVc_pwr (p v : Nat) (x : VC) : (s.setVc p v x).pwr = s.pwr := rfl
@[simp] theorem State.setVc_unread (p v : Nat) (x : VC) : (s.setVc p v x).unread = s.unread := rfl
@[simp] theorem State.setVc_errWrap (p v : Nat) (x : VC) : (s.setVc p v x).errWrap = s.errWrap := rfl
@[simp] theorem State.setVc_unsig (p v : Nat) (x : VC) : (s.setVc p v x).unsig = s.unsig := rfl
@[simp] theorem State.setVc_msixTable (p v : Nat) (x : VC) : (s.setVc p v x).msixTable = s.msixTable := rfl
@[simp] theorem State.setVc_msixPend (p v : Nat) (x : VC) : (s.setVc p v x).msixPend = s.msixPend := rfl
@[simp] theorem State.setVc_halves (p v : Nat) (x : VC) : (s.setVc p v x).halves = s.halves := rfl
@[simp] theorem State.setVc_faultCode (p v : Nat) (x : VC) : (s.setVc p v x).faultCode = s.faultCode := rfl

/-! ### State.setEng -/

@[simp] theorem State.setEng_pending (c : Nat) (x : EngCtx) : (s.setEng c x).pending = s.pending := rfl
@[simp] theorem State.setEng_free (c : Nat) (x : EngCtx) : (s.setEng c x).free = s.free := rfl
@[simp] theorem State.setEng_timeUs (c : Nat) (x : EngCtx) : (s.setEng c x).timeUs = s.timeUs := rfl
@[simp] theorem State.setEng_regs (c : Nat) (x : EngCtx) : (s.setEng c x).regs = s.regs := rfl
@[simp] theorem State.setEng_written (c : Nat) (x : EngCtx) : (s.setEng c x).written = s.written := rfl
@[simp] theorem State.setEng_out (c : Nat) (x : EngCtx) : (s.setEng c x).out = s.out := rfl
@[simp] theorem State.setEng_mem (c : Nat) (x : EngCtx) : (s.setEng c x).mem = s.mem := rfl
@[simp] theorem State.setEng_cache (c : Nat) (x : EngCtx) : (s.setEng c x).cache = s.cache := rfl
@[simp] theorem State.setEng_tick (c : Nat) (x : EngCtx) : (s.setEng c x).tick = s.tick := rfl
@[simp] theorem State.setEng_nativePins (c : Nat) (x : EngCtx) : (s.setEng c x).nativePins = s.nativePins := rfl
@[simp] theorem State.setEng_frames (c : Nat) (x : EngCtx) : (s.setEng c x).frames = s.frames := rfl
@[simp] theorem State.setEng_frameBase (c : Nat) (x : EngCtx) : (s.setEng c x).frameBase = s.frameBase := rfl
@[simp] theorem State.setEng_pageMap (c : Nat) (x : EngCtx) : (s.setEng c x).pageMap = s.pageMap := rfl
@[simp] theorem State.setEng_mapout (c : Nat) (x : EngCtx) : (s.setEng c x).mapout = s.mapout := rfl
@[simp] theorem State.setEng_tokens (c : Nat) (x : EngCtx) : (s.setEng c x).tokens = s.tokens := rfl
@[simp] theorem State.setEng_levels (c : Nat) (x : EngCtx) : (s.setEng c x).levels = s.levels := rfl
@[simp] theorem State.setEng_grants (c : Nat) (x : EngCtx) : (s.setEng c x).grants = s.grants := rfl
@[simp] theorem State.setEng_stalls (c : Nat) (x : EngCtx) : (s.setEng c x).stalls = s.stalls := rfl
@[simp] theorem State.setEng_chanServed (c : Nat) (x : EngCtx) : (s.setEng c x).chanServed = s.chanServed := rfl
@[simp] theorem State.setEng_cmds (c : Nat) (x : EngCtx) : (s.setEng c x).cmds = s.cmds := rfl
@[simp] theorem State.setEng_recent (c : Nat) (x : EngCtx) : (s.setEng c x).recent = s.recent := rfl
@[simp] theorem State.setEng_seqs (c : Nat) (x : EngCtx) : (s.setEng c x).seqs = s.seqs := rfl
@[simp] theorem State.setEng_visits (c : Nat) (x : EngCtx) : (s.setEng c x).visits = s.visits := rfl
@[simp] theorem State.setEng_dma (c : Nat) (x : EngCtx) : (s.setEng c x).dma = s.dma := rfl
@[simp] theorem State.setEng_dmaEng (c : Nat) (x : EngCtx) : (s.setEng c x).dmaEng = s.dmaEng := rfl
@[simp] theorem State.setEng_dqs (c : Nat) (x : EngCtx) : (s.setEng c x).dqs = s.dqs := rfl
@[simp] theorem State.setEng_dcqCount (c : Nat) (x : EngCtx) : (s.setEng c x).dcqCount = s.dcqCount := rfl
@[simp] theorem State.setEng_dcqWritten (c : Nat) (x : EngCtx) : (s.setEng c x).dcqWritten = s.dcqWritten := rfl
@[simp] theorem State.setEng_feedLast (c : Nat) (x : EngCtx) : (s.setEng c x).feedLast = s.feedLast := rfl
@[simp] theorem State.setEng_stg (c : Nat) (x : EngCtx) : (s.setEng c x).stg = s.stg := rfl
@[simp] theorem State.setEng_gtag (c : Nat) (x : EngCtx) : (s.setEng c x).gtag = s.gtag := rfl
@[simp] theorem State.setEng_acc (c : Nat) (x : EngCtx) : (s.setEng c x).acc = s.acc := rfl
@[simp] theorem State.setEng_slots (c : Nat) (x : EngCtx) : (s.setEng c x).slots = s.slots := rfl
@[simp] theorem State.setEng_vec (c : Nat) (x : EngCtx) : (s.setEng c x).vec = s.vec := rfl
@[simp] theorem State.setEng_progs (c : Nat) (x : EngCtx) : (s.setEng c x).progs = s.progs := rfl
@[simp] theorem State.setEng_launches (c : Nat) (x : EngCtx) : (s.setEng c x).launches = s.launches := rfl
@[simp] theorem State.setEng_vcs (c : Nat) (x : EngCtx) : (s.setEng c x).vcs = s.vcs := rfl
@[simp] theorem State.setEng_saved (c : Nat) (x : EngCtx) : (s.setEng c x).saved = s.saved := rfl
@[simp] theorem State.setEng_slotOwner (c : Nat) (x : EngCtx) : (s.setEng c x).slotOwner = s.slotOwner := rfl
@[simp] theorem State.setEng_caravans (c : Nat) (x : EngCtx) : (s.setEng c x).caravans = s.caravans := rfl
@[simp] theorem State.setEng_banks (c : Nat) (x : EngCtx) : (s.setEng c x).banks = s.banks := rfl
@[simp] theorem State.setEng_tags (c : Nat) (x : EngCtx) : (s.setEng c x).tags = s.tags := rfl
@[simp] theorem State.setEng_shadows (c : Nat) (x : EngCtx) : (s.setEng c x).shadows = s.shadows := rfl
@[simp] theorem State.setEng_skewed (c : Nat) (x : EngCtx) : (s.setEng c x).skewed = s.skewed := rfl
@[simp] theorem State.setEng_mbs (c : Nat) (x : EngCtx) : (s.setEng c x).mbs = s.mbs := rfl
@[simp] theorem State.setEng_train (c : Nat) (x : EngCtx) : (s.setEng c x).train = s.train := rfl
@[simp] theorem State.setEng_oasQueues (c : Nat) (x : EngCtx) : (s.setEng c x).oasQueues = s.oasQueues := rfl
@[simp] theorem State.setEng_oasActive (c : Nat) (x : EngCtx) : (s.setEng c x).oasActive = s.oasActive := rfl
@[simp] theorem State.setEng_oasTurn (c : Nat) (x : EngCtx) : (s.setEng c x).oasTurn = s.oasTurn := rfl
@[simp] theorem State.setEng_oasXfers (c : Nat) (x : EngCtx) : (s.setEng c x).oasXfers = s.oasXfers := rfl
@[simp] theorem State.setEng_flows (c : Nat) (x : EngCtx) : (s.setEng c x).flows = s.flows := rfl
@[simp] theorem State.setEng_colls (c : Nat) (x : EngCtx) : (s.setEng c x).colls = s.colls := rfl
@[simp] theorem State.setEng_creditTurn (c : Nat) (x : EngCtx) : (s.setEng c x).creditTurn = s.creditTurn := rfl
@[simp] theorem State.setEng_epochs (c : Nat) (x : EngCtx) : (s.setEng c x).epochs = s.epochs := rfl
@[simp] theorem State.setEng_failCode (c : Nat) (x : EngCtx) : (s.setEng c x).failCode = s.failCode := rfl
@[simp] theorem State.setEng_heat (c : Nat) (x : EngCtx) : (s.setEng c x).heat = s.heat := rfl
@[simp] theorem State.setEng_sirocco (c : Nat) (x : EngCtx) : (s.setEng c x).sirocco = s.sirocco := rfl
@[simp] theorem State.setEng_sirSteps (c : Nat) (x : EngCtx) : (s.setEng c x).sirSteps = s.sirSteps := rfl
@[simp] theorem State.setEng_mirage (c : Nat) (x : EngCtx) : (s.setEng c x).mirage = s.mirage := rfl
@[simp] theorem State.setEng_dump (c : Nat) (x : EngCtx) : (s.setEng c x).dump = s.dump := rfl
@[simp] theorem State.setEng_sec (c : Nat) (x : EngCtx) : (s.setEng c x).sec = s.sec := rfl
@[simp] theorem State.setEng_mlogs (c : Nat) (x : EngCtx) : (s.setEng c x).mlogs = s.mlogs := rfl
@[simp] theorem State.setEng_span (c : Nat) (x : EngCtx) : (s.setEng c x).span = s.span := rfl
@[simp] theorem State.setEng_slowKeys (c : Nat) (x : EngCtx) : (s.setEng c x).slowKeys = s.slowKeys := rfl
@[simp] theorem State.setEng_ides (c : Nat) (x : EngCtx) : (s.setEng c x).ides = s.ides := rfl
@[simp] theorem State.setEng_spdms (c : Nat) (x : EngCtx) : (s.setEng c x).spdms = s.spdms := rfl
@[simp] theorem State.setEng_pwr (c : Nat) (x : EngCtx) : (s.setEng c x).pwr = s.pwr := rfl
@[simp] theorem State.setEng_unread (c : Nat) (x : EngCtx) : (s.setEng c x).unread = s.unread := rfl
@[simp] theorem State.setEng_errWrap (c : Nat) (x : EngCtx) : (s.setEng c x).errWrap = s.errWrap := rfl
@[simp] theorem State.setEng_unsig (c : Nat) (x : EngCtx) : (s.setEng c x).unsig = s.unsig := rfl
@[simp] theorem State.setEng_msixTable (c : Nat) (x : EngCtx) : (s.setEng c x).msixTable = s.msixTable := rfl
@[simp] theorem State.setEng_msixPend (c : Nat) (x : EngCtx) : (s.setEng c x).msixPend = s.msixPend := rfl
@[simp] theorem State.setEng_halves (c : Nat) (x : EngCtx) : (s.setEng c x).halves = s.halves := rfl
@[simp] theorem State.setEng_faultCode (c : Nat) (x : EngCtx) : (s.setEng c x).faultCode = s.faultCode := rfl

/-! ### State.setVu -/

@[simp] theorem State.setVu_pending (c : Nat) (x : VecCtx) : (s.setVu c x).pending = s.pending := rfl
@[simp] theorem State.setVu_free (c : Nat) (x : VecCtx) : (s.setVu c x).free = s.free := rfl
@[simp] theorem State.setVu_timeUs (c : Nat) (x : VecCtx) : (s.setVu c x).timeUs = s.timeUs := rfl
@[simp] theorem State.setVu_written (c : Nat) (x : VecCtx) : (s.setVu c x).written = s.written := rfl
@[simp] theorem State.setVu_out (c : Nat) (x : VecCtx) : (s.setVu c x).out = s.out := rfl
@[simp] theorem State.setVu_mem (c : Nat) (x : VecCtx) : (s.setVu c x).mem = s.mem := rfl
@[simp] theorem State.setVu_cache (c : Nat) (x : VecCtx) : (s.setVu c x).cache = s.cache := rfl
@[simp] theorem State.setVu_tick (c : Nat) (x : VecCtx) : (s.setVu c x).tick = s.tick := rfl
@[simp] theorem State.setVu_nativePins (c : Nat) (x : VecCtx) : (s.setVu c x).nativePins = s.nativePins := rfl
@[simp] theorem State.setVu_frames (c : Nat) (x : VecCtx) : (s.setVu c x).frames = s.frames := rfl
@[simp] theorem State.setVu_frameBase (c : Nat) (x : VecCtx) : (s.setVu c x).frameBase = s.frameBase := rfl
@[simp] theorem State.setVu_pageMap (c : Nat) (x : VecCtx) : (s.setVu c x).pageMap = s.pageMap := rfl
@[simp] theorem State.setVu_mapout (c : Nat) (x : VecCtx) : (s.setVu c x).mapout = s.mapout := rfl
@[simp] theorem State.setVu_tokens (c : Nat) (x : VecCtx) : (s.setVu c x).tokens = s.tokens := rfl
@[simp] theorem State.setVu_levels (c : Nat) (x : VecCtx) : (s.setVu c x).levels = s.levels := rfl
@[simp] theorem State.setVu_grants (c : Nat) (x : VecCtx) : (s.setVu c x).grants = s.grants := rfl
@[simp] theorem State.setVu_stalls (c : Nat) (x : VecCtx) : (s.setVu c x).stalls = s.stalls := rfl
@[simp] theorem State.setVu_chanServed (c : Nat) (x : VecCtx) : (s.setVu c x).chanServed = s.chanServed := rfl
@[simp] theorem State.setVu_cmds (c : Nat) (x : VecCtx) : (s.setVu c x).cmds = s.cmds := rfl
@[simp] theorem State.setVu_recent (c : Nat) (x : VecCtx) : (s.setVu c x).recent = s.recent := rfl
@[simp] theorem State.setVu_seqs (c : Nat) (x : VecCtx) : (s.setVu c x).seqs = s.seqs := rfl
@[simp] theorem State.setVu_visits (c : Nat) (x : VecCtx) : (s.setVu c x).visits = s.visits := rfl
@[simp] theorem State.setVu_dma (c : Nat) (x : VecCtx) : (s.setVu c x).dma = s.dma := rfl
@[simp] theorem State.setVu_dmaEng (c : Nat) (x : VecCtx) : (s.setVu c x).dmaEng = s.dmaEng := rfl
@[simp] theorem State.setVu_dqs (c : Nat) (x : VecCtx) : (s.setVu c x).dqs = s.dqs := rfl
@[simp] theorem State.setVu_dcqCount (c : Nat) (x : VecCtx) : (s.setVu c x).dcqCount = s.dcqCount := rfl
@[simp] theorem State.setVu_dcqWritten (c : Nat) (x : VecCtx) : (s.setVu c x).dcqWritten = s.dcqWritten := rfl
@[simp] theorem State.setVu_feedLast (c : Nat) (x : VecCtx) : (s.setVu c x).feedLast = s.feedLast := rfl
@[simp] theorem State.setVu_stg (c : Nat) (x : VecCtx) : (s.setVu c x).stg = s.stg := rfl
@[simp] theorem State.setVu_gtag (c : Nat) (x : VecCtx) : (s.setVu c x).gtag = s.gtag := rfl
@[simp] theorem State.setVu_acc (c : Nat) (x : VecCtx) : (s.setVu c x).acc = s.acc := rfl
@[simp] theorem State.setVu_slots (c : Nat) (x : VecCtx) : (s.setVu c x).slots = s.slots := rfl
@[simp] theorem State.setVu_engs (c : Nat) (x : VecCtx) : (s.setVu c x).engs = s.engs := rfl
@[simp] theorem State.setVu_progs (c : Nat) (x : VecCtx) : (s.setVu c x).progs = s.progs := rfl
@[simp] theorem State.setVu_launches (c : Nat) (x : VecCtx) : (s.setVu c x).launches = s.launches := rfl
@[simp] theorem State.setVu_vcs (c : Nat) (x : VecCtx) : (s.setVu c x).vcs = s.vcs := rfl
@[simp] theorem State.setVu_saved (c : Nat) (x : VecCtx) : (s.setVu c x).saved = s.saved := rfl
@[simp] theorem State.setVu_slotOwner (c : Nat) (x : VecCtx) : (s.setVu c x).slotOwner = s.slotOwner := rfl
@[simp] theorem State.setVu_caravans (c : Nat) (x : VecCtx) : (s.setVu c x).caravans = s.caravans := rfl
@[simp] theorem State.setVu_banks (c : Nat) (x : VecCtx) : (s.setVu c x).banks = s.banks := rfl
@[simp] theorem State.setVu_tags (c : Nat) (x : VecCtx) : (s.setVu c x).tags = s.tags := rfl
@[simp] theorem State.setVu_shadows (c : Nat) (x : VecCtx) : (s.setVu c x).shadows = s.shadows := rfl
@[simp] theorem State.setVu_skewed (c : Nat) (x : VecCtx) : (s.setVu c x).skewed = s.skewed := rfl
@[simp] theorem State.setVu_mbs (c : Nat) (x : VecCtx) : (s.setVu c x).mbs = s.mbs := rfl
@[simp] theorem State.setVu_train (c : Nat) (x : VecCtx) : (s.setVu c x).train = s.train := rfl
@[simp] theorem State.setVu_oasQueues (c : Nat) (x : VecCtx) : (s.setVu c x).oasQueues = s.oasQueues := rfl
@[simp] theorem State.setVu_oasActive (c : Nat) (x : VecCtx) : (s.setVu c x).oasActive = s.oasActive := rfl
@[simp] theorem State.setVu_oasTurn (c : Nat) (x : VecCtx) : (s.setVu c x).oasTurn = s.oasTurn := rfl
@[simp] theorem State.setVu_oasXfers (c : Nat) (x : VecCtx) : (s.setVu c x).oasXfers = s.oasXfers := rfl
@[simp] theorem State.setVu_flows (c : Nat) (x : VecCtx) : (s.setVu c x).flows = s.flows := rfl
@[simp] theorem State.setVu_colls (c : Nat) (x : VecCtx) : (s.setVu c x).colls = s.colls := rfl
@[simp] theorem State.setVu_creditTurn (c : Nat) (x : VecCtx) : (s.setVu c x).creditTurn = s.creditTurn := rfl
@[simp] theorem State.setVu_epochs (c : Nat) (x : VecCtx) : (s.setVu c x).epochs = s.epochs := rfl
@[simp] theorem State.setVu_failCode (c : Nat) (x : VecCtx) : (s.setVu c x).failCode = s.failCode := rfl
@[simp] theorem State.setVu_heat (c : Nat) (x : VecCtx) : (s.setVu c x).heat = s.heat := rfl
@[simp] theorem State.setVu_sirocco (c : Nat) (x : VecCtx) : (s.setVu c x).sirocco = s.sirocco := rfl
@[simp] theorem State.setVu_sirSteps (c : Nat) (x : VecCtx) : (s.setVu c x).sirSteps = s.sirSteps := rfl
@[simp] theorem State.setVu_mirage (c : Nat) (x : VecCtx) : (s.setVu c x).mirage = s.mirage := rfl
@[simp] theorem State.setVu_dump (c : Nat) (x : VecCtx) : (s.setVu c x).dump = s.dump := rfl
@[simp] theorem State.setVu_sec (c : Nat) (x : VecCtx) : (s.setVu c x).sec = s.sec := rfl
@[simp] theorem State.setVu_mlogs (c : Nat) (x : VecCtx) : (s.setVu c x).mlogs = s.mlogs := rfl
@[simp] theorem State.setVu_span (c : Nat) (x : VecCtx) : (s.setVu c x).span = s.span := rfl
@[simp] theorem State.setVu_slowKeys (c : Nat) (x : VecCtx) : (s.setVu c x).slowKeys = s.slowKeys := rfl
@[simp] theorem State.setVu_ides (c : Nat) (x : VecCtx) : (s.setVu c x).ides = s.ides := rfl
@[simp] theorem State.setVu_spdms (c : Nat) (x : VecCtx) : (s.setVu c x).spdms = s.spdms := rfl
@[simp] theorem State.setVu_pwr (c : Nat) (x : VecCtx) : (s.setVu c x).pwr = s.pwr := rfl
@[simp] theorem State.setVu_unread (c : Nat) (x : VecCtx) : (s.setVu c x).unread = s.unread := rfl
@[simp] theorem State.setVu_errWrap (c : Nat) (x : VecCtx) : (s.setVu c x).errWrap = s.errWrap := rfl
@[simp] theorem State.setVu_unsig (c : Nat) (x : VecCtx) : (s.setVu c x).unsig = s.unsig := rfl
@[simp] theorem State.setVu_msixTable (c : Nat) (x : VecCtx) : (s.setVu c x).msixTable = s.msixTable := rfl
@[simp] theorem State.setVu_msixPend (c : Nat) (x : VecCtx) : (s.setVu c x).msixPend = s.msixPend := rfl
@[simp] theorem State.setVu_halves (c : Nat) (x : VecCtx) : (s.setVu c x).halves = s.halves := rfl
@[simp] theorem State.setVu_faultCode (c : Nat) (x : VecCtx) : (s.setVu c x).faultCode = s.faultCode := rfl

/-! ### State.setLaunch -/

@[simp] theorem State.setLaunch_pending (p : Nat) (x : Option Launch) : (s.setLaunch p x).pending = s.pending := rfl
@[simp] theorem State.setLaunch_free (p : Nat) (x : Option Launch) : (s.setLaunch p x).free = s.free := rfl
@[simp] theorem State.setLaunch_timeUs (p : Nat) (x : Option Launch) : (s.setLaunch p x).timeUs = s.timeUs := rfl
@[simp] theorem State.setLaunch_regs (p : Nat) (x : Option Launch) : (s.setLaunch p x).regs = s.regs := rfl
@[simp] theorem State.setLaunch_written (p : Nat) (x : Option Launch) : (s.setLaunch p x).written = s.written := rfl
@[simp] theorem State.setLaunch_out (p : Nat) (x : Option Launch) : (s.setLaunch p x).out = s.out := rfl
@[simp] theorem State.setLaunch_mem (p : Nat) (x : Option Launch) : (s.setLaunch p x).mem = s.mem := rfl
@[simp] theorem State.setLaunch_cache (p : Nat) (x : Option Launch) : (s.setLaunch p x).cache = s.cache := rfl
@[simp] theorem State.setLaunch_tick (p : Nat) (x : Option Launch) : (s.setLaunch p x).tick = s.tick := rfl
@[simp] theorem State.setLaunch_nativePins (p : Nat) (x : Option Launch) : (s.setLaunch p x).nativePins = s.nativePins := rfl
@[simp] theorem State.setLaunch_frames (p : Nat) (x : Option Launch) : (s.setLaunch p x).frames = s.frames := rfl
@[simp] theorem State.setLaunch_frameBase (p : Nat) (x : Option Launch) : (s.setLaunch p x).frameBase = s.frameBase := rfl
@[simp] theorem State.setLaunch_pageMap (p : Nat) (x : Option Launch) : (s.setLaunch p x).pageMap = s.pageMap := rfl
@[simp] theorem State.setLaunch_mapout (p : Nat) (x : Option Launch) : (s.setLaunch p x).mapout = s.mapout := rfl
@[simp] theorem State.setLaunch_tokens (p : Nat) (x : Option Launch) : (s.setLaunch p x).tokens = s.tokens := rfl
@[simp] theorem State.setLaunch_levels (p : Nat) (x : Option Launch) : (s.setLaunch p x).levels = s.levels := rfl
@[simp] theorem State.setLaunch_grants (p : Nat) (x : Option Launch) : (s.setLaunch p x).grants = s.grants := rfl
@[simp] theorem State.setLaunch_stalls (p : Nat) (x : Option Launch) : (s.setLaunch p x).stalls = s.stalls := rfl
@[simp] theorem State.setLaunch_chanServed (p : Nat) (x : Option Launch) : (s.setLaunch p x).chanServed = s.chanServed := rfl
@[simp] theorem State.setLaunch_cmds (p : Nat) (x : Option Launch) : (s.setLaunch p x).cmds = s.cmds := rfl
@[simp] theorem State.setLaunch_recent (p : Nat) (x : Option Launch) : (s.setLaunch p x).recent = s.recent := rfl
@[simp] theorem State.setLaunch_seqs (p : Nat) (x : Option Launch) : (s.setLaunch p x).seqs = s.seqs := rfl
@[simp] theorem State.setLaunch_visits (p : Nat) (x : Option Launch) : (s.setLaunch p x).visits = s.visits := rfl
@[simp] theorem State.setLaunch_dma (p : Nat) (x : Option Launch) : (s.setLaunch p x).dma = s.dma := rfl
@[simp] theorem State.setLaunch_dmaEng (p : Nat) (x : Option Launch) : (s.setLaunch p x).dmaEng = s.dmaEng := rfl
@[simp] theorem State.setLaunch_dqs (p : Nat) (x : Option Launch) : (s.setLaunch p x).dqs = s.dqs := rfl
@[simp] theorem State.setLaunch_dcqCount (p : Nat) (x : Option Launch) : (s.setLaunch p x).dcqCount = s.dcqCount := rfl
@[simp] theorem State.setLaunch_dcqWritten (p : Nat) (x : Option Launch) : (s.setLaunch p x).dcqWritten = s.dcqWritten := rfl
@[simp] theorem State.setLaunch_feedLast (p : Nat) (x : Option Launch) : (s.setLaunch p x).feedLast = s.feedLast := rfl
@[simp] theorem State.setLaunch_stg (p : Nat) (x : Option Launch) : (s.setLaunch p x).stg = s.stg := rfl
@[simp] theorem State.setLaunch_gtag (p : Nat) (x : Option Launch) : (s.setLaunch p x).gtag = s.gtag := rfl
@[simp] theorem State.setLaunch_acc (p : Nat) (x : Option Launch) : (s.setLaunch p x).acc = s.acc := rfl
@[simp] theorem State.setLaunch_slots (p : Nat) (x : Option Launch) : (s.setLaunch p x).slots = s.slots := rfl
@[simp] theorem State.setLaunch_engs (p : Nat) (x : Option Launch) : (s.setLaunch p x).engs = s.engs := rfl
@[simp] theorem State.setLaunch_vec (p : Nat) (x : Option Launch) : (s.setLaunch p x).vec = s.vec := rfl
@[simp] theorem State.setLaunch_progs (p : Nat) (x : Option Launch) : (s.setLaunch p x).progs = s.progs := rfl
@[simp] theorem State.setLaunch_vcs (p : Nat) (x : Option Launch) : (s.setLaunch p x).vcs = s.vcs := rfl
@[simp] theorem State.setLaunch_saved (p : Nat) (x : Option Launch) : (s.setLaunch p x).saved = s.saved := rfl
@[simp] theorem State.setLaunch_slotOwner (p : Nat) (x : Option Launch) : (s.setLaunch p x).slotOwner = s.slotOwner := rfl
@[simp] theorem State.setLaunch_caravans (p : Nat) (x : Option Launch) : (s.setLaunch p x).caravans = s.caravans := rfl
@[simp] theorem State.setLaunch_banks (p : Nat) (x : Option Launch) : (s.setLaunch p x).banks = s.banks := rfl
@[simp] theorem State.setLaunch_tags (p : Nat) (x : Option Launch) : (s.setLaunch p x).tags = s.tags := rfl
@[simp] theorem State.setLaunch_shadows (p : Nat) (x : Option Launch) : (s.setLaunch p x).shadows = s.shadows := rfl
@[simp] theorem State.setLaunch_skewed (p : Nat) (x : Option Launch) : (s.setLaunch p x).skewed = s.skewed := rfl
@[simp] theorem State.setLaunch_mbs (p : Nat) (x : Option Launch) : (s.setLaunch p x).mbs = s.mbs := rfl
@[simp] theorem State.setLaunch_train (p : Nat) (x : Option Launch) : (s.setLaunch p x).train = s.train := rfl
@[simp] theorem State.setLaunch_oasQueues (p : Nat) (x : Option Launch) : (s.setLaunch p x).oasQueues = s.oasQueues := rfl
@[simp] theorem State.setLaunch_oasActive (p : Nat) (x : Option Launch) : (s.setLaunch p x).oasActive = s.oasActive := rfl
@[simp] theorem State.setLaunch_oasTurn (p : Nat) (x : Option Launch) : (s.setLaunch p x).oasTurn = s.oasTurn := rfl
@[simp] theorem State.setLaunch_oasXfers (p : Nat) (x : Option Launch) : (s.setLaunch p x).oasXfers = s.oasXfers := rfl
@[simp] theorem State.setLaunch_flows (p : Nat) (x : Option Launch) : (s.setLaunch p x).flows = s.flows := rfl
@[simp] theorem State.setLaunch_colls (p : Nat) (x : Option Launch) : (s.setLaunch p x).colls = s.colls := rfl
@[simp] theorem State.setLaunch_creditTurn (p : Nat) (x : Option Launch) : (s.setLaunch p x).creditTurn = s.creditTurn := rfl
@[simp] theorem State.setLaunch_epochs (p : Nat) (x : Option Launch) : (s.setLaunch p x).epochs = s.epochs := rfl
@[simp] theorem State.setLaunch_failCode (p : Nat) (x : Option Launch) : (s.setLaunch p x).failCode = s.failCode := rfl
@[simp] theorem State.setLaunch_heat (p : Nat) (x : Option Launch) : (s.setLaunch p x).heat = s.heat := rfl
@[simp] theorem State.setLaunch_sirocco (p : Nat) (x : Option Launch) : (s.setLaunch p x).sirocco = s.sirocco := rfl
@[simp] theorem State.setLaunch_sirSteps (p : Nat) (x : Option Launch) : (s.setLaunch p x).sirSteps = s.sirSteps := rfl
@[simp] theorem State.setLaunch_mirage (p : Nat) (x : Option Launch) : (s.setLaunch p x).mirage = s.mirage := rfl
@[simp] theorem State.setLaunch_dump (p : Nat) (x : Option Launch) : (s.setLaunch p x).dump = s.dump := rfl
@[simp] theorem State.setLaunch_sec (p : Nat) (x : Option Launch) : (s.setLaunch p x).sec = s.sec := rfl
@[simp] theorem State.setLaunch_mlogs (p : Nat) (x : Option Launch) : (s.setLaunch p x).mlogs = s.mlogs := rfl
@[simp] theorem State.setLaunch_span (p : Nat) (x : Option Launch) : (s.setLaunch p x).span = s.span := rfl
@[simp] theorem State.setLaunch_slowKeys (p : Nat) (x : Option Launch) : (s.setLaunch p x).slowKeys = s.slowKeys := rfl
@[simp] theorem State.setLaunch_ides (p : Nat) (x : Option Launch) : (s.setLaunch p x).ides = s.ides := rfl
@[simp] theorem State.setLaunch_spdms (p : Nat) (x : Option Launch) : (s.setLaunch p x).spdms = s.spdms := rfl
@[simp] theorem State.setLaunch_pwr (p : Nat) (x : Option Launch) : (s.setLaunch p x).pwr = s.pwr := rfl
@[simp] theorem State.setLaunch_unread (p : Nat) (x : Option Launch) : (s.setLaunch p x).unread = s.unread := rfl
@[simp] theorem State.setLaunch_errWrap (p : Nat) (x : Option Launch) : (s.setLaunch p x).errWrap = s.errWrap := rfl
@[simp] theorem State.setLaunch_unsig (p : Nat) (x : Option Launch) : (s.setLaunch p x).unsig = s.unsig := rfl
@[simp] theorem State.setLaunch_msixTable (p : Nat) (x : Option Launch) : (s.setLaunch p x).msixTable = s.msixTable := rfl
@[simp] theorem State.setLaunch_msixPend (p : Nat) (x : Option Launch) : (s.setLaunch p x).msixPend = s.msixPend := rfl
@[simp] theorem State.setLaunch_halves (p : Nat) (x : Option Launch) : (s.setLaunch p x).halves = s.halves := rfl
@[simp] theorem State.setLaunch_faultCode (p : Nat) (x : Option Launch) : (s.setLaunch p x).faultCode = s.faultCode := rfl

/-! ### State.setProg -/

@[simp] theorem State.setProg_pending (p h : Nat) (x : Prog) : (s.setProg p h x).pending = s.pending := rfl
@[simp] theorem State.setProg_free (p h : Nat) (x : Prog) : (s.setProg p h x).free = s.free := rfl
@[simp] theorem State.setProg_timeUs (p h : Nat) (x : Prog) : (s.setProg p h x).timeUs = s.timeUs := rfl
@[simp] theorem State.setProg_regs (p h : Nat) (x : Prog) : (s.setProg p h x).regs = s.regs := rfl
@[simp] theorem State.setProg_written (p h : Nat) (x : Prog) : (s.setProg p h x).written = s.written := rfl
@[simp] theorem State.setProg_out (p h : Nat) (x : Prog) : (s.setProg p h x).out = s.out := rfl
@[simp] theorem State.setProg_mem (p h : Nat) (x : Prog) : (s.setProg p h x).mem = s.mem := rfl
@[simp] theorem State.setProg_cache (p h : Nat) (x : Prog) : (s.setProg p h x).cache = s.cache := rfl
@[simp] theorem State.setProg_tick (p h : Nat) (x : Prog) : (s.setProg p h x).tick = s.tick := rfl
@[simp] theorem State.setProg_nativePins (p h : Nat) (x : Prog) : (s.setProg p h x).nativePins = s.nativePins := rfl
@[simp] theorem State.setProg_frames (p h : Nat) (x : Prog) : (s.setProg p h x).frames = s.frames := rfl
@[simp] theorem State.setProg_frameBase (p h : Nat) (x : Prog) : (s.setProg p h x).frameBase = s.frameBase := rfl
@[simp] theorem State.setProg_pageMap (p h : Nat) (x : Prog) : (s.setProg p h x).pageMap = s.pageMap := rfl
@[simp] theorem State.setProg_mapout (p h : Nat) (x : Prog) : (s.setProg p h x).mapout = s.mapout := rfl
@[simp] theorem State.setProg_tokens (p h : Nat) (x : Prog) : (s.setProg p h x).tokens = s.tokens := rfl
@[simp] theorem State.setProg_levels (p h : Nat) (x : Prog) : (s.setProg p h x).levels = s.levels := rfl
@[simp] theorem State.setProg_grants (p h : Nat) (x : Prog) : (s.setProg p h x).grants = s.grants := rfl
@[simp] theorem State.setProg_stalls (p h : Nat) (x : Prog) : (s.setProg p h x).stalls = s.stalls := rfl
@[simp] theorem State.setProg_chanServed (p h : Nat) (x : Prog) : (s.setProg p h x).chanServed = s.chanServed := rfl
@[simp] theorem State.setProg_cmds (p h : Nat) (x : Prog) : (s.setProg p h x).cmds = s.cmds := rfl
@[simp] theorem State.setProg_recent (p h : Nat) (x : Prog) : (s.setProg p h x).recent = s.recent := rfl
@[simp] theorem State.setProg_seqs (p h : Nat) (x : Prog) : (s.setProg p h x).seqs = s.seqs := rfl
@[simp] theorem State.setProg_visits (p h : Nat) (x : Prog) : (s.setProg p h x).visits = s.visits := rfl
@[simp] theorem State.setProg_dma (p h : Nat) (x : Prog) : (s.setProg p h x).dma = s.dma := rfl
@[simp] theorem State.setProg_dmaEng (p h : Nat) (x : Prog) : (s.setProg p h x).dmaEng = s.dmaEng := rfl
@[simp] theorem State.setProg_dqs (p h : Nat) (x : Prog) : (s.setProg p h x).dqs = s.dqs := rfl
@[simp] theorem State.setProg_dcqCount (p h : Nat) (x : Prog) : (s.setProg p h x).dcqCount = s.dcqCount := rfl
@[simp] theorem State.setProg_dcqWritten (p h : Nat) (x : Prog) : (s.setProg p h x).dcqWritten = s.dcqWritten := rfl
@[simp] theorem State.setProg_feedLast (p h : Nat) (x : Prog) : (s.setProg p h x).feedLast = s.feedLast := rfl
@[simp] theorem State.setProg_stg (p h : Nat) (x : Prog) : (s.setProg p h x).stg = s.stg := rfl
@[simp] theorem State.setProg_gtag (p h : Nat) (x : Prog) : (s.setProg p h x).gtag = s.gtag := rfl
@[simp] theorem State.setProg_acc (p h : Nat) (x : Prog) : (s.setProg p h x).acc = s.acc := rfl
@[simp] theorem State.setProg_slots (p h : Nat) (x : Prog) : (s.setProg p h x).slots = s.slots := rfl
@[simp] theorem State.setProg_engs (p h : Nat) (x : Prog) : (s.setProg p h x).engs = s.engs := rfl
@[simp] theorem State.setProg_vec (p h : Nat) (x : Prog) : (s.setProg p h x).vec = s.vec := rfl
@[simp] theorem State.setProg_launches (p h : Nat) (x : Prog) : (s.setProg p h x).launches = s.launches := rfl
@[simp] theorem State.setProg_vcs (p h : Nat) (x : Prog) : (s.setProg p h x).vcs = s.vcs := rfl
@[simp] theorem State.setProg_saved (p h : Nat) (x : Prog) : (s.setProg p h x).saved = s.saved := rfl
@[simp] theorem State.setProg_slotOwner (p h : Nat) (x : Prog) : (s.setProg p h x).slotOwner = s.slotOwner := rfl
@[simp] theorem State.setProg_caravans (p h : Nat) (x : Prog) : (s.setProg p h x).caravans = s.caravans := rfl
@[simp] theorem State.setProg_banks (p h : Nat) (x : Prog) : (s.setProg p h x).banks = s.banks := rfl
@[simp] theorem State.setProg_tags (p h : Nat) (x : Prog) : (s.setProg p h x).tags = s.tags := rfl
@[simp] theorem State.setProg_shadows (p h : Nat) (x : Prog) : (s.setProg p h x).shadows = s.shadows := rfl
@[simp] theorem State.setProg_skewed (p h : Nat) (x : Prog) : (s.setProg p h x).skewed = s.skewed := rfl
@[simp] theorem State.setProg_mbs (p h : Nat) (x : Prog) : (s.setProg p h x).mbs = s.mbs := rfl
@[simp] theorem State.setProg_train (p h : Nat) (x : Prog) : (s.setProg p h x).train = s.train := rfl
@[simp] theorem State.setProg_oasQueues (p h : Nat) (x : Prog) : (s.setProg p h x).oasQueues = s.oasQueues := rfl
@[simp] theorem State.setProg_oasActive (p h : Nat) (x : Prog) : (s.setProg p h x).oasActive = s.oasActive := rfl
@[simp] theorem State.setProg_oasTurn (p h : Nat) (x : Prog) : (s.setProg p h x).oasTurn = s.oasTurn := rfl
@[simp] theorem State.setProg_oasXfers (p h : Nat) (x : Prog) : (s.setProg p h x).oasXfers = s.oasXfers := rfl
@[simp] theorem State.setProg_flows (p h : Nat) (x : Prog) : (s.setProg p h x).flows = s.flows := rfl
@[simp] theorem State.setProg_colls (p h : Nat) (x : Prog) : (s.setProg p h x).colls = s.colls := rfl
@[simp] theorem State.setProg_creditTurn (p h : Nat) (x : Prog) : (s.setProg p h x).creditTurn = s.creditTurn := rfl
@[simp] theorem State.setProg_epochs (p h : Nat) (x : Prog) : (s.setProg p h x).epochs = s.epochs := rfl
@[simp] theorem State.setProg_failCode (p h : Nat) (x : Prog) : (s.setProg p h x).failCode = s.failCode := rfl
@[simp] theorem State.setProg_heat (p h : Nat) (x : Prog) : (s.setProg p h x).heat = s.heat := rfl
@[simp] theorem State.setProg_sirocco (p h : Nat) (x : Prog) : (s.setProg p h x).sirocco = s.sirocco := rfl
@[simp] theorem State.setProg_sirSteps (p h : Nat) (x : Prog) : (s.setProg p h x).sirSteps = s.sirSteps := rfl
@[simp] theorem State.setProg_mirage (p h : Nat) (x : Prog) : (s.setProg p h x).mirage = s.mirage := rfl
@[simp] theorem State.setProg_dump (p h : Nat) (x : Prog) : (s.setProg p h x).dump = s.dump := rfl
@[simp] theorem State.setProg_sec (p h : Nat) (x : Prog) : (s.setProg p h x).sec = s.sec := rfl
@[simp] theorem State.setProg_mlogs (p h : Nat) (x : Prog) : (s.setProg p h x).mlogs = s.mlogs := rfl
@[simp] theorem State.setProg_span (p h : Nat) (x : Prog) : (s.setProg p h x).span = s.span := rfl
@[simp] theorem State.setProg_slowKeys (p h : Nat) (x : Prog) : (s.setProg p h x).slowKeys = s.slowKeys := rfl
@[simp] theorem State.setProg_ides (p h : Nat) (x : Prog) : (s.setProg p h x).ides = s.ides := rfl
@[simp] theorem State.setProg_spdms (p h : Nat) (x : Prog) : (s.setProg p h x).spdms = s.spdms := rfl
@[simp] theorem State.setProg_pwr (p h : Nat) (x : Prog) : (s.setProg p h x).pwr = s.pwr := rfl
@[simp] theorem State.setProg_unread (p h : Nat) (x : Prog) : (s.setProg p h x).unread = s.unread := rfl
@[simp] theorem State.setProg_errWrap (p h : Nat) (x : Prog) : (s.setProg p h x).errWrap = s.errWrap := rfl
@[simp] theorem State.setProg_unsig (p h : Nat) (x : Prog) : (s.setProg p h x).unsig = s.unsig := rfl
@[simp] theorem State.setProg_msixTable (p h : Nat) (x : Prog) : (s.setProg p h x).msixTable = s.msixTable := rfl
@[simp] theorem State.setProg_msixPend (p h : Nat) (x : Prog) : (s.setProg p h x).msixPend = s.msixPend := rfl
@[simp] theorem State.setProg_halves (p h : Nat) (x : Prog) : (s.setProg p h x).halves = s.halves := rfl
@[simp] theorem State.setProg_faultCode (p h : Nat) (x : Prog) : (s.setProg p h x).faultCode = s.faultCode := rfl

/-! ### State.setCar -/

@[simp] theorem State.setCar_pending (p d : Nat) (x : Option CarInst) : (s.setCar p d x).pending = s.pending := rfl
@[simp] theorem State.setCar_free (p d : Nat) (x : Option CarInst) : (s.setCar p d x).free = s.free := rfl
@[simp] theorem State.setCar_timeUs (p d : Nat) (x : Option CarInst) : (s.setCar p d x).timeUs = s.timeUs := rfl
@[simp] theorem State.setCar_regs (p d : Nat) (x : Option CarInst) : (s.setCar p d x).regs = s.regs := rfl
@[simp] theorem State.setCar_written (p d : Nat) (x : Option CarInst) : (s.setCar p d x).written = s.written := rfl
@[simp] theorem State.setCar_out (p d : Nat) (x : Option CarInst) : (s.setCar p d x).out = s.out := rfl
@[simp] theorem State.setCar_mem (p d : Nat) (x : Option CarInst) : (s.setCar p d x).mem = s.mem := rfl
@[simp] theorem State.setCar_cache (p d : Nat) (x : Option CarInst) : (s.setCar p d x).cache = s.cache := rfl
@[simp] theorem State.setCar_tick (p d : Nat) (x : Option CarInst) : (s.setCar p d x).tick = s.tick := rfl
@[simp] theorem State.setCar_nativePins (p d : Nat) (x : Option CarInst) : (s.setCar p d x).nativePins = s.nativePins := rfl
@[simp] theorem State.setCar_frames (p d : Nat) (x : Option CarInst) : (s.setCar p d x).frames = s.frames := rfl
@[simp] theorem State.setCar_frameBase (p d : Nat) (x : Option CarInst) : (s.setCar p d x).frameBase = s.frameBase := rfl
@[simp] theorem State.setCar_pageMap (p d : Nat) (x : Option CarInst) : (s.setCar p d x).pageMap = s.pageMap := rfl
@[simp] theorem State.setCar_mapout (p d : Nat) (x : Option CarInst) : (s.setCar p d x).mapout = s.mapout := rfl
@[simp] theorem State.setCar_tokens (p d : Nat) (x : Option CarInst) : (s.setCar p d x).tokens = s.tokens := rfl
@[simp] theorem State.setCar_levels (p d : Nat) (x : Option CarInst) : (s.setCar p d x).levels = s.levels := rfl
@[simp] theorem State.setCar_grants (p d : Nat) (x : Option CarInst) : (s.setCar p d x).grants = s.grants := rfl
@[simp] theorem State.setCar_stalls (p d : Nat) (x : Option CarInst) : (s.setCar p d x).stalls = s.stalls := rfl
@[simp] theorem State.setCar_chanServed (p d : Nat) (x : Option CarInst) : (s.setCar p d x).chanServed = s.chanServed := rfl
@[simp] theorem State.setCar_cmds (p d : Nat) (x : Option CarInst) : (s.setCar p d x).cmds = s.cmds := rfl
@[simp] theorem State.setCar_recent (p d : Nat) (x : Option CarInst) : (s.setCar p d x).recent = s.recent := rfl
@[simp] theorem State.setCar_seqs (p d : Nat) (x : Option CarInst) : (s.setCar p d x).seqs = s.seqs := rfl
@[simp] theorem State.setCar_visits (p d : Nat) (x : Option CarInst) : (s.setCar p d x).visits = s.visits := rfl
@[simp] theorem State.setCar_dma (p d : Nat) (x : Option CarInst) : (s.setCar p d x).dma = s.dma := rfl
@[simp] theorem State.setCar_dmaEng (p d : Nat) (x : Option CarInst) : (s.setCar p d x).dmaEng = s.dmaEng := rfl
@[simp] theorem State.setCar_dqs (p d : Nat) (x : Option CarInst) : (s.setCar p d x).dqs = s.dqs := rfl
@[simp] theorem State.setCar_dcqCount (p d : Nat) (x : Option CarInst) : (s.setCar p d x).dcqCount = s.dcqCount := rfl
@[simp] theorem State.setCar_dcqWritten (p d : Nat) (x : Option CarInst) : (s.setCar p d x).dcqWritten = s.dcqWritten := rfl
@[simp] theorem State.setCar_feedLast (p d : Nat) (x : Option CarInst) : (s.setCar p d x).feedLast = s.feedLast := rfl
@[simp] theorem State.setCar_stg (p d : Nat) (x : Option CarInst) : (s.setCar p d x).stg = s.stg := rfl
@[simp] theorem State.setCar_gtag (p d : Nat) (x : Option CarInst) : (s.setCar p d x).gtag = s.gtag := rfl
@[simp] theorem State.setCar_acc (p d : Nat) (x : Option CarInst) : (s.setCar p d x).acc = s.acc := rfl
@[simp] theorem State.setCar_slots (p d : Nat) (x : Option CarInst) : (s.setCar p d x).slots = s.slots := rfl
@[simp] theorem State.setCar_engs (p d : Nat) (x : Option CarInst) : (s.setCar p d x).engs = s.engs := rfl
@[simp] theorem State.setCar_vec (p d : Nat) (x : Option CarInst) : (s.setCar p d x).vec = s.vec := rfl
@[simp] theorem State.setCar_progs (p d : Nat) (x : Option CarInst) : (s.setCar p d x).progs = s.progs := rfl
@[simp] theorem State.setCar_launches (p d : Nat) (x : Option CarInst) : (s.setCar p d x).launches = s.launches := rfl
@[simp] theorem State.setCar_vcs (p d : Nat) (x : Option CarInst) : (s.setCar p d x).vcs = s.vcs := rfl
@[simp] theorem State.setCar_saved (p d : Nat) (x : Option CarInst) : (s.setCar p d x).saved = s.saved := rfl
@[simp] theorem State.setCar_slotOwner (p d : Nat) (x : Option CarInst) : (s.setCar p d x).slotOwner = s.slotOwner := rfl
@[simp] theorem State.setCar_banks (p d : Nat) (x : Option CarInst) : (s.setCar p d x).banks = s.banks := rfl
@[simp] theorem State.setCar_tags (p d : Nat) (x : Option CarInst) : (s.setCar p d x).tags = s.tags := rfl
@[simp] theorem State.setCar_shadows (p d : Nat) (x : Option CarInst) : (s.setCar p d x).shadows = s.shadows := rfl
@[simp] theorem State.setCar_skewed (p d : Nat) (x : Option CarInst) : (s.setCar p d x).skewed = s.skewed := rfl
@[simp] theorem State.setCar_mbs (p d : Nat) (x : Option CarInst) : (s.setCar p d x).mbs = s.mbs := rfl
@[simp] theorem State.setCar_train (p d : Nat) (x : Option CarInst) : (s.setCar p d x).train = s.train := rfl
@[simp] theorem State.setCar_oasQueues (p d : Nat) (x : Option CarInst) : (s.setCar p d x).oasQueues = s.oasQueues := rfl
@[simp] theorem State.setCar_oasActive (p d : Nat) (x : Option CarInst) : (s.setCar p d x).oasActive = s.oasActive := rfl
@[simp] theorem State.setCar_oasTurn (p d : Nat) (x : Option CarInst) : (s.setCar p d x).oasTurn = s.oasTurn := rfl
@[simp] theorem State.setCar_oasXfers (p d : Nat) (x : Option CarInst) : (s.setCar p d x).oasXfers = s.oasXfers := rfl
@[simp] theorem State.setCar_flows (p d : Nat) (x : Option CarInst) : (s.setCar p d x).flows = s.flows := rfl
@[simp] theorem State.setCar_colls (p d : Nat) (x : Option CarInst) : (s.setCar p d x).colls = s.colls := rfl
@[simp] theorem State.setCar_creditTurn (p d : Nat) (x : Option CarInst) : (s.setCar p d x).creditTurn = s.creditTurn := rfl
@[simp] theorem State.setCar_epochs (p d : Nat) (x : Option CarInst) : (s.setCar p d x).epochs = s.epochs := rfl
@[simp] theorem State.setCar_failCode (p d : Nat) (x : Option CarInst) : (s.setCar p d x).failCode = s.failCode := rfl
@[simp] theorem State.setCar_heat (p d : Nat) (x : Option CarInst) : (s.setCar p d x).heat = s.heat := rfl
@[simp] theorem State.setCar_sirocco (p d : Nat) (x : Option CarInst) : (s.setCar p d x).sirocco = s.sirocco := rfl
@[simp] theorem State.setCar_sirSteps (p d : Nat) (x : Option CarInst) : (s.setCar p d x).sirSteps = s.sirSteps := rfl
@[simp] theorem State.setCar_mirage (p d : Nat) (x : Option CarInst) : (s.setCar p d x).mirage = s.mirage := rfl
@[simp] theorem State.setCar_dump (p d : Nat) (x : Option CarInst) : (s.setCar p d x).dump = s.dump := rfl
@[simp] theorem State.setCar_sec (p d : Nat) (x : Option CarInst) : (s.setCar p d x).sec = s.sec := rfl
@[simp] theorem State.setCar_mlogs (p d : Nat) (x : Option CarInst) : (s.setCar p d x).mlogs = s.mlogs := rfl
@[simp] theorem State.setCar_span (p d : Nat) (x : Option CarInst) : (s.setCar p d x).span = s.span := rfl
@[simp] theorem State.setCar_slowKeys (p d : Nat) (x : Option CarInst) : (s.setCar p d x).slowKeys = s.slowKeys := rfl
@[simp] theorem State.setCar_ides (p d : Nat) (x : Option CarInst) : (s.setCar p d x).ides = s.ides := rfl
@[simp] theorem State.setCar_spdms (p d : Nat) (x : Option CarInst) : (s.setCar p d x).spdms = s.spdms := rfl
@[simp] theorem State.setCar_pwr (p d : Nat) (x : Option CarInst) : (s.setCar p d x).pwr = s.pwr := rfl
@[simp] theorem State.setCar_unread (p d : Nat) (x : Option CarInst) : (s.setCar p d x).unread = s.unread := rfl
@[simp] theorem State.setCar_errWrap (p d : Nat) (x : Option CarInst) : (s.setCar p d x).errWrap = s.errWrap := rfl
@[simp] theorem State.setCar_unsig (p d : Nat) (x : Option CarInst) : (s.setCar p d x).unsig = s.unsig := rfl
@[simp] theorem State.setCar_msixTable (p d : Nat) (x : Option CarInst) : (s.setCar p d x).msixTable = s.msixTable := rfl
@[simp] theorem State.setCar_msixPend (p d : Nat) (x : Option CarInst) : (s.setCar p d x).msixPend = s.msixPend := rfl
@[simp] theorem State.setCar_halves (p d : Nat) (x : Option CarInst) : (s.setCar p d x).halves = s.halves := rfl
@[simp] theorem State.setCar_faultCode (p d : Nat) (x : Option CarInst) : (s.setCar p d x).faultCode = s.faultCode := rfl

/-! ### State.setMb -/

@[simp] theorem State.setMb_pending (p m : Nat) (x : MB) : (s.setMb p m x).pending = s.pending := rfl
@[simp] theorem State.setMb_free (p m : Nat) (x : MB) : (s.setMb p m x).free = s.free := rfl
@[simp] theorem State.setMb_timeUs (p m : Nat) (x : MB) : (s.setMb p m x).timeUs = s.timeUs := rfl
@[simp] theorem State.setMb_regs (p m : Nat) (x : MB) : (s.setMb p m x).regs = s.regs := rfl
@[simp] theorem State.setMb_written (p m : Nat) (x : MB) : (s.setMb p m x).written = s.written := rfl
@[simp] theorem State.setMb_out (p m : Nat) (x : MB) : (s.setMb p m x).out = s.out := rfl
@[simp] theorem State.setMb_mem (p m : Nat) (x : MB) : (s.setMb p m x).mem = s.mem := rfl
@[simp] theorem State.setMb_cache (p m : Nat) (x : MB) : (s.setMb p m x).cache = s.cache := rfl
@[simp] theorem State.setMb_tick (p m : Nat) (x : MB) : (s.setMb p m x).tick = s.tick := rfl
@[simp] theorem State.setMb_nativePins (p m : Nat) (x : MB) : (s.setMb p m x).nativePins = s.nativePins := rfl
@[simp] theorem State.setMb_frames (p m : Nat) (x : MB) : (s.setMb p m x).frames = s.frames := rfl
@[simp] theorem State.setMb_frameBase (p m : Nat) (x : MB) : (s.setMb p m x).frameBase = s.frameBase := rfl
@[simp] theorem State.setMb_pageMap (p m : Nat) (x : MB) : (s.setMb p m x).pageMap = s.pageMap := rfl
@[simp] theorem State.setMb_mapout (p m : Nat) (x : MB) : (s.setMb p m x).mapout = s.mapout := rfl
@[simp] theorem State.setMb_tokens (p m : Nat) (x : MB) : (s.setMb p m x).tokens = s.tokens := rfl
@[simp] theorem State.setMb_levels (p m : Nat) (x : MB) : (s.setMb p m x).levels = s.levels := rfl
@[simp] theorem State.setMb_grants (p m : Nat) (x : MB) : (s.setMb p m x).grants = s.grants := rfl
@[simp] theorem State.setMb_stalls (p m : Nat) (x : MB) : (s.setMb p m x).stalls = s.stalls := rfl
@[simp] theorem State.setMb_chanServed (p m : Nat) (x : MB) : (s.setMb p m x).chanServed = s.chanServed := rfl
@[simp] theorem State.setMb_cmds (p m : Nat) (x : MB) : (s.setMb p m x).cmds = s.cmds := rfl
@[simp] theorem State.setMb_recent (p m : Nat) (x : MB) : (s.setMb p m x).recent = s.recent := rfl
@[simp] theorem State.setMb_seqs (p m : Nat) (x : MB) : (s.setMb p m x).seqs = s.seqs := rfl
@[simp] theorem State.setMb_visits (p m : Nat) (x : MB) : (s.setMb p m x).visits = s.visits := rfl
@[simp] theorem State.setMb_dma (p m : Nat) (x : MB) : (s.setMb p m x).dma = s.dma := rfl
@[simp] theorem State.setMb_dmaEng (p m : Nat) (x : MB) : (s.setMb p m x).dmaEng = s.dmaEng := rfl
@[simp] theorem State.setMb_dqs (p m : Nat) (x : MB) : (s.setMb p m x).dqs = s.dqs := rfl
@[simp] theorem State.setMb_dcqCount (p m : Nat) (x : MB) : (s.setMb p m x).dcqCount = s.dcqCount := rfl
@[simp] theorem State.setMb_dcqWritten (p m : Nat) (x : MB) : (s.setMb p m x).dcqWritten = s.dcqWritten := rfl
@[simp] theorem State.setMb_feedLast (p m : Nat) (x : MB) : (s.setMb p m x).feedLast = s.feedLast := rfl
@[simp] theorem State.setMb_stg (p m : Nat) (x : MB) : (s.setMb p m x).stg = s.stg := rfl
@[simp] theorem State.setMb_gtag (p m : Nat) (x : MB) : (s.setMb p m x).gtag = s.gtag := rfl
@[simp] theorem State.setMb_acc (p m : Nat) (x : MB) : (s.setMb p m x).acc = s.acc := rfl
@[simp] theorem State.setMb_slots (p m : Nat) (x : MB) : (s.setMb p m x).slots = s.slots := rfl
@[simp] theorem State.setMb_engs (p m : Nat) (x : MB) : (s.setMb p m x).engs = s.engs := rfl
@[simp] theorem State.setMb_vec (p m : Nat) (x : MB) : (s.setMb p m x).vec = s.vec := rfl
@[simp] theorem State.setMb_progs (p m : Nat) (x : MB) : (s.setMb p m x).progs = s.progs := rfl
@[simp] theorem State.setMb_launches (p m : Nat) (x : MB) : (s.setMb p m x).launches = s.launches := rfl
@[simp] theorem State.setMb_vcs (p m : Nat) (x : MB) : (s.setMb p m x).vcs = s.vcs := rfl
@[simp] theorem State.setMb_saved (p m : Nat) (x : MB) : (s.setMb p m x).saved = s.saved := rfl
@[simp] theorem State.setMb_slotOwner (p m : Nat) (x : MB) : (s.setMb p m x).slotOwner = s.slotOwner := rfl
@[simp] theorem State.setMb_caravans (p m : Nat) (x : MB) : (s.setMb p m x).caravans = s.caravans := rfl
@[simp] theorem State.setMb_banks (p m : Nat) (x : MB) : (s.setMb p m x).banks = s.banks := rfl
@[simp] theorem State.setMb_tags (p m : Nat) (x : MB) : (s.setMb p m x).tags = s.tags := rfl
@[simp] theorem State.setMb_shadows (p m : Nat) (x : MB) : (s.setMb p m x).shadows = s.shadows := rfl
@[simp] theorem State.setMb_skewed (p m : Nat) (x : MB) : (s.setMb p m x).skewed = s.skewed := rfl
@[simp] theorem State.setMb_train (p m : Nat) (x : MB) : (s.setMb p m x).train = s.train := rfl
@[simp] theorem State.setMb_oasQueues (p m : Nat) (x : MB) : (s.setMb p m x).oasQueues = s.oasQueues := rfl
@[simp] theorem State.setMb_oasActive (p m : Nat) (x : MB) : (s.setMb p m x).oasActive = s.oasActive := rfl
@[simp] theorem State.setMb_oasTurn (p m : Nat) (x : MB) : (s.setMb p m x).oasTurn = s.oasTurn := rfl
@[simp] theorem State.setMb_oasXfers (p m : Nat) (x : MB) : (s.setMb p m x).oasXfers = s.oasXfers := rfl
@[simp] theorem State.setMb_flows (p m : Nat) (x : MB) : (s.setMb p m x).flows = s.flows := rfl
@[simp] theorem State.setMb_colls (p m : Nat) (x : MB) : (s.setMb p m x).colls = s.colls := rfl
@[simp] theorem State.setMb_creditTurn (p m : Nat) (x : MB) : (s.setMb p m x).creditTurn = s.creditTurn := rfl
@[simp] theorem State.setMb_epochs (p m : Nat) (x : MB) : (s.setMb p m x).epochs = s.epochs := rfl
@[simp] theorem State.setMb_failCode (p m : Nat) (x : MB) : (s.setMb p m x).failCode = s.failCode := rfl
@[simp] theorem State.setMb_heat (p m : Nat) (x : MB) : (s.setMb p m x).heat = s.heat := rfl
@[simp] theorem State.setMb_sirocco (p m : Nat) (x : MB) : (s.setMb p m x).sirocco = s.sirocco := rfl
@[simp] theorem State.setMb_sirSteps (p m : Nat) (x : MB) : (s.setMb p m x).sirSteps = s.sirSteps := rfl
@[simp] theorem State.setMb_mirage (p m : Nat) (x : MB) : (s.setMb p m x).mirage = s.mirage := rfl
@[simp] theorem State.setMb_dump (p m : Nat) (x : MB) : (s.setMb p m x).dump = s.dump := rfl
@[simp] theorem State.setMb_sec (p m : Nat) (x : MB) : (s.setMb p m x).sec = s.sec := rfl
@[simp] theorem State.setMb_mlogs (p m : Nat) (x : MB) : (s.setMb p m x).mlogs = s.mlogs := rfl
@[simp] theorem State.setMb_span (p m : Nat) (x : MB) : (s.setMb p m x).span = s.span := rfl
@[simp] theorem State.setMb_slowKeys (p m : Nat) (x : MB) : (s.setMb p m x).slowKeys = s.slowKeys := rfl
@[simp] theorem State.setMb_ides (p m : Nat) (x : MB) : (s.setMb p m x).ides = s.ides := rfl
@[simp] theorem State.setMb_spdms (p m : Nat) (x : MB) : (s.setMb p m x).spdms = s.spdms := rfl
@[simp] theorem State.setMb_pwr (p m : Nat) (x : MB) : (s.setMb p m x).pwr = s.pwr := rfl
@[simp] theorem State.setMb_unread (p m : Nat) (x : MB) : (s.setMb p m x).unread = s.unread := rfl
@[simp] theorem State.setMb_errWrap (p m : Nat) (x : MB) : (s.setMb p m x).errWrap = s.errWrap := rfl
@[simp] theorem State.setMb_unsig (p m : Nat) (x : MB) : (s.setMb p m x).unsig = s.unsig := rfl
@[simp] theorem State.setMb_msixTable (p m : Nat) (x : MB) : (s.setMb p m x).msixTable = s.msixTable := rfl
@[simp] theorem State.setMb_msixPend (p m : Nat) (x : MB) : (s.setMb p m x).msixPend = s.msixPend := rfl
@[simp] theorem State.setMb_halves (p m : Nat) (x : MB) : (s.setMb p m x).halves = s.halves := rfl
@[simp] theorem State.setMb_faultCode (p m : Nat) (x : MB) : (s.setMb p m x).faultCode = s.faultCode := rfl

/-! ### State.setChan -/

@[simp] theorem State.setChan_pending (c n : Nat) (x : Chan2) : (s.setChan c n x).pending = s.pending := rfl
@[simp] theorem State.setChan_free (c n : Nat) (x : Chan2) : (s.setChan c n x).free = s.free := rfl
@[simp] theorem State.setChan_timeUs (c n : Nat) (x : Chan2) : (s.setChan c n x).timeUs = s.timeUs := rfl
@[simp] theorem State.setChan_regs (c n : Nat) (x : Chan2) : (s.setChan c n x).regs = s.regs := rfl
@[simp] theorem State.setChan_written (c n : Nat) (x : Chan2) : (s.setChan c n x).written = s.written := rfl
@[simp] theorem State.setChan_out (c n : Nat) (x : Chan2) : (s.setChan c n x).out = s.out := rfl
@[simp] theorem State.setChan_mem (c n : Nat) (x : Chan2) : (s.setChan c n x).mem = s.mem := rfl
@[simp] theorem State.setChan_cache (c n : Nat) (x : Chan2) : (s.setChan c n x).cache = s.cache := rfl
@[simp] theorem State.setChan_tick (c n : Nat) (x : Chan2) : (s.setChan c n x).tick = s.tick := rfl
@[simp] theorem State.setChan_nativePins (c n : Nat) (x : Chan2) : (s.setChan c n x).nativePins = s.nativePins := rfl
@[simp] theorem State.setChan_frames (c n : Nat) (x : Chan2) : (s.setChan c n x).frames = s.frames := rfl
@[simp] theorem State.setChan_frameBase (c n : Nat) (x : Chan2) : (s.setChan c n x).frameBase = s.frameBase := rfl
@[simp] theorem State.setChan_pageMap (c n : Nat) (x : Chan2) : (s.setChan c n x).pageMap = s.pageMap := rfl
@[simp] theorem State.setChan_mapout (c n : Nat) (x : Chan2) : (s.setChan c n x).mapout = s.mapout := rfl
@[simp] theorem State.setChan_tokens (c n : Nat) (x : Chan2) : (s.setChan c n x).tokens = s.tokens := rfl
@[simp] theorem State.setChan_levels (c n : Nat) (x : Chan2) : (s.setChan c n x).levels = s.levels := rfl
@[simp] theorem State.setChan_grants (c n : Nat) (x : Chan2) : (s.setChan c n x).grants = s.grants := rfl
@[simp] theorem State.setChan_stalls (c n : Nat) (x : Chan2) : (s.setChan c n x).stalls = s.stalls := rfl
@[simp] theorem State.setChan_chanServed (c n : Nat) (x : Chan2) : (s.setChan c n x).chanServed = s.chanServed := rfl
@[simp] theorem State.setChan_cmds (c n : Nat) (x : Chan2) : (s.setChan c n x).cmds = s.cmds := rfl
@[simp] theorem State.setChan_recent (c n : Nat) (x : Chan2) : (s.setChan c n x).recent = s.recent := rfl
@[simp] theorem State.setChan_seqs (c n : Nat) (x : Chan2) : (s.setChan c n x).seqs = s.seqs := rfl
@[simp] theorem State.setChan_visits (c n : Nat) (x : Chan2) : (s.setChan c n x).visits = s.visits := rfl
@[simp] theorem State.setChan_dmaEng (c n : Nat) (x : Chan2) : (s.setChan c n x).dmaEng = s.dmaEng := rfl
@[simp] theorem State.setChan_dqs (c n : Nat) (x : Chan2) : (s.setChan c n x).dqs = s.dqs := rfl
@[simp] theorem State.setChan_dcqCount (c n : Nat) (x : Chan2) : (s.setChan c n x).dcqCount = s.dcqCount := rfl
@[simp] theorem State.setChan_dcqWritten (c n : Nat) (x : Chan2) : (s.setChan c n x).dcqWritten = s.dcqWritten := rfl
@[simp] theorem State.setChan_feedLast (c n : Nat) (x : Chan2) : (s.setChan c n x).feedLast = s.feedLast := rfl
@[simp] theorem State.setChan_stg (c n : Nat) (x : Chan2) : (s.setChan c n x).stg = s.stg := rfl
@[simp] theorem State.setChan_gtag (c n : Nat) (x : Chan2) : (s.setChan c n x).gtag = s.gtag := rfl
@[simp] theorem State.setChan_acc (c n : Nat) (x : Chan2) : (s.setChan c n x).acc = s.acc := rfl
@[simp] theorem State.setChan_slots (c n : Nat) (x : Chan2) : (s.setChan c n x).slots = s.slots := rfl
@[simp] theorem State.setChan_engs (c n : Nat) (x : Chan2) : (s.setChan c n x).engs = s.engs := rfl
@[simp] theorem State.setChan_vec (c n : Nat) (x : Chan2) : (s.setChan c n x).vec = s.vec := rfl
@[simp] theorem State.setChan_progs (c n : Nat) (x : Chan2) : (s.setChan c n x).progs = s.progs := rfl
@[simp] theorem State.setChan_launches (c n : Nat) (x : Chan2) : (s.setChan c n x).launches = s.launches := rfl
@[simp] theorem State.setChan_vcs (c n : Nat) (x : Chan2) : (s.setChan c n x).vcs = s.vcs := rfl
@[simp] theorem State.setChan_saved (c n : Nat) (x : Chan2) : (s.setChan c n x).saved = s.saved := rfl
@[simp] theorem State.setChan_slotOwner (c n : Nat) (x : Chan2) : (s.setChan c n x).slotOwner = s.slotOwner := rfl
@[simp] theorem State.setChan_caravans (c n : Nat) (x : Chan2) : (s.setChan c n x).caravans = s.caravans := rfl
@[simp] theorem State.setChan_banks (c n : Nat) (x : Chan2) : (s.setChan c n x).banks = s.banks := rfl
@[simp] theorem State.setChan_tags (c n : Nat) (x : Chan2) : (s.setChan c n x).tags = s.tags := rfl
@[simp] theorem State.setChan_shadows (c n : Nat) (x : Chan2) : (s.setChan c n x).shadows = s.shadows := rfl
@[simp] theorem State.setChan_skewed (c n : Nat) (x : Chan2) : (s.setChan c n x).skewed = s.skewed := rfl
@[simp] theorem State.setChan_mbs (c n : Nat) (x : Chan2) : (s.setChan c n x).mbs = s.mbs := rfl
@[simp] theorem State.setChan_train (c n : Nat) (x : Chan2) : (s.setChan c n x).train = s.train := rfl
@[simp] theorem State.setChan_oasQueues (c n : Nat) (x : Chan2) : (s.setChan c n x).oasQueues = s.oasQueues := rfl
@[simp] theorem State.setChan_oasActive (c n : Nat) (x : Chan2) : (s.setChan c n x).oasActive = s.oasActive := rfl
@[simp] theorem State.setChan_oasTurn (c n : Nat) (x : Chan2) : (s.setChan c n x).oasTurn = s.oasTurn := rfl
@[simp] theorem State.setChan_oasXfers (c n : Nat) (x : Chan2) : (s.setChan c n x).oasXfers = s.oasXfers := rfl
@[simp] theorem State.setChan_flows (c n : Nat) (x : Chan2) : (s.setChan c n x).flows = s.flows := rfl
@[simp] theorem State.setChan_colls (c n : Nat) (x : Chan2) : (s.setChan c n x).colls = s.colls := rfl
@[simp] theorem State.setChan_creditTurn (c n : Nat) (x : Chan2) : (s.setChan c n x).creditTurn = s.creditTurn := rfl
@[simp] theorem State.setChan_epochs (c n : Nat) (x : Chan2) : (s.setChan c n x).epochs = s.epochs := rfl
@[simp] theorem State.setChan_failCode (c n : Nat) (x : Chan2) : (s.setChan c n x).failCode = s.failCode := rfl
@[simp] theorem State.setChan_heat (c n : Nat) (x : Chan2) : (s.setChan c n x).heat = s.heat := rfl
@[simp] theorem State.setChan_sirocco (c n : Nat) (x : Chan2) : (s.setChan c n x).sirocco = s.sirocco := rfl
@[simp] theorem State.setChan_sirSteps (c n : Nat) (x : Chan2) : (s.setChan c n x).sirSteps = s.sirSteps := rfl
@[simp] theorem State.setChan_mirage (c n : Nat) (x : Chan2) : (s.setChan c n x).mirage = s.mirage := rfl
@[simp] theorem State.setChan_dump (c n : Nat) (x : Chan2) : (s.setChan c n x).dump = s.dump := rfl
@[simp] theorem State.setChan_sec (c n : Nat) (x : Chan2) : (s.setChan c n x).sec = s.sec := rfl
@[simp] theorem State.setChan_mlogs (c n : Nat) (x : Chan2) : (s.setChan c n x).mlogs = s.mlogs := rfl
@[simp] theorem State.setChan_span (c n : Nat) (x : Chan2) : (s.setChan c n x).span = s.span := rfl
@[simp] theorem State.setChan_slowKeys (c n : Nat) (x : Chan2) : (s.setChan c n x).slowKeys = s.slowKeys := rfl
@[simp] theorem State.setChan_ides (c n : Nat) (x : Chan2) : (s.setChan c n x).ides = s.ides := rfl
@[simp] theorem State.setChan_spdms (c n : Nat) (x : Chan2) : (s.setChan c n x).spdms = s.spdms := rfl
@[simp] theorem State.setChan_pwr (c n : Nat) (x : Chan2) : (s.setChan c n x).pwr = s.pwr := rfl
@[simp] theorem State.setChan_unread (c n : Nat) (x : Chan2) : (s.setChan c n x).unread = s.unread := rfl
@[simp] theorem State.setChan_errWrap (c n : Nat) (x : Chan2) : (s.setChan c n x).errWrap = s.errWrap := rfl
@[simp] theorem State.setChan_unsig (c n : Nat) (x : Chan2) : (s.setChan c n x).unsig = s.unsig := rfl
@[simp] theorem State.setChan_msixTable (c n : Nat) (x : Chan2) : (s.setChan c n x).msixTable = s.msixTable := rfl
@[simp] theorem State.setChan_msixPend (c n : Nat) (x : Chan2) : (s.setChan c n x).msixPend = s.msixPend := rfl
@[simp] theorem State.setChan_halves (c n : Nat) (x : Chan2) : (s.setChan c n x).halves = s.halves := rfl
@[simp] theorem State.setChan_faultCode (c n : Nat) (x : Chan2) : (s.setChan c n x).faultCode = s.faultCode := rfl

/-! ### setBucket -/

@[simp] theorem setBucket_pending (p e n : Nat) : (setBucket s p e n).pending = s.pending := rfl
@[simp] theorem setBucket_free (p e n : Nat) : (setBucket s p e n).free = s.free := rfl
@[simp] theorem setBucket_timeUs (p e n : Nat) : (setBucket s p e n).timeUs = s.timeUs := rfl
@[simp] theorem setBucket_regs (p e n : Nat) : (setBucket s p e n).regs = s.regs := rfl
@[simp] theorem setBucket_written (p e n : Nat) : (setBucket s p e n).written = s.written := rfl
@[simp] theorem setBucket_out (p e n : Nat) : (setBucket s p e n).out = s.out := rfl
@[simp] theorem setBucket_mem (p e n : Nat) : (setBucket s p e n).mem = s.mem := rfl
@[simp] theorem setBucket_cache (p e n : Nat) : (setBucket s p e n).cache = s.cache := rfl
@[simp] theorem setBucket_tick (p e n : Nat) : (setBucket s p e n).tick = s.tick := rfl
@[simp] theorem setBucket_nativePins (p e n : Nat) : (setBucket s p e n).nativePins = s.nativePins := rfl
@[simp] theorem setBucket_frames (p e n : Nat) : (setBucket s p e n).frames = s.frames := rfl
@[simp] theorem setBucket_frameBase (p e n : Nat) : (setBucket s p e n).frameBase = s.frameBase := rfl
@[simp] theorem setBucket_pageMap (p e n : Nat) : (setBucket s p e n).pageMap = s.pageMap := rfl
@[simp] theorem setBucket_mapout (p e n : Nat) : (setBucket s p e n).mapout = s.mapout := rfl
@[simp] theorem setBucket_levels (p e n : Nat) : (setBucket s p e n).levels = s.levels := rfl
@[simp] theorem setBucket_grants (p e n : Nat) : (setBucket s p e n).grants = s.grants := rfl
@[simp] theorem setBucket_stalls (p e n : Nat) : (setBucket s p e n).stalls = s.stalls := rfl
@[simp] theorem setBucket_chanServed (p e n : Nat) : (setBucket s p e n).chanServed = s.chanServed := rfl
@[simp] theorem setBucket_cmds (p e n : Nat) : (setBucket s p e n).cmds = s.cmds := rfl
@[simp] theorem setBucket_recent (p e n : Nat) : (setBucket s p e n).recent = s.recent := rfl
@[simp] theorem setBucket_seqs (p e n : Nat) : (setBucket s p e n).seqs = s.seqs := rfl
@[simp] theorem setBucket_visits (p e n : Nat) : (setBucket s p e n).visits = s.visits := rfl
@[simp] theorem setBucket_dma (p e n : Nat) : (setBucket s p e n).dma = s.dma := rfl
@[simp] theorem setBucket_dmaEng (p e n : Nat) : (setBucket s p e n).dmaEng = s.dmaEng := rfl
@[simp] theorem setBucket_dqs (p e n : Nat) : (setBucket s p e n).dqs = s.dqs := rfl
@[simp] theorem setBucket_dcqCount (p e n : Nat) : (setBucket s p e n).dcqCount = s.dcqCount := rfl
@[simp] theorem setBucket_dcqWritten (p e n : Nat) : (setBucket s p e n).dcqWritten = s.dcqWritten := rfl
@[simp] theorem setBucket_feedLast (p e n : Nat) : (setBucket s p e n).feedLast = s.feedLast := rfl
@[simp] theorem setBucket_stg (p e n : Nat) : (setBucket s p e n).stg = s.stg := rfl
@[simp] theorem setBucket_gtag (p e n : Nat) : (setBucket s p e n).gtag = s.gtag := rfl
@[simp] theorem setBucket_acc (p e n : Nat) : (setBucket s p e n).acc = s.acc := rfl
@[simp] theorem setBucket_slots (p e n : Nat) : (setBucket s p e n).slots = s.slots := rfl
@[simp] theorem setBucket_engs (p e n : Nat) : (setBucket s p e n).engs = s.engs := rfl
@[simp] theorem setBucket_vec (p e n : Nat) : (setBucket s p e n).vec = s.vec := rfl
@[simp] theorem setBucket_progs (p e n : Nat) : (setBucket s p e n).progs = s.progs := rfl
@[simp] theorem setBucket_launches (p e n : Nat) : (setBucket s p e n).launches = s.launches := rfl
@[simp] theorem setBucket_vcs (p e n : Nat) : (setBucket s p e n).vcs = s.vcs := rfl
@[simp] theorem setBucket_saved (p e n : Nat) : (setBucket s p e n).saved = s.saved := rfl
@[simp] theorem setBucket_slotOwner (p e n : Nat) : (setBucket s p e n).slotOwner = s.slotOwner := rfl
@[simp] theorem setBucket_caravans (p e n : Nat) : (setBucket s p e n).caravans = s.caravans := rfl
@[simp] theorem setBucket_banks (p e n : Nat) : (setBucket s p e n).banks = s.banks := rfl
@[simp] theorem setBucket_tags (p e n : Nat) : (setBucket s p e n).tags = s.tags := rfl
@[simp] theorem setBucket_shadows (p e n : Nat) : (setBucket s p e n).shadows = s.shadows := rfl
@[simp] theorem setBucket_skewed (p e n : Nat) : (setBucket s p e n).skewed = s.skewed := rfl
@[simp] theorem setBucket_mbs (p e n : Nat) : (setBucket s p e n).mbs = s.mbs := rfl
@[simp] theorem setBucket_train (p e n : Nat) : (setBucket s p e n).train = s.train := rfl
@[simp] theorem setBucket_oasQueues (p e n : Nat) : (setBucket s p e n).oasQueues = s.oasQueues := rfl
@[simp] theorem setBucket_oasActive (p e n : Nat) : (setBucket s p e n).oasActive = s.oasActive := rfl
@[simp] theorem setBucket_oasTurn (p e n : Nat) : (setBucket s p e n).oasTurn = s.oasTurn := rfl
@[simp] theorem setBucket_oasXfers (p e n : Nat) : (setBucket s p e n).oasXfers = s.oasXfers := rfl
@[simp] theorem setBucket_flows (p e n : Nat) : (setBucket s p e n).flows = s.flows := rfl
@[simp] theorem setBucket_colls (p e n : Nat) : (setBucket s p e n).colls = s.colls := rfl
@[simp] theorem setBucket_creditTurn (p e n : Nat) : (setBucket s p e n).creditTurn = s.creditTurn := rfl
@[simp] theorem setBucket_epochs (p e n : Nat) : (setBucket s p e n).epochs = s.epochs := rfl
@[simp] theorem setBucket_failCode (p e n : Nat) : (setBucket s p e n).failCode = s.failCode := rfl
@[simp] theorem setBucket_heat (p e n : Nat) : (setBucket s p e n).heat = s.heat := rfl
@[simp] theorem setBucket_sirocco (p e n : Nat) : (setBucket s p e n).sirocco = s.sirocco := rfl
@[simp] theorem setBucket_sirSteps (p e n : Nat) : (setBucket s p e n).sirSteps = s.sirSteps := rfl
@[simp] theorem setBucket_mirage (p e n : Nat) : (setBucket s p e n).mirage = s.mirage := rfl
@[simp] theorem setBucket_dump (p e n : Nat) : (setBucket s p e n).dump = s.dump := rfl
@[simp] theorem setBucket_sec (p e n : Nat) : (setBucket s p e n).sec = s.sec := rfl
@[simp] theorem setBucket_mlogs (p e n : Nat) : (setBucket s p e n).mlogs = s.mlogs := rfl
@[simp] theorem setBucket_span (p e n : Nat) : (setBucket s p e n).span = s.span := rfl
@[simp] theorem setBucket_slowKeys (p e n : Nat) : (setBucket s p e n).slowKeys = s.slowKeys := rfl
@[simp] theorem setBucket_ides (p e n : Nat) : (setBucket s p e n).ides = s.ides := rfl
@[simp] theorem setBucket_spdms (p e n : Nat) : (setBucket s p e n).spdms = s.spdms := rfl
@[simp] theorem setBucket_pwr (p e n : Nat) : (setBucket s p e n).pwr = s.pwr := rfl
@[simp] theorem setBucket_unread (p e n : Nat) : (setBucket s p e n).unread = s.unread := rfl
@[simp] theorem setBucket_errWrap (p e n : Nat) : (setBucket s p e n).errWrap = s.errWrap := rfl
@[simp] theorem setBucket_unsig (p e n : Nat) : (setBucket s p e n).unsig = s.unsig := rfl
@[simp] theorem setBucket_msixTable (p e n : Nat) : (setBucket s p e n).msixTable = s.msixTable := rfl
@[simp] theorem setBucket_msixPend (p e n : Nat) : (setBucket s p e n).msixPend = s.msixPend := rfl
@[simp] theorem setBucket_halves (p e n : Nat) : (setBucket s p e n).halves = s.halves := rfl
@[simp] theorem setBucket_faultCode (p e n : Nat) : (setBucket s p e n).faultCode = s.faultCode := rfl

/-! ### takeKeys -/

@[simp] theorem takeKeys_pending (ks : List Nat) : (takeKeys s ks).pending = s.pending := rfl
@[simp] theorem takeKeys_free (ks : List Nat) : (takeKeys s ks).free = s.free := rfl
@[simp] theorem takeKeys_timeUs (ks : List Nat) : (takeKeys s ks).timeUs = s.timeUs := rfl
@[simp] theorem takeKeys_regs (ks : List Nat) : (takeKeys s ks).regs = s.regs := rfl
@[simp] theorem takeKeys_written (ks : List Nat) : (takeKeys s ks).written = s.written := rfl
@[simp] theorem takeKeys_out (ks : List Nat) : (takeKeys s ks).out = s.out := rfl
@[simp] theorem takeKeys_mem (ks : List Nat) : (takeKeys s ks).mem = s.mem := rfl
@[simp] theorem takeKeys_cache (ks : List Nat) : (takeKeys s ks).cache = s.cache := rfl
@[simp] theorem takeKeys_tick (ks : List Nat) : (takeKeys s ks).tick = s.tick := rfl
@[simp] theorem takeKeys_nativePins (ks : List Nat) : (takeKeys s ks).nativePins = s.nativePins := rfl
@[simp] theorem takeKeys_frames (ks : List Nat) : (takeKeys s ks).frames = s.frames := rfl
@[simp] theorem takeKeys_frameBase (ks : List Nat) : (takeKeys s ks).frameBase = s.frameBase := rfl
@[simp] theorem takeKeys_pageMap (ks : List Nat) : (takeKeys s ks).pageMap = s.pageMap := rfl
@[simp] theorem takeKeys_mapout (ks : List Nat) : (takeKeys s ks).mapout = s.mapout := rfl
@[simp] theorem takeKeys_levels (ks : List Nat) : (takeKeys s ks).levels = s.levels := rfl
@[simp] theorem takeKeys_grants (ks : List Nat) : (takeKeys s ks).grants = s.grants := rfl
@[simp] theorem takeKeys_stalls (ks : List Nat) : (takeKeys s ks).stalls = s.stalls := rfl
@[simp] theorem takeKeys_chanServed (ks : List Nat) : (takeKeys s ks).chanServed = s.chanServed := rfl
@[simp] theorem takeKeys_cmds (ks : List Nat) : (takeKeys s ks).cmds = s.cmds := rfl
@[simp] theorem takeKeys_recent (ks : List Nat) : (takeKeys s ks).recent = s.recent := rfl
@[simp] theorem takeKeys_seqs (ks : List Nat) : (takeKeys s ks).seqs = s.seqs := rfl
@[simp] theorem takeKeys_visits (ks : List Nat) : (takeKeys s ks).visits = s.visits := rfl
@[simp] theorem takeKeys_dma (ks : List Nat) : (takeKeys s ks).dma = s.dma := rfl
@[simp] theorem takeKeys_dmaEng (ks : List Nat) : (takeKeys s ks).dmaEng = s.dmaEng := rfl
@[simp] theorem takeKeys_dqs (ks : List Nat) : (takeKeys s ks).dqs = s.dqs := rfl
@[simp] theorem takeKeys_dcqCount (ks : List Nat) : (takeKeys s ks).dcqCount = s.dcqCount := rfl
@[simp] theorem takeKeys_dcqWritten (ks : List Nat) : (takeKeys s ks).dcqWritten = s.dcqWritten := rfl
@[simp] theorem takeKeys_feedLast (ks : List Nat) : (takeKeys s ks).feedLast = s.feedLast := rfl
@[simp] theorem takeKeys_stg (ks : List Nat) : (takeKeys s ks).stg = s.stg := rfl
@[simp] theorem takeKeys_gtag (ks : List Nat) : (takeKeys s ks).gtag = s.gtag := rfl
@[simp] theorem takeKeys_acc (ks : List Nat) : (takeKeys s ks).acc = s.acc := rfl
@[simp] theorem takeKeys_slots (ks : List Nat) : (takeKeys s ks).slots = s.slots := rfl
@[simp] theorem takeKeys_engs (ks : List Nat) : (takeKeys s ks).engs = s.engs := rfl
@[simp] theorem takeKeys_vec (ks : List Nat) : (takeKeys s ks).vec = s.vec := rfl
@[simp] theorem takeKeys_progs (ks : List Nat) : (takeKeys s ks).progs = s.progs := rfl
@[simp] theorem takeKeys_launches (ks : List Nat) : (takeKeys s ks).launches = s.launches := rfl
@[simp] theorem takeKeys_vcs (ks : List Nat) : (takeKeys s ks).vcs = s.vcs := rfl
@[simp] theorem takeKeys_saved (ks : List Nat) : (takeKeys s ks).saved = s.saved := rfl
@[simp] theorem takeKeys_slotOwner (ks : List Nat) : (takeKeys s ks).slotOwner = s.slotOwner := rfl
@[simp] theorem takeKeys_caravans (ks : List Nat) : (takeKeys s ks).caravans = s.caravans := rfl
@[simp] theorem takeKeys_banks (ks : List Nat) : (takeKeys s ks).banks = s.banks := rfl
@[simp] theorem takeKeys_tags (ks : List Nat) : (takeKeys s ks).tags = s.tags := rfl
@[simp] theorem takeKeys_shadows (ks : List Nat) : (takeKeys s ks).shadows = s.shadows := rfl
@[simp] theorem takeKeys_skewed (ks : List Nat) : (takeKeys s ks).skewed = s.skewed := rfl
@[simp] theorem takeKeys_mbs (ks : List Nat) : (takeKeys s ks).mbs = s.mbs := rfl
@[simp] theorem takeKeys_train (ks : List Nat) : (takeKeys s ks).train = s.train := rfl
@[simp] theorem takeKeys_oasQueues (ks : List Nat) : (takeKeys s ks).oasQueues = s.oasQueues := rfl
@[simp] theorem takeKeys_oasActive (ks : List Nat) : (takeKeys s ks).oasActive = s.oasActive := rfl
@[simp] theorem takeKeys_oasTurn (ks : List Nat) : (takeKeys s ks).oasTurn = s.oasTurn := rfl
@[simp] theorem takeKeys_oasXfers (ks : List Nat) : (takeKeys s ks).oasXfers = s.oasXfers := rfl
@[simp] theorem takeKeys_flows (ks : List Nat) : (takeKeys s ks).flows = s.flows := rfl
@[simp] theorem takeKeys_colls (ks : List Nat) : (takeKeys s ks).colls = s.colls := rfl
@[simp] theorem takeKeys_creditTurn (ks : List Nat) : (takeKeys s ks).creditTurn = s.creditTurn := rfl
@[simp] theorem takeKeys_epochs (ks : List Nat) : (takeKeys s ks).epochs = s.epochs := rfl
@[simp] theorem takeKeys_failCode (ks : List Nat) : (takeKeys s ks).failCode = s.failCode := rfl
@[simp] theorem takeKeys_heat (ks : List Nat) : (takeKeys s ks).heat = s.heat := rfl
@[simp] theorem takeKeys_sirocco (ks : List Nat) : (takeKeys s ks).sirocco = s.sirocco := rfl
@[simp] theorem takeKeys_sirSteps (ks : List Nat) : (takeKeys s ks).sirSteps = s.sirSteps := rfl
@[simp] theorem takeKeys_mirage (ks : List Nat) : (takeKeys s ks).mirage = s.mirage := rfl
@[simp] theorem takeKeys_dump (ks : List Nat) : (takeKeys s ks).dump = s.dump := rfl
@[simp] theorem takeKeys_sec (ks : List Nat) : (takeKeys s ks).sec = s.sec := rfl
@[simp] theorem takeKeys_mlogs (ks : List Nat) : (takeKeys s ks).mlogs = s.mlogs := rfl
@[simp] theorem takeKeys_span (ks : List Nat) : (takeKeys s ks).span = s.span := rfl
@[simp] theorem takeKeys_slowKeys (ks : List Nat) : (takeKeys s ks).slowKeys = s.slowKeys := rfl
@[simp] theorem takeKeys_ides (ks : List Nat) : (takeKeys s ks).ides = s.ides := rfl
@[simp] theorem takeKeys_spdms (ks : List Nat) : (takeKeys s ks).spdms = s.spdms := rfl
@[simp] theorem takeKeys_pwr (ks : List Nat) : (takeKeys s ks).pwr = s.pwr := rfl
@[simp] theorem takeKeys_unread (ks : List Nat) : (takeKeys s ks).unread = s.unread := rfl
@[simp] theorem takeKeys_errWrap (ks : List Nat) : (takeKeys s ks).errWrap = s.errWrap := rfl
@[simp] theorem takeKeys_unsig (ks : List Nat) : (takeKeys s ks).unsig = s.unsig := rfl
@[simp] theorem takeKeys_msixTable (ks : List Nat) : (takeKeys s ks).msixTable = s.msixTable := rfl
@[simp] theorem takeKeys_msixPend (ks : List Nat) : (takeKeys s ks).msixPend = s.msixPend := rfl
@[simp] theorem takeKeys_halves (ks : List Nat) : (takeKeys s ks).halves = s.halves := rfl
@[simp] theorem takeKeys_faultCode (ks : List Nat) : (takeKeys s ks).faultCode = s.faultCode := rfl

/-! ### State.setBank -/

@[simp] theorem State.setBank_pending (c : Nat) (x : BankCtx) : (s.setBank c x).pending = s.pending := rfl
@[simp] theorem State.setBank_free (c : Nat) (x : BankCtx) : (s.setBank c x).free = s.free := rfl
@[simp] theorem State.setBank_timeUs (c : Nat) (x : BankCtx) : (s.setBank c x).timeUs = s.timeUs := rfl
@[simp] theorem State.setBank_regs (c : Nat) (x : BankCtx) : (s.setBank c x).regs = s.regs := rfl
@[simp] theorem State.setBank_written (c : Nat) (x : BankCtx) : (s.setBank c x).written = s.written := rfl
@[simp] theorem State.setBank_out (c : Nat) (x : BankCtx) : (s.setBank c x).out = s.out := rfl
@[simp] theorem State.setBank_mem (c : Nat) (x : BankCtx) : (s.setBank c x).mem = s.mem := rfl
@[simp] theorem State.setBank_cache (c : Nat) (x : BankCtx) : (s.setBank c x).cache = s.cache := rfl
@[simp] theorem State.setBank_tick (c : Nat) (x : BankCtx) : (s.setBank c x).tick = s.tick := rfl
@[simp] theorem State.setBank_nativePins (c : Nat) (x : BankCtx) : (s.setBank c x).nativePins = s.nativePins := rfl
@[simp] theorem State.setBank_frames (c : Nat) (x : BankCtx) : (s.setBank c x).frames = s.frames := rfl
@[simp] theorem State.setBank_frameBase (c : Nat) (x : BankCtx) : (s.setBank c x).frameBase = s.frameBase := rfl
@[simp] theorem State.setBank_pageMap (c : Nat) (x : BankCtx) : (s.setBank c x).pageMap = s.pageMap := rfl
@[simp] theorem State.setBank_mapout (c : Nat) (x : BankCtx) : (s.setBank c x).mapout = s.mapout := rfl
@[simp] theorem State.setBank_tokens (c : Nat) (x : BankCtx) : (s.setBank c x).tokens = s.tokens := rfl
@[simp] theorem State.setBank_levels (c : Nat) (x : BankCtx) : (s.setBank c x).levels = s.levels := rfl
@[simp] theorem State.setBank_grants (c : Nat) (x : BankCtx) : (s.setBank c x).grants = s.grants := rfl
@[simp] theorem State.setBank_stalls (c : Nat) (x : BankCtx) : (s.setBank c x).stalls = s.stalls := rfl
@[simp] theorem State.setBank_chanServed (c : Nat) (x : BankCtx) : (s.setBank c x).chanServed = s.chanServed := rfl
@[simp] theorem State.setBank_cmds (c : Nat) (x : BankCtx) : (s.setBank c x).cmds = s.cmds := rfl
@[simp] theorem State.setBank_recent (c : Nat) (x : BankCtx) : (s.setBank c x).recent = s.recent := rfl
@[simp] theorem State.setBank_seqs (c : Nat) (x : BankCtx) : (s.setBank c x).seqs = s.seqs := rfl
@[simp] theorem State.setBank_visits (c : Nat) (x : BankCtx) : (s.setBank c x).visits = s.visits := rfl
@[simp] theorem State.setBank_dma (c : Nat) (x : BankCtx) : (s.setBank c x).dma = s.dma := rfl
@[simp] theorem State.setBank_dmaEng (c : Nat) (x : BankCtx) : (s.setBank c x).dmaEng = s.dmaEng := rfl
@[simp] theorem State.setBank_dqs (c : Nat) (x : BankCtx) : (s.setBank c x).dqs = s.dqs := rfl
@[simp] theorem State.setBank_dcqCount (c : Nat) (x : BankCtx) : (s.setBank c x).dcqCount = s.dcqCount := rfl
@[simp] theorem State.setBank_dcqWritten (c : Nat) (x : BankCtx) : (s.setBank c x).dcqWritten = s.dcqWritten := rfl
@[simp] theorem State.setBank_feedLast (c : Nat) (x : BankCtx) : (s.setBank c x).feedLast = s.feedLast := rfl
@[simp] theorem State.setBank_stg (c : Nat) (x : BankCtx) : (s.setBank c x).stg = s.stg := rfl
@[simp] theorem State.setBank_gtag (c : Nat) (x : BankCtx) : (s.setBank c x).gtag = s.gtag := rfl
@[simp] theorem State.setBank_acc (c : Nat) (x : BankCtx) : (s.setBank c x).acc = s.acc := rfl
@[simp] theorem State.setBank_slots (c : Nat) (x : BankCtx) : (s.setBank c x).slots = s.slots := rfl
@[simp] theorem State.setBank_engs (c : Nat) (x : BankCtx) : (s.setBank c x).engs = s.engs := rfl
@[simp] theorem State.setBank_vec (c : Nat) (x : BankCtx) : (s.setBank c x).vec = s.vec := rfl
@[simp] theorem State.setBank_progs (c : Nat) (x : BankCtx) : (s.setBank c x).progs = s.progs := rfl
@[simp] theorem State.setBank_launches (c : Nat) (x : BankCtx) : (s.setBank c x).launches = s.launches := rfl
@[simp] theorem State.setBank_vcs (c : Nat) (x : BankCtx) : (s.setBank c x).vcs = s.vcs := rfl
@[simp] theorem State.setBank_saved (c : Nat) (x : BankCtx) : (s.setBank c x).saved = s.saved := rfl
@[simp] theorem State.setBank_slotOwner (c : Nat) (x : BankCtx) : (s.setBank c x).slotOwner = s.slotOwner := rfl
@[simp] theorem State.setBank_caravans (c : Nat) (x : BankCtx) : (s.setBank c x).caravans = s.caravans := rfl
@[simp] theorem State.setBank_tags (c : Nat) (x : BankCtx) : (s.setBank c x).tags = s.tags := rfl
@[simp] theorem State.setBank_shadows (c : Nat) (x : BankCtx) : (s.setBank c x).shadows = s.shadows := rfl
@[simp] theorem State.setBank_skewed (c : Nat) (x : BankCtx) : (s.setBank c x).skewed = s.skewed := rfl
@[simp] theorem State.setBank_mbs (c : Nat) (x : BankCtx) : (s.setBank c x).mbs = s.mbs := rfl
@[simp] theorem State.setBank_train (c : Nat) (x : BankCtx) : (s.setBank c x).train = s.train := rfl
@[simp] theorem State.setBank_oasQueues (c : Nat) (x : BankCtx) : (s.setBank c x).oasQueues = s.oasQueues := rfl
@[simp] theorem State.setBank_oasActive (c : Nat) (x : BankCtx) : (s.setBank c x).oasActive = s.oasActive := rfl
@[simp] theorem State.setBank_oasTurn (c : Nat) (x : BankCtx) : (s.setBank c x).oasTurn = s.oasTurn := rfl
@[simp] theorem State.setBank_oasXfers (c : Nat) (x : BankCtx) : (s.setBank c x).oasXfers = s.oasXfers := rfl
@[simp] theorem State.setBank_flows (c : Nat) (x : BankCtx) : (s.setBank c x).flows = s.flows := rfl
@[simp] theorem State.setBank_colls (c : Nat) (x : BankCtx) : (s.setBank c x).colls = s.colls := rfl
@[simp] theorem State.setBank_creditTurn (c : Nat) (x : BankCtx) : (s.setBank c x).creditTurn = s.creditTurn := rfl
@[simp] theorem State.setBank_epochs (c : Nat) (x : BankCtx) : (s.setBank c x).epochs = s.epochs := rfl
@[simp] theorem State.setBank_failCode (c : Nat) (x : BankCtx) : (s.setBank c x).failCode = s.failCode := rfl
@[simp] theorem State.setBank_heat (c : Nat) (x : BankCtx) : (s.setBank c x).heat = s.heat := rfl
@[simp] theorem State.setBank_sirocco (c : Nat) (x : BankCtx) : (s.setBank c x).sirocco = s.sirocco := rfl
@[simp] theorem State.setBank_sirSteps (c : Nat) (x : BankCtx) : (s.setBank c x).sirSteps = s.sirSteps := rfl
@[simp] theorem State.setBank_mirage (c : Nat) (x : BankCtx) : (s.setBank c x).mirage = s.mirage := rfl
@[simp] theorem State.setBank_dump (c : Nat) (x : BankCtx) : (s.setBank c x).dump = s.dump := rfl
@[simp] theorem State.setBank_sec (c : Nat) (x : BankCtx) : (s.setBank c x).sec = s.sec := rfl
@[simp] theorem State.setBank_mlogs (c : Nat) (x : BankCtx) : (s.setBank c x).mlogs = s.mlogs := rfl
@[simp] theorem State.setBank_span (c : Nat) (x : BankCtx) : (s.setBank c x).span = s.span := rfl
@[simp] theorem State.setBank_slowKeys (c : Nat) (x : BankCtx) : (s.setBank c x).slowKeys = s.slowKeys := rfl
@[simp] theorem State.setBank_ides (c : Nat) (x : BankCtx) : (s.setBank c x).ides = s.ides := rfl
@[simp] theorem State.setBank_spdms (c : Nat) (x : BankCtx) : (s.setBank c x).spdms = s.spdms := rfl
@[simp] theorem State.setBank_pwr (c : Nat) (x : BankCtx) : (s.setBank c x).pwr = s.pwr := rfl
@[simp] theorem State.setBank_unread (c : Nat) (x : BankCtx) : (s.setBank c x).unread = s.unread := rfl
@[simp] theorem State.setBank_errWrap (c : Nat) (x : BankCtx) : (s.setBank c x).errWrap = s.errWrap := rfl
@[simp] theorem State.setBank_unsig (c : Nat) (x : BankCtx) : (s.setBank c x).unsig = s.unsig := rfl
@[simp] theorem State.setBank_msixTable (c : Nat) (x : BankCtx) : (s.setBank c x).msixTable = s.msixTable := rfl
@[simp] theorem State.setBank_msixPend (c : Nat) (x : BankCtx) : (s.setBank c x).msixPend = s.msixPend := rfl
@[simp] theorem State.setBank_halves (c : Nat) (x : BankCtx) : (s.setBank c x).halves = s.halves := rfl
@[simp] theorem State.setBank_faultCode (c : Nat) (x : BankCtx) : (s.setBank c x).faultCode = s.faultCode := rfl

/-! ### State.setMir -/

@[simp] theorem State.setMir_pending (p : Nat) (x : MirCtx) : (s.setMir p x).pending = s.pending := rfl
@[simp] theorem State.setMir_free (p : Nat) (x : MirCtx) : (s.setMir p x).free = s.free := rfl
@[simp] theorem State.setMir_timeUs (p : Nat) (x : MirCtx) : (s.setMir p x).timeUs = s.timeUs := rfl
@[simp] theorem State.setMir_regs (p : Nat) (x : MirCtx) : (s.setMir p x).regs = s.regs := rfl
@[simp] theorem State.setMir_written (p : Nat) (x : MirCtx) : (s.setMir p x).written = s.written := rfl
@[simp] theorem State.setMir_out (p : Nat) (x : MirCtx) : (s.setMir p x).out = s.out := rfl
@[simp] theorem State.setMir_mem (p : Nat) (x : MirCtx) : (s.setMir p x).mem = s.mem := rfl
@[simp] theorem State.setMir_cache (p : Nat) (x : MirCtx) : (s.setMir p x).cache = s.cache := rfl
@[simp] theorem State.setMir_tick (p : Nat) (x : MirCtx) : (s.setMir p x).tick = s.tick := rfl
@[simp] theorem State.setMir_nativePins (p : Nat) (x : MirCtx) : (s.setMir p x).nativePins = s.nativePins := rfl
@[simp] theorem State.setMir_frames (p : Nat) (x : MirCtx) : (s.setMir p x).frames = s.frames := rfl
@[simp] theorem State.setMir_frameBase (p : Nat) (x : MirCtx) : (s.setMir p x).frameBase = s.frameBase := rfl
@[simp] theorem State.setMir_pageMap (p : Nat) (x : MirCtx) : (s.setMir p x).pageMap = s.pageMap := rfl
@[simp] theorem State.setMir_mapout (p : Nat) (x : MirCtx) : (s.setMir p x).mapout = s.mapout := rfl
@[simp] theorem State.setMir_tokens (p : Nat) (x : MirCtx) : (s.setMir p x).tokens = s.tokens := rfl
@[simp] theorem State.setMir_levels (p : Nat) (x : MirCtx) : (s.setMir p x).levels = s.levels := rfl
@[simp] theorem State.setMir_grants (p : Nat) (x : MirCtx) : (s.setMir p x).grants = s.grants := rfl
@[simp] theorem State.setMir_stalls (p : Nat) (x : MirCtx) : (s.setMir p x).stalls = s.stalls := rfl
@[simp] theorem State.setMir_chanServed (p : Nat) (x : MirCtx) : (s.setMir p x).chanServed = s.chanServed := rfl
@[simp] theorem State.setMir_cmds (p : Nat) (x : MirCtx) : (s.setMir p x).cmds = s.cmds := rfl
@[simp] theorem State.setMir_recent (p : Nat) (x : MirCtx) : (s.setMir p x).recent = s.recent := rfl
@[simp] theorem State.setMir_seqs (p : Nat) (x : MirCtx) : (s.setMir p x).seqs = s.seqs := rfl
@[simp] theorem State.setMir_visits (p : Nat) (x : MirCtx) : (s.setMir p x).visits = s.visits := rfl
@[simp] theorem State.setMir_dma (p : Nat) (x : MirCtx) : (s.setMir p x).dma = s.dma := rfl
@[simp] theorem State.setMir_dmaEng (p : Nat) (x : MirCtx) : (s.setMir p x).dmaEng = s.dmaEng := rfl
@[simp] theorem State.setMir_dqs (p : Nat) (x : MirCtx) : (s.setMir p x).dqs = s.dqs := rfl
@[simp] theorem State.setMir_dcqCount (p : Nat) (x : MirCtx) : (s.setMir p x).dcqCount = s.dcqCount := rfl
@[simp] theorem State.setMir_dcqWritten (p : Nat) (x : MirCtx) : (s.setMir p x).dcqWritten = s.dcqWritten := rfl
@[simp] theorem State.setMir_feedLast (p : Nat) (x : MirCtx) : (s.setMir p x).feedLast = s.feedLast := rfl
@[simp] theorem State.setMir_stg (p : Nat) (x : MirCtx) : (s.setMir p x).stg = s.stg := rfl
@[simp] theorem State.setMir_gtag (p : Nat) (x : MirCtx) : (s.setMir p x).gtag = s.gtag := rfl
@[simp] theorem State.setMir_acc (p : Nat) (x : MirCtx) : (s.setMir p x).acc = s.acc := rfl
@[simp] theorem State.setMir_slots (p : Nat) (x : MirCtx) : (s.setMir p x).slots = s.slots := rfl
@[simp] theorem State.setMir_engs (p : Nat) (x : MirCtx) : (s.setMir p x).engs = s.engs := rfl
@[simp] theorem State.setMir_vec (p : Nat) (x : MirCtx) : (s.setMir p x).vec = s.vec := rfl
@[simp] theorem State.setMir_progs (p : Nat) (x : MirCtx) : (s.setMir p x).progs = s.progs := rfl
@[simp] theorem State.setMir_launches (p : Nat) (x : MirCtx) : (s.setMir p x).launches = s.launches := rfl
@[simp] theorem State.setMir_vcs (p : Nat) (x : MirCtx) : (s.setMir p x).vcs = s.vcs := rfl
@[simp] theorem State.setMir_saved (p : Nat) (x : MirCtx) : (s.setMir p x).saved = s.saved := rfl
@[simp] theorem State.setMir_slotOwner (p : Nat) (x : MirCtx) : (s.setMir p x).slotOwner = s.slotOwner := rfl
@[simp] theorem State.setMir_caravans (p : Nat) (x : MirCtx) : (s.setMir p x).caravans = s.caravans := rfl
@[simp] theorem State.setMir_banks (p : Nat) (x : MirCtx) : (s.setMir p x).banks = s.banks := rfl
@[simp] theorem State.setMir_tags (p : Nat) (x : MirCtx) : (s.setMir p x).tags = s.tags := rfl
@[simp] theorem State.setMir_shadows (p : Nat) (x : MirCtx) : (s.setMir p x).shadows = s.shadows := rfl
@[simp] theorem State.setMir_skewed (p : Nat) (x : MirCtx) : (s.setMir p x).skewed = s.skewed := rfl
@[simp] theorem State.setMir_mbs (p : Nat) (x : MirCtx) : (s.setMir p x).mbs = s.mbs := rfl
@[simp] theorem State.setMir_train (p : Nat) (x : MirCtx) : (s.setMir p x).train = s.train := rfl
@[simp] theorem State.setMir_oasQueues (p : Nat) (x : MirCtx) : (s.setMir p x).oasQueues = s.oasQueues := rfl
@[simp] theorem State.setMir_oasActive (p : Nat) (x : MirCtx) : (s.setMir p x).oasActive = s.oasActive := rfl
@[simp] theorem State.setMir_oasTurn (p : Nat) (x : MirCtx) : (s.setMir p x).oasTurn = s.oasTurn := rfl
@[simp] theorem State.setMir_oasXfers (p : Nat) (x : MirCtx) : (s.setMir p x).oasXfers = s.oasXfers := rfl
@[simp] theorem State.setMir_flows (p : Nat) (x : MirCtx) : (s.setMir p x).flows = s.flows := rfl
@[simp] theorem State.setMir_colls (p : Nat) (x : MirCtx) : (s.setMir p x).colls = s.colls := rfl
@[simp] theorem State.setMir_creditTurn (p : Nat) (x : MirCtx) : (s.setMir p x).creditTurn = s.creditTurn := rfl
@[simp] theorem State.setMir_epochs (p : Nat) (x : MirCtx) : (s.setMir p x).epochs = s.epochs := rfl
@[simp] theorem State.setMir_failCode (p : Nat) (x : MirCtx) : (s.setMir p x).failCode = s.failCode := rfl
@[simp] theorem State.setMir_heat (p : Nat) (x : MirCtx) : (s.setMir p x).heat = s.heat := rfl
@[simp] theorem State.setMir_sirocco (p : Nat) (x : MirCtx) : (s.setMir p x).sirocco = s.sirocco := rfl
@[simp] theorem State.setMir_sirSteps (p : Nat) (x : MirCtx) : (s.setMir p x).sirSteps = s.sirSteps := rfl
@[simp] theorem State.setMir_dump (p : Nat) (x : MirCtx) : (s.setMir p x).dump = s.dump := rfl
@[simp] theorem State.setMir_sec (p : Nat) (x : MirCtx) : (s.setMir p x).sec = s.sec := rfl
@[simp] theorem State.setMir_mlogs (p : Nat) (x : MirCtx) : (s.setMir p x).mlogs = s.mlogs := rfl
@[simp] theorem State.setMir_span (p : Nat) (x : MirCtx) : (s.setMir p x).span = s.span := rfl
@[simp] theorem State.setMir_slowKeys (p : Nat) (x : MirCtx) : (s.setMir p x).slowKeys = s.slowKeys := rfl
@[simp] theorem State.setMir_ides (p : Nat) (x : MirCtx) : (s.setMir p x).ides = s.ides := rfl
@[simp] theorem State.setMir_spdms (p : Nat) (x : MirCtx) : (s.setMir p x).spdms = s.spdms := rfl
@[simp] theorem State.setMir_pwr (p : Nat) (x : MirCtx) : (s.setMir p x).pwr = s.pwr := rfl
@[simp] theorem State.setMir_unread (p : Nat) (x : MirCtx) : (s.setMir p x).unread = s.unread := rfl
@[simp] theorem State.setMir_errWrap (p : Nat) (x : MirCtx) : (s.setMir p x).errWrap = s.errWrap := rfl
@[simp] theorem State.setMir_unsig (p : Nat) (x : MirCtx) : (s.setMir p x).unsig = s.unsig := rfl
@[simp] theorem State.setMir_msixTable (p : Nat) (x : MirCtx) : (s.setMir p x).msixTable = s.msixTable := rfl
@[simp] theorem State.setMir_msixPend (p : Nat) (x : MirCtx) : (s.setMir p x).msixPend = s.msixPend := rfl
@[simp] theorem State.setMir_halves (p : Nat) (x : MirCtx) : (s.setMir p x).halves = s.halves := rfl
@[simp] theorem State.setMir_faultCode (p : Nat) (x : MirCtx) : (s.setMir p x).faultCode = s.faultCode := rfl

/-! ### State.setSpdm -/

@[simp] theorem State.setSpdm_pending (t : Transport) (x : Spdm) : (s.setSpdm t x).pending = s.pending := rfl
@[simp] theorem State.setSpdm_free (t : Transport) (x : Spdm) : (s.setSpdm t x).free = s.free := rfl
@[simp] theorem State.setSpdm_timeUs (t : Transport) (x : Spdm) : (s.setSpdm t x).timeUs = s.timeUs := rfl
@[simp] theorem State.setSpdm_regs (t : Transport) (x : Spdm) : (s.setSpdm t x).regs = s.regs := rfl
@[simp] theorem State.setSpdm_written (t : Transport) (x : Spdm) : (s.setSpdm t x).written = s.written := rfl
@[simp] theorem State.setSpdm_out (t : Transport) (x : Spdm) : (s.setSpdm t x).out = s.out := rfl
@[simp] theorem State.setSpdm_mem (t : Transport) (x : Spdm) : (s.setSpdm t x).mem = s.mem := rfl
@[simp] theorem State.setSpdm_cache (t : Transport) (x : Spdm) : (s.setSpdm t x).cache = s.cache := rfl
@[simp] theorem State.setSpdm_tick (t : Transport) (x : Spdm) : (s.setSpdm t x).tick = s.tick := rfl
@[simp] theorem State.setSpdm_nativePins (t : Transport) (x : Spdm) : (s.setSpdm t x).nativePins = s.nativePins := rfl
@[simp] theorem State.setSpdm_frames (t : Transport) (x : Spdm) : (s.setSpdm t x).frames = s.frames := rfl
@[simp] theorem State.setSpdm_frameBase (t : Transport) (x : Spdm) : (s.setSpdm t x).frameBase = s.frameBase := rfl
@[simp] theorem State.setSpdm_pageMap (t : Transport) (x : Spdm) : (s.setSpdm t x).pageMap = s.pageMap := rfl
@[simp] theorem State.setSpdm_mapout (t : Transport) (x : Spdm) : (s.setSpdm t x).mapout = s.mapout := rfl
@[simp] theorem State.setSpdm_tokens (t : Transport) (x : Spdm) : (s.setSpdm t x).tokens = s.tokens := rfl
@[simp] theorem State.setSpdm_levels (t : Transport) (x : Spdm) : (s.setSpdm t x).levels = s.levels := rfl
@[simp] theorem State.setSpdm_grants (t : Transport) (x : Spdm) : (s.setSpdm t x).grants = s.grants := rfl
@[simp] theorem State.setSpdm_stalls (t : Transport) (x : Spdm) : (s.setSpdm t x).stalls = s.stalls := rfl
@[simp] theorem State.setSpdm_chanServed (t : Transport) (x : Spdm) : (s.setSpdm t x).chanServed = s.chanServed := rfl
@[simp] theorem State.setSpdm_cmds (t : Transport) (x : Spdm) : (s.setSpdm t x).cmds = s.cmds := rfl
@[simp] theorem State.setSpdm_recent (t : Transport) (x : Spdm) : (s.setSpdm t x).recent = s.recent := rfl
@[simp] theorem State.setSpdm_seqs (t : Transport) (x : Spdm) : (s.setSpdm t x).seqs = s.seqs := rfl
@[simp] theorem State.setSpdm_visits (t : Transport) (x : Spdm) : (s.setSpdm t x).visits = s.visits := rfl
@[simp] theorem State.setSpdm_dma (t : Transport) (x : Spdm) : (s.setSpdm t x).dma = s.dma := rfl
@[simp] theorem State.setSpdm_dmaEng (t : Transport) (x : Spdm) : (s.setSpdm t x).dmaEng = s.dmaEng := rfl
@[simp] theorem State.setSpdm_dqs (t : Transport) (x : Spdm) : (s.setSpdm t x).dqs = s.dqs := rfl
@[simp] theorem State.setSpdm_dcqCount (t : Transport) (x : Spdm) : (s.setSpdm t x).dcqCount = s.dcqCount := rfl
@[simp] theorem State.setSpdm_dcqWritten (t : Transport) (x : Spdm) : (s.setSpdm t x).dcqWritten = s.dcqWritten := rfl
@[simp] theorem State.setSpdm_feedLast (t : Transport) (x : Spdm) : (s.setSpdm t x).feedLast = s.feedLast := rfl
@[simp] theorem State.setSpdm_stg (t : Transport) (x : Spdm) : (s.setSpdm t x).stg = s.stg := rfl
@[simp] theorem State.setSpdm_gtag (t : Transport) (x : Spdm) : (s.setSpdm t x).gtag = s.gtag := rfl
@[simp] theorem State.setSpdm_acc (t : Transport) (x : Spdm) : (s.setSpdm t x).acc = s.acc := rfl
@[simp] theorem State.setSpdm_slots (t : Transport) (x : Spdm) : (s.setSpdm t x).slots = s.slots := rfl
@[simp] theorem State.setSpdm_engs (t : Transport) (x : Spdm) : (s.setSpdm t x).engs = s.engs := rfl
@[simp] theorem State.setSpdm_vec (t : Transport) (x : Spdm) : (s.setSpdm t x).vec = s.vec := rfl
@[simp] theorem State.setSpdm_progs (t : Transport) (x : Spdm) : (s.setSpdm t x).progs = s.progs := rfl
@[simp] theorem State.setSpdm_launches (t : Transport) (x : Spdm) : (s.setSpdm t x).launches = s.launches := rfl
@[simp] theorem State.setSpdm_vcs (t : Transport) (x : Spdm) : (s.setSpdm t x).vcs = s.vcs := rfl
@[simp] theorem State.setSpdm_saved (t : Transport) (x : Spdm) : (s.setSpdm t x).saved = s.saved := rfl
@[simp] theorem State.setSpdm_slotOwner (t : Transport) (x : Spdm) : (s.setSpdm t x).slotOwner = s.slotOwner := rfl
@[simp] theorem State.setSpdm_caravans (t : Transport) (x : Spdm) : (s.setSpdm t x).caravans = s.caravans := rfl
@[simp] theorem State.setSpdm_banks (t : Transport) (x : Spdm) : (s.setSpdm t x).banks = s.banks := rfl
@[simp] theorem State.setSpdm_tags (t : Transport) (x : Spdm) : (s.setSpdm t x).tags = s.tags := rfl
@[simp] theorem State.setSpdm_shadows (t : Transport) (x : Spdm) : (s.setSpdm t x).shadows = s.shadows := rfl
@[simp] theorem State.setSpdm_skewed (t : Transport) (x : Spdm) : (s.setSpdm t x).skewed = s.skewed := rfl
@[simp] theorem State.setSpdm_mbs (t : Transport) (x : Spdm) : (s.setSpdm t x).mbs = s.mbs := rfl
@[simp] theorem State.setSpdm_train (t : Transport) (x : Spdm) : (s.setSpdm t x).train = s.train := rfl
@[simp] theorem State.setSpdm_oasQueues (t : Transport) (x : Spdm) : (s.setSpdm t x).oasQueues = s.oasQueues := rfl
@[simp] theorem State.setSpdm_oasActive (t : Transport) (x : Spdm) : (s.setSpdm t x).oasActive = s.oasActive := rfl
@[simp] theorem State.setSpdm_oasTurn (t : Transport) (x : Spdm) : (s.setSpdm t x).oasTurn = s.oasTurn := rfl
@[simp] theorem State.setSpdm_oasXfers (t : Transport) (x : Spdm) : (s.setSpdm t x).oasXfers = s.oasXfers := rfl
@[simp] theorem State.setSpdm_flows (t : Transport) (x : Spdm) : (s.setSpdm t x).flows = s.flows := rfl
@[simp] theorem State.setSpdm_colls (t : Transport) (x : Spdm) : (s.setSpdm t x).colls = s.colls := rfl
@[simp] theorem State.setSpdm_creditTurn (t : Transport) (x : Spdm) : (s.setSpdm t x).creditTurn = s.creditTurn := rfl
@[simp] theorem State.setSpdm_epochs (t : Transport) (x : Spdm) : (s.setSpdm t x).epochs = s.epochs := rfl
@[simp] theorem State.setSpdm_failCode (t : Transport) (x : Spdm) : (s.setSpdm t x).failCode = s.failCode := rfl
@[simp] theorem State.setSpdm_heat (t : Transport) (x : Spdm) : (s.setSpdm t x).heat = s.heat := rfl
@[simp] theorem State.setSpdm_sirocco (t : Transport) (x : Spdm) : (s.setSpdm t x).sirocco = s.sirocco := rfl
@[simp] theorem State.setSpdm_sirSteps (t : Transport) (x : Spdm) : (s.setSpdm t x).sirSteps = s.sirSteps := rfl
@[simp] theorem State.setSpdm_mirage (t : Transport) (x : Spdm) : (s.setSpdm t x).mirage = s.mirage := rfl
@[simp] theorem State.setSpdm_dump (t : Transport) (x : Spdm) : (s.setSpdm t x).dump = s.dump := rfl
@[simp] theorem State.setSpdm_sec (t : Transport) (x : Spdm) : (s.setSpdm t x).sec = s.sec := rfl
@[simp] theorem State.setSpdm_mlogs (t : Transport) (x : Spdm) : (s.setSpdm t x).mlogs = s.mlogs := rfl
@[simp] theorem State.setSpdm_span (t : Transport) (x : Spdm) : (s.setSpdm t x).span = s.span := rfl
@[simp] theorem State.setSpdm_slowKeys (t : Transport) (x : Spdm) : (s.setSpdm t x).slowKeys = s.slowKeys := rfl
@[simp] theorem State.setSpdm_ides (t : Transport) (x : Spdm) : (s.setSpdm t x).ides = s.ides := rfl
@[simp] theorem State.setSpdm_pwr (t : Transport) (x : Spdm) : (s.setSpdm t x).pwr = s.pwr := rfl
@[simp] theorem State.setSpdm_unread (t : Transport) (x : Spdm) : (s.setSpdm t x).unread = s.unread := rfl
@[simp] theorem State.setSpdm_errWrap (t : Transport) (x : Spdm) : (s.setSpdm t x).errWrap = s.errWrap := rfl
@[simp] theorem State.setSpdm_unsig (t : Transport) (x : Spdm) : (s.setSpdm t x).unsig = s.unsig := rfl
@[simp] theorem State.setSpdm_msixTable (t : Transport) (x : Spdm) : (s.setSpdm t x).msixTable = s.msixTable := rfl
@[simp] theorem State.setSpdm_msixPend (t : Transport) (x : Spdm) : (s.setSpdm t x).msixPend = s.msixPend := rfl
@[simp] theorem State.setSpdm_halves (t : Transport) (x : Spdm) : (s.setSpdm t x).halves = s.halves := rfl
@[simp] theorem State.setSpdm_faultCode (t : Transport) (x : Spdm) : (s.setSpdm t x).faultCode = s.faultCode := rfl

/-! ### State.setIde -/

@[simp] theorem State.setIde_pending (p : Nat) (x : Ide) : (s.setIde p x).pending = s.pending := rfl
@[simp] theorem State.setIde_free (p : Nat) (x : Ide) : (s.setIde p x).free = s.free := rfl
@[simp] theorem State.setIde_timeUs (p : Nat) (x : Ide) : (s.setIde p x).timeUs = s.timeUs := rfl
@[simp] theorem State.setIde_regs (p : Nat) (x : Ide) : (s.setIde p x).regs = s.regs := rfl
@[simp] theorem State.setIde_written (p : Nat) (x : Ide) : (s.setIde p x).written = s.written := rfl
@[simp] theorem State.setIde_out (p : Nat) (x : Ide) : (s.setIde p x).out = s.out := rfl
@[simp] theorem State.setIde_mem (p : Nat) (x : Ide) : (s.setIde p x).mem = s.mem := rfl
@[simp] theorem State.setIde_cache (p : Nat) (x : Ide) : (s.setIde p x).cache = s.cache := rfl
@[simp] theorem State.setIde_tick (p : Nat) (x : Ide) : (s.setIde p x).tick = s.tick := rfl
@[simp] theorem State.setIde_nativePins (p : Nat) (x : Ide) : (s.setIde p x).nativePins = s.nativePins := rfl
@[simp] theorem State.setIde_frames (p : Nat) (x : Ide) : (s.setIde p x).frames = s.frames := rfl
@[simp] theorem State.setIde_frameBase (p : Nat) (x : Ide) : (s.setIde p x).frameBase = s.frameBase := rfl
@[simp] theorem State.setIde_pageMap (p : Nat) (x : Ide) : (s.setIde p x).pageMap = s.pageMap := rfl
@[simp] theorem State.setIde_mapout (p : Nat) (x : Ide) : (s.setIde p x).mapout = s.mapout := rfl
@[simp] theorem State.setIde_tokens (p : Nat) (x : Ide) : (s.setIde p x).tokens = s.tokens := rfl
@[simp] theorem State.setIde_levels (p : Nat) (x : Ide) : (s.setIde p x).levels = s.levels := rfl
@[simp] theorem State.setIde_grants (p : Nat) (x : Ide) : (s.setIde p x).grants = s.grants := rfl
@[simp] theorem State.setIde_stalls (p : Nat) (x : Ide) : (s.setIde p x).stalls = s.stalls := rfl
@[simp] theorem State.setIde_chanServed (p : Nat) (x : Ide) : (s.setIde p x).chanServed = s.chanServed := rfl
@[simp] theorem State.setIde_cmds (p : Nat) (x : Ide) : (s.setIde p x).cmds = s.cmds := rfl
@[simp] theorem State.setIde_recent (p : Nat) (x : Ide) : (s.setIde p x).recent = s.recent := rfl
@[simp] theorem State.setIde_seqs (p : Nat) (x : Ide) : (s.setIde p x).seqs = s.seqs := rfl
@[simp] theorem State.setIde_visits (p : Nat) (x : Ide) : (s.setIde p x).visits = s.visits := rfl
@[simp] theorem State.setIde_dma (p : Nat) (x : Ide) : (s.setIde p x).dma = s.dma := rfl
@[simp] theorem State.setIde_dmaEng (p : Nat) (x : Ide) : (s.setIde p x).dmaEng = s.dmaEng := rfl
@[simp] theorem State.setIde_dqs (p : Nat) (x : Ide) : (s.setIde p x).dqs = s.dqs := rfl
@[simp] theorem State.setIde_dcqCount (p : Nat) (x : Ide) : (s.setIde p x).dcqCount = s.dcqCount := rfl
@[simp] theorem State.setIde_dcqWritten (p : Nat) (x : Ide) : (s.setIde p x).dcqWritten = s.dcqWritten := rfl
@[simp] theorem State.setIde_feedLast (p : Nat) (x : Ide) : (s.setIde p x).feedLast = s.feedLast := rfl
@[simp] theorem State.setIde_stg (p : Nat) (x : Ide) : (s.setIde p x).stg = s.stg := rfl
@[simp] theorem State.setIde_gtag (p : Nat) (x : Ide) : (s.setIde p x).gtag = s.gtag := rfl
@[simp] theorem State.setIde_acc (p : Nat) (x : Ide) : (s.setIde p x).acc = s.acc := rfl
@[simp] theorem State.setIde_slots (p : Nat) (x : Ide) : (s.setIde p x).slots = s.slots := rfl
@[simp] theorem State.setIde_engs (p : Nat) (x : Ide) : (s.setIde p x).engs = s.engs := rfl
@[simp] theorem State.setIde_vec (p : Nat) (x : Ide) : (s.setIde p x).vec = s.vec := rfl
@[simp] theorem State.setIde_progs (p : Nat) (x : Ide) : (s.setIde p x).progs = s.progs := rfl
@[simp] theorem State.setIde_launches (p : Nat) (x : Ide) : (s.setIde p x).launches = s.launches := rfl
@[simp] theorem State.setIde_vcs (p : Nat) (x : Ide) : (s.setIde p x).vcs = s.vcs := rfl
@[simp] theorem State.setIde_saved (p : Nat) (x : Ide) : (s.setIde p x).saved = s.saved := rfl
@[simp] theorem State.setIde_slotOwner (p : Nat) (x : Ide) : (s.setIde p x).slotOwner = s.slotOwner := rfl
@[simp] theorem State.setIde_caravans (p : Nat) (x : Ide) : (s.setIde p x).caravans = s.caravans := rfl
@[simp] theorem State.setIde_banks (p : Nat) (x : Ide) : (s.setIde p x).banks = s.banks := rfl
@[simp] theorem State.setIde_tags (p : Nat) (x : Ide) : (s.setIde p x).tags = s.tags := rfl
@[simp] theorem State.setIde_shadows (p : Nat) (x : Ide) : (s.setIde p x).shadows = s.shadows := rfl
@[simp] theorem State.setIde_skewed (p : Nat) (x : Ide) : (s.setIde p x).skewed = s.skewed := rfl
@[simp] theorem State.setIde_mbs (p : Nat) (x : Ide) : (s.setIde p x).mbs = s.mbs := rfl
@[simp] theorem State.setIde_train (p : Nat) (x : Ide) : (s.setIde p x).train = s.train := rfl
@[simp] theorem State.setIde_oasQueues (p : Nat) (x : Ide) : (s.setIde p x).oasQueues = s.oasQueues := rfl
@[simp] theorem State.setIde_oasActive (p : Nat) (x : Ide) : (s.setIde p x).oasActive = s.oasActive := rfl
@[simp] theorem State.setIde_oasTurn (p : Nat) (x : Ide) : (s.setIde p x).oasTurn = s.oasTurn := rfl
@[simp] theorem State.setIde_oasXfers (p : Nat) (x : Ide) : (s.setIde p x).oasXfers = s.oasXfers := rfl
@[simp] theorem State.setIde_flows (p : Nat) (x : Ide) : (s.setIde p x).flows = s.flows := rfl
@[simp] theorem State.setIde_colls (p : Nat) (x : Ide) : (s.setIde p x).colls = s.colls := rfl
@[simp] theorem State.setIde_creditTurn (p : Nat) (x : Ide) : (s.setIde p x).creditTurn = s.creditTurn := rfl
@[simp] theorem State.setIde_epochs (p : Nat) (x : Ide) : (s.setIde p x).epochs = s.epochs := rfl
@[simp] theorem State.setIde_failCode (p : Nat) (x : Ide) : (s.setIde p x).failCode = s.failCode := rfl
@[simp] theorem State.setIde_heat (p : Nat) (x : Ide) : (s.setIde p x).heat = s.heat := rfl
@[simp] theorem State.setIde_sirocco (p : Nat) (x : Ide) : (s.setIde p x).sirocco = s.sirocco := rfl
@[simp] theorem State.setIde_sirSteps (p : Nat) (x : Ide) : (s.setIde p x).sirSteps = s.sirSteps := rfl
@[simp] theorem State.setIde_mirage (p : Nat) (x : Ide) : (s.setIde p x).mirage = s.mirage := rfl
@[simp] theorem State.setIde_dump (p : Nat) (x : Ide) : (s.setIde p x).dump = s.dump := rfl
@[simp] theorem State.setIde_sec (p : Nat) (x : Ide) : (s.setIde p x).sec = s.sec := rfl
@[simp] theorem State.setIde_mlogs (p : Nat) (x : Ide) : (s.setIde p x).mlogs = s.mlogs := rfl
@[simp] theorem State.setIde_span (p : Nat) (x : Ide) : (s.setIde p x).span = s.span := rfl
@[simp] theorem State.setIde_slowKeys (p : Nat) (x : Ide) : (s.setIde p x).slowKeys = s.slowKeys := rfl
@[simp] theorem State.setIde_spdms (p : Nat) (x : Ide) : (s.setIde p x).spdms = s.spdms := rfl
@[simp] theorem State.setIde_pwr (p : Nat) (x : Ide) : (s.setIde p x).pwr = s.pwr := rfl
@[simp] theorem State.setIde_unread (p : Nat) (x : Ide) : (s.setIde p x).unread = s.unread := rfl
@[simp] theorem State.setIde_errWrap (p : Nat) (x : Ide) : (s.setIde p x).errWrap = s.errWrap := rfl
@[simp] theorem State.setIde_unsig (p : Nat) (x : Ide) : (s.setIde p x).unsig = s.unsig := rfl
@[simp] theorem State.setIde_msixTable (p : Nat) (x : Ide) : (s.setIde p x).msixTable = s.msixTable := rfl
@[simp] theorem State.setIde_msixPend (p : Nat) (x : Ide) : (s.setIde p x).msixPend = s.msixPend := rfl
@[simp] theorem State.setIde_halves (p : Nat) (x : Ide) : (s.setIde p x).halves = s.halves := rfl
@[simp] theorem State.setIde_faultCode (p : Nat) (x : Ide) : (s.setIde p x).faultCode = s.faultCode := rfl

/-! ### setHeld -/

@[simp] theorem setHeld_pending (k v : Nat) : (setHeld s k v).pending = s.pending := rfl
@[simp] theorem setHeld_free (k v : Nat) : (setHeld s k v).free = s.free := rfl
@[simp] theorem setHeld_timeUs (k v : Nat) : (setHeld s k v).timeUs = s.timeUs := rfl
@[simp] theorem setHeld_regs (k v : Nat) : (setHeld s k v).regs = s.regs := rfl
@[simp] theorem setHeld_written (k v : Nat) : (setHeld s k v).written = s.written := rfl
@[simp] theorem setHeld_out (k v : Nat) : (setHeld s k v).out = s.out := rfl
@[simp] theorem setHeld_mem (k v : Nat) : (setHeld s k v).mem = s.mem := rfl
@[simp] theorem setHeld_cache (k v : Nat) : (setHeld s k v).cache = s.cache := rfl
@[simp] theorem setHeld_tick (k v : Nat) : (setHeld s k v).tick = s.tick := rfl
@[simp] theorem setHeld_nativePins (k v : Nat) : (setHeld s k v).nativePins = s.nativePins := rfl
@[simp] theorem setHeld_frames (k v : Nat) : (setHeld s k v).frames = s.frames := rfl
@[simp] theorem setHeld_frameBase (k v : Nat) : (setHeld s k v).frameBase = s.frameBase := rfl
@[simp] theorem setHeld_pageMap (k v : Nat) : (setHeld s k v).pageMap = s.pageMap := rfl
@[simp] theorem setHeld_mapout (k v : Nat) : (setHeld s k v).mapout = s.mapout := rfl
@[simp] theorem setHeld_tokens (k v : Nat) : (setHeld s k v).tokens = s.tokens := rfl
@[simp] theorem setHeld_levels (k v : Nat) : (setHeld s k v).levels = s.levels := rfl
@[simp] theorem setHeld_grants (k v : Nat) : (setHeld s k v).grants = s.grants := rfl
@[simp] theorem setHeld_stalls (k v : Nat) : (setHeld s k v).stalls = s.stalls := rfl
@[simp] theorem setHeld_chanServed (k v : Nat) : (setHeld s k v).chanServed = s.chanServed := rfl
@[simp] theorem setHeld_cmds (k v : Nat) : (setHeld s k v).cmds = s.cmds := rfl
@[simp] theorem setHeld_recent (k v : Nat) : (setHeld s k v).recent = s.recent := rfl
@[simp] theorem setHeld_seqs (k v : Nat) : (setHeld s k v).seqs = s.seqs := rfl
@[simp] theorem setHeld_visits (k v : Nat) : (setHeld s k v).visits = s.visits := rfl
@[simp] theorem setHeld_dma (k v : Nat) : (setHeld s k v).dma = s.dma := rfl
@[simp] theorem setHeld_dmaEng (k v : Nat) : (setHeld s k v).dmaEng = s.dmaEng := rfl
@[simp] theorem setHeld_dqs (k v : Nat) : (setHeld s k v).dqs = s.dqs := rfl
@[simp] theorem setHeld_dcqCount (k v : Nat) : (setHeld s k v).dcqCount = s.dcqCount := rfl
@[simp] theorem setHeld_dcqWritten (k v : Nat) : (setHeld s k v).dcqWritten = s.dcqWritten := rfl
@[simp] theorem setHeld_feedLast (k v : Nat) : (setHeld s k v).feedLast = s.feedLast := rfl
@[simp] theorem setHeld_stg (k v : Nat) : (setHeld s k v).stg = s.stg := rfl
@[simp] theorem setHeld_gtag (k v : Nat) : (setHeld s k v).gtag = s.gtag := rfl
@[simp] theorem setHeld_acc (k v : Nat) : (setHeld s k v).acc = s.acc := rfl
@[simp] theorem setHeld_slots (k v : Nat) : (setHeld s k v).slots = s.slots := rfl
@[simp] theorem setHeld_engs (k v : Nat) : (setHeld s k v).engs = s.engs := rfl
@[simp] theorem setHeld_vec (k v : Nat) : (setHeld s k v).vec = s.vec := rfl
@[simp] theorem setHeld_progs (k v : Nat) : (setHeld s k v).progs = s.progs := rfl
@[simp] theorem setHeld_launches (k v : Nat) : (setHeld s k v).launches = s.launches := rfl
@[simp] theorem setHeld_vcs (k v : Nat) : (setHeld s k v).vcs = s.vcs := rfl
@[simp] theorem setHeld_saved (k v : Nat) : (setHeld s k v).saved = s.saved := rfl
@[simp] theorem setHeld_slotOwner (k v : Nat) : (setHeld s k v).slotOwner = s.slotOwner := rfl
@[simp] theorem setHeld_caravans (k v : Nat) : (setHeld s k v).caravans = s.caravans := rfl
@[simp] theorem setHeld_banks (k v : Nat) : (setHeld s k v).banks = s.banks := rfl
@[simp] theorem setHeld_tags (k v : Nat) : (setHeld s k v).tags = s.tags := rfl
@[simp] theorem setHeld_shadows (k v : Nat) : (setHeld s k v).shadows = s.shadows := rfl
@[simp] theorem setHeld_skewed (k v : Nat) : (setHeld s k v).skewed = s.skewed := rfl
@[simp] theorem setHeld_mbs (k v : Nat) : (setHeld s k v).mbs = s.mbs := rfl
@[simp] theorem setHeld_train (k v : Nat) : (setHeld s k v).train = s.train := rfl
@[simp] theorem setHeld_oasQueues (k v : Nat) : (setHeld s k v).oasQueues = s.oasQueues := rfl
@[simp] theorem setHeld_oasActive (k v : Nat) : (setHeld s k v).oasActive = s.oasActive := rfl
@[simp] theorem setHeld_oasTurn (k v : Nat) : (setHeld s k v).oasTurn = s.oasTurn := rfl
@[simp] theorem setHeld_oasXfers (k v : Nat) : (setHeld s k v).oasXfers = s.oasXfers := rfl
@[simp] theorem setHeld_flows (k v : Nat) : (setHeld s k v).flows = s.flows := rfl
@[simp] theorem setHeld_colls (k v : Nat) : (setHeld s k v).colls = s.colls := rfl
@[simp] theorem setHeld_creditTurn (k v : Nat) : (setHeld s k v).creditTurn = s.creditTurn := rfl
@[simp] theorem setHeld_epochs (k v : Nat) : (setHeld s k v).epochs = s.epochs := rfl
@[simp] theorem setHeld_failCode (k v : Nat) : (setHeld s k v).failCode = s.failCode := rfl
@[simp] theorem setHeld_sirocco (k v : Nat) : (setHeld s k v).sirocco = s.sirocco := rfl
@[simp] theorem setHeld_sirSteps (k v : Nat) : (setHeld s k v).sirSteps = s.sirSteps := rfl
@[simp] theorem setHeld_mirage (k v : Nat) : (setHeld s k v).mirage = s.mirage := rfl
@[simp] theorem setHeld_dump (k v : Nat) : (setHeld s k v).dump = s.dump := rfl
@[simp] theorem setHeld_sec (k v : Nat) : (setHeld s k v).sec = s.sec := rfl
@[simp] theorem setHeld_mlogs (k v : Nat) : (setHeld s k v).mlogs = s.mlogs := rfl
@[simp] theorem setHeld_span (k v : Nat) : (setHeld s k v).span = s.span := rfl
@[simp] theorem setHeld_slowKeys (k v : Nat) : (setHeld s k v).slowKeys = s.slowKeys := rfl
@[simp] theorem setHeld_ides (k v : Nat) : (setHeld s k v).ides = s.ides := rfl
@[simp] theorem setHeld_spdms (k v : Nat) : (setHeld s k v).spdms = s.spdms := rfl
@[simp] theorem setHeld_pwr (k v : Nat) : (setHeld s k v).pwr = s.pwr := rfl
@[simp] theorem setHeld_unread (k v : Nat) : (setHeld s k v).unread = s.unread := rfl
@[simp] theorem setHeld_errWrap (k v : Nat) : (setHeld s k v).errWrap = s.errWrap := rfl
@[simp] theorem setHeld_unsig (k v : Nat) : (setHeld s k v).unsig = s.unsig := rfl
@[simp] theorem setHeld_msixTable (k v : Nat) : (setHeld s k v).msixTable = s.msixTable := rfl
@[simp] theorem setHeld_msixPend (k v : Nat) : (setHeld s k v).msixPend = s.msixPend := rfl
@[simp] theorem setHeld_halves (k v : Nat) : (setHeld s k v).halves = s.halves := rfl
@[simp] theorem setHeld_faultCode (k v : Nat) : (setHeld s k v).faultCode = s.faultCode := rfl

/-! ### The readers -/

/-! State.put -/

@[simp] theorem State.put_at_launch (f : Fld) (v : Nat) (q : Nat) : (s.put f v).launch q = s.launch q := rfl
@[simp] theorem State.put_at_vc (f : Fld) (v : Nat) (q w : Nat) : (s.put f v).vc q w = s.vc q w := rfl
@[simp] theorem State.put_at_tr (f : Fld) (v : Nat) (q : Nat) : (s.put f v).tr q = s.tr q := rfl
@[simp] theorem State.put_at_eng (f : Fld) (v : Nat) (d : Nat) : (s.put f v).eng d = s.eng d := rfl
@[simp] theorem State.put_at_vu (f : Fld) (v : Nat) (d : Nat) : (s.put f v).vu d = s.vu d := rfl
@[simp] theorem State.put_at_cmd (f : Fld) (v : Nat) (q n : Nat) : (s.put f v).cmd q n = s.cmd q n := rfl
@[simp] theorem State.put_at_chan (f : Fld) (v : Nat) (d n : Nat) : (s.put f v).chan d n = s.chan d n := rfl
@[simp] theorem State.put_at_car (f : Fld) (v : Nat) (q n : Nat) : (s.put f v).car q n = s.car q n := rfl
@[simp] theorem State.put_at_prog (f : Fld) (v : Nat) (q n : Nat) : (s.put f v).prog q n = s.prog q n := rfl
@[simp] theorem State.put_at_mb (f : Fld) (v : Nat) (q n : Nat) : (s.put f v).mb q n = s.mb q n := rfl
@[simp] theorem State.put_at_flow (f : Fld) (v : Nat) (q n : Nat) : (s.put f v).flow q n = s.flow q n := rfl
@[simp] theorem State.put_at_mir (f : Fld) (v : Nat) (q : Nat) : (s.put f v).mir q = s.mir q := rfl
@[simp] theorem State.put_at_ide (f : Fld) (v : Nat) (q : Nat) : (s.put f v).ide q = s.ide q := rfl
@[simp] theorem State.put_at_spdm (f : Fld) (v : Nat) (u : Transport) : (s.put f v).spdm u = s.spdm u := rfl
@[simp] theorem State.put_at_bank (f : Fld) (v : Nat) (d : Nat) : (s.put f v).bank d = s.bank d := rfl
@[simp] theorem State.put_at_isWritten (f : Fld) (v : Nat) (g : Fld) : (s.put f v).isWritten g = s.isWritten g := rfl

/-! State.putFree -/

@[simp] theorem State.putFree_at_launch (f : Fld) (q : Nat) : (s.putFree f).launch q = s.launch q := rfl
@[simp] theorem State.putFree_at_vc (f : Fld) (q w : Nat) : (s.putFree f).vc q w = s.vc q w := rfl
@[simp] theorem State.putFree_at_tr (f : Fld) (q : Nat) : (s.putFree f).tr q = s.tr q := rfl
@[simp] theorem State.putFree_at_eng (f : Fld) (d : Nat) : (s.putFree f).eng d = s.eng d := rfl
@[simp] theorem State.putFree_at_vu (f : Fld) (d : Nat) : (s.putFree f).vu d = s.vu d := rfl
@[simp] theorem State.putFree_at_cmd (f : Fld) (q n : Nat) : (s.putFree f).cmd q n = s.cmd q n := rfl
@[simp] theorem State.putFree_at_chan (f : Fld) (d n : Nat) : (s.putFree f).chan d n = s.chan d n := rfl
@[simp] theorem State.putFree_at_car (f : Fld) (q n : Nat) : (s.putFree f).car q n = s.car q n := rfl
@[simp] theorem State.putFree_at_prog (f : Fld) (q n : Nat) : (s.putFree f).prog q n = s.prog q n := rfl
@[simp] theorem State.putFree_at_mb (f : Fld) (q n : Nat) : (s.putFree f).mb q n = s.mb q n := rfl
@[simp] theorem State.putFree_at_flow (f : Fld) (q n : Nat) : (s.putFree f).flow q n = s.flow q n := rfl
@[simp] theorem State.putFree_at_mir (f : Fld) (q : Nat) : (s.putFree f).mir q = s.mir q := rfl
@[simp] theorem State.putFree_at_ide (f : Fld) (q : Nat) : (s.putFree f).ide q = s.ide q := rfl
@[simp] theorem State.putFree_at_spdm (f : Fld) (u : Transport) : (s.putFree f).spdm u = s.spdm u := rfl
@[simp] theorem State.putFree_at_bank (f : Fld) (d : Nat) : (s.putFree f).bank d = s.bank d := rfl
@[simp] theorem State.putFree_at_isWritten (f : Fld) (g : Fld) : (s.putFree f).isWritten g = s.isWritten g := rfl

/-! State.markWritten -/

@[simp] theorem State.markWritten_at_launch (f : Fld) (q : Nat) : (s.markWritten f).launch q = s.launch q := rfl
@[simp] theorem State.markWritten_at_vc (f : Fld) (q w : Nat) : (s.markWritten f).vc q w = s.vc q w := rfl
@[simp] theorem State.markWritten_at_tr (f : Fld) (q : Nat) : (s.markWritten f).tr q = s.tr q := rfl
@[simp] theorem State.markWritten_at_eng (f : Fld) (d : Nat) : (s.markWritten f).eng d = s.eng d := rfl
@[simp] theorem State.markWritten_at_vu (f : Fld) (d : Nat) : (s.markWritten f).vu d = s.vu d := rfl
@[simp] theorem State.markWritten_at_cmd (f : Fld) (q n : Nat) : (s.markWritten f).cmd q n = s.cmd q n := rfl
@[simp] theorem State.markWritten_at_chan (f : Fld) (d n : Nat) : (s.markWritten f).chan d n = s.chan d n := rfl
@[simp] theorem State.markWritten_at_car (f : Fld) (q n : Nat) : (s.markWritten f).car q n = s.car q n := rfl
@[simp] theorem State.markWritten_at_prog (f : Fld) (q n : Nat) : (s.markWritten f).prog q n = s.prog q n := rfl
@[simp] theorem State.markWritten_at_mb (f : Fld) (q n : Nat) : (s.markWritten f).mb q n = s.mb q n := rfl
@[simp] theorem State.markWritten_at_flow (f : Fld) (q n : Nat) : (s.markWritten f).flow q n = s.flow q n := rfl
@[simp] theorem State.markWritten_at_mir (f : Fld) (q : Nat) : (s.markWritten f).mir q = s.mir q := rfl
@[simp] theorem State.markWritten_at_ide (f : Fld) (q : Nat) : (s.markWritten f).ide q = s.ide q := rfl
@[simp] theorem State.markWritten_at_spdm (f : Fld) (u : Transport) : (s.markWritten f).spdm u = s.spdm u := rfl
@[simp] theorem State.markWritten_at_bank (f : Fld) (d : Nat) : (s.markWritten f).bank d = s.bank d := rfl
@[simp] theorem State.markWritten_at_get (f : Fld) (g : Fld) : (s.markWritten f).get g = s.get g := rfl

/-! State.resetRange -/

@[simp] theorem State.resetRange_at_launch (lo hi : Nat) (q : Nat) : (s.resetRange lo hi).launch q = s.launch q := rfl
@[simp] theorem State.resetRange_at_vc (lo hi : Nat) (q w : Nat) : (s.resetRange lo hi).vc q w = s.vc q w := rfl
@[simp] theorem State.resetRange_at_tr (lo hi : Nat) (q : Nat) : (s.resetRange lo hi).tr q = s.tr q := rfl
@[simp] theorem State.resetRange_at_eng (lo hi : Nat) (d : Nat) : (s.resetRange lo hi).eng d = s.eng d := rfl
@[simp] theorem State.resetRange_at_vu (lo hi : Nat) (d : Nat) : (s.resetRange lo hi).vu d = s.vu d := rfl
@[simp] theorem State.resetRange_at_cmd (lo hi : Nat) (q n : Nat) : (s.resetRange lo hi).cmd q n = s.cmd q n := rfl
@[simp] theorem State.resetRange_at_chan (lo hi : Nat) (d n : Nat) : (s.resetRange lo hi).chan d n = s.chan d n := rfl
@[simp] theorem State.resetRange_at_car (lo hi : Nat) (q n : Nat) : (s.resetRange lo hi).car q n = s.car q n := rfl
@[simp] theorem State.resetRange_at_prog (lo hi : Nat) (q n : Nat) : (s.resetRange lo hi).prog q n = s.prog q n := rfl
@[simp] theorem State.resetRange_at_mb (lo hi : Nat) (q n : Nat) : (s.resetRange lo hi).mb q n = s.mb q n := rfl
@[simp] theorem State.resetRange_at_flow (lo hi : Nat) (q n : Nat) : (s.resetRange lo hi).flow q n = s.flow q n := rfl
@[simp] theorem State.resetRange_at_mir (lo hi : Nat) (q : Nat) : (s.resetRange lo hi).mir q = s.mir q := rfl
@[simp] theorem State.resetRange_at_ide (lo hi : Nat) (q : Nat) : (s.resetRange lo hi).ide q = s.ide q := rfl
@[simp] theorem State.resetRange_at_spdm (lo hi : Nat) (u : Transport) : (s.resetRange lo hi).spdm u = s.spdm u := rfl
@[simp] theorem State.resetRange_at_bank (lo hi : Nat) (d : Nat) : (s.resetRange lo hi).bank d = s.bank d := rfl

/-! State.emit -/

@[simp] theorem State.emit_at_launch (o : Out) (q : Nat) : (s.emit o).launch q = s.launch q := rfl
@[simp] theorem State.emit_at_vc (o : Out) (q w : Nat) : (s.emit o).vc q w = s.vc q w := rfl
@[simp] theorem State.emit_at_tr (o : Out) (q : Nat) : (s.emit o).tr q = s.tr q := rfl
@[simp] theorem State.emit_at_eng (o : Out) (d : Nat) : (s.emit o).eng d = s.eng d := rfl
@[simp] theorem State.emit_at_vu (o : Out) (d : Nat) : (s.emit o).vu d = s.vu d := rfl
@[simp] theorem State.emit_at_cmd (o : Out) (q n : Nat) : (s.emit o).cmd q n = s.cmd q n := rfl
@[simp] theorem State.emit_at_chan (o : Out) (d n : Nat) : (s.emit o).chan d n = s.chan d n := rfl
@[simp] theorem State.emit_at_car (o : Out) (q n : Nat) : (s.emit o).car q n = s.car q n := rfl
@[simp] theorem State.emit_at_prog (o : Out) (q n : Nat) : (s.emit o).prog q n = s.prog q n := rfl
@[simp] theorem State.emit_at_mb (o : Out) (q n : Nat) : (s.emit o).mb q n = s.mb q n := rfl
@[simp] theorem State.emit_at_flow (o : Out) (q n : Nat) : (s.emit o).flow q n = s.flow q n := rfl
@[simp] theorem State.emit_at_mir (o : Out) (q : Nat) : (s.emit o).mir q = s.mir q := rfl
@[simp] theorem State.emit_at_ide (o : Out) (q : Nat) : (s.emit o).ide q = s.ide q := rfl
@[simp] theorem State.emit_at_spdm (o : Out) (u : Transport) : (s.emit o).spdm u = s.spdm u := rfl
@[simp] theorem State.emit_at_bank (o : Out) (d : Nat) : (s.emit o).bank d = s.bank d := rfl
@[simp] theorem State.emit_at_get (o : Out) (g : Fld) : (s.emit o).get g = s.get g := rfl
@[simp] theorem State.emit_at_isWritten (o : Out) (g : Fld) : (s.emit o).isWritten g = s.isWritten g := rfl

/-! storeAt -/

@[simp] theorem storeAt_at_launch (as : List Nat) (bs : List Byte) (q : Nat) : (storeAt s as bs).launch q = s.launch q := rfl
@[simp] theorem storeAt_at_vc (as : List Nat) (bs : List Byte) (q w : Nat) : (storeAt s as bs).vc q w = s.vc q w := rfl
@[simp] theorem storeAt_at_tr (as : List Nat) (bs : List Byte) (q : Nat) : (storeAt s as bs).tr q = s.tr q := rfl
@[simp] theorem storeAt_at_eng (as : List Nat) (bs : List Byte) (d : Nat) : (storeAt s as bs).eng d = s.eng d := rfl
@[simp] theorem storeAt_at_vu (as : List Nat) (bs : List Byte) (d : Nat) : (storeAt s as bs).vu d = s.vu d := rfl
@[simp] theorem storeAt_at_cmd (as : List Nat) (bs : List Byte) (q n : Nat) : (storeAt s as bs).cmd q n = s.cmd q n := rfl
@[simp] theorem storeAt_at_chan (as : List Nat) (bs : List Byte) (d n : Nat) : (storeAt s as bs).chan d n = s.chan d n := rfl
@[simp] theorem storeAt_at_car (as : List Nat) (bs : List Byte) (q n : Nat) : (storeAt s as bs).car q n = s.car q n := rfl
@[simp] theorem storeAt_at_prog (as : List Nat) (bs : List Byte) (q n : Nat) : (storeAt s as bs).prog q n = s.prog q n := rfl
@[simp] theorem storeAt_at_mb (as : List Nat) (bs : List Byte) (q n : Nat) : (storeAt s as bs).mb q n = s.mb q n := rfl
@[simp] theorem storeAt_at_flow (as : List Nat) (bs : List Byte) (q n : Nat) : (storeAt s as bs).flow q n = s.flow q n := rfl
@[simp] theorem storeAt_at_mir (as : List Nat) (bs : List Byte) (q : Nat) : (storeAt s as bs).mir q = s.mir q := rfl
@[simp] theorem storeAt_at_ide (as : List Nat) (bs : List Byte) (q : Nat) : (storeAt s as bs).ide q = s.ide q := rfl
@[simp] theorem storeAt_at_spdm (as : List Nat) (bs : List Byte) (u : Transport) : (storeAt s as bs).spdm u = s.spdm u := rfl
@[simp] theorem storeAt_at_bank (as : List Nat) (bs : List Byte) (d : Nat) : (storeAt s as bs).bank d = s.bank d := rfl
@[simp] theorem storeAt_at_get (as : List Nat) (bs : List Byte) (g : Fld) : (storeAt s as bs).get g = s.get g := rfl
@[simp] theorem storeAt_at_isWritten (as : List Nat) (bs : List Byte) (g : Fld) : (storeAt s as bs).isWritten g = s.isWritten g := rfl

/-! State.setCmd -/

@[simp] theorem State.setCmd_at_launch (p q' : Nat) (c : Cmd) (q : Nat) : (s.setCmd p q' c).launch q = s.launch q := rfl
@[simp] theorem State.setCmd_at_vc (p q' : Nat) (c : Cmd) (q w : Nat) : (s.setCmd p q' c).vc q w = s.vc q w := rfl
@[simp] theorem State.setCmd_at_tr (p q' : Nat) (c : Cmd) (q : Nat) : (s.setCmd p q' c).tr q = s.tr q := rfl
@[simp] theorem State.setCmd_at_eng (p q : Nat) (c : Cmd) (d : Nat) : (s.setCmd p q c).eng d = s.eng d := rfl
@[simp] theorem State.setCmd_at_vu (p q : Nat) (c : Cmd) (d : Nat) : (s.setCmd p q c).vu d = s.vu d := rfl
@[simp] theorem State.setCmd_at_chan (p q : Nat) (c : Cmd) (d n : Nat) : (s.setCmd p q c).chan d n = s.chan d n := rfl
@[simp] theorem State.setCmd_at_car (p q' : Nat) (c : Cmd) (q n : Nat) : (s.setCmd p q' c).car q n = s.car q n := rfl
@[simp] theorem State.setCmd_at_prog (p q' : Nat) (c : Cmd) (q n : Nat) : (s.setCmd p q' c).prog q n = s.prog q n := rfl
@[simp] theorem State.setCmd_at_mb (p q' : Nat) (c : Cmd) (q n : Nat) : (s.setCmd p q' c).mb q n = s.mb q n := rfl
@[simp] theorem State.setCmd_at_flow (p q' : Nat) (c : Cmd) (q n : Nat) : (s.setCmd p q' c).flow q n = s.flow q n := rfl
@[simp] theorem State.setCmd_at_mir (p q' : Nat) (c : Cmd) (q : Nat) : (s.setCmd p q' c).mir q = s.mir q := rfl
@[simp] theorem State.setCmd_at_ide (p q' : Nat) (c : Cmd) (q : Nat) : (s.setCmd p q' c).ide q = s.ide q := rfl
@[simp] theorem State.setCmd_at_spdm (p q : Nat) (c : Cmd) (u : Transport) : (s.setCmd p q c).spdm u = s.spdm u := rfl
@[simp] theorem State.setCmd_at_bank (p q : Nat) (c : Cmd) (d : Nat) : (s.setCmd p q c).bank d = s.bank d := rfl
@[simp] theorem State.setCmd_at_get (p q : Nat) (c : Cmd) (g : Fld) : (s.setCmd p q c).get g = s.get g := rfl
@[simp] theorem State.setCmd_at_isWritten (p q : Nat) (c : Cmd) (g : Fld) : (s.setCmd p q c).isWritten g = s.isWritten g := rfl

/-! State.setTr -/

@[simp] theorem State.setTr_at_launch (p : Nat) (x : TrainCtx) (q : Nat) : (s.setTr p x).launch q = s.launch q := rfl
@[simp] theorem State.setTr_at_vc (p : Nat) (x : TrainCtx) (q w : Nat) : (s.setTr p x).vc q w = s.vc q w := rfl
@[simp] theorem State.setTr_at_eng (p : Nat) (x : TrainCtx) (d : Nat) : (s.setTr p x).eng d = s.eng d := rfl
@[simp] theorem State.setTr_at_vu (p : Nat) (x : TrainCtx) (d : Nat) : (s.setTr p x).vu d = s.vu d := rfl
@[simp] theorem State.setTr_at_cmd (p : Nat) (x : TrainCtx) (q n : Nat) : (s.setTr p x).cmd q n = s.cmd q n := rfl
@[simp] theorem State.setTr_at_chan (p : Nat) (x : TrainCtx) (d n : Nat) : (s.setTr p x).chan d n = s.chan d n := rfl
@[simp] theorem State.setTr_at_car (p : Nat) (x : TrainCtx) (q n : Nat) : (s.setTr p x).car q n = s.car q n := rfl
@[simp] theorem State.setTr_at_prog (p : Nat) (x : TrainCtx) (q n : Nat) : (s.setTr p x).prog q n = s.prog q n := rfl
@[simp] theorem State.setTr_at_mb (p : Nat) (x : TrainCtx) (q n : Nat) : (s.setTr p x).mb q n = s.mb q n := rfl
@[simp] theorem State.setTr_at_flow (p : Nat) (x : TrainCtx) (q n : Nat) : (s.setTr p x).flow q n = s.flow q n := rfl
@[simp] theorem State.setTr_at_mir (p : Nat) (x : TrainCtx) (q : Nat) : (s.setTr p x).mir q = s.mir q := rfl
@[simp] theorem State.setTr_at_ide (p : Nat) (x : TrainCtx) (q : Nat) : (s.setTr p x).ide q = s.ide q := rfl
@[simp] theorem State.setTr_at_spdm (p : Nat) (x : TrainCtx) (u : Transport) : (s.setTr p x).spdm u = s.spdm u := rfl
@[simp] theorem State.setTr_at_bank (p : Nat) (x : TrainCtx) (d : Nat) : (s.setTr p x).bank d = s.bank d := rfl
@[simp] theorem State.setTr_at_get (p : Nat) (x : TrainCtx) (g : Fld) : (s.setTr p x).get g = s.get g := rfl
@[simp] theorem State.setTr_at_isWritten (p : Nat) (x : TrainCtx) (g : Fld) : (s.setTr p x).isWritten g = s.isWritten g := rfl

/-! State.setFlow -/

@[simp] theorem State.setFlow_at_launch (p f : Nat) (x : FlowCtx) (q : Nat) : (s.setFlow p f x).launch q = s.launch q := rfl
@[simp] theorem State.setFlow_at_vc (p f : Nat) (x : FlowCtx) (q w : Nat) : (s.setFlow p f x).vc q w = s.vc q w := rfl
@[simp] theorem State.setFlow_at_tr (p f : Nat) (x : FlowCtx) (q : Nat) : (s.setFlow p f x).tr q = s.tr q := rfl
@[simp] theorem State.setFlow_at_eng (p f : Nat) (x : FlowCtx) (d : Nat) : (s.setFlow p f x).eng d = s.eng d := rfl
@[simp] theorem State.setFlow_at_vu (p f : Nat) (x : FlowCtx) (d : Nat) : (s.setFlow p f x).vu d = s.vu d := rfl
@[simp] theorem State.setFlow_at_cmd (p f : Nat) (x : FlowCtx) (q n : Nat) : (s.setFlow p f x).cmd q n = s.cmd q n := rfl
@[simp] theorem State.setFlow_at_chan (p f : Nat) (x : FlowCtx) (d n : Nat) : (s.setFlow p f x).chan d n = s.chan d n := rfl
@[simp] theorem State.setFlow_at_car (p f : Nat) (x : FlowCtx) (q n : Nat) : (s.setFlow p f x).car q n = s.car q n := rfl
@[simp] theorem State.setFlow_at_prog (p f : Nat) (x : FlowCtx) (q n : Nat) : (s.setFlow p f x).prog q n = s.prog q n := rfl
@[simp] theorem State.setFlow_at_mb (p f : Nat) (x : FlowCtx) (q n : Nat) : (s.setFlow p f x).mb q n = s.mb q n := rfl
@[simp] theorem State.setFlow_at_mir (p f : Nat) (x : FlowCtx) (q : Nat) : (s.setFlow p f x).mir q = s.mir q := rfl
@[simp] theorem State.setFlow_at_ide (p f : Nat) (x : FlowCtx) (q : Nat) : (s.setFlow p f x).ide q = s.ide q := rfl
@[simp] theorem State.setFlow_at_spdm (p f : Nat) (x : FlowCtx) (u : Transport) : (s.setFlow p f x).spdm u = s.spdm u := rfl
@[simp] theorem State.setFlow_at_bank (p f : Nat) (x : FlowCtx) (d : Nat) : (s.setFlow p f x).bank d = s.bank d := rfl
@[simp] theorem State.setFlow_at_get (p f : Nat) (x : FlowCtx) (g : Fld) : (s.setFlow p f x).get g = s.get g := rfl
@[simp] theorem State.setFlow_at_isWritten (p f : Nat) (x : FlowCtx) (g : Fld) : (s.setFlow p f x).isWritten g = s.isWritten g := rfl

/-! State.setVc -/

@[simp] theorem State.setVc_at_launch (p v : Nat) (x : VC) (q : Nat) : (s.setVc p v x).launch q = s.launch q := rfl
@[simp] theorem State.setVc_at_tr (p v : Nat) (x : VC) (q : Nat) : (s.setVc p v x).tr q = s.tr q := rfl
@[simp] theorem State.setVc_at_eng (p v : Nat) (x : VC) (d : Nat) : (s.setVc p v x).eng d = s.eng d := rfl
@[simp] theorem State.setVc_at_vu (p v : Nat) (x : VC) (d : Nat) : (s.setVc p v x).vu d = s.vu d := rfl
@[simp] theorem State.setVc_at_cmd (p v : Nat) (x : VC) (q n : Nat) : (s.setVc p v x).cmd q n = s.cmd q n := rfl
@[simp] theorem State.setVc_at_chan (p v : Nat) (x : VC) (d n : Nat) : (s.setVc p v x).chan d n = s.chan d n := rfl
@[simp] theorem State.setVc_at_car (p v : Nat) (x : VC) (q n : Nat) : (s.setVc p v x).car q n = s.car q n := rfl
@[simp] theorem State.setVc_at_prog (p v : Nat) (x : VC) (q n : Nat) : (s.setVc p v x).prog q n = s.prog q n := rfl
@[simp] theorem State.setVc_at_mb (p v : Nat) (x : VC) (q n : Nat) : (s.setVc p v x).mb q n = s.mb q n := rfl
@[simp] theorem State.setVc_at_flow (p v : Nat) (x : VC) (q n : Nat) : (s.setVc p v x).flow q n = s.flow q n := rfl
@[simp] theorem State.setVc_at_mir (p v : Nat) (x : VC) (q : Nat) : (s.setVc p v x).mir q = s.mir q := rfl
@[simp] theorem State.setVc_at_ide (p v : Nat) (x : VC) (q : Nat) : (s.setVc p v x).ide q = s.ide q := rfl
@[simp] theorem State.setVc_at_spdm (p v : Nat) (x : VC) (u : Transport) : (s.setVc p v x).spdm u = s.spdm u := rfl
@[simp] theorem State.setVc_at_bank (p v : Nat) (x : VC) (d : Nat) : (s.setVc p v x).bank d = s.bank d := rfl
@[simp] theorem State.setVc_at_get (p v : Nat) (x : VC) (g : Fld) : (s.setVc p v x).get g = s.get g := rfl
@[simp] theorem State.setVc_at_isWritten (p v : Nat) (x : VC) (g : Fld) : (s.setVc p v x).isWritten g = s.isWritten g := rfl

/-! State.setEng -/

@[simp] theorem State.setEng_at_launch (c : Nat) (x : EngCtx) (q : Nat) : (s.setEng c x).launch q = s.launch q := rfl
@[simp] theorem State.setEng_at_vc (c : Nat) (x : EngCtx) (q w : Nat) : (s.setEng c x).vc q w = s.vc q w := rfl
@[simp] theorem State.setEng_at_tr (c : Nat) (x : EngCtx) (q : Nat) : (s.setEng c x).tr q = s.tr q := rfl
@[simp] theorem State.setEng_at_vu (c : Nat) (x : EngCtx) (d : Nat) : (s.setEng c x).vu d = s.vu d := rfl
@[simp] theorem State.setEng_at_cmd (c : Nat) (x : EngCtx) (q n : Nat) : (s.setEng c x).cmd q n = s.cmd q n := rfl
@[simp] theorem State.setEng_at_chan (c : Nat) (x : EngCtx) (d n : Nat) : (s.setEng c x).chan d n = s.chan d n := rfl
@[simp] theorem State.setEng_at_car (c : Nat) (x : EngCtx) (q n : Nat) : (s.setEng c x).car q n = s.car q n := rfl
@[simp] theorem State.setEng_at_prog (c : Nat) (x : EngCtx) (q n : Nat) : (s.setEng c x).prog q n = s.prog q n := rfl
@[simp] theorem State.setEng_at_mb (c : Nat) (x : EngCtx) (q n : Nat) : (s.setEng c x).mb q n = s.mb q n := rfl
@[simp] theorem State.setEng_at_flow (c : Nat) (x : EngCtx) (q n : Nat) : (s.setEng c x).flow q n = s.flow q n := rfl
@[simp] theorem State.setEng_at_mir (c : Nat) (x : EngCtx) (q : Nat) : (s.setEng c x).mir q = s.mir q := rfl
@[simp] theorem State.setEng_at_ide (c : Nat) (x : EngCtx) (q : Nat) : (s.setEng c x).ide q = s.ide q := rfl
@[simp] theorem State.setEng_at_spdm (c : Nat) (x : EngCtx) (u : Transport) : (s.setEng c x).spdm u = s.spdm u := rfl
@[simp] theorem State.setEng_at_bank (c : Nat) (x : EngCtx) (d : Nat) : (s.setEng c x).bank d = s.bank d := rfl
@[simp] theorem State.setEng_at_get (c : Nat) (x : EngCtx) (g : Fld) : (s.setEng c x).get g = s.get g := rfl
@[simp] theorem State.setEng_at_isWritten (c : Nat) (x : EngCtx) (g : Fld) : (s.setEng c x).isWritten g = s.isWritten g := rfl

/-! State.setVu -/

@[simp] theorem State.setVu_at_launch (c : Nat) (x : VecCtx) (q : Nat) : (s.setVu c x).launch q = s.launch q := rfl
@[simp] theorem State.setVu_at_vc (c : Nat) (x : VecCtx) (q w : Nat) : (s.setVu c x).vc q w = s.vc q w := rfl
@[simp] theorem State.setVu_at_tr (c : Nat) (x : VecCtx) (q : Nat) : (s.setVu c x).tr q = s.tr q := rfl
@[simp] theorem State.setVu_at_eng (c : Nat) (x : VecCtx) (d : Nat) : (s.setVu c x).eng d = s.eng d := rfl
@[simp] theorem State.setVu_at_cmd (c : Nat) (x : VecCtx) (q n : Nat) : (s.setVu c x).cmd q n = s.cmd q n := rfl
@[simp] theorem State.setVu_at_chan (c : Nat) (x : VecCtx) (d n : Nat) : (s.setVu c x).chan d n = s.chan d n := rfl
@[simp] theorem State.setVu_at_car (c : Nat) (x : VecCtx) (q n : Nat) : (s.setVu c x).car q n = s.car q n := rfl
@[simp] theorem State.setVu_at_prog (c : Nat) (x : VecCtx) (q n : Nat) : (s.setVu c x).prog q n = s.prog q n := rfl
@[simp] theorem State.setVu_at_mb (c : Nat) (x : VecCtx) (q n : Nat) : (s.setVu c x).mb q n = s.mb q n := rfl
@[simp] theorem State.setVu_at_flow (c : Nat) (x : VecCtx) (q n : Nat) : (s.setVu c x).flow q n = s.flow q n := rfl
@[simp] theorem State.setVu_at_mir (c : Nat) (x : VecCtx) (q : Nat) : (s.setVu c x).mir q = s.mir q := rfl
@[simp] theorem State.setVu_at_ide (c : Nat) (x : VecCtx) (q : Nat) : (s.setVu c x).ide q = s.ide q := rfl
@[simp] theorem State.setVu_at_spdm (c : Nat) (x : VecCtx) (u : Transport) : (s.setVu c x).spdm u = s.spdm u := rfl
@[simp] theorem State.setVu_at_bank (c : Nat) (x : VecCtx) (d : Nat) : (s.setVu c x).bank d = s.bank d := rfl
@[simp] theorem State.setVu_at_isWritten (c : Nat) (x : VecCtx) (g : Fld) : (s.setVu c x).isWritten g = s.isWritten g := rfl

/-! State.setLaunch -/

@[simp] theorem State.setLaunch_at_vc (p : Nat) (x : Option Launch) (q w : Nat) : (s.setLaunch p x).vc q w = s.vc q w := rfl
@[simp] theorem State.setLaunch_at_tr (p : Nat) (x : Option Launch) (q : Nat) : (s.setLaunch p x).tr q = s.tr q := rfl
@[simp] theorem State.setLaunch_at_eng (p : Nat) (x : Option Launch) (d : Nat) : (s.setLaunch p x).eng d = s.eng d := rfl
@[simp] theorem State.setLaunch_at_vu (p : Nat) (x : Option Launch) (d : Nat) : (s.setLaunch p x).vu d = s.vu d := rfl
@[simp] theorem State.setLaunch_at_cmd (p : Nat) (x : Option Launch) (q n : Nat) : (s.setLaunch p x).cmd q n = s.cmd q n := rfl
@[simp] theorem State.setLaunch_at_chan (p : Nat) (x : Option Launch) (d n : Nat) : (s.setLaunch p x).chan d n = s.chan d n := rfl
@[simp] theorem State.setLaunch_at_car (p : Nat) (x : Option Launch) (q n : Nat) : (s.setLaunch p x).car q n = s.car q n := rfl
@[simp] theorem State.setLaunch_at_prog (p : Nat) (x : Option Launch) (q n : Nat) : (s.setLaunch p x).prog q n = s.prog q n := rfl
@[simp] theorem State.setLaunch_at_mb (p : Nat) (x : Option Launch) (q n : Nat) : (s.setLaunch p x).mb q n = s.mb q n := rfl
@[simp] theorem State.setLaunch_at_flow (p : Nat) (x : Option Launch) (q n : Nat) : (s.setLaunch p x).flow q n = s.flow q n := rfl
@[simp] theorem State.setLaunch_at_mir (p : Nat) (x : Option Launch) (q : Nat) : (s.setLaunch p x).mir q = s.mir q := rfl
@[simp] theorem State.setLaunch_at_ide (p : Nat) (x : Option Launch) (q : Nat) : (s.setLaunch p x).ide q = s.ide q := rfl
@[simp] theorem State.setLaunch_at_spdm (p : Nat) (x : Option Launch) (u : Transport) : (s.setLaunch p x).spdm u = s.spdm u := rfl
@[simp] theorem State.setLaunch_at_bank (p : Nat) (x : Option Launch) (d : Nat) : (s.setLaunch p x).bank d = s.bank d := rfl
@[simp] theorem State.setLaunch_at_get (p : Nat) (x : Option Launch) (g : Fld) : (s.setLaunch p x).get g = s.get g := rfl
@[simp] theorem State.setLaunch_at_isWritten (p : Nat) (x : Option Launch) (g : Fld) : (s.setLaunch p x).isWritten g = s.isWritten g := rfl

/-! State.setProg -/

@[simp] theorem State.setProg_at_launch (p h : Nat) (x : Prog) (q : Nat) : (s.setProg p h x).launch q = s.launch q := rfl
@[simp] theorem State.setProg_at_vc (p h : Nat) (x : Prog) (q w : Nat) : (s.setProg p h x).vc q w = s.vc q w := rfl
@[simp] theorem State.setProg_at_tr (p h : Nat) (x : Prog) (q : Nat) : (s.setProg p h x).tr q = s.tr q := rfl
@[simp] theorem State.setProg_at_eng (p h : Nat) (x : Prog) (d : Nat) : (s.setProg p h x).eng d = s.eng d := rfl
@[simp] theorem State.setProg_at_vu (p h : Nat) (x : Prog) (d : Nat) : (s.setProg p h x).vu d = s.vu d := rfl
@[simp] theorem State.setProg_at_cmd (p h : Nat) (x : Prog) (q n : Nat) : (s.setProg p h x).cmd q n = s.cmd q n := rfl
@[simp] theorem State.setProg_at_chan (p h : Nat) (x : Prog) (d n : Nat) : (s.setProg p h x).chan d n = s.chan d n := rfl
@[simp] theorem State.setProg_at_car (p h : Nat) (x : Prog) (q n : Nat) : (s.setProg p h x).car q n = s.car q n := rfl
@[simp] theorem State.setProg_at_mb (p h : Nat) (x : Prog) (q n : Nat) : (s.setProg p h x).mb q n = s.mb q n := rfl
@[simp] theorem State.setProg_at_flow (p h : Nat) (x : Prog) (q n : Nat) : (s.setProg p h x).flow q n = s.flow q n := rfl
@[simp] theorem State.setProg_at_mir (p h : Nat) (x : Prog) (q : Nat) : (s.setProg p h x).mir q = s.mir q := rfl
@[simp] theorem State.setProg_at_ide (p h : Nat) (x : Prog) (q : Nat) : (s.setProg p h x).ide q = s.ide q := rfl
@[simp] theorem State.setProg_at_spdm (p h : Nat) (x : Prog) (u : Transport) : (s.setProg p h x).spdm u = s.spdm u := rfl
@[simp] theorem State.setProg_at_bank (p h : Nat) (x : Prog) (d : Nat) : (s.setProg p h x).bank d = s.bank d := rfl
@[simp] theorem State.setProg_at_get (p h : Nat) (x : Prog) (g : Fld) : (s.setProg p h x).get g = s.get g := rfl
@[simp] theorem State.setProg_at_isWritten (p h : Nat) (x : Prog) (g : Fld) : (s.setProg p h x).isWritten g = s.isWritten g := rfl

/-! State.setCar -/

@[simp] theorem State.setCar_at_launch (p d : Nat) (x : Option CarInst) (q : Nat) : (s.setCar p d x).launch q = s.launch q := rfl
@[simp] theorem State.setCar_at_vc (p d : Nat) (x : Option CarInst) (q w : Nat) : (s.setCar p d x).vc q w = s.vc q w := rfl
@[simp] theorem State.setCar_at_tr (p d : Nat) (x : Option CarInst) (q : Nat) : (s.setCar p d x).tr q = s.tr q := rfl
@[simp] theorem State.setCar_at_eng (p d' : Nat) (x : Option CarInst) (d : Nat) : (s.setCar p d' x).eng d = s.eng d := rfl
@[simp] theorem State.setCar_at_vu (p d' : Nat) (x : Option CarInst) (d : Nat) : (s.setCar p d' x).vu d = s.vu d := rfl
@[simp] theorem State.setCar_at_cmd (p d : Nat) (x : Option CarInst) (q n : Nat) : (s.setCar p d x).cmd q n = s.cmd q n := rfl
@[simp] theorem State.setCar_at_chan (p d' : Nat) (x : Option CarInst) (d n : Nat) : (s.setCar p d' x).chan d n = s.chan d n := rfl
@[simp] theorem State.setCar_at_prog (p d : Nat) (x : Option CarInst) (q n : Nat) : (s.setCar p d x).prog q n = s.prog q n := rfl
@[simp] theorem State.setCar_at_mb (p d : Nat) (x : Option CarInst) (q n : Nat) : (s.setCar p d x).mb q n = s.mb q n := rfl
@[simp] theorem State.setCar_at_flow (p d : Nat) (x : Option CarInst) (q n : Nat) : (s.setCar p d x).flow q n = s.flow q n := rfl
@[simp] theorem State.setCar_at_mir (p d : Nat) (x : Option CarInst) (q : Nat) : (s.setCar p d x).mir q = s.mir q := rfl
@[simp] theorem State.setCar_at_ide (p d : Nat) (x : Option CarInst) (q : Nat) : (s.setCar p d x).ide q = s.ide q := rfl
@[simp] theorem State.setCar_at_spdm (p d : Nat) (x : Option CarInst) (u : Transport) : (s.setCar p d x).spdm u = s.spdm u := rfl
@[simp] theorem State.setCar_at_bank (p d' : Nat) (x : Option CarInst) (d : Nat) : (s.setCar p d' x).bank d = s.bank d := rfl
@[simp] theorem State.setCar_at_get (p d : Nat) (x : Option CarInst) (g : Fld) : (s.setCar p d x).get g = s.get g := rfl
@[simp] theorem State.setCar_at_isWritten (p d : Nat) (x : Option CarInst) (g : Fld) : (s.setCar p d x).isWritten g = s.isWritten g := rfl

/-! State.setMb -/

@[simp] theorem State.setMb_at_launch (p m : Nat) (x : MB) (q : Nat) : (s.setMb p m x).launch q = s.launch q := rfl
@[simp] theorem State.setMb_at_vc (p m : Nat) (x : MB) (q w : Nat) : (s.setMb p m x).vc q w = s.vc q w := rfl
@[simp] theorem State.setMb_at_tr (p m : Nat) (x : MB) (q : Nat) : (s.setMb p m x).tr q = s.tr q := rfl
@[simp] theorem State.setMb_at_eng (p m : Nat) (x : MB) (d : Nat) : (s.setMb p m x).eng d = s.eng d := rfl
@[simp] theorem State.setMb_at_vu (p m : Nat) (x : MB) (d : Nat) : (s.setMb p m x).vu d = s.vu d := rfl
@[simp] theorem State.setMb_at_cmd (p m : Nat) (x : MB) (q n : Nat) : (s.setMb p m x).cmd q n = s.cmd q n := rfl
@[simp] theorem State.setMb_at_chan (p m : Nat) (x : MB) (d n : Nat) : (s.setMb p m x).chan d n = s.chan d n := rfl
@[simp] theorem State.setMb_at_car (p m : Nat) (x : MB) (q n : Nat) : (s.setMb p m x).car q n = s.car q n := rfl
@[simp] theorem State.setMb_at_prog (p m : Nat) (x : MB) (q n : Nat) : (s.setMb p m x).prog q n = s.prog q n := rfl
@[simp] theorem State.setMb_at_flow (p m : Nat) (x : MB) (q n : Nat) : (s.setMb p m x).flow q n = s.flow q n := rfl
@[simp] theorem State.setMb_at_mir (p m : Nat) (x : MB) (q : Nat) : (s.setMb p m x).mir q = s.mir q := rfl
@[simp] theorem State.setMb_at_ide (p m : Nat) (x : MB) (q : Nat) : (s.setMb p m x).ide q = s.ide q := rfl
@[simp] theorem State.setMb_at_spdm (p m : Nat) (x : MB) (u : Transport) : (s.setMb p m x).spdm u = s.spdm u := rfl
@[simp] theorem State.setMb_at_bank (p m : Nat) (x : MB) (d : Nat) : (s.setMb p m x).bank d = s.bank d := rfl
@[simp] theorem State.setMb_at_get (p m : Nat) (x : MB) (g : Fld) : (s.setMb p m x).get g = s.get g := rfl
@[simp] theorem State.setMb_at_isWritten (p m : Nat) (x : MB) (g : Fld) : (s.setMb p m x).isWritten g = s.isWritten g := rfl

/-! State.setChan -/

@[simp] theorem State.setChan_at_launch (c n : Nat) (x : Chan2) (q : Nat) : (s.setChan c n x).launch q = s.launch q := rfl
@[simp] theorem State.setChan_at_vc (c n : Nat) (x : Chan2) (q w : Nat) : (s.setChan c n x).vc q w = s.vc q w := rfl
@[simp] theorem State.setChan_at_tr (c n : Nat) (x : Chan2) (q : Nat) : (s.setChan c n x).tr q = s.tr q := rfl
@[simp] theorem State.setChan_at_eng (c n : Nat) (x : Chan2) (d : Nat) : (s.setChan c n x).eng d = s.eng d := rfl
@[simp] theorem State.setChan_at_vu (c n : Nat) (x : Chan2) (d : Nat) : (s.setChan c n x).vu d = s.vu d := rfl
@[simp] theorem State.setChan_at_cmd (c n' : Nat) (x : Chan2) (q n : Nat) : (s.setChan c n' x).cmd q n = s.cmd q n := rfl
@[simp] theorem State.setChan_at_car (c n' : Nat) (x : Chan2) (q n : Nat) : (s.setChan c n' x).car q n = s.car q n := rfl
@[simp] theorem State.setChan_at_prog (c n' : Nat) (x : Chan2) (q n : Nat) : (s.setChan c n' x).prog q n = s.prog q n := rfl
@[simp] theorem State.setChan_at_mb (c n' : Nat) (x : Chan2) (q n : Nat) : (s.setChan c n' x).mb q n = s.mb q n := rfl
@[simp] theorem State.setChan_at_flow (c n' : Nat) (x : Chan2) (q n : Nat) : (s.setChan c n' x).flow q n = s.flow q n := rfl
@[simp] theorem State.setChan_at_mir (c n : Nat) (x : Chan2) (q : Nat) : (s.setChan c n x).mir q = s.mir q := rfl
@[simp] theorem State.setChan_at_ide (c n : Nat) (x : Chan2) (q : Nat) : (s.setChan c n x).ide q = s.ide q := rfl
@[simp] theorem State.setChan_at_spdm (c n : Nat) (x : Chan2) (u : Transport) : (s.setChan c n x).spdm u = s.spdm u := rfl
@[simp] theorem State.setChan_at_bank (c n : Nat) (x : Chan2) (d : Nat) : (s.setChan c n x).bank d = s.bank d := rfl
@[simp] theorem State.setChan_at_get (c n : Nat) (x : Chan2) (g : Fld) : (s.setChan c n x).get g = s.get g := rfl
@[simp] theorem State.setChan_at_isWritten (c n : Nat) (x : Chan2) (g : Fld) : (s.setChan c n x).isWritten g = s.isWritten g := rfl

/-! setBucket -/

@[simp] theorem setBucket_at_launch (p e n : Nat) (q : Nat) : (setBucket s p e n).launch q = s.launch q := rfl
@[simp] theorem setBucket_at_vc (p e n : Nat) (q w : Nat) : (setBucket s p e n).vc q w = s.vc q w := rfl
@[simp] theorem setBucket_at_tr (p e n : Nat) (q : Nat) : (setBucket s p e n).tr q = s.tr q := rfl
@[simp] theorem setBucket_at_eng (p e n : Nat) (d : Nat) : (setBucket s p e n).eng d = s.eng d := rfl
@[simp] theorem setBucket_at_vu (p e n : Nat) (d : Nat) : (setBucket s p e n).vu d = s.vu d := rfl
@[simp] theorem setBucket_at_cmd (p e n' : Nat) (q n : Nat) : (setBucket s p e n').cmd q n = s.cmd q n := rfl
@[simp] theorem setBucket_at_chan (p e n' : Nat) (d n : Nat) : (setBucket s p e n').chan d n = s.chan d n := rfl
@[simp] theorem setBucket_at_car (p e n' : Nat) (q n : Nat) : (setBucket s p e n').car q n = s.car q n := rfl
@[simp] theorem setBucket_at_prog (p e n' : Nat) (q n : Nat) : (setBucket s p e n').prog q n = s.prog q n := rfl
@[simp] theorem setBucket_at_mb (p e n' : Nat) (q n : Nat) : (setBucket s p e n').mb q n = s.mb q n := rfl
@[simp] theorem setBucket_at_flow (p e n' : Nat) (q n : Nat) : (setBucket s p e n').flow q n = s.flow q n := rfl
@[simp] theorem setBucket_at_mir (p e n : Nat) (q : Nat) : (setBucket s p e n).mir q = s.mir q := rfl
@[simp] theorem setBucket_at_ide (p e n : Nat) (q : Nat) : (setBucket s p e n).ide q = s.ide q := rfl
@[simp] theorem setBucket_at_spdm (p e n : Nat) (u : Transport) : (setBucket s p e n).spdm u = s.spdm u := rfl
@[simp] theorem setBucket_at_bank (p e n : Nat) (d : Nat) : (setBucket s p e n).bank d = s.bank d := rfl
@[simp] theorem setBucket_at_get (p e n : Nat) (g : Fld) : (setBucket s p e n).get g = s.get g := rfl
@[simp] theorem setBucket_at_isWritten (p e n : Nat) (g : Fld) : (setBucket s p e n).isWritten g = s.isWritten g := rfl

/-! takeKeys -/

@[simp] theorem takeKeys_at_launch (ks : List Nat) (q : Nat) : (takeKeys s ks).launch q = s.launch q := rfl
@[simp] theorem takeKeys_at_vc (ks : List Nat) (q w : Nat) : (takeKeys s ks).vc q w = s.vc q w := rfl
@[simp] theorem takeKeys_at_tr (ks : List Nat) (q : Nat) : (takeKeys s ks).tr q = s.tr q := rfl
@[simp] theorem takeKeys_at_eng (ks : List Nat) (d : Nat) : (takeKeys s ks).eng d = s.eng d := rfl
@[simp] theorem takeKeys_at_vu (ks : List Nat) (d : Nat) : (takeKeys s ks).vu d = s.vu d := rfl
@[simp] theorem takeKeys_at_cmd (ks : List Nat) (q n : Nat) : (takeKeys s ks).cmd q n = s.cmd q n := rfl
@[simp] theorem takeKeys_at_chan (ks : List Nat) (d n : Nat) : (takeKeys s ks).chan d n = s.chan d n := rfl
@[simp] theorem takeKeys_at_car (ks : List Nat) (q n : Nat) : (takeKeys s ks).car q n = s.car q n := rfl
@[simp] theorem takeKeys_at_prog (ks : List Nat) (q n : Nat) : (takeKeys s ks).prog q n = s.prog q n := rfl
@[simp] theorem takeKeys_at_mb (ks : List Nat) (q n : Nat) : (takeKeys s ks).mb q n = s.mb q n := rfl
@[simp] theorem takeKeys_at_flow (ks : List Nat) (q n : Nat) : (takeKeys s ks).flow q n = s.flow q n := rfl
@[simp] theorem takeKeys_at_mir (ks : List Nat) (q : Nat) : (takeKeys s ks).mir q = s.mir q := rfl
@[simp] theorem takeKeys_at_ide (ks : List Nat) (q : Nat) : (takeKeys s ks).ide q = s.ide q := rfl
@[simp] theorem takeKeys_at_spdm (ks : List Nat) (u : Transport) : (takeKeys s ks).spdm u = s.spdm u := rfl
@[simp] theorem takeKeys_at_bank (ks : List Nat) (d : Nat) : (takeKeys s ks).bank d = s.bank d := rfl
@[simp] theorem takeKeys_at_get (ks : List Nat) (g : Fld) : (takeKeys s ks).get g = s.get g := rfl
@[simp] theorem takeKeys_at_isWritten (ks : List Nat) (g : Fld) : (takeKeys s ks).isWritten g = s.isWritten g := rfl

/-! State.setBank -/

@[simp] theorem State.setBank_at_launch (c : Nat) (x : BankCtx) (q : Nat) : (s.setBank c x).launch q = s.launch q := rfl
@[simp] theorem State.setBank_at_vc (c : Nat) (x : BankCtx) (q w : Nat) : (s.setBank c x).vc q w = s.vc q w := rfl
@[simp] theorem State.setBank_at_tr (c : Nat) (x : BankCtx) (q : Nat) : (s.setBank c x).tr q = s.tr q := rfl
@[simp] theorem State.setBank_at_eng (c : Nat) (x : BankCtx) (d : Nat) : (s.setBank c x).eng d = s.eng d := rfl
@[simp] theorem State.setBank_at_vu (c : Nat) (x : BankCtx) (d : Nat) : (s.setBank c x).vu d = s.vu d := rfl
@[simp] theorem State.setBank_at_cmd (c : Nat) (x : BankCtx) (q n : Nat) : (s.setBank c x).cmd q n = s.cmd q n := rfl
@[simp] theorem State.setBank_at_chan (c : Nat) (x : BankCtx) (d n : Nat) : (s.setBank c x).chan d n = s.chan d n := rfl
@[simp] theorem State.setBank_at_car (c : Nat) (x : BankCtx) (q n : Nat) : (s.setBank c x).car q n = s.car q n := rfl
@[simp] theorem State.setBank_at_prog (c : Nat) (x : BankCtx) (q n : Nat) : (s.setBank c x).prog q n = s.prog q n := rfl
@[simp] theorem State.setBank_at_mb (c : Nat) (x : BankCtx) (q n : Nat) : (s.setBank c x).mb q n = s.mb q n := rfl
@[simp] theorem State.setBank_at_flow (c : Nat) (x : BankCtx) (q n : Nat) : (s.setBank c x).flow q n = s.flow q n := rfl
@[simp] theorem State.setBank_at_mir (c : Nat) (x : BankCtx) (q : Nat) : (s.setBank c x).mir q = s.mir q := rfl
@[simp] theorem State.setBank_at_ide (c : Nat) (x : BankCtx) (q : Nat) : (s.setBank c x).ide q = s.ide q := rfl
@[simp] theorem State.setBank_at_spdm (c : Nat) (x : BankCtx) (u : Transport) : (s.setBank c x).spdm u = s.spdm u := rfl
@[simp] theorem State.setBank_at_get (c : Nat) (x : BankCtx) (g : Fld) : (s.setBank c x).get g = s.get g := rfl
@[simp] theorem State.setBank_at_isWritten (c : Nat) (x : BankCtx) (g : Fld) : (s.setBank c x).isWritten g = s.isWritten g := rfl

/-! State.setMir -/

@[simp] theorem State.setMir_at_launch (p : Nat) (x : MirCtx) (q : Nat) : (s.setMir p x).launch q = s.launch q := rfl
@[simp] theorem State.setMir_at_vc (p : Nat) (x : MirCtx) (q w : Nat) : (s.setMir p x).vc q w = s.vc q w := rfl
@[simp] theorem State.setMir_at_tr (p : Nat) (x : MirCtx) (q : Nat) : (s.setMir p x).tr q = s.tr q := rfl
@[simp] theorem State.setMir_at_eng (p : Nat) (x : MirCtx) (d : Nat) : (s.setMir p x).eng d = s.eng d := rfl
@[simp] theorem State.setMir_at_vu (p : Nat) (x : MirCtx) (d : Nat) : (s.setMir p x).vu d = s.vu d := rfl
@[simp] theorem State.setMir_at_cmd (p : Nat) (x : MirCtx) (q n : Nat) : (s.setMir p x).cmd q n = s.cmd q n := rfl
@[simp] theorem State.setMir_at_chan (p : Nat) (x : MirCtx) (d n : Nat) : (s.setMir p x).chan d n = s.chan d n := rfl
@[simp] theorem State.setMir_at_car (p : Nat) (x : MirCtx) (q n : Nat) : (s.setMir p x).car q n = s.car q n := rfl
@[simp] theorem State.setMir_at_prog (p : Nat) (x : MirCtx) (q n : Nat) : (s.setMir p x).prog q n = s.prog q n := rfl
@[simp] theorem State.setMir_at_mb (p : Nat) (x : MirCtx) (q n : Nat) : (s.setMir p x).mb q n = s.mb q n := rfl
@[simp] theorem State.setMir_at_flow (p : Nat) (x : MirCtx) (q n : Nat) : (s.setMir p x).flow q n = s.flow q n := rfl
@[simp] theorem State.setMir_at_ide (p : Nat) (x : MirCtx) (q : Nat) : (s.setMir p x).ide q = s.ide q := rfl
@[simp] theorem State.setMir_at_spdm (p : Nat) (x : MirCtx) (u : Transport) : (s.setMir p x).spdm u = s.spdm u := rfl
@[simp] theorem State.setMir_at_bank (p : Nat) (x : MirCtx) (d : Nat) : (s.setMir p x).bank d = s.bank d := rfl
@[simp] theorem State.setMir_at_get (p : Nat) (x : MirCtx) (g : Fld) : (s.setMir p x).get g = s.get g := rfl
@[simp] theorem State.setMir_at_isWritten (p : Nat) (x : MirCtx) (g : Fld) : (s.setMir p x).isWritten g = s.isWritten g := rfl

/-! State.setSpdm -/

@[simp] theorem State.setSpdm_at_launch (t : Transport) (x : Spdm) (q : Nat) : (s.setSpdm t x).launch q = s.launch q := rfl
@[simp] theorem State.setSpdm_at_vc (t : Transport) (x : Spdm) (q w : Nat) : (s.setSpdm t x).vc q w = s.vc q w := rfl
@[simp] theorem State.setSpdm_at_tr (t : Transport) (x : Spdm) (q : Nat) : (s.setSpdm t x).tr q = s.tr q := rfl
@[simp] theorem State.setSpdm_at_eng (t : Transport) (x : Spdm) (d : Nat) : (s.setSpdm t x).eng d = s.eng d := rfl
@[simp] theorem State.setSpdm_at_vu (t : Transport) (x : Spdm) (d : Nat) : (s.setSpdm t x).vu d = s.vu d := rfl
@[simp] theorem State.setSpdm_at_cmd (t : Transport) (x : Spdm) (q n : Nat) : (s.setSpdm t x).cmd q n = s.cmd q n := rfl
@[simp] theorem State.setSpdm_at_chan (t : Transport) (x : Spdm) (d n : Nat) : (s.setSpdm t x).chan d n = s.chan d n := rfl
@[simp] theorem State.setSpdm_at_car (t : Transport) (x : Spdm) (q n : Nat) : (s.setSpdm t x).car q n = s.car q n := rfl
@[simp] theorem State.setSpdm_at_prog (t : Transport) (x : Spdm) (q n : Nat) : (s.setSpdm t x).prog q n = s.prog q n := rfl
@[simp] theorem State.setSpdm_at_mb (t : Transport) (x : Spdm) (q n : Nat) : (s.setSpdm t x).mb q n = s.mb q n := rfl
@[simp] theorem State.setSpdm_at_flow (t : Transport) (x : Spdm) (q n : Nat) : (s.setSpdm t x).flow q n = s.flow q n := rfl
@[simp] theorem State.setSpdm_at_mir (t : Transport) (x : Spdm) (q : Nat) : (s.setSpdm t x).mir q = s.mir q := rfl
@[simp] theorem State.setSpdm_at_ide (t : Transport) (x : Spdm) (q : Nat) : (s.setSpdm t x).ide q = s.ide q := rfl
@[simp] theorem State.setSpdm_at_bank (t : Transport) (x : Spdm) (d : Nat) : (s.setSpdm t x).bank d = s.bank d := rfl
@[simp] theorem State.setSpdm_at_get (t : Transport) (x : Spdm) (g : Fld) : (s.setSpdm t x).get g = s.get g := rfl
@[simp] theorem State.setSpdm_at_isWritten (t : Transport) (x : Spdm) (g : Fld) : (s.setSpdm t x).isWritten g = s.isWritten g := rfl

/-! State.setIde -/

@[simp] theorem State.setIde_at_launch (p : Nat) (x : Ide) (q : Nat) : (s.setIde p x).launch q = s.launch q := rfl
@[simp] theorem State.setIde_at_vc (p : Nat) (x : Ide) (q w : Nat) : (s.setIde p x).vc q w = s.vc q w := rfl
@[simp] theorem State.setIde_at_tr (p : Nat) (x : Ide) (q : Nat) : (s.setIde p x).tr q = s.tr q := rfl
@[simp] theorem State.setIde_at_eng (p : Nat) (x : Ide) (d : Nat) : (s.setIde p x).eng d = s.eng d := rfl
@[simp] theorem State.setIde_at_vu (p : Nat) (x : Ide) (d : Nat) : (s.setIde p x).vu d = s.vu d := rfl
@[simp] theorem State.setIde_at_cmd (p : Nat) (x : Ide) (q n : Nat) : (s.setIde p x).cmd q n = s.cmd q n := rfl
@[simp] theorem State.setIde_at_chan (p : Nat) (x : Ide) (d n : Nat) : (s.setIde p x).chan d n = s.chan d n := rfl
@[simp] theorem State.setIde_at_car (p : Nat) (x : Ide) (q n : Nat) : (s.setIde p x).car q n = s.car q n := rfl
@[simp] theorem State.setIde_at_prog (p : Nat) (x : Ide) (q n : Nat) : (s.setIde p x).prog q n = s.prog q n := rfl
@[simp] theorem State.setIde_at_mb (p : Nat) (x : Ide) (q n : Nat) : (s.setIde p x).mb q n = s.mb q n := rfl
@[simp] theorem State.setIde_at_flow (p : Nat) (x : Ide) (q n : Nat) : (s.setIde p x).flow q n = s.flow q n := rfl
@[simp] theorem State.setIde_at_mir (p : Nat) (x : Ide) (q : Nat) : (s.setIde p x).mir q = s.mir q := rfl
@[simp] theorem State.setIde_at_spdm (p : Nat) (x : Ide) (u : Transport) : (s.setIde p x).spdm u = s.spdm u := rfl
@[simp] theorem State.setIde_at_bank (p : Nat) (x : Ide) (d : Nat) : (s.setIde p x).bank d = s.bank d := rfl
@[simp] theorem State.setIde_at_get (p : Nat) (x : Ide) (g : Fld) : (s.setIde p x).get g = s.get g := rfl
@[simp] theorem State.setIde_at_isWritten (p : Nat) (x : Ide) (g : Fld) : (s.setIde p x).isWritten g = s.isWritten g := rfl

/-! setHeld -/

@[simp] theorem setHeld_at_launch (k v : Nat) (q : Nat) : (setHeld s k v).launch q = s.launch q := rfl
@[simp] theorem setHeld_at_vc (k v : Nat) (q w : Nat) : (setHeld s k v).vc q w = s.vc q w := rfl
@[simp] theorem setHeld_at_tr (k v : Nat) (q : Nat) : (setHeld s k v).tr q = s.tr q := rfl
@[simp] theorem setHeld_at_eng (k v : Nat) (d : Nat) : (setHeld s k v).eng d = s.eng d := rfl
@[simp] theorem setHeld_at_vu (k v : Nat) (d : Nat) : (setHeld s k v).vu d = s.vu d := rfl
@[simp] theorem setHeld_at_cmd (k v : Nat) (q n : Nat) : (setHeld s k v).cmd q n = s.cmd q n := rfl
@[simp] theorem setHeld_at_chan (k v : Nat) (d n : Nat) : (setHeld s k v).chan d n = s.chan d n := rfl
@[simp] theorem setHeld_at_car (k v : Nat) (q n : Nat) : (setHeld s k v).car q n = s.car q n := rfl
@[simp] theorem setHeld_at_prog (k v : Nat) (q n : Nat) : (setHeld s k v).prog q n = s.prog q n := rfl
@[simp] theorem setHeld_at_mb (k v : Nat) (q n : Nat) : (setHeld s k v).mb q n = s.mb q n := rfl
@[simp] theorem setHeld_at_flow (k v : Nat) (q n : Nat) : (setHeld s k v).flow q n = s.flow q n := rfl
@[simp] theorem setHeld_at_mir (k v : Nat) (q : Nat) : (setHeld s k v).mir q = s.mir q := rfl
@[simp] theorem setHeld_at_ide (k v : Nat) (q : Nat) : (setHeld s k v).ide q = s.ide q := rfl
@[simp] theorem setHeld_at_spdm (k v : Nat) (u : Transport) : (setHeld s k v).spdm u = s.spdm u := rfl
@[simp] theorem setHeld_at_bank (k v : Nat) (d : Nat) : (setHeld s k v).bank d = s.bank d := rfl
@[simp] theorem setHeld_at_get (k v : Nat) (g : Fld) : (setHeld s k v).get g = s.get g := rfl
@[simp] theorem setHeld_at_isWritten (k v : Nat) (g : Fld) : (setHeld s k v).isWritten g = s.isWritten g := rfl

end Sys2Proof.Machine
end

