-- ==== Sys2Proof/Tests/Slice0.lean ====
section
/-!
SUPPORT. Tests: ill-formed commands that the checks refuse, words and worked examples of the spec, and for each statement of
Certificates/Slice0/Obligations.lean a named theorem whose concrete states and operands meet the hypotheses of its clauses.
-/

set_option Elab.async false

open Sys2Proof Sys2Proof.Machine

namespace Sys2Proof.Tests

/-! ## Small states -/

def put (s : State) (l : List (Fld × Nat)) : State := l.foldl (fun s x => (s.put x.1 x.2).markWritten x.1) s
def run : State :=
  { put State.reset [(Reg.SEC_STATUS_STAGE, 3), (Reg.SEC_PART_STATUS_STATE 0, 3), (Reg.SEC_PART_CORES_CORE 0 0, 1),
      (Reg.MEM_INTERLEAVE_VALID, 1), (Reg.MEM_PART_MAP_PAGES 0, 16), (Reg.CCH_PIN_LIMIT_LIMIT 0, 16)] with
    frames := (List.range 16).map fun k => (k, .owned 0), pageMap := (List.range 16).map fun k => (k, ⟨k, true⟩) }
def desc (base fmt n rows stride aux scale : Nat) : List Byte :=
  leBytes 5 base ++ leBytes 1 fmt ++ leBytes 1 2 ++ leBytes 1 0 ++ leBytes 4 n ++ leBytes 4 rows ++ leBytes 12 0
    ++ leBytes 5 stride ++ leBytes 15 0 ++ leBytes 5 aux ++ leBytes 5 0 ++ leBytes 2 scale ++ leBytes 4 0
def image (ds : List (List Byte)) (consts : List Byte) : List Byte :=
  leBytes 18 0 ++ leBytes 2 ds.length ++ leBytes 12 0 ++ leBytes 4 64 ++ leBytes 4 0 ++ leBytes 4 (64 + 64 * ds.length)
    ++ leBytes 20 0 ++ ds.flatten ++ consts
def prog : Prog := { Prog.empty with state := 2, image := image [desc 0x1000 2 32 4 64 0x2000 0xFFFF] (leBytes 8 0 ++ leBytes 4 3 ++ leBytes 4 2) }
def launch0 : Launch := ⟨7, 0, 0, [5, 0, 0, 0], [], [0], [], [], 0, 0xFF, 0xFF, 0, true, 0, [], []⟩
def vc0 : VC := { VC.empty with core := 0 }
def live : State := (({ run with progs := [(0, prog)], launches := [(0, some launch0)], banks := [(0, { BankCtx.empty with code := [savedKey 0 0 0, savedKey 0 0 1] })] }).setVc 0 0 vc0).put (Reg.SEQ_STATUS_VCORE 0) 0
def a0 : At := ⟨0, 0, 0, false⟩
def isNext (o : Host.Outcome State Fault Refusal) : Bool := match o with
  | .next _ => true
  | _ => false
def ctx (s : State) (a : At) (fetch : Bool) (k : Ctx → Bool) : Bool := match tynteCtx s a fetch with
  | some x => k x
  | none => false
def setV (s : State) (f : VC → VC) : State := s.setVc 0 0 (f (s.vc 0 0))
def looping (i : Nat) : State := setV live fun c => { c with loopc := some ⟨[2, 3], [1, i]⟩ }
def waiting (h : Hold) (fs : List (Fld × Nat)) : State := put (setV live fun c => { c with hold := h }) fs
def withMbs (s : State) (n : Nat) : State := { s with mbs := (List.range n).map fun m => (m, { MB.empty with isOpen := true }) }
def req0 : OasReq := ⟨0, 0, 0, 7, 0, 0, 0, 0, 0, tdescOf [], tdescOf []⟩
def oasFull (s : State) (n : Nat) : State := { s with oasQueues := [(0, List.replicate n req0)] }
def bound (s : State) (x : Ctx) (ds : List Nat) : Bool := match bindAll s x ds [] with
  | .bound _ ts => ts.length == ds.length
  | _ => false
def present (s : State) (n : Nat) : State := put s ((List.range n).map fun g => (presentFld 0 2 g, 1))

def lay (s : State) (l : List (Nat × Nat × Nat)) : State := l.foldl (fun s e => pPut s 0 e.1 e.2.1 e.2.2) s
def page (n : Nat) : Nat := n * frameBytes
def fabric : List (Nat × Nat × Nat) :=
  [(page 2 + 70, 1, 1), (page 2 + 128, 1, 2), (page 2, 1, 1), (page 2 + 256, 1, 1), (page 2 + 512 + 70, 1, 1), (page 2 + 256 + 70, 1, 3), (page 2 + 256 + 128, 1, 2), (page 10, 2, 0x11),
    (page 10 + 2, 1, 1), (page 10 + 4, 4, 2), (page 10 + 8, 4, 0), (page 10 + 12, 4, 1), (page 10 + 16, 4, 0x2000),
    (page 2 + 0x2000, 4, 0), (page 2 + 0x2004, 4, 0)]
def linked (s : State) : State :=
  lay (put s [(Reg.FAB_AREA_BASE 0, 2), (Reg.FAB_AREA_CTRL_ENABLE 0, 1), (Reg.FAB_AREA_CTRL_FLOWS 0, 4),
    (Reg.FAB_AREA_CTRL_GROUPS 0, 1), (Reg.FAB_TIMERS_INST_MS, 1), (Reg.FAB_TIMERS_RETRY_MAX, 2), (Reg.FAB_TIMERS_RTO_US, 1),
    (Reg.FAB_TIMERS_DETACH_US, 1), (Reg.FAB_PORT_STATUS_LINK_UP 0, 1)]) fabric
def wr (v : Nat) : HostWr := ⟨.h0, .full, BitVec.ofNat 64 v⟩
def lets (s : State) (off : Nat) (w : HostWr) (k : State → Wr → Bool) : Bool := match judge s off w with
  | (u, some x) => k u x
  | _ => false
def queued (s : State) : State :=
  put s [(Reg.QUE_BLOCK_ASSIGNED 0, 1), (Reg.QUE_SEL_QUEUE .h0, 0), (Reg.QUE_SQ_BASE_ADDR 0, 0x400), (Reg.QUE_CQ_BASE_ADDR 0, 0x800),
    (Reg.QUE_CFG_SQ_LOG 0, 4), (Reg.QUE_CFG_CQ_LOG 0, 4), (Reg.QUE_CFG_VECTOR 0, 3), (Reg.QUE_PORT_STATUS_LINK_UP .h0, 1)]
def serving : State := put (queued run) [(Reg.QUE_CFG_ENABLE 0, 1), (Reg.QUE_STATE_SQ_TAIL 0, 2), (Reg.QUE_CFG_INT_EN 0, 1), (Reg.QUE_CFG_AGG_TIME 0, 5)]
def rawOf (op : Nat) (fs : List (Nat × Nat)) : List Byte := leBytes 8 op ++ fs.flatMap fun f => leBytes f.1 f.2
def cmd0 (op : Nat) (raw : List Byte) : Cmd := { Cmd.empty with phase := .accepted, op := op, raw := raw, cid := 9 }
def ordered (s : State) (op : Nat) (raw : List Byte) : State := s.setCmd 0 1 (cmd0 op raw)
def scaling : State := put run [(Reg.ENG_SCALE_CTRL_ENABLE 0, 1), (Reg.ENG_SCALE_CTRL_RECORDS 0, 2), (Reg.ENG_SCALE_BASE_BASE 0, 12), (Reg.SYN_STEP_STEP 0, 6)]
def drain0 (fmt : Nat) : Drain := ⟨0, 0, 0, 3, fmt, false, .local 0, if fmt = 0 then some 1 else none, 0⟩
def draining (s : State) (fmt units : Nat) : State := s.setEng 0 { s.eng 0 with draining := some (drain0 fmt), par := 1, units := units }
def book0 : List Byte := [0, 3, 1, 0xFF] ++ List.replicate 12 0 ++ [2, 0] ++ List.replicate 14 0
def mastered : State :=
  let s := lay (put run [(Reg.OAS_MASTER_TABLE_BASE 0, 13), (Reg.OAS_CTRL_RECORDS 0, 1), (Reg.OAS_STATUS_READY, 1), (Reg.OAS_CTRL_ENABLE 0, 1),
      (Reg.SYN_VERSION_BASE_BASE 0, 1), (Reg.SYN_VERSION_CTRL_ENTRIES 0, 1)])
    [(page 13, 5, 0x1000), (page 13 + 5, 1, 1), (page 13 + 8, 4, 3), (page 13 + 12, 4, 1), (page 13 + 16, 4, 1), (page 1, 5, 0x1000), (page 1 + 5, 1, 1)]
  (pWrite s 0 (page 13 + 64) book0).getD s
def pass0 (path : Nat) (gang : Bool) : Pass :=
  { part := 0, vcore := 0, iid := 0, path := path, width := 4, blocks := 1, slot := 3, acc := false, accShift := 0, kb0 := 1,
    high := 0, holdT := 0, gang := gang, aBase := 0, aLen := 1, bBase := 0, bLen := 1, sBase := 0, sLen := 0, aRel := true, bRel := true, sRel := true, codebook := none,
    aScale := none, wScale := none, rowsIn := 256, rowBase := 0, kIn := 32 }
/-- A signature block over `signed` under the keys of slot 0, or under the test-access keys. -/
def blockOf (test : Bool) (signed : List Byte) : List Byte :=
  sha384 signed ++ List.replicate 16 0
    ++ leBytes 384 (if test then Config.testRsaKey.toNat else (Config.vendorRsaKey 0).toNat) ++ List.replicate 384 0
    ++ leBytes 48 (if test then Config.testSlhKey.toNat else (Config.vendorSlhKey 0).toNat) ++ List.replicate 16272 0
theorem leBytes_length (n v : Nat) : (leBytes n v).length = n := by
  induction n generalizing v with
  | zero => rfl
  | succ n ih => simp [leBytes, ih]
theorem sliceOf_at (a b c : List Byte) (lo n : Nat) (h : a.length = lo) (h' : b.length = n) : sliceOf (a ++ b ++ c) lo n = b := by
  subst h; subst h'; simp [sliceOf]
theorem block_slices (pre signed post : List Byte) (test : Bool) (o : Nat) (h : pre.length = o) :
    sliceOf (pre ++ blockOf test signed ++ post) o 48 = sha384 signed
    ∧ sliceOf (pre ++ blockOf test signed ++ post) (o + 64) 384 =
      leBytes 384 (if test then Config.testRsaKey.toNat else (Config.vendorRsaKey 0).toNat)
    ∧ sliceOf (pre ++ blockOf test signed ++ post) (o + 832) 48 =
      leBytes 48 (if test then Config.testSlhKey.toNat else (Config.vendorSlhKey 0).toNat) := by
  have hs : (sha384 signed).length = 48 := leBytes_length 48 _
  refine ⟨?_, ?_, ?_⟩
  · rw [← sliceOf_at pre (sha384 signed) (List.replicate 16 0 ++ (leBytes 384 (if test then Config.testRsaKey.toNat else (Config.vendorRsaKey 0).toNat)
      ++ (List.replicate 384 0 ++ (leBytes 48 (if test then Config.testSlhKey.toNat else (Config.vendorSlhKey 0).toNat)
      ++ (List.replicate 16272 0 ++ post))))) o 48 h hs]
    simp only [blockOf, List.append_assoc]
  · rw [← sliceOf_at (pre ++ (sha384 signed ++ List.replicate 16 0))
      (leBytes 384 (if test then Config.testRsaKey.toNat else (Config.vendorRsaKey 0).toNat))
      (List.replicate 384 0 ++ (leBytes 48 (if test then Config.testSlhKey.toNat else (Config.vendorSlhKey 0).toNat)
      ++ (List.replicate 16272 0 ++ post))) (o + 64) 384 (by simp only [List.length_append, List.length_replicate, hs, h]) (leBytes_length _ _)]
    simp only [blockOf, List.append_assoc]
  · rw [← sliceOf_at (pre ++ (sha384 signed ++ (List.replicate 16 0 ++
      (leBytes 384 (if test then Config.testRsaKey.toNat else (Config.vendorRsaKey 0).toNat) ++ List.replicate 384 0))))
      (leBytes 48 (if test then Config.testSlhKey.toNat else (Config.vendorSlhKey 0).toNat))
      (List.replicate 16272 0 ++ post) (o + 832) 48 (by simp only [List.length_append, List.length_replicate, leBytes_length, hs, h]) (leBytes_length _ _)]
    simp only [blockOf, List.append_assoc]
/-- The halves of a block at o verify where its reserved bytes are 0, its slots are 0, and its digest and keys are those asked for. -/
theorem halves_verify (bs signed : List Byte) (o : Nat) (slots : Bool) (rk sk : Nat → BitVec 384) (rsa slh : List Byte)
    (h : (decide (o + 17152 ≤ bs.length) && fieldOf bs (o + 50) 14 == 0 && fieldOf bs (o + 17104) 48 == 0 && fieldOf bs (o + 48) 1 == 0
      && fieldOf bs (o + 49) 1 == 0) = true)
    (h1 : sliceOf bs o 48 = sha384 signed ∧ sliceOf bs (o + 64) 384 = rsa ∧ sliceOf bs (o + 832) 48 = slh)
    (h2 : rk 0 = Config.sha384 rsa ∧ sk 0 = Config.sha384 slh) : blockHalves bs o signed slots rk sk ⟨true, true⟩ = (true, true) := by
  simp only [Bool.and_eq_true, decide_eq_true_eq, beq_iff_eq] at h
  simp [blockHalves, h, h1, h2]
def hdr0 (psn : Nat) : FrameHdr := ⟨0, .ok, 1, 0, 0, false, false, 2, 0, 0x11, psn, 5, 0, true, 1⟩
def lk : State := linked live

/-! ## Checks of the model's own work -/

theorem test_wf_refuses :
    ([.nop a0 ⟨false, 1, 0⟩, .nop a0 ⟨true, 8, 0⟩, .nop a0 ⟨true, 0, 4⟩, .loop a0 ⟨4, 1, 0, 0, 0⟩, .loop a0 ⟨0, 65536, 0, 0, 0⟩,
      .stream a0 ⟨4, false, 0, 0, 0, 0, 0⟩, .stream a0 ⟨0, true, 4, 0, 0, 0, 0⟩, .load a0 always ⟨true, false, 0, 0, 0, 0⟩,
      .store a0 always ⟨true, false, 4096, 0, 0, 0⟩, .prefetch a0 always ⟨⟨0, false, 2 ^ 32, 0⟩, .ok⟩, .tableSetup a0 always ⟨32, 0, 0, 0⟩,
      .codebookSet a0 always ⟨4096, 0⟩, .opb a0 always ⟨0, 0, 128, false, 0, false, 0, 0, 0, 0, 0, 0, 0⟩,
      .drain a0 always ⟨0, 0, false, 4, false, 0, 0, 0, 0, 0⟩, .vop a0 always ⟨false, false, false, 0, 0, 256, 0, 0, 0, 0, 0, 0, 0⟩,
      .reduce a0 always ⟨false, 0, false, 0, 0, false, false, 0, 3 + 1, false, 0, 0, 0, 0, 0, 0⟩, .indexStream a0 always ⟨4096, 0, 0⟩,
      .gather a0 always ⟨2048, 0, 0⟩, .scatterAdd a0 always ⟨false, 256, false, 0, 0, 0⟩, .anchorRead a0 always ⟨-257, 0, 0, 0, 0⟩,
      .segmentReduce a0 always ⟨0, false, false, 8, 0, 0, 0, 0, 0, 0, 0⟩, .quantCodes a0 always ⟨0, 4096, 0, 0⟩, .signal a0 always 256,
      .wait a0 always 0 (2 ^ 32), .mbBegin a0 always (2 ^ 32) 0, .mbEnd a0 always 0 (2 ^ 32), .stepEnd a0 always (2 ^ 32),
      .coll a0 always ⟨65536, 0, 0, 0, 0, 0, false, 0, 0⟩, .caravan a0 always ⟨4096, 0, 0⟩, .update a0 always ⟨4096, 0, 0, 0⟩,
      .hostNop 0 (2 ^ 32), .doorbellWrite 4 (wr 0), .doorbellWrite 524288 (wr 0), .frameZeroizeComplete 98304 none,
      .keyProg .mctp 0 256 true false, .getLog 512 1, .setPowerLimit 65536, .registerWrite ⟨0, 4⟩ (wr 0), .registerWrite ⟨0, 0x1000000⟩ (wr 0), .registerWrite ⟨4, 65536⟩ (wr 0),
      .registerWrite ⟨2, 0⟩ (wr 0), .mctpControlMessage ⟨.smbus 128, 0, 0⟩ 1 [], .dieSensorRead (List.replicate 12 0),
      .lineEviction 0 16384 ⟨0, false⟩, .stackSensorRead [1], .couplingLevelRelease 0 4, .dieSensorRead (List.replicate 8 256),
      .dieLevelRelease 0 0, .powerControlTick 65536 0 0 0, .coolantInletHot 256, .scaleRecordUpdate 0 8192 0 .ok, .bankLoad 0 2 0,
      .fetchPartStart 0 0 8, .descriptorLoad 0 32 none, .paceResume 0 0 4096, .handshake 0 65536 ⟨hdr0 0, [], true, true⟩, .req { hdr0 0 with version := 16 },
      .retransmitTimeout 0 0 (2 ^ 32), .receiverDetach 0 0 0 65536, .hostLinkUp .h0 3, .fullZeroizationComplete [256]] : List Instr).all
    (fun c => !c.wf) = true ∧ (Instr.wf (.signal a0 always 255) && Instr.wf (.hostLinkUp .h1 6) && Instr.wf (.registerWrite ⟨0, 0xFFFFF8⟩ (wr 0))) = true := by
  decide

/-- Words written out from R155 and R161: LOAD by rows from descriptor 7, row 5, 3 rows, to granule 9; DRAIN of slot 3 as fp32 to
granule 9, with OUT_DESC 7 and statistics; the same with a reserved bit of word 2 set. -/
theorem test_words_by_hand : decodeTynte [0x8038090210, 5, 3] = some (.load ⟨false, true, 7, 9, 5, 3⟩, always, 3)
    ∧ decodeTynte [9 * 2 ^ 36 + 7 * 2 ^ 24 + 2 ^ 20 + 2 * 2 ^ 18 + 3 * 2 ^ 16 + 0x231, 5 * 2 ^ 32 + 6, 1] =
      some (.drain ⟨9, 7, false, 0, true, 2, 3, 5, 6, 1⟩, always, 3)
    ∧ decodeTynte [9 * 2 ^ 36 + 7 * 2 ^ 24 + 0x231, 0, 2 ^ 32] = none := by decide

/-- The worked example after R266. -/
theorem test_xd128 : xd128 3 (leBytes 8 5) = 9 * 2 ^ 64 + 69 := by decide +kernel

theorem test_table_gives_no_bits : decodeTableWord 64 0 = none ∧ State.reset.withFetchWord 64 0 = State.reset := by decide

/-- The worked example before R25: the requests for steps 1 and 2 of two cores of a caravan change both to step 2. -/
theorem test_caravan_changes_together :
    let s := takeStep (put run [(Reg.THM_COUPLING_REQ 0, 1), (Reg.THM_STATUS_DIE_REQ 1, 2)]) [0, 16]
    s.get (Reg.CLK_ACLK_STEP_STEP 0) = 2 ∧ s.get (Reg.CLK_ACLK_STEP_STEP 16) = 2 := by decide +kernel

theorem test_idle_clock : (match step State.reset with
    | .next t => t.timeUs
    | _ => 0) = 1 := by decide

/-! ## The hypotheses of the statements are met -/

theorem test_every_step_statement_meets :
    SMap.wf 0 State.reset.mem = true ∧ isNext (exec .tokenRefill State.reset) = true ∧ isNext (step State.reset) = true := by decide

theorem test_skipped : ([true, false].all fun b => ctx (looping 1) a0 b fun x => !predHolds x.vc ⟨true, 0, 0⟩) = true := by decide

theorem test_control :
    (ctx live a0 false fun x => (live.vc x.p x.v).loopc.isNone && predHolds x.vc always && (live.launch x.p).isSome
      && bound live x [0, 0xFFF, 0]) = true
    ∧ ([1, 2].all fun i => ctx (looping i) a0 false fun x => match ((looping i).vc x.p x.v).loopc with
      | some l => (nextIter l.counts l.ctrs).isSome == (i == 1)
      | none => false) = true := by decide

theorem test_loop_nest : List.Forall₂ (fun n i => i < n) [2, 3] [1, 2] ∧ nextIter [2, 3] [1, 2] = none
    ∧ nextIter [2, 3] [1, 1] = some [0, 2] :=
  ⟨.cons (by decide) (.cons (by decide) .nil), by decide, by decide⟩

theorem test_order :
    (ctx live a0 false fun x => (live.vc x.p x.v).quiet && x.car.isNone && (live.launch x.p).isSome
      && decide (tokenOf live x.p 255 < 1)) = true
    ∧ ∃ s t u, s = waiting (.token 1 2) [(Reg.ENG_ISSUE_TIMEOUT_LIMIT 0, 1)]
      ∧ t = withMbs (waiting (.microBatch 70 0) [(Reg.SYN_VERSION_CTRL_TIMEOUT 0, 1)]) 64
      ∧ u = oasFull (waiting .oasisQueue [(Reg.ENG_ISSUE_TIMEOUT_LIMIT 0, 1)]) 64
      ∧ partOfCore s 0 = some 0 ∧ (s.vc 0 0).core = 0 ∧ (s.vc 0 0).hold = .token 1 2 ∧ s.get (Reg.ENG_ISSUE_TIMEOUT_LIMIT 0) ≠ 0
      ∧ partOfCore t 0 = some 0 ∧ (t.vc 0 0).hold = .microBatch 70 0 ∧ t.get (Reg.SYN_VERSION_CTRL_TIMEOUT 0) ≠ 0
      ∧ 64 ≤ (openMbs t 0).length ∧ partOfCore u 0 = some 0 ∧ (u.vc 0 0).hold = .oasisQueue
      ∧ u.get (Reg.ENG_ISSUE_TIMEOUT_LIMIT 0) ≠ 0 ∧ 64 ≤ oasDepth u 0 :=
  ⟨by decide, _, _, _, rfl, rfl, rfl, by decide⟩

theorem test_moves :
    (ctx live a0 true fun x => bound live x [0] && descFree live x [0] && values x [(32, 3)] == some [3] && granAt x 895 == some 895
      && (partRefusal (issued live x) x.p [0x10C0]).isNone
      && mayTake (issued live x) (tokenKeys (issued live x) false 0 ([0x10C0].filterMap (xlate (issued live x) x.p)))
      && (readFinds (issued live x) x.p (span 0x10C0 64) ⟨[(0, .corrected)]⟩).2.1 == 0
      && (pinRange (readFinds (issued live x) x.p (span 0x10C0 64) ⟨[(0, .corrected)]⟩).1 x.p (.prefetch x.p (x.car.map (·.1))) 0x10C0 64).1 == 0
      && (x.g.desc 0).any fun t => moveInside t false 3 1 && moveInside t true 3 1 && !moveInside t false 4 1) = true
    ∧ presentAll (present live 1) 0 2 0 (granulesOf 64) 1 = true ∧ stageGo (present live 1) 0 0 0 = true
    ∧ (boundDesc (present live 1) 0 0 0).isSome = true ∧ (pWrite live 0 0x2000 (leBytes 32 0)).isSome = true := by decide

def opb0 : OpbF := ⟨0, 0xFFF, 0, false, 3, false, 1, 4, 0, 0, 1, 0, 0⟩

theorem test_engine_instructions :
    (ctx live a0 false fun x => descFree live x [0xFFF, 0] && bound live x [0xFFF, 0, 0xFFF]
      && values x [(32, 0), (32, 0), (16, 0), (32, 0)] == some [0, 0, 0, 0]
      && (tableFor live x a0.word).isNone && x.car.isNone
      && (opbPasses (openParts (issued live x) x (opbFills opb0 false + opbCount opb0 false) 0).1 x opb0 a0.word ⟨0, 0xFFF, 0xFFF, 0xFFF⟩ none
        (x.g.desc 0) none 0 0 0 0 0 false (fun s y => addPass s x.c y)).isSome
      && granAt x 895 == some 895 && (live.eng x.c).queue.isEmpty && (live.eng x.c).filling.isNone) = true := by decide

theorem test_vector_instructions :
    (ctx live a0 false fun x => granules x [0, 895, 2047, 1] == some [0, 895, 2047, 1] && descFree live x [0, 0xFFF]
      && values x [(32, 2), (32, 7)] == some [2, 7]) = true
    ∧ (ctx live a0 (gatherFetch live a0 ⟨0, 0, 1⟩) fun x => granAt x 0 == some 0) = true
    ∧ (ctx live a0 true fun x => descFree live x [0]) = true := by decide

def stepping (t : Nat) : State := put live [(Reg.SYN_STEP_STEP 0, t), (Reg.SYN_CTRL_ENABLE 0, 1)]
def inSpan : State := (setV (stepping 4) fun c => { c with span := some (5, 4) }).setMb 0 5 { MB.empty with isOpen := true, step := 4 }

theorem test_step_instructions :
    (ctx (stepping 4) a0 false fun x => values x [(32, 2 ^ 31 - 1), (32, 4)] == some [2 ^ 31 - 1, 4]
      && (stepping 4).get (Reg.SYN_STEP_STEP x.p) == 4 && ((stepping 4).mb x.p 5).isOpen == false
      && decide ((openMbs (stepping 4) x.p).length < 64) && values x [(32, 5), (32, 5)] == some [5, 5]
      && (stepping 4).get (Reg.SYN_CTRL_ENABLE x.p) != 0 && ((stepping 4).vc x.p x.v).quiet
      && (stepping 4).get (Reg.HLT_MIRAGE_STATUS_HALTED x.p) == 0 && ((stepping 4).launch x.p).isSome) = true
    ∧ (ctx (withMbs (stepping 4) 64) a0 false fun x => !((withMbs (stepping 4) 64).mb x.p 70).isOpen
      && decide (64 ≤ (openMbs (withMbs (stepping 4) 64) x.p).length)) = true
    ∧ (ctx inSpan a0 false fun x => (inSpan.vc x.p x.v).span == some (5, 4) && (inSpan.vc x.p x.v).quiet
      && (inSpan.mb x.p 5).isOpen && (inSpan.mb x.p 5).step == 4 && values x [(32, 2 ^ 31 + 5), (32, 4)] == some [2 ^ 31 + 5, 4]) = true :=
  by decide

def updating (s : State) : State := put s [(Reg.OAS_CTRL_ENABLE 0, 1)]
def coll0 : CollF := ⟨0, 0, 0, 2, 0, 0, false, 0, 1⟩

theorem test_coll_caravan_update :
    (ctx live a0 false fun x => (live.vc x.p x.v).quiet && x.car.isNone && values x [(32, 9)] == some [9]) = true
    ∧ (ctx (linked live) a0 false fun x => let s := issued (linked live) x
      descFree (linked live) x [0, 0] && (boundDesc (linked live) x.p x.v 0).isSome && values x [(32, 0), (32, 0)] == some [0, 0]
      && allWritten s [Reg.FAB_TIMERS_INST_MS, Reg.FAB_TIMERS_RETRY_MAX, Reg.FAB_TIMERS_RTO_US, Reg.FAB_TIMERS_DETACH_US]
      && s.get (Reg.FAB_AREA_CTRL_ENABLE x.p) != 0 && !groupBad s x.p 0 && !isVoteGroup s x.p 0 && (flowDown s x.p 0).isNone
      && ((s.tr x.p).replay.isNone) && (membersOf s x.p 0).length == 2
      && rangeIn (boundDesc (linked live) x.p x.v 0) true 0 (srcUnits 2 2 1)
      && rangeIn (boundDesc (linked live) x.p x.v 0) true 0 (dstUnits 2 2 1)) = true
    ∧ ([0, 64].all fun n => let s := oasFull (updating live) n
      ctx s a0 false fun x => descFree s x [0, 0] && values x [(32, 4)] == some [4] && (boundDesc s x.p x.v 0).isSome && (x.g.desc 0).isSome
      && x.g.constAt 8 4 == 3 && decide (1 < x.g.constAt 12 4) && s.get (Reg.HLT_MIRAGE_STATUS_EXPELLED x.p) == 0
      && s.get (Reg.HLT_MIRAGE_STATUS_HALTED x.p) == 0 && s.get (Reg.OAS_CTRL_ENABLE x.p) != 0 && faultedCode s x.p == 0
      && oasDepth s x.p == n && (s.tr x.p).replay.isNone) = true := by decide +kernel

theorem test_quantizer_book : codebookOf ([0, 3, 1, 0xFF] ++ List.replicate 12 0 ++ [2, 0] ++ List.replicate 14 0) =
      some ⟨[0, 3, 1, -1], 2, 0, true⟩ ∧ fieldOf ((List.replicate 17 0 ++ [0] : List Byte)) 17 1 = 0 := by decide

theorem test_repro_perm : List.Perm [[1], [2]].flatten [2, 1] ∧ List.Perm [[2], [1]] [[1], [2]] := by decide

theorem test_tynte_wf : Tynte.wf (.opb opb0) = true ∧ Pred.wf ⟨true, 5, 3⟩ = true := by decide

theorem test_queues :
    (lets (queued run) 0x100800 (wr 0xFFFF) fun _ _ => true) = true
    ∧ ([1, 0x40401].all fun v => lets (queued run) 0x100818 (wr v) fun u x => x.val 0 == some 1
      && u.get (Reg.QUE_CFG_ENABLE (keyQueue x.key)) == 0 && queueOk (storeBut u x [0]) (keyQueue x.key) == (v == 0x40401)) = true
    ∧ (lets (queued run) 0x100818 (wr 0) fun u x => x.val 0 == some 0 && u.get (Reg.QUE_CFG_ENABLE (keyQueue x.key)) == 0) = true
    ∧ ([(.low, 0), (.low, 1), (.high, 5)].all fun e => lets serving 0x100818 ⟨.h0, e.1, BitVec.ofNat 64 (e.2 + 0x40400)⟩ fun u x =>
      x.val 0 == (if e.1 = .high then none else some e.2) && u.get (Reg.QUE_CFG_ENABLE (keyQueue x.key)) != 0) = true
    ∧ (lets (queued run) 0x100818 ⟨.h0, .high, 5⟩ fun u x => (x.val 0).isNone && u.get (Reg.QUE_CFG_ENABLE (keyQueue x.key)) == 0) = true
    ∧ ([0x100800, 0x100818].all fun o => (judge State.reset o (wr 1)).2.isNone) = true ∧ SMap.wf 0 run.regs = true := by decide

theorem test_doorbells : stage serving ≠ 0 ∧ doorbellOk serving 0 (wr 15) = true ∧ doorbellOk serving 0 (wr 16) = false
    ∧ SMap.wf 0 serving.regs = true ∧ serving.get (Reg.QUE_CFG_INT_EN 0) ≠ 0 ∧ serving.get (Reg.QUE_CFG_AGG_TIME 0) ≠ 0
    ∧ SMap.get 0 ({ serving with unsig := [(0, 1)] }).unsig 0 ≠ 0 := by decide

def turning : State :=
  { put serving [(Reg.QUE_CFG_ENABLE 1, 1), (Reg.QUE_CFG_SQ_LOG 1, 4), (Reg.QUE_CFG_CQ_LOG 1, 4), (Reg.QUE_STATE_SQ_TAIL 1, 2)] with
    visits := [(0, (0, 4))] }

theorem test_command_acceptance : canAccept serving 0 = true ∧ blockQueue serving .h0 = some 0 ∧ canAccept turning 0 = true
    ∧ queueOf serving .h0 0 = true ∧ SMap.get (65535, 4) turning.visits 0 = (0, 4) ∧ blockQueue turning .h0 = some 1
    ∧ (enabledQueues turning).find? (fun k => queueOf turning .h0 k && canAccept turning k && 0 < k) = some 1
    ∧ SMap.get (65535, 4) ({ serving with visits := [(0, (0, 3))] }).visits 0 = (0, 3) ∧ (rawOf 0 [(8, 0), (48, 0)]).length = 64
    ∧ fetchCode (rawOf 0 [(8, 0), (48, 0)]) = 0 ∧ fetchCode (rawOf 0x40 [(8, 0), (48, 0)]) = 0x0810 := by decide

def abortOf (cid : Nat) : State := (ordered serving 0x20 (rawOf 0x20 [(2, 0), (2, 0), (4, cid)])).setCmd 0 0 { cmd0 0x00 (rawOf 0 []) with phase := .running }

theorem test_host_commands :
    ([0x00, 0x01, 0x02, 0x03, 0x12].all fun op => [0, 1].all fun o =>
      mayStart (put (ordered run op (rawOf op [])) [(Reg.HLT_STATUS_OCHRE, o)]) 0 1 op
        && ochre (put (ordered run op (rawOf op [])) [(Reg.HLT_STATUS_OCHRE, o)]) == (o == 1)) = true
    ∧ handleInUse (ordered run 0x12 (rawOf 0x12 [(8, 63)])) 0 63 = false
    ∧ ([9, 8].all fun cid => ((abortOf cid).cmd 0 1).phase == .accepted && ((abortOf cid).cmd 0 1).op == 0x20 && (abortOf cid).get (Reg.QUE_BLOCK_ASSIGNED 0) != 0
      && queuePart (abortOf cid) 0 == 0 && fieldOf ((abortOf cid).cmd 0 1).raw 8 2 == 0
      && abortTarget (abortOf cid) 0 0 (fieldOf ((abortOf cid).cmd 0 1).raw 12 4) == (if cid = 9 then some 0 else none)) = true
    ∧ ([false, true].all fun b => let s := if b then { put (abortOf 8) [(Reg.QUE_STATE_CQ_TAIL 0, 1)] with recent := [(0, [8])] } else abortOf 8
      (abortTarget s 0 0 8).isNone && committedLately s 0 8 == b) = true
    ∧ ((abortOf 9).cmd 0 0).op ≠ 0x20 ∧ ((abortOf 9).cmd 0 0).phase ≠ .aborted ∧ failedWith ((abortOf 9).cmd 0 0) = none := by decide

def endWord : List Byte := (encodeTynte .endI always).flatMap (leBytes 8)
def moduleImage : List Byte :=
  padTo 128 (leBytes 4 0x544E5954 ++ leBytes 2 0x0100 ++ leBytes 2 128 ++ leBytes 4 192 ++ leBytes 2 1 ++ leBytes 2 1
    ++ leBytes 8 1 ++ leBytes 4 128 ++ leBytes 4 64)
  ++ padTo 64 (leBytes 4 16 ++ leBytes 4 8 ++ leBytes 8 0 ++ endWord)
def loading (op : Nat) (im : List Byte) : State :=
  ordered (put run [(Reg.SEQ_MODULE_CTRL_ENABLE 0, 1), (Reg.SEQ_MODULE_BASE_BASE 0, 4), (Reg.SEQ_MODULE_CTRL_SIZE 0, 1),
    (Reg.HLT_CTRL_MIN_LIVE, 1)]) op (rawOf op [(8, 0), (8, 0), (8, im.length), (5, 0x10000), (27, 0)])

theorem test_load_module : ∃ s m g, s = loading 0x10 moduleImage ∧ m = measure s 0 (sha384 moduleImage) 0 1 1
    ∧ g = ({ Prog.empty with state := 2, image := moduleImage, area := 192 + 2 * 64 + 65536, recAddr := 0x10000, digest := sha384 moduleImage } : Prog)
    ∧ moduleImage.length = 192 ∧ fieldOf moduleImage 28 4 = 64 ∧ fieldOf (s.cmd 0 1).raw 24 4 = 192 ∧ fieldOf (s.cmd 0 1).raw 32 5 = 0x10000
    ∧ mayStart s 0 1 0x10 = true ∧ loadRefusal s 0 0 192 64 = 0 ∧ (loadCheck m 0 g 192).1 = 0 ∧ (settle m 0 0 g).1 = 0
    ∧ ¬ m.stalls < (completeCmd (settle m 0 0 g).2 0 1 0).stalls :=
  ⟨_, _, _, rfl, rfl, rfl, by decide +kernel⟩

def nativeHead : List Byte :=
  padTo 192 (padTo 128 (leBytes 4 0x494E4F58 ++ leBytes 2 0x0100 ++ leBytes 2 (State.reset.get Reg.ID_REVISION_STEPPING) ++ leBytes 4 17344
    ++ leBytes 2 1 ++ leBytes 1 0 ++ leBytes 1 1 ++ leBytes 16 0 ++ leBytes 4 128 ++ leBytes 4 64 ++ leBytes 16 0 ++ leBytes 4 192
    ++ leBytes 4 17152))
def nativeImage : List Byte := nativeHead ++ blockOf false nativeHead ++ []

theorem test_native_signed : nativeSigned nativeImage ⟨true, true⟩ = true := by
  have hs : nativeSection nativeImage 3 = (192, 17152) := by decide +kernel
  have hl : nativeHead.length = 192 := by decide +kernel
  have hb : (blockOf false nativeHead).length = 17152 := by
    simp only [blockOf, sha384, List.length_append, List.length_replicate, leBytes_length]
  have hd : nativeImage.take 192 ++ nativeImage.drop (192 + 17152) = nativeHead := by
    have hn : nativeImage.length = 192 + 17152 := by simp only [nativeImage, List.length_append, hl, hb, List.length_nil]
    have ht : nativeImage.take 192 = nativeHead := by rw [nativeImage, List.append_assoc]; exact List.take_left' hl
    rw [ht, List.drop_of_length_le (Nat.le_of_eq hn), List.append_nil]
  simp only [nativeSigned, hs, hd, vendorHalves]
  rw [halves_verify nativeImage nativeHead 192 true _ _ _ _ (by decide +kernel) (block_slices nativeHead nativeHead [] false 192 hl)
    ⟨rfl, rfl⟩]
  rfl

theorem test_load_native : ∃ s m g, s = loading 0x11 nativeImage ∧ m = measure s 0 (sha384 nativeImage) 0 2 1
    ∧ g = ({ Prog.empty with state := 2, isNative := true, image := nativeImage, area := 17344 + 2 * 64 + 65536, digest := sha384 nativeImage } : Prog)
    ∧ nativeImage.length = 17344 ∧ (nativeSection nativeImage 0).2 = 64 ∧ fieldOf (s.cmd 0 1).raw 24 4 = 17344
    ∧ mayStart s 0 1 0x11 = true ∧ loadRefusal s 0 0 17344 64 = 0 ∧ nativeHeaderOk m nativeImage 17344 (ergsOf (placement m 0 g)).length = true
    ∧ m.sec.nativeMin ≤ fieldOf nativeImage 28 4 ∧ descsOk g (partBytes m 0) = true ∧ versionsOk m 0 (partBytes m 0) g = true
    ∧ scacheCode m 0 g = 0 ∧ (settle m 0 0 g).1 = 0 :=
  ⟨_, _, _, rfl, rfl, rfl, by decide +kernel⟩

def launching (ph : CmdPhase) (native marked : Bool) : State :=
  let s := (loading 0x13 moduleImage).setProg 0 0
    { Prog.empty with state := 2, image := if native then nativeImage else moduleImage, recAddr := 0x10000, isNative := native, marked := marked }
  s.setCmd 0 1 { s.cmd 0 1 with phase := ph }

theorem test_launch : mayStart (launching .accepted false false) 0 1 0x13 = true ∧ launchRefusal (launching .accepted false false) 0 1 = 0
    ∧ ([(true, false), (false, true)].all fun x => let s := launching .queued x.1 x.2
      launchTurn s 0 == some 1 && (s.cmd 0 1).phase == .queued && (s.launch 0).isNone && s.get (Reg.HLT_SIROCCO_STATE 0) == 0
        && partState s 0 == 3 && launchRefusal s 0 1 == 0 && (!x.2 || (settle s 0 0 (s.prog 0 0)).1 == 0)
        && (!x.1 || scacheCode s 0 (s.prog 0 0) == 0)
        && (let t := if x.2 then raise (settle s 0 0 (s.prog 0 0)).2 [] { code := 0x0340 } else s;
          let g := t.prog 0 0;
          let v := if x.1 then pinNative t 0 g else t;
          (pinResident v 0 g).1 == 0 && (readFinds v 0 (lineByte (residentLines g)) ⟨[]⟩).2.1 == 0
            && !decide (s.stalls < (beginLaunch (pinResident (readFinds v 0 (lineByte (residentLines g)) ⟨[]⟩).1 0 g).2.2 0 1 g).stalls))) = true := by decide +kernel

theorem test_completion : ((ordered { run with regs := run.regs } 0 (rawOf 0 [])).cmd 0 1).queue < 65536 ∧ SMap.wf 0 (ordered run 0 (rawOf 0 [])).regs = true
    ∧ (ordered run 0 (rawOf 0 [])).get (Reg.QUE_CFG_INT_EN 0) = 0 := by decide

def pend (s : State) (b : Pending) : State := s.setTr 0 { s.tr 0 with pending := [b] }
def atEnd : State := setV live fun c => { c with hold := .stepEnd }
def syncing (b : Pending) (latched : Nat) : State := put (pend live b) [(Reg.SYN_CTRL_USE_SYNC 0, 1), (Reg.SYN_STATUS_LATCHED 0, latched)]

theorem test_step_boundary :
    ((pend live ⟨true, [0], false, false⟩).tr 0).pending.any (fun b => !b.ready) = true
    ∧ (atEnd.tr 0).pending = [] ∧ stepReached atEnd 0 = true
    ∧ (syncing ⟨true, [0], true, true⟩ 0).get (Reg.SYN_CTRL_USE_SYNC 0) ≠ 0
    ∧ ((syncing ⟨true, [0], true, true⟩ 0).tr 0).lateDrop = false
    ∧ (syncing ⟨true, [0], true, true⟩ 0).get (Reg.SYN_STATUS_LATCHED 0) = 0
    ∧ (syncing ⟨true, [0], true, false⟩ 1).get (Reg.SYN_STATUS_LATCHED 0) ≠ 0
    ∧ ((syncing ⟨true, [0], true, false⟩ 1).tr 0).pending = [⟨true, [0], true, false⟩] := by decide

def record0 : StepRec := ⟨3, 9, 0, List.replicate 256 0, [], [], [], [], 0, true, false, 0, 512⟩
def closedStep (s : State) : State := put (s.setTr 0 { s.tr 0 with closed := [record0] }) [(Reg.SYN_REPLAY_CTRL_STEP 0, 3)]
def replaying (s : State) : State := s.setTr 0 { s.tr 0 with replay := some ⟨record0, 5, 0, [], false⟩ }

def windowed : State := put run [(Reg.SYN_WINDOW_EARLIEST 0, 4194304), (Reg.SYN_WINDOW_LATEST 0, 4194304), (Reg.SYN_CTRL_LATE_DROP 0, 1),
  (Reg.SYN_RIPPLE_BASE_BASE 0, 4), (Reg.SYN_RIPPLE_CTRL_SIZE 0, 16), (Reg.SYN_SEED_KEY_KEY 0, 1)]

theorem test_training_writes :
    (lets windowed 0x80300 (wr 1) fun u x => x.val 0 == some 1 && windowOk (storeBut u x [0]) x.part) = true
    ∧ (lets run 0x80310 (wr 0xFFFFFFFF) fun u x => (u.launch x.part).isNone && (u.tr x.part).replay.isNone) = true
    ∧ (lets live 0x80310 (wr 1) fun u x => (u.launch x.part).isSome) = true
    ∧ ([(run, 0x20000, false), (run, 0x30000, false), (live, 0x20000, true)].all fun (y : State × Nat × Bool) =>
      lets y.1 0x80328 (wr y.2.1) fun u x => x.val 17 == some 1 && launchBusy (storeBut u x [16, 17]) x.part == y.2.2) = true
    ∧ (lets run 0x80328 (wr 0x10000) fun _ x => x.val 16 == some 1 && x.val 17 == some 0) = true
    ∧ (lets run 0x80330 (wr (2 ^ 64 - 1)) fun _ x => (x.val 0).isSome) = true
    ∧ (lets windowed 0x80340 (wr 0x100001) fun u x => x.val 0 == some 1 && allWritten (storeBut u x [0])
      [Reg.SYN_RIPPLE_BASE_BASE x.part, Reg.SYN_RIPPLE_CTRL_SIZE x.part, Reg.SYN_SEED_KEY_KEY x.part]) = true
    ∧ (lets run 0x80348 (wr 1) fun _ x => x.val 0 == some 1 && x.val 1 == some 0) = true
    ∧ (lets (replaying run) 0x80348 (wr 2) fun u x => x.val 0 == some 0 && x.val 1 == some 1
      && ((storeAll u x).tr x.part).replay.isSome) = true := by decide

theorem test_replay : ((closedStep run).tr 0).replay = none ∧ (closedStep run).isWritten (Reg.SYN_REPLAY_CTRL_STEP 0) = true
    ∧ launchBusy (closedStep run) 0 = false ∧ openMbs (closedStep run) 0 = []
    ∧ (((closedStep run).tr 0).closed.find? fun r => r.step == (closedStep run).get (Reg.SYN_REPLAY_CTRL_STEP 0) && r.complete) = some record0
    ∧ (pWrite (closedStep run) 0 (scaleAddr (closedStep run) 0 0) record0.scales).isSome = true := by decide +kernel

def bindWaiting : State :=
  let s := setV { live with progs := [(0, { prog with image := image [(desc 0x1000 2 32 4 64 0x2000 0xFFFF).set 7 2] [] })] } fun c =>
    { c with bindWait := some (0, 3), span := some (5, 3) }
  lay (put s [(Reg.SYN_VERSION_CTRL_TIMEOUT 0, 1), (Reg.SYN_VERSION_BASE_BASE 0, 1), (Reg.SYN_VERSION_CTRL_ENTRIES 0, 1)])
    [(page 1, 5, 0x1000), (page 1 + 5, 1, 1), (page 1 + 16, 2, 1)]
def oasAct0 : OasAct := ⟨{ req0 with wt := { tdescOf [] with base := 0x1000 } }, 0, 0, 1, 0, 0, 0, [], 0, none, none⟩
def oasisWaits : State := { bindWaiting with oasActive := some oasAct0 }

theorem test_scales_and_versions :
    scaling.get (Reg.ENG_SCALE_CTRL_ENABLE 0) ≠ 0 ∧ 1 < scaling.get (Reg.ENG_SCALE_CTRL_RECORDS 0) ∧ 5 < scaling.get (Reg.SYN_STEP_STEP 0)
    ∧ scaleField scaling 0 1 24 4 ≤ 5 ∧ scaleUser scaling 0 1 5 = false ∧ (recordFinds scaling 0 1 ⟨[(0, .corrected)]⟩).2.1 = 0
    ∧ ¬ scaling.stalls < (rippleScale (scaleUpdate (recordFinds scaling 0 1 ⟨[(0, .corrected)]⟩).1 0 1 5) 0 1 5).stalls
    ∧ scaleUser (draining scaling 0 0) 0 1 5 = true
    ∧ partOfCore bindWaiting 0 = some 0 ∧ (bindWaiting.vc 0 0).bindWait = some (0, 3) ∧ (bindWaiting.vc 0 0).core = 0
    ∧ bindWaiting.get (Reg.SYN_VERSION_CTRL_TIMEOUT 0) ≠ 0 ∧ bindMissing bindWaiting 0 0 0 = true ∧ oasisWaits.oasActive = some oasAct0 ∧ oasAct0.phase = 1
    ∧ targetRefs oasisWaits oasAct0 ≠ 0 := by decide +kernel

def withQueue (s : State) (q : List EngItem) : State := s.setEng 0 { s.eng 0 with queue := q }
def filling (x : Pass) : State := live.setEng 0 { live.eng 0 with filling := some x }
def passing : State := withQueue (put live [(Reg.ENG_ISSUE_TIMEOUT_LIMIT 0, 1), (presentFld 0 0 0, 1), (presentFld 0 1 0, 1)]) [.pass (pass0 6 false)]

theorem test_engine_passes :
    nextPass passing 0 = some (pass0 6 false, []) ∧ (passing.eng 0).queue = [.pass (pass0 6 false)] ∧ stageGo passing 0 0 0 = true
    ∧ passing.isWritten (Reg.ENG_ISSUE_TIMEOUT_LIMIT 0) = true
    ∧ passContext passing 0 (pass0 6 false) = (0, none, 0, one32) ∧ passCode (pass0 6 false) none = 0
    ∧ freshAll passing 0 [none, none] = true ∧ (passing.eng 0).filling = none ∧ passSlot passing 0 (pass0 6 false) one32 false = 0
    ∧ passPresent passing 0 (pass0 6 false) = true ∧ ((passCores 0 (pass0 6 false)).any fun d => coreWaits passing 0 d (pass0 6 false)) = false
    ∧ ((pass0 6 false).codebook.bind fun o => firstBad passing 0 o 32) = none ∧ (recordReads passing 0 (passReads passing (pass0 6 false)) ⟨[(0, .corrected)]⟩).map (·.2.1) = some 0 ∧ skewOk passing 0 (pass0 6 false) = true ∧ SMap.wf 0 passing.regs = true
    ∧ gangOk (put run [(Reg.SEC_PART_CORES_CORE 0 1, 1), (Reg.SEC_PART_CORES_CORE 0 2, 1), (Reg.SEC_PART_CORES_CORE 0 3, 1)]) 0 = true := by
  decide +kernel

theorem test_pass_complete :
    ((filling (pass0 6 false)).eng 0).filling = some (pass0 6 false)
    ∧ (∀ dk ∈ (passCores 0 (pass0 6 false)).zipIdx, tagFault (filling (pass0 6 false)) (lanesOf 0 (pass0 6 false) dk.2).colCore dk.1 (pass0 6 false) = none)
    ∧ passFault (filling (pass0 2 false)) 0 (pass0 2 false) = some (0, 0, 1, 0, 0) := by decide

def slotFull (s : State) : State :=
  put (lay { s with slots := [(3, ⟨true, one32⟩)] } [(page 12 + 265, 1, 1), (page 12 + 266, 1, 1), (page 12 + 268, 4, one32), (page 12 + 272, 4, one32), (page 12 + 280, 4, 5)]) [(Reg.ENG_STATUS_SLOT_STATE 0 3, 2), (Reg.ENG_ISSUE_TIMEOUT_LIMIT 0, 1)]

theorem test_engine_drains :
    ([0, 2].all fun fmt => let s := withQueue (slotFull scaling) [.drain (drain0 fmt)]
      nextDrain s 0 == some (drain0 fmt, []) && stageGo s 0 0 0 && (recordReads s 0 (if fmt = 0 then (drain0 fmt).outScale.toList.map (scaleAddr s 0) else []) ⟨[(0, .corrected)]⟩).map (·.2.1) == some 0
      && s.isWritten (Reg.ENG_ISSUE_TIMEOUT_LIMIT 0) && decide (fmt ≤ 3) && freshAll s 0 [(drain0 fmt).outScale]
      && scalesCode s 0 (((drain0 fmt).outScale.map fun i => [i]).getD []) == 0 && (SMap.get SlotInfo.empty s.slots 3).fp
      && slotSt s 0 3 == 2 && (s.eng 0).draining.isNone && drainRoom s 0 (drain0 fmt) && quarterTurn s 0 (drain0 fmt)
      && s.get (Reg.ENG_ISSUE_TIMEOUT_LIMIT 0) != 0) = true
    ∧ ((draining run 2 0).eng 0).units < drainUnits 2 ∧ (drain0 2).dest = .local 0
    ∧ drainUnits 2 ≤ ((draining run 2 (drainUnits 2)).eng 0).units ∧ ((draining run 2 0).eng 0).draining = some (drain0 2)
    ∧ waitingItem (withQueue (put live [(Reg.ENG_ISSUE_TIMEOUT_LIMIT 0, 1)]) [.pass (pass0 6 false)]) 0 = some (.pass (pass0 6 false), 0)
    ∧ waitingItem (withQueue (put live [(Reg.ENG_ISSUE_TIMEOUT_LIMIT 0, 1)]) [.drain (drain0 2)]) 0 = some (.drain (drain0 2), 0) ∧ passing.get (Reg.ENG_ISSUE_TIMEOUT_LIMIT 0) ≠ 0 := by decide +kernel

theorem words64_nil (k : Nat) : words64 k [] = [] := by cases k <;> rfl
theorem words64_append (a b : List Byte) (n k : Nat) (h : a.length = 8 * n) (hk : n ≤ k) :
    words64 k (a ++ b) = words64 n a ++ words64 (k - n) b := by
  induction n generalizing a k with
  | zero => simp at h; subst h; simp [words64]
  | succ n ih =>
    obtain ⟨k, rfl⟩ : ∃ j, k = j + 1 := ⟨k - 1, by omega⟩
    match a, h with
    | x :: a, h =>
      simp only [List.cons_append, words64]
      rw [← List.cons_append, List.take_append_of_le_length (by omega), List.drop_append_of_le_length (by omega),
        ih _ _ (by rw [List.length_drop]; omega) (by omega)]
      simp
theorem horner_last (P z m m' L : Nat) (hP : Nat.gcd P 2 = 1) (hm : m < P) (hm' : m' < P) (h : m ≠ m') :
    ((z + m + 2 ^ 64) * 2 % P + L) * 2 % P ≠ ((z + m' + 2 ^ 64) * 2 % P + L) * 2 % P := by
  intro e
  have e1 : ((z + m + 2 ^ 64) * 2 % P + L) ≡ ((z + m' + 2 ^ 64) * 2 % P + L) [MOD P] := Nat.ModEq.cancel_right_of_coprime hP e
  have e2 : (z + m + 2 ^ 64) * 2 ≡ (z + m' + 2 ^ 64) * 2 [MOD P] :=
    ((Nat.mod_modEq _ _).symm.trans (Nat.ModEq.add_right_cancel' L e1)).trans (Nat.mod_modEq _ _)
  have e3 : m ≡ m' [MOD P] :=
    Nat.ModEq.add_left_cancel' z (Nat.ModEq.add_right_cancel' (2 ^ 64) (Nat.ModEq.cancel_right_of_coprime hP e2))
  exact h (by rw [← Nat.mod_eq_of_lt hm, ← Nat.mod_eq_of_lt hm']; exact e3)
theorem leNat_last (l : List Byte) (x y : Byte) (h : x ≠ y) : leNat (l ++ [x]) ≠ leNat (l ++ [y]) := by
  induction l with
  | nil => simpa [leNat] using fun q => h (BitVec.eq_of_toNat_eq q)
  | cons a l ih => simp only [List.cons_append, leNat]; omega
theorem leNat_lt (l : List Byte) : leNat l < 256 ^ l.length := by
  induction l with
  | nil => simp [leNat]
  | cons a l ih => have := a.isLt; simp only [leNat, List.length_cons, Nat.pow_succ]; omega
/-- Bytes that differ in the last byte alone have different digests under key 0. -/
theorem xd128_last (pre l : List Byte) (n : Nat) (hp : pre.length = 8 * n) (hl : l.length = 7) (x y : Byte) (h : x ≠ y) :
    xd128 0 (pre ++ (l ++ [x])) ≠ xd128 0 (pre ++ (l ++ [y])) := by
  have w : ∀ l : List Byte, l.length = 8 → words64 (8 * n + 8) (pre ++ l) = words64 n pre ++ [leNat l] := by
    intro l hl
    match l, hl with
    | z :: l, hl =>
      rw [words64_append _ _ n _ hp (by omega), show 8 * n + 8 - n = 7 * n + 6 + 2 by omega]
      simp only [words64]
      rw [List.take_of_length_le (by omega), List.drop_of_length_le (by omega), words64_nil]
  have b : ∀ z : Byte, leNat (l ++ [z]) < xdPrime := fun z =>
    Nat.lt_of_lt_of_le (leNat_lt (l ++ [z])) (by rw [List.length_append, hl, List.length_singleton]; decide)
  have r : (if 0 % xdPrime < 2 then 2 else 0 % xdPrime) = 2 := by simp
  have k : ∀ z : Byte, (pre ++ (l ++ [z])).length = 8 * n + 8 := fun z => by simp [hp, hl]
  have v : ∀ z : Byte, xd128 0 (pre ++ (l ++ [z])) =
      (((words64 n pre).foldl (fun h m => (h + m + 2 ^ 64) * 2 % xdPrime) 0 + leNat (l ++ [z]) + 2 ^ 64) * 2 % xdPrime + (8 * n + 8))
        * 2 % xdPrime := fun z => by
    unfold xd128
    simp only [r, k]
    rw [w _ (by simp [hl]), List.foldl_append, List.foldl_cons, List.foldl_nil]
  rw [v, v]
  exact horner_last _ _ _ _ _ (by decide) (b x) (b y) (leNat_last l x y h)
theorem unitData_length (s : State) (c : Nat) (x : Drain) (e : EngCtx) (n : Nat) :
    (unitData s c x e n).2.2.length = drainSize x.format * (unitRows x.format * 256) := by
  have a : ∀ (k : Nat) (l : List (Nat × Nat × Bool × Bool)), (l.flatMap fun y => leBytes k y.1).length = k * l.length := by
    intro k l
    induction l with
    | nil => rfl
    | cons y l ih => rw [List.flatMap_cons, List.length_append, ih, leBytes_length, List.length_cons, Nat.mul_add, Nat.mul_one, Nat.add_comm]
  have b : ∀ (f : Nat → List (Nat × Nat × Bool × Bool)) (l : List Nat), (∀ r, (f r).length = 256) → (l.map f).flatten.length = l.length * 256 := by
    intro f l h
    induction l with
    | nil => rfl
    | cons y l ih => rw [List.map_cons, List.flatten_cons, List.length_append, ih, h, List.length_cons]; omega
  unfold unitData
  rw [a, b _ _ fun r => by rw [drainRow, List.length_map, List.length_range], List.length_map, List.length_range]
theorem digest_differs (bs : List Byte) (n : Nat) (y : Byte) (hb : bs.length = 8 * n + 8) (hy : bs[8 * n + 7]? ≠ some y) :
    xd128 0 bs ≠ xd128 0 (bs.set (8 * n + 7) y) := by
  have hx : 8 * n + 7 < bs.length := by omega
  have e : bs = bs.take (8 * n) ++ ((bs.drop (8 * n)).take 7 ++ [bs[8 * n + 7]]) := by
    refine List.ext_getElem (by simp; omega) fun i h h' => ?_
    simp only [List.getElem_append, List.length_take, List.length_drop, List.getElem_take, List.getElem_drop]
    split
    · rfl
    · split
      · congr 1; omega
      · simp only [List.getElem_singleton]; congr 1; omega
  have hp : (bs.take (8 * n)).length = 8 * n := by rw [List.length_take]; omega
  have hq : ((bs.drop (8 * n)).take 7).length = 7 := by rw [List.length_take, List.length_drop]; omega
  have f : bs.set (8 * n + 7) y = bs.take (8 * n) ++ ((bs.drop (8 * n)).take 7 ++ [y]) := by
    conv_lhs => rw [e]
    rw [List.set_append_right _ _ (by omega), hp, List.set_append_right _ _ (by omega), hq,
      show 8 * n + 7 - 8 * n - 7 = 0 by omega]
    rfl
  rw [f]
  conv_lhs => rw [e]
  exact xd128_last _ _ n hp hq _ _ fun q => hy (by rw [List.getElem?_eq_getElem hx, q])
/-- A tile whose shadow differs in its last byte is not let go in a launch with pair key 0. -/
theorem pairTile_differs (s : State) (p v c sh n : Nat) (l : Launch) (bs : List Byte) (y : Byte) (hb : bs.length = 8 * n + 8)
    (hs : SMap.get 0 s.shadows c = sh + 1) (hl : s.launch p = some l) (hk : l.pairKey = 0)
    (hd : SMap.get none s.skewed c = some (8 * n + 7, y)) (hy : bs[8 * n + 7]? ≠ some y) : (pairTile s p v c bs).2 = false := by
  have d : xd128 0 bs ≠ xd128 0 (bs.set (8 * n + 7) y) := digest_differs bs n y hb hy
  have k : ∀ (u : State) (b : Bool), ¬ xd128 l.pairKey bs = xd128 l.pairKey (bs.set (8 * n + 7) y) := by rw [hk]; exact fun _ _ => d
  unfold pairTile
  rw [hs, hl]
  dsimp -zeta only
  extract_lets n1 s1
  rw [show SMap.get none s1.skewed c = some (8 * n + 7, y) from hd]
  dsimp -zeta only
  extract_lets s2
  exact congrArg Prod.snd (if_neg (k s true))
/-- The bytes of a tile of drain 0 in fp32. -/
def tile0 (s : State) : List Byte := (List.range (drainUnits 2)).flatMap fun n => (unitData s 0 (drain0 2) (s.eng 0) n).2.2
theorem tile0_length (s : State) : (tile0 s).length = 8 * 32767 + 8 := by
  have a : ∀ (f : Nat → List Byte) (l : List Nat), (∀ r, (f r).length = 4096) → (l.flatMap f).length = l.length * 4096 := by
    intro f l h
    induction l with
    | nil => rfl
    | cons y l ih => rw [List.flatMap_cons, List.length_append, ih, h, List.length_cons]; omega
  unfold tile0
  rw [a _ _ fun r => by rw [unitData_length]; rfl, List.length_range]
  rfl
def twinned (y : Byte) : State :=
  let s := draining live 2 (drainUnits 2)
  ({ s with shadows := [(0, 2)], skewed := [(0, some (8 * 32767 + 7, y))] }).setLaunch 0 (some { launch0 with paired := true, pairKey := 0 })

theorem test_paired_tile_differs : ∃ y, (pairTile (twinned y) 0 0 0 (tile0 (twinned y))).2 = false := by
  have e : ∀ y z, tile0 (twinned y) = tile0 (twinned z) := fun _ _ => rfl
  refine ⟨if (tile0 (twinned 0))[8 * 32767 + 7]? = some 0 then 1 else 0, ?_⟩
  refine pairTile_differs _ 0 0 0 1 32767 _ _ _ (tile0_length _) rfl rfl rfl rfl ?_
  rw [e _ 0]
  split <;> simp_all

theorem test_drain_completes :
    (let s := draining live 2 0;
      match writeUnit s 0 (drain0 2) 0 (drainSize 2) ((List.range (unitRows 2)).map (0 + ·)) ((List.range (unitRows 2)).map
          (drainRow s 0 (drain0 2) false (s.eng 0).conv)) (((List.range (unitRows 2)).map
          (drainRow s 0 (drain0 2) false (s.eng 0).conv)).flatten.flatMap fun y => leBytes (drainSize 2) y.1) with
      | some v => !unitsHeld s 0 (drain0 2) && v.stalls == s.stalls
      | none => false) = true
    ∧ (let s := draining live 2 (drainUnits 2);
      (pairTile s 0 0 0 (tile0 s)).2 && (releaseUnits (pairTile s 0 0 0 (tile0 s)).1 0 (drain0 2) (s.eng 0)).2.isNone
        && (releaseUnits (pairTile s 0 0 0 (tile0 s)).1 0 (drain0 2) (s.eng 0)).1.stalls == 0) = true := by decide +kernel

def job0 (src : Nat) : VJob := ⟨0, 0, 0, .vop ⟨false, false, false, 2, 2, 0, 0, 2047, 2047, src, 0, 0xFFF, 1⟩, false⟩
def vecWith (f : VecCtx → VecCtx) : State := let s := put live [(Reg.ENG_ISSUE_TIMEOUT_LIMIT 0, 1), (presentFld 0 2 8, 1), (presentFld 0 2 9, 1)]; s.setVu 0 (f (s.vu 0))
def gsJob : VJob := ⟨0, 0, 0, .gather ⟨0, 0, 1⟩, false⟩
def feed0 (left : Nat) : Feed := ⟨0, 0, 0, 0, 0, left⟩

theorem test_vector_units :
    ([job0 8, job0 2047].all fun j => let s := vecWith (fun e => { e with queue := [j] });
      nextJob s 0 false == some (j, []) && jobQueue (s.vu 0) false == [j] && (s.vu 0).run.isNone && s.isWritten (Reg.ENG_ISSUE_TIMEOUT_LIMIT 0)
      && (jobCode s 0 0 j.inst == 0) == (j == job0 8) && (j != job0 8 || jobReady s 0 j) && jobFresh s 0 j.inst
      && (j != job0 2047 || jobCode s 0 0 j.inst != 0) && s.get (Reg.ENG_ISSUE_TIMEOUT_LIMIT 0) != 0) = true
    ∧ waitingJob (vecWith fun e => { e with queue := [job0 100] }) 0 false = some (job0 100)
    ∧ (let s := vecWith fun e => { e with gsQueue := [gsJob] }
      nextJob s 0 true = some (gsJob, []) ∧ (s.vu 0).gsRun = none ∧ jobCode s 0 0 gsJob.inst = 0 ∧ jobReady s 0 gsJob = true
        ∧ jobFresh s 0 gsJob.inst = true)
    ∧ (let s := vecWith fun e => { e with run := some (job0 8), gsRun := some gsJob };
      (completionFinds s 0 (job0 8) .ok).2 = false ∧ (vecOut (completionFinds s 0 (job0 8) .ok).1 0 (job0 8) (0, 0, 0, 0)).code = 0
        ∧ (completionFinds s 0 gsJob ⟨[(0, .corrected)]⟩).2 = false ∧ (s.vu 0).run = some (job0 8) ∧ (s.vu 0).gsRun = some gsJob
        ∧ (match jobTile (completionFinds s 0 (job0 8) .ok).1 0 (job0 8) with
          | some bs => (pairTile (completionFinds s 0 (job0 8) .ok).1 0 0 0 bs).2
          | none => true) = true
        ∧ ¬ s.stalls < (gsRunOn (completionFinds s 0 gsJob ⟨[(0, .corrected)]⟩).1 0 gsJob).stalls)
    ∧ ((recordReads (vecWith fun e => e) 0 (jobReads (vecWith fun e => e) 0 0 (job0 8).inst) .ok).map (·.2.1) = some 0)
    ∧ ([4, 4099].all fun left => let s := vecWith fun e => { e with feeds := [feed0 left], fifo := List.replicate 4093 0 }
      let n := min left (4096 - (s.vu 0).fifo.length)
      match boundDesc s 0 0 0 with
      | some t => decide (n < left) && ((List.range n).all fun i => match feedAddr t i with
        | some a => (partRefusal s 0 (offsetsFrom a 4)).isNone && mayTake s (tokenKeys s false 0 ((offsetsFrom a 4).filterMap (xlate s 0)))
            && (readFinds s 0 (among (offsetsFrom a 4)) ⟨[(3, .corrected)]⟩).2.1 == 0
        | none => false)
      | none => false) = true
    ∧ min 3 (4096 - ((vecWith fun e => { e with fifo := List.replicate 4093 0 }).vu 0).fifo.length) = 3 := by decide +kernel

def carProg : Prog := { Prog.empty with
  state := 2,
  image := padTo 48 [] ++ padTo 80 (leBytes 4 128) ++ padTo 64 (leBytes 8 1 ++ leBytes 4 64) ++ padTo 64 (leBytes 1 2) ++ padTo 64 []
    ++ padTo 64 (leBytes 24 1 ++ leBytes 4 512) }
def carState (i : CarInst) : State :=
  let s := (({ live with progs := [(0, carProg)] }).setVc 0 0 { vc0 with hold := .caravan 0 }).setVc 0 1 { vc0 with hold := .caravan 0 }
  (put s [(Reg.ENG_ISSUE_TIMEOUT_LIMIT 0, 1)]).setCar 0 0 (some i)
def stages0 (f : StageCtx → StageCtx) : List StageCtx := (freshStages (carState ⟨0, 2, 0, []⟩) 0 carProg ⟨0, 2, 0, []⟩ 0).map f
def inst0 (f : StageCtx → StageCtx) : CarInst := ⟨0, 2, 0, stages0 f⟩
def moving (tag : Nat) : CarInst := inst0 fun x => { x with transit := [⟨tag, [1], some 3, 5⟩], rxTile := if tag = 32770 then 2 else 0 }
def overInst : CarInst := inst0 fun x => { x with done := 2, ended := true }

def desc0 (srcSp dstSp vcore : Nat) (rel : Bool) : Desc :=
  { src := if srcSp = 1 then stgAddr 2 0 else 0x3FF, dst := if dstSp = 1 then stgAddr 2 0 else 0x7FE, len := 3, srcSp := srcSp, dstSp := dstSp,
    prio := 1, chan := 0, lcore := 0, tag := 0, skew := 0, record := false, cq := 0, cookie := 0, seq := 7, part := 0,
    firmware := false, bad := false, fill := .plain, shift := 0, rel := rel, vcore := vcore, iid := 0 }
def xfer0 (d : Desc) (granted landed : Nat) (flight : List Flight) : Xfer := ⟨d, granted, landed, landed, flight, false, 0⟩
def onChannel (x : Xfer) (st : Nat) : State := (put live [(Reg.DMA_CH_STATUS_STATE 0 5, st)]).setChan 0 5 ⟨some x, none⟩

theorem test_caravan_instances :
    (carState ⟨0, 2, 0, []⟩).car 0 0 = some ⟨0, 2, 0, []⟩
    ∧ (∀ v ∈ participants carProg 0, ((carState ⟨0, 2, 0, []⟩).vc 0 v).hold = .caravan 0 ∧ ((carState ⟨0, 2, 0, []⟩).vc 0 v).quiet = true)
    ∧ (carState ⟨0, 2, 0, []⟩).isWritten (Reg.ENG_ISSUE_TIMEOUT_LIMIT 0) = true ∧ (stages0 id).length = 2
    ∧ (carState ⟨0, 2, 0, []⟩).get (Reg.CAR_STATUS_ACTIVE 0) = 0 ∧ ((inst0 id).stage 1).fetching = false
    ∧ ((inst0 id).stage 1).fetched < 2 ∧ ((inst0 fun x => { x with entered := 3, fetched := 6 }).stage 1).fetched < 7
    ∧ ([30720, 32770].all fun t => ((moving t).stage 1).transit == [⟨t, [1], some 3, 5⟩]
      && expectedTag 2 (stInBytes carProg 0 1) ((moving t).stage 1).rxTile 0 == t
      && !meshOlder (carState (moving t)) 5 ((moving t).stage 0).core ((moving t).stage 1).core) = true
    ∧ (let s := (carState (moving 30720)).setChan 0 6 ⟨some { xfer0 (desc0 0 0 0xFF false) 2 0 [] with
        flight := [⟨2, 3, ((moving 30720).stage 0).core, ((moving 30720).stage 1).core⟩] }, none⟩;
      meshOlder s 5 ((moving 30720).stage 0).core ((moving 30720).stage 1).core = true)
    ∧ carOver (carState overInst) 0 0 overInst = true
    ∧ (ctx (carState (inst0 id)) a0 false fun x => x.car.isSome) = true := by decide +kernel

def banked (b : BankCtx) : State := run.setBank 0 b

theorem test_banks : (banked ⟨0, [], some 5, none, true⟩).bank 0 = ⟨0, [], some 5, none, true⟩
    ∧ 2 % 2 = (⟨0, [], some 5, none, true⟩ : BankCtx).active ∧ 1 % 2 ≠ (⟨0, [], some 5, none, true⟩ : BankCtx).active
    ∧ atBoundary (banked ⟨0, [], none, some 5, false⟩) 0 = true ∧ nextProgram (banked ⟨0, [], none, some 5, false⟩) 0 5 = true
    ∧ atBoundary (banked ⟨0, [], some 5, none, false⟩) 0 = true
    ∧ (let s := (setV live fun c => { c with hold := .barrier }).setBank 0 ⟨0, [0], none, some 5, false⟩;
      atBoundary s 0 = true ∧ nextProgram s 0 5 = false)
    ∧ atBoundary (setV live fun c => { c with opened := [(0, 1)] }) 0 = false
    ∧ (tynteCtx live a0 false).isSome = true ∧ (live.launch 0).isSome = true := by decide

def fetching0 : CarInst := inst0 fun x => { x with fetched := 1, fetching := true }
def fetchLooping (i : Nat) : State := setV (carState fetching0) fun c => { c with fetchLoop := some ⟨[2, 3], [1, i]⟩ }

theorem test_fetch_parts :
    (ctx (carState fetching0) { a0 with fetch := true } true fun x => x.fetch && x.car.isSome && ((carState fetching0).vc x.p x.v).fetchLoop.isNone
      && (fetching0.stage 0).fetching) = true
    ∧ ([1, 2].all fun i => ctx (fetchLooping i) { a0 with fetch := true } true fun x => match ((fetchLooping i).vc x.p x.v).fetchLoop with
      | some l => (nextIter l.counts l.ctrs).isSome == (i == 1)
      | none => false) = true
    ∧ (ctx (carState fetching0) a0 false fun x => x.car.isSome && !x.fetch) = true
    ∧ (ctx (carState fetching0) { a0 with fetch := true } true fun x => let s := carState fetching0
      descFree s x [0xFFF, 0xFFF] && bound s x [0xFFF, 0xFFF, 0xFFF] && (values x [(32, 0), (32, 0), (16, 0), (32, 0)]).isSome
      && (opbPasses (openParts (issued s x) x (opbFills ⟨0, 0xFFF, 0xFFF, false, 3, false, 1, 4, 0, 0, 1, 0, 0⟩ false) 0).1 x
        ⟨0, 0xFFF, 0xFFF, false, 3, false, 1, 4, 0, 0, 1, 0, 0⟩ a0.word ⟨0, 0xFFF, 0xFFF, 0xFFF⟩ none none none 0 0 0 0 0 false
        (fun s y => makePass s x.c y)).isSome) = true
    ∧ (let s := (carState fetching0).setEng 0 { (carState fetching0).eng 0 with made := [pass0 5 false] };
      ((s.eng 0).made.find? fun y => y.part == 0 && y.vcore == 0) = some (pass0 5 false) ∧ (ctx s a0 false fun x => x.car.isSome && !x.fetch) = true) := by
  decide +kernel

/-- A burst of partition 1 could land at the same channel, and its turn comes first. -/
def turned : State :=
  let s := put (onChannel (xfer0 (desc0 0 0 0xFF false) 3 0 [⟨2, 4, 128, 128⟩]) 1) [(Reg.MEM_PART_MAP_PAGES 1, 1), (Reg.MEM_PART_MAP_PM_BASE 1, 16)]
  { s.setChan 0 6 ⟨some (xfer0 { desc0 0 0 0xFF false with part := 1, src := 0x300 } 3 0 [⟨2, 6, 130, 128⟩]), none⟩ with
    frames := (16, .owned 1) :: s.frames
    pageMap := s.pageMap ++ [(16, ⟨16, true⟩)]
    chanServed := [(3, 1)] }

theorem test_transfers :
    (let s := onChannel (xfer0 (desc0 0 0 0xFF false) 0 0 []) 1;
      clocked s = true ∧ granted (burstWaits s 0 true) 0 ((List.range 16).filter fun k => chReady s 0 k true) = some 5
        ∧ ((burstWaits s 0 true).chan 0 5).active = some (xfer0 (desc0 0 0 0xFF false) 0 0 []))
    ∧ ([desc0 0 0 0xFF false, desc0 0 0 0xFE false].all fun d => let x := xfer0 d 3 0 [⟨2, 4, 128, 128⟩, ⟨1, 5, 128, 128⟩]; let s := onChannel x 1;
      let m := (descSources d 0 2).length;
      let r := memFinds (served s x) (fun k => (burstAt (served s x) x 0 m k).map (·.1)) (burstEvent m ⟨[(0, .corrected)]⟩);
      clocked s && !olderFlight s x && !notItsTurn s x && m == 2 && r.2 == (0, 0) && (burstData r.1 0 x 0 2 none).1 == 0
        && (burstData r.1 0 x 0 2 none).2.1 == [] && (burstStore (touchAll r.1 false 0 (burstReads r.1 x 0 2)) 0 x 0 [1, 2]).1 == 0) = true
    ∧ (let x := xfer0 (desc0 0 0 0xFF false) 3 0 [⟨2, 4, 128, 128⟩]; let s := onChannel x 1;
      olderFlight (s.setChan 0 6 ⟨some (xfer0 (desc0 0 0 0xFF false) 2 0 [⟨2, 3, 128, 128⟩]), none⟩) x = true
        ∧ notItsTurn turned x = true ∧ (turned.chan 0 5).active = some x)
    ∧ ([desc0 0 0 0xFF false, desc0 0 1 0 false, desc0 1 0 0 true].all fun d => let s := onChannel (xfer0 d 3 3 []) 1
      chState s 0 5 != 3 && (s.chan 0 5).active == some (xfer0 d 3 3 []) && d.len == 3) = true
    ∧ (let s := put (onChannel (xfer0 (desc0 0 3 0 false) 0 0 []) 2) [(Reg.DMA_CH_PACE_ENABLE 0 5, 1), (Reg.DMA_CH_PACE_LOW 0 5, 1)];
      chState s 0 5 = 2 ∧ s.get (Reg.DMA_CH_PACE_ENABLE 0 5) ≠ 0 ∧ levelOf s 0 5 < s.get (Reg.DMA_CH_PACE_LOW 0 5) * 16) := by
  decide +kernel

def halted : State := put (onChannel (xfer0 (desc0 0 0 0xFF false) 0 0 []) 3) [(Reg.DMA_CH_CTRL_HALTED 0 5, 1)]
def bound0 (fs : List (Fld × Nat)) : State := put run ((Reg.DMA_DQ_BOUND 0 31, 1) :: (Reg.DMA_DQ_PARTITION 0 31, 0) :: fs)

theorem test_dma_stops :
    (lets live (chCtrlOff 0 15) (wr 1) fun u x => x.val 0 == some 1 && u.get (Reg.DMA_CH_CTRL_DISABLE 0 15) == 0) = true
    ∧ (lets halted (chCtrlOff 0 5) (wr 2) fun u x => x.val 0 == some 0 && x.val 1 == some 1 && u.get (Reg.DMA_CH_CTRL_HALTED 0 5) != 0
      && u.get (Reg.DMA_CH_CTRL_DISABLE 0 5) == 0 && (u.chan 0 5).active.isSome) = true
    ∧ ([1, 2].all fun v => lets (bound0 []) (dqOff 0 31) (wr v) fun u x => u.get (Reg.DMA_DQ_BOUND 0 31) != 0
      && portOf u (u.get (Reg.DMA_DQ_PARTITION 0 31)) == .h0 && x.val 0 == some (v % 2) && x.val 1 == some (v / 2)
      && u.get (Reg.DMA_DQ_STOPPED 0 31) == 0) = true
    ∧ (bound0 [(Reg.DMA_DQ_STOPPING 0 31, 1)]).get (Reg.DMA_DQ_STOPPING 0 31) ≠ 0
    ∧ dqLoaded (bound0 [(Reg.DMA_DQ_STOPPING 0 31, 1)]) 0 31 = false
    ∧ dqLoaded (onChannel (xfer0 (desc0 0 0 0xFF false) 0 0 []) 1) 0 0 = true := by decide +kernel

def vt0 : TDesc := tdescOf (desc 0x3000 4 1 32 64 0 0xFFFF)
def req1 : OasReq := { req0 with step := 3, vt := vt0, wt := { vt0 with base := 0x1000 } }
def asked : State := { mastered with oasQueues := [(0, [req1])] }
def acting (phase unused : Nat) : State := { mastered with oasActive := some ⟨req1, 0, 0, phase, 0, 0, 0, [], unused, none, none⟩ }

theorem test_update_pass :
    (asked.oasActive = none ∧ oasNext asked = some 0 ∧ oasQueue asked 0 = [req1] ∧ asked.get Reg.OAS_STATUS_READY ≠ 0 ∧ masterFld asked 0 0 6 1 = 0)
    ∧ (let u := readRecords (setOasQueue { asked with oasTurn := 0 } 0 []) 0 0 0x1000;
      memberCode u 0 = 0 ∧ masterValid u 0 0 = true ∧ codebookOf (nextCb u 0 0) ≠ none ∧ masterFld u 0 0 6 1 ≠ 2 ∧ masterFld u 0 0 8 4 = 3
        ∧ versionOf u 0 0x1000 = some 0 ∧ targetSlot u 0 0 3 = some 2)
    ∧ (versionOf (acting 1 0) 0 0x1000 = some 0 ∧ versionField (acting 1 0) 0 0 16 2 = 0 ∧ (acting 1 0).get (Reg.HLT_MIRAGE_STATUS_RUNNING 0) = 0)
    ∧ (let u := linkCount (beginPass (acting 1 0) ⟨req1, 0, 0, 1, 0, 0, 0, [], 0, none, none⟩ 0) 2 1;
      let x : OasAct := ⟨req1, 0, 0, 2, 0, 0, 0, [], 0, none, none⟩;
      let votes := allVotes u x;
      let v := (readFinds u 0 (voteByte votes) ⟨[(31, .corrected)]⟩).1;
      votes.length = 32 ∧ (partRefusal u 0 votes).isNone = true ∧ (readFinds u 0 (voteByte votes) ⟨[(31, .corrected)]⟩).2.1 = 0
        ∧ (runPass (votes.foldl (fun s o => pTouch s 0 o 2) v) x).stalls = 0)
    ∧ versionField (lay (acting 1 0) [(page 1 + 16, 2, 1)]) 0 0 16 2 ≠ 0
    ∧ ([0, 1].all fun n => ((acting 2 n).oasActive.map fun x => (x.phase, x.unused, (commitPass (acting 2 n) x).stalls)) == some (2, n, 0)) = true
    ∧ (put (acting 2 0) [(Reg.HLT_MIRAGE_STATUS_RUNNING 0, 1)]).get (Reg.HLT_MIRAGE_STATUS_RUNNING 0) ≠ 0 := by decide +kernel

def oasReady : State := put mastered [(Reg.OAS_SLOW_REGION_BASE 0, 255), (Reg.OAS_SLOW_REGION_SIZE 0, 1), (Reg.OAS_CTRL_MFLOOR 0, 1),
  (Reg.OAS_XFER_FOFF 0, 0x400), (Reg.OAS_XFER_SLOT 0, 0), (Reg.OAS_DIGEST_CTRL_KEY_VALID 0, 1)]

theorem test_oasis_transfers :
    ([(0x0001000000011000, true), (0x0001000000010000, false)].all fun (y : Nat × Bool) => lets oasReady (oasOff 0 0x10) (wr y.1) fun u x =>
      x.val 16 == some 1 && oasConfigOk (storeBut u x [16]) x.part == y.2 && allWritten (storeBut u x [16]) [Reg.OAS_SLOW_REGION_BASE x.part,
        Reg.OAS_SLOW_REGION_SIZE x.part, Reg.OAS_MASTER_TABLE_BASE x.part, Reg.OAS_CTRL_MFLOOR x.part, Reg.OAS_CTRL_RECORDS x.part]) = true
    ∧ (lets oasReady (oasOff 0 0x18) (wr 0x10000) fun _ x => x.val 16 == some 1) = true
    ∧ (lets oasReady (oasOff 0 0x38) (wr 1) fun u x => u.get (Reg.HLT_MIRAGE_CTRL_ENABLE x.part) == 0) = true
    ∧ ([0, 1, 2, 3].all fun op => lets oasReady (oasOff 0 0x20) (wr (1 + 2 ^ 16 * op + 2 ^ 30 * 0x400)) fun u x =>
      let v := storeAll u x
      x.val 0 == some 1 && v.get (Reg.OAS_XFER_OP x.part) == op && v.get (Reg.OAS_XFER_RECORD x.part) == 0
      && allWritten v [Reg.OAS_XFER_FOFF x.part, Reg.OAS_XFER_RECORD x.part, Reg.OAS_XFER_OP x.part]
      && v.get (Reg.OAS_CTRL_ENABLE x.part) != 0 && v.isWritten (Reg.OAS_XFER_SLOT x.part) && !restricted u && !restricted v && (xferOf v x.part).isNone
      && v.get (Reg.HLT_MIRAGE_STATUS_RUNNING x.part) == 0 && v.get Reg.OAS_STATUS_READY != 0 && masterValid v x.part 0
      && masterFld v x.part 0 6 1 != 1 && allWritten v [Reg.OAS_MASTER_TABLE_BASE x.part, Reg.OAS_CTRL_RECORDS x.part] && (oasQueue v x.part).isEmpty && v.oasActive.isNone && (codebookOf (nextCb v x.part 0)).isSome
      && (versionOf v x.part (masterFld v x.part 0 0 5)).isSome && v.get (Reg.OAS_DIGEST_CTRL_KEY_VALID x.part) != 0) = true := by
  decide +kernel

/-- Its codebook lies at 0x2000, and program 0 has the versioned tensor. -/
def vprog : Prog := { prog with image := image [leBytes 5 0x1000 ++ [2, 2, 2] ++ (desc 0 0 2 1 64 0x2000 0xFFFF).drop 8] [] }
def transferring (op : Nat) : State := { oasReady with progs := [(0, vprog)], oasXfers := [(0, some ⟨0, op, 0x10000, 0, 0⟩)] }

theorem test_transfer_complete :
    ([0, 1, 2, 3].all fun op => let s := transferring op;
      let u := linkCount s 1 1;
      let n := masterBytes s 0 0;
      let t : OasXfer := ⟨0, op, 0x10000, 0, 0⟩;
      let r := readFinds u 0 (span 0x10000 n) ⟨[(5, .corrected)]⟩;
      xferOf s 0 == some t && (partRefusal u 0 ((List.range n).map (0x10000 + ·))).isNone && r.2.1 == 0
        && (match op with
          | 1 => (xferRead u 0 t 0 []).stalls == 0
          | 2 => (xferEnd (setMaster (setMaster u 0 0 96 16 (xd128 0 (rdDev u (mbufAddr u 0 0 (masterFld u 0 0 7 1 % 2)) n))) 0 0 112 4
              (masterFld u 0 0 8 4)) 0 t 0 0).stalls == 0
          | _ => (xferInit (pTouch r.1 0 0x10000 n) 0 t 0 ((pRead r.1 0 0x10000 n).getD [])).stalls == 0)) = true
    ∧ clocked State.reset = true
    ∧ bitsOf (State.reset.get (Reg.OAS_LINK_STATUS_MOD 3)) 1 1 ≠ 1
    ∧ bitsOf ((put run [(Reg.OAS_LINK_STATUS_MOD 3, 2)]).get (Reg.OAS_LINK_STATUS_MOD 3)) 1 1 = 1 := by decide +kernel

def noFrames : State := put run [(Reg.MEM_CAPACITY_FREE_FRAMES, 98000)]

theorem test_interleave_and_map_out :
    (lets run 0x2000 (wr 1) fun u x => !x.vals.isEmpty && u.get Reg.MEM_CAPACITY_FREE_FRAMES == u.get Reg.MEM_CAPACITY_BACKED_FRAMES) = true
    ∧ (lets noFrames 0x2000 (wr 1) fun u x => !x.vals.isEmpty && u.get Reg.MEM_CAPACITY_FREE_FRAMES != u.get Reg.MEM_CAPACITY_BACKED_FRAMES) = true
    ∧ ([0, 1].all fun o => lets (put run [(Reg.MEM_MAPPED_OUT_OUT 255, o)]) 0x2010 (wr 0x100FF) fun u x => let v := storeAll u x
      x.val 16 == some 1 && v.mapout.isNone && v.isWritten Reg.MEM_MAPOUT_CHANNEL && v.get Reg.MEM_INTERLEAVE_VALID != 0
      && v.get Reg.MEM_MAPOUT_CHANNEL == 255 && v.get (Reg.MEM_MAPPED_OUT_OUT 255) == o) = true
    ∧ ({ run with mapout := some (255, true, true) } : State).mapout = some (255, true, true)
    ∧ setAny { run with mapout := some (255, true, true) } 255 (fun x => match x with
      | .zeroizing _ => true
      | _ => false) = false
    ∧ (lets run 0x2018 (wr (2 ^ 32)) fun u x => x.val 32 == some 1 && u.get Reg.MEM_INTERLEAVE_VALID != 0) = true := by decide +kernel

theorem test_frame_zeroization : ∃ s, s = ({ run with frames := run.frames ++ [(98303, .zeroizing noPart)] } : State)
    ∧ frameState s 98303 = some (.zeroizing noPart) ∧ s.mapout = none ∧ clocked s = true ∧ s.pwr.removing = false ∧ SMap.wf s.frameBase s.frames = true :=
  ⟨_, rfl, by decide +kernel⟩

/-- The 24 ways of set 0 of slice 0, line 0 the one used longest ago. -/
def cached (dirty : Bool) (enable tokens : Nat) : State :=
  { put run [(Reg.MEM_REG_ENABLE 0 0, enable), (Reg.MEM_REG_RATE 0 0, 2)] with
    cache := (List.range 24).map fun k => (16384 * k, ⟨true, dirty, List.replicate 64 0, [], 5 + k⟩), tokens := [(0, tokens)] }
def oneWay : State := { run with cache := [(0, ⟨true, false, [], [], 5⟩)] }

theorem test_buckets_and_cache :
    (lets run (memRegOff 0 7) (wr (2 ^ 48 + 5)) fun u x => x.val 48 == some 1
      && allWritten (storeBut u x [48]) [Reg.MEM_REG_RATE 0 7, Reg.MEM_REG_BURST 0 7] && (storeBut u x [48]).get (Reg.MEM_REG_ENABLE 0 7) == 0) = true
    ∧ (lets run (memRegOff 0 7) { wr 5 with size := .low } fun _ x => x.val 48 == none) = true
    ∧ (lets run 0x80148 (wr 1) fun _ _ => true) = true ∧ SMap.wf 0 (cached true 1 3).tokens = true
    ∧ (clocked oneWay = true ∧ lruOf oneWay 0 0 = some 0 ∧ waysUsed oneWay 0 < 24)
    ∧ (lruOf (cached false 0 1) 0 0 = some 0 ∧ 24 ≤ waysUsed (cached false 0 1) 0 ∧ (SMap.get CLine.empty (cached false 0 1).cache 0).dirty = false)
    ∧ ([(1, 1), (1, 0), (0, 1)].all fun (y : Nat × Nat) => let s := cached true y.1 y.2
      clocked s && lruOf s 0 0 == some 0 && decide (24 ≤ waysUsed s 0) && (SMap.get CLine.empty s.cache 0).dirty && ownerOf s 0 == some 0
        && mayTake s (bucketKey s 0) == (y != (1, 0))) = true := by decide +kernel

theorem test_fast_tier_accesses :
    ([0, 5].all fun tok => let s := { put run [(Reg.MEM_REG_ENABLE 0 0, 1), (Reg.MEM_REG_BURST 0 0, 4)] with tokens := [(0, tok)] }
      match placeOf s (.part 0) (16 * frameBytes - 8) 8 with
      | .at (a :: as) => clocked s && mayTake s (tokenKeys s false 0 (a :: as)) == (tok != 0) && a < fastEnd
        && mayTake s (tokenKeys s true 0 (a :: as)) == (tok != 0)
        && (memFinds (takeKeys s (tokenKeys s false 0 (a :: as))) (among (a :: as)) ⟨[(0, .corrected)]⟩).2 == (0, 0)
        && (memFinds (takeKeys s (tokenKeys s true 0 (a :: as))) (among (a :: as)) (writeEvent ⟨[(0, .retried 8), (0, .uncorrectable)]⟩)).2 == (0, 0)
      | _ => false) = true
    ∧ 0x1038 % atomicSize true .add = 0 ∧ 0x1038 % 64 + atomicSize true .add * [1].length ≤ 64
    ∧ placeOf run .firmware (2 ^ 45) 8 = .nowhere
    ∧ (match placeOf run (.part 0) (16 * frameBytes) 8 with
      | .refused code _ => code == 0x0710
      | _ => false) = true := by decide +kernel

theorem test_partition_writes : (pWrite run 0 (16 * frameBytes - 2) [1, 2]).isSome = true ∧ Memory.wf run.mem = true
    ∧ xlate run 0 (16 * frameBytes - 2) ≠ xlate run 0 (16 * frameBytes - 1) := by decide +kernel

theorem test_health_commands :
    ([0, 2].all fun st => lets (put run [(Reg.HLT_CORE_STATE_STATE 0, st)]) 0x3030 (wr 0x100) fun u x => let v := storeAll u x
      x.val 8 == some 1 && v.isWritten Reg.HLT_FENCE_CORE && v.get Reg.HLT_FENCE_CORE == 0 && (coreState v 0 == 2) == (st == 2)
      && partOfCore v 0 == some 0 && portOf v 0 == x.w.port) = true
    ∧ (lets run 0x3000 (wr 128) fun u x => x.val 0 == some 128 && u.get Reg.HLT_STATUS_LIVE_COUNT == 128) = true
    ∧ (lets (put run [(Reg.HLT_STATUS_LIVE_COUNT, 127)]) 0x3000 (wr 128) fun u x => x.val 0 == some 128 && decide (u.get Reg.HLT_STATUS_LIVE_COUNT < 128)) = true
    ∧ (lets (put run [(Reg.HLT_DUMP_ADDR_ADDR, 1)]) 0x3048 (wr 1) fun u x => x.val 0 == some 1 && u.isWritten Reg.HLT_DUMP_ADDR_ADDR && u.dump.isNone) = true
    ∧ ({ run with dump := some .h1 } : State).dump = some .h1
    ∧ ([4, 16].all fun n => lets (put run [(Reg.HLT_ERR_RING_ADDR 0, 1)]) 0x804A8 (wr (1 + 2 ^ 16 * n)) fun u x => let v := storeBut u x [0]
      x.val 0 == some 1 && allWritten v [Reg.HLT_ERR_CTRL_VECTOR x.part, Reg.HLT_ERR_CTRL_LOG x.part, Reg.HLT_ERR_RING_ADDR x.part]
      && v.get (Reg.HLT_ERR_CTRL_LOG x.part) == n && v.get (Reg.HLT_ERR_CTRL_ENABLE x.part) == 0) = true := by decide +kernel

def sir0 (rerun : Bool) : SirCtx := ⟨[0, 1, 2], [[0, 1, 2]], [(0, some (1, 1)), (1, some (1, 1)), (2, if rerun then some (2, 2) else some (1, 1))], [0, 1, 2], rerun⟩
def testing (rerun : Bool) : State := { run with sirocco := [(0, some (sir0 rerun))] }

theorem test_sirocco :
    ([run, live].all fun s => [1, 2 ^ 48 + 1].all fun v => lets (put s [(Reg.SYN_SEED_KEY_KEY 0, 9)]) 0x80400 (wr v) fun u x =>
      x.val 0 == some 1 && (storeAll u x).get (Reg.HLT_SIROCCO_STATE x.part) == 0 && u.isWritten (Reg.SYN_SEED_KEY_KEY x.part)) = true
    ∧ ((put run [(Reg.HLT_SIROCCO_STATE 0, 1)]).get (Reg.HLT_SIROCCO_STATE 0) = 1 ∧ run.launch 0 = none ∧ aclocksStand run = false)
    ∧ (SMap.get none (testing false).sirocco 0 = some (sir0 false) ∧ ochre (testing false) = false
      ∧ ∀ g ∈ judged (testing false) { sir0 false with digests := SMap.setAll none [] (sir0 false).digests }, ∀ e ∈ g, e.2 = some (1, 1))
    ∧ (majorityCores (judged (testing true) (sir0 true))).take 2 = [0, 1]
    ∧ SMap.get none (SMap.setAll none [] [(0, some (1, 1)), (1, some (2, 2))]) 1 = some (2, 2)
    ∧ ([0, 1].all fun v => lets run 0x80408 (wr v) fun u x =>
      ((storeAll u x).get (Reg.HLT_PAIR_CTRL_ENABLE x.part) == u.get (Reg.HLT_PAIR_CTRL_ENABLE x.part)) == (v == 0)) = true := by decide +kernel

def mirage : State := put (linked mastered) [(Reg.HLT_MIRAGE_CTRL_ENABLE 0, 1), (Reg.HLT_MIRAGE_CTRL_EVERY 0, 3), (Reg.HLT_MIRAGE_CTRL_GROUP 0, 0)]
def member : State := lay mirage [(page 10 + 8, 4, 1)]
def checkColl0 (op me : Nat) (sent : Nat) : Coll :=
  { part := 0, group := 0, inst := 5, nth := 0, tag := 0x11, core := 0xFF, vcore := 0, seq := 2 ^ 32 - 1, iid := 0, op := op, units := 1, fmt := 0,
    src := 0, dst := 0, sig := none, members := [(0, 0), (0, 1)], me := me, relay := false, mcast := 2, frq := none, avail := 64, arrivals := [],
    rx := [0, 1, 65536, 65537].map fun k => (k, ⟨0, 0, [(0, 1)]⟩), tx := [0, 1, 65536].map fun k => (k, ⟨0, 0, sent⟩), detached := [],
    reduced := true, counted := true, quiet := false, ctl := some (padTo 64 []) }
def checking (s : State) (op me stage sent : Nat) : State :=
  { s.setMir 0 { s.mir 0 with m := 3, stage := stage } with colls := [checkColl0 op me sent] }

theorem test_mirage :
    ([(mirage, true), (member, false)].all fun (y : State × Bool) => let s := y.1;
      s.get (Reg.HLT_MIRAGE_CTRL_ENABLE 0) != 0 && s.get (Reg.HLT_MIRAGE_STATUS_RUNNING 0) == 0 && s.get (Reg.HLT_MIRAGE_STATUS_EXPELLED 0) == 0
      && !ochre s && validRecords s 0 == [0] && masterFld s 0 0 6 1 == 0 && masterFld s 0 0 8 4 == 3 && s.oasActive.isNone
      && 3 % s.get (Reg.HLT_MIRAGE_CTRL_EVERY 0) == 0 && (s.mir 0).lastTried != some 3 && isLeader s 0 == y.2 && s.get (Reg.HLT_MIRAGE_CTRL_INLINE 0) == 0
      && (let m := { s.mir 0 with m := 3, key := (if y.2 then (drawKey s 0).1 else (s.mir 0).next), next := 0, stage := 1 }
        exchangeCode (((if y.2 then (drawKey s 0).2 else s).setMir 0 m).put (Reg.HLT_MIRAGE_STATUS_RUNNING 0) 1) 0 == 0)) = true
    ∧ ([(mirage, 0, 1), (mirage, 0, 2), (member, 1, 1), (member, 1, 2)].all fun (y : State × Nat × Nat) => [0, 1].all fun sent =>
      let s := checking y.1 (if y.2.2 = 1 then 5 else 3) y.2.1 y.2.2 sent; let x := checkColl0 (if y.2.2 = 1 then 5 else 3) y.2.1 sent
      checkColl s 0 == some x && collDone s x == (sent == 1 || (y.2.2 == 1 && y.2.1 == 1)) && (s.mir 0).stage == y.2.2
        && s.get (Reg.HLT_MIRAGE_CTRL_INLINE 0) == 0) = true
    ∧ ([0, 1].all fun b => lets run 0x80418 (wr (16 * b)) fun _ x => x.val 4 == some b) = true
    ∧ ∀ v, ¬ [(0, 5), (1, 6)].length < 2 * ([(0, 5), (1, 6)].filter fun c => c.2 == v).length := by
  refine ⟨by decide +kernel, by decide +kernel, by decide +kernel, fun v => ?_⟩
  by_cases h : 5 = v
  · subst h; decide
  · by_cases h' : 6 = v
    · subst h'; decide
    · simp [List.filter, beq_eq_false_iff_ne.mpr h, beq_eq_false_iff_ne.mpr h']

def coll1 (op : Nat) : Coll :=
  { part := 0, group := 0, inst := 5, nth := 0, tag := 0x11, core := 0, vcore := 0, seq := 7, iid := 0, op := op, units := 1, fmt := 4,
    src := 0x1000, dst := 0x1000, sig := none, members := [(0, 0), (0, 1)], me := 0, relay := false, mcast := 1, frq := none, avail := 0,
    arrivals := [], rx := [], tx := [], detached := [], reduced := true, counted := false, quiet := false, ctl := none }

/-- Whether frame h reaches flow 0 of partition 0 and belongs to it. -/
def arrives (s : State) (h : FrameHdr) (ack : Bool) : Bool :=
  s.get (Reg.FAB_PORT_STATUS_LINK_UP h.fport) != 0 && h.check == .ok && h.version == 1 && decide (h.type ≤ 5) && h.dst != 0xFFFFF && h.authOk
    && target (lookTargets s h) h ack == some (0, 0) && flowState (lookTargets s h) 0 0 != 1
def all : FrameHdr := { hdr0 5 with dst := 0xFFFFF }

theorem test_frames_received :
    (arrives lk (hdr0 5) false && arrives lk (hdr0 5) true && !fromExcluded (lookTargets lk (hdr0 5)) 0 0 0x11) = true
    ∧ run.get (Reg.FAB_PORT_STATUS_LINK_UP 1) = 0 ∧ target (lookTargets lk { hdr0 5 with dst := 3 }) { hdr0 5 with dst := 3 } false = none
    ∧ mcastTargets (lookTargets lk all) all = [(0, 1, 0)] ∧ mcastTargets (lookTargets lk { all with groupTag := 1 }) { all with groupTag := 1 } = []
    ∧ flowState (lookTargets lk all) 0 1 = 2 ∧ excluded (lookTargets lk all) 0 0 1 = false := by decide +kernel

theorem test_xft_frames :
    (let w := lookTargets lk (hdr0 5);
      (acceptSeq w 0 0 0 1024).2 = true ∧ isMcast (acceptSeq w 0 0 0 1024).1 0 0 = false ∧ (acceptSeq w 0 0 0 1025).2 = false
      ∧ arrives lk (hdr0 1024) false = true ∧ arrives lk (hdr0 1025) false = true)
    ∧ (List.replicate 8192 (0 : Byte)).length % 64 = 0 ∧ (List.replicate 8192 (0 : Byte)).length ≤ 8192 ∧ [(0 : Byte)].length % 64 ≠ 0
    ∧ (let s := { lk with flows := [(0, { FlowCtx.empty with rx := [(0, { PeerRx.empty with seen := [5] })] })] };
      arrives s (hdr0 5) false = true ∧ (acceptSeq (lookTargets s (hdr0 5)) 0 0 0 5).2 = false) := by
  decide +kernel

def joined : State := { lk with colls := [coll1 4] }
def follower : State := lay lk [(page 10 + 8, 4, 1)]
def tx0 : TxFrame := ⟨9, 0, 0x11, 5, 2, 0, 1, 0, 1, false, [], 0, [1]⟩
def unacked0 : State := lk.setFlow 0 0 { lk.flow 0 0 with unacked := [{ tx0 with waiting := [0] }, { tx0 with psn := 11, waiting := [0] }] }

theorem test_xft_frames_complete :
    (let x := coll1 4; let h := { hdr0 5 with op := 4 }; let w := lookTargets joined h; let u := (acceptSeq w 0 0 0 5).1;
      arrives joined h false = true
      ∧ (5 + 2 ^ 32 - (SMap.get PeerRx.empty (w.flow 0 0).rx 0).cum) % 2 ^ 32 ≤ 1024
      ∧ (SMap.get PeerRx.empty (w.flow 0 0).rx 0).seen.contains 5 = false ∧ (List.replicate 64 (0 : Byte)).length = 64 * 1
      ∧ fromExcluded w 0 0 h.groupTag = false ∧ instOf u 0 h.groupTag h.inst = some x ∧ senderOf h x 0 = some 1 ∧ x.op = h.op ∧ x.ctl = none
      ∧ h.offset + 1 ≤ unitsIn (x.rxPieces 1) ∧ x.members[1]? = some (0, 1) ∧ isMcast u 0 0 = false ∧ fromExcluded u 0 0 h.groupTag = false
      ∧ ((slices (x.rxPieces 1) h.offset 1).all fun q => (List.range (64 * q.2.2)).all fun i =>
          (xlate u x.part (x.dst + 64 * (x.outAt q.1.rank + q.2.1) + i)).isSome) = true)
    ∧ (let u := (acceptSeq (lookTargets follower (hdr0 5)) 0 0 0 5).1;
      arrives follower (hdr0 5) false = true ∧ isMcast u 0 0 = false ∧ fromExcluded u 0 0 0x11 = false ∧ groupOfTag u 0 0x11 = some 0
      ∧ groupFld u 0 0 8 4 ≠ 0 ∧ listFlow u 0 0 0 = 0 ∧ isRelay u 0 0 = false)
    ∧ (let w := lookTargets unacked0 (hdr0 5);
      arrives unacked0 (hdr0 5) true = true ∧ (hdr0 5).mcast = false ∧ (w.flow 0 0).held = [] ∧ (∀ t ∈ (w.flow 0 0).unacked, t.waiting = [0])
      ∧ (∀ t ∈ (w.flow 0 0).unacked, acked 10 [] t = true → t.ctrl = 0) ∧ acked 10 [] tx0 = true
      ∧ ∀ t ∈ (w.flow 0 0).unacked, acked 10 [] t = false →
          (([] : List Nat).filter fun n => (n + 2 ^ 32 - t.psn) % 2 ^ 32 < 2 ^ 31 && n != t.psn).length < 64)
    ∧ ([(4, false), (4, true), (2, false)].all fun (y : Nat × Bool) => let x := coll1 4; let h := { hdr0 5 with op := y.1, mcast := y.2 };
      let w := lookTargets joined h;
      arrives joined h false && !fromExcluded w 0 0 h.groupTag && instOf w 0 h.groupTag h.inst == some x && senderOf h x 0 == some 1
        && (x.op == h.op) == (y.1 == 4) && decide (h.offset ≤ unitsIn (x.rxPieces 1))
        && decide (h.offset ≤ unitsIn (x.txPieces (if h.mcast then 65536 else 1)))) = true := by
  decide +kernel

def flow2 (st : Nat) : State := lay lk [(page 2 + 512 + 128, 1, st)]
def sent (timeouts : Nat) : State := lk.setFlow 0 0 { lk.flow 0 0 with unacked := [tx0], timeouts := timeouts, out := [3] }
def unkeyed : State := lay lk [(page 2 + 256 + 128, 1, 1)]

/-- Flow 2 in HANDSHAKE, its handshake begun; its PEER_ID is 0. -/
def shaking : State := (lay (flow2 1) [(page 2 + 512, 1, 1)]).setFlow 0 2 { FlowCtx.empty with shake := 2 }

theorem test_flows :
    ([(0, 0), (1, 2)].all fun (y : Nat × Nat) => lets (flow2 y.2) 0x210018 (wr (2 + 2 ^ 16 + 2 ^ 18 * y.1)) fun u x => let v := storeAll u x
      x.val 16 == some 1 && allWritten v [Reg.FAB_FLOW_CMD_OP x.part, Reg.FAB_FLOW_CMD_FLOW x.part, Reg.FAB_TIMERS_RTO_US, Reg.FAB_TIMERS_RETRY_MAX]
      && (firstBad v x.part (flowAddr v x.part 2) 256).isNone && v.get (Reg.FAB_AREA_CTRL_ENABLE x.part) != 0
      && v.get (Reg.FAB_FLOW_CMD_FLOW x.part) == 2 && decide (2 < v.get (Reg.FAB_AREA_CTRL_FLOWS x.part))
      && v.get (Reg.FAB_FLOW_CMD_OP x.part) == y.1 && flowFld v x.part 2 70 1 % 2 == 1 && flowState v x.part 2 == y.2) = true
    ∧ (let h := { hdr0 0 with dst := 2, type := 4 }; let u := lookTargets shaking h; let v := sendMessages u 0 2 1 [128, 128, 4];
      shaking.get (Reg.FAB_PORT_STATUS_LINK_UP 0) ≠ 0 ∧ target u h false = some (0, 2) ∧ (u.flow 0 2).shake = 2
        ∧ pRead v 0 (flowAddr v 0 2 + 72) 48 = some (List.replicate 48 0) ∧ target (lookTargets shaking { h with dst := 3 }) { h with dst := 3 } false = none)
    ∧ (flowsOf (flow2 1) 0 = [0, 1, 2, 3] ∧ flowState (flow2 1) 0 2 = 1 ∧ isMcast (flow2 1) 0 2 = false ∧ flowState (flow2 4) 0 2 = 4)
    ∧ (groupsOf unkeyed 0 = [0] ∧ isRelay unkeyed 0 0 = false ∧ groupFld unkeyed 0 0 8 4 = 0 ∧ groupFld unkeyed 0 0 12 4 = 1
      ∧ flowState unkeyed 0 1 = 1 ∧ (unkeyed.flow 0 1).keyed = false ∧ peersOf unkeyed 0 0 = [1] ∧ flowState unkeyed 0 (listFlow unkeyed 0 0 1) = 2)
    ∧ (flowState lk 0 0 = 2 ∧ ((sent 0).flow 0 0).unacked = [tx0] ∧ ((sent 0).flow 0 0).timeouts + 1 < (sent 0).get Reg.FAB_TIMERS_RETRY_MAX
      ∧ (sent 1).get Reg.FAB_TIMERS_RETRY_MAX ≤ ((sent 1).flow 0 0).timeouts + 1 ∧ 3 ∈ ((sent 0).flow 0 0).out ∧ tx0.psn ≠ 8) := by decide +kernel

def collecting (x : Coll) : State := put { lk with colls := [x] } [(Reg.FAB_RX_SLOT 0, 1), (Reg.FAB_RX_FLOW_MAX 0, 1), (Reg.FAB_RX_POOL 0, 1)]
def awaiting : Coll := (coll1 2).setRx 1 ⟨1, 0, []⟩
def doneColl : Coll := (coll1 5).setTx 65536 ⟨1, 1, 1⟩
def slowRx : Coll := { (coll1 5).setTx 131074 ⟨0, 1, 0⟩ with members := [(0, 0), (0, 1), (2, 2)] }

theorem test_collectives :
    (grantNext (collecting awaiting) 0 = some (0, awaiting, 1, 1))
    ∧ ((collecting (coll1 2)).colls.find? (fun x => x.frq.isNone && !x.quiet && x.ctl.isNone && !(x.needSrc && d14Busy (collecting (coll1 2)) x.core))) = some (coll1 2)
    ∧ ((List.range 64).find? fun q => !((collecting (coll1 2)).colls.any fun y => y.frq == some q)) = some 0
    ∧ ((collecting doneColl).coll 0 0 5 = some doneColl ∧ collDone (collecting doneColl) doneColl = true ∧ doneColl.ctl = none)
    ∧ (collecting (coll1 2)).get Reg.FAB_TIMERS_INST_MS ≠ 0 ∧ ({ run with colls := [coll1 2] } : State).get Reg.FAB_TIMERS_INST_MS = 0
    ∧ ((slowRx.attached.find? fun r => (slowRx.members[r]?).map (·.2) == some 1) = some 1 ∧ (slowRx.txAt 65536).sent < unitsIn (slowRx.txPieces 65536)
      ∧ holdsBack slowRx 1 = true ∧ 2 ∈ slowRx.attached ∧ holdsBack slowRx 2 = false) := by decide +kernel

def enabled : State := put lk [(Reg.FAB_CTRL_ENABLE, 1)]
def configured : State := put run [(Reg.FAB_AREA_SIZE 0, 9), (Reg.FAB_AREA_BASE 0, 2), (Reg.FAB_RX_POOL 0, 65536), (Reg.FAB_RX_FLOW_MAX 0, 1), (Reg.FAB_RX_SLOT 0, 1)]

theorem test_ports_and_fabric_writes :
    (enabled.get Reg.FAB_CTRL_ENABLE ≠ 0 ∧ ochre enabled = false ∧ enabled.get Reg.PWR_REMOVE_STATE ≠ 2 ∧ SMap.wf 0 enabled.regs = true ∧ clocked enabled = true)
    ∧ (lets run 0x200000 (wr (2 ^ 48 * 0x0600 + 1)) fun u x => let v := storeBut u x [0]
      x.val 0 == some 1 && u.get Reg.FAB_CTRL_ENABLE == 0 && stage v == 3 && fabCtrlCode v == 0) = true
    ∧ (lets (put run [(Reg.SEC_STATUS_STAGE, 2)]) 0x200000 (wr 1) fun u x => x.val 0 == some 1 && u.get Reg.FAB_CTRL_ENABLE == 0
      && decide (stage (storeBut u x [0]) < 3)) = true
    ∧ (lets configured 0x210008 (wr (2 ^ 31 + 65536 + 2 ^ 32 * 4096)) fun u x => x.val 31 == some 1 && fabAreaCode (storeBut u x [31]) x.part == 0) = true := by
  decide +kernel

def mailbox (s : State) (st : Nat) (r : List Byte) : State := { put s [(Reg.SEC_STATUS_STAGE, st)] with sec := { s.sec with order := [(.h0, r)] } }
def reqOf (op : Nat) : List Byte := padTo 64 (leBytes 8 op)
def nonced (s : State) : State := { s with sec := { s.sec with nonce := some (List.replicate 48 0) } }

theorem test_serves : ∀ e ∈ [(0x01, 1), (0x02, 2), (0x03, 2), (0x10, 3), (0x11, 3), (0x12, 3), (0x13, 3), (0x14, 3), (0x15, 3), (0x16, 3), (0x20, 4), (0x21, 3)],
    Serves (mailbox (nonced run) e.2 (reqOf e.1)) .h0 e.1 (reqOf e.1) := by
  intro e he
  exact ⟨⟨[], rfl⟩, by revert e; decide +kernel⟩

def helper0 : List Byte := padTo 64 (leBytes 4 0x48504F58 ++ leBytes 2 (State.reset.get Reg.ID_REVISION_STEPPING)) ++ List.replicate 4032 0
def fwHead : List Byte :=
  padTo 128 (padTo 64 (leBytes 4 0x57464F58 ++ leBytes 2 0x0100 ++ leBytes 2 (State.reset.get Reg.ID_REVISION_STEPPING) ++ leBytes 4 17280
    ++ leBytes 4 0xFFFFFFFF) ++ leBytes 8 128 ++ leBytes 8 128 ++ leBytes 8 128 ++ leBytes 4 128 ++ leBytes 4 17152)
def firmware0 : List Byte := fwHead ++ blockOf false fwHead ++ []
def loadReq : List Byte := padTo 64 (leBytes 16 2 ++ leBytes 4 17280)

theorem test_helper : run.sec.deriving_ = false ∧ helperOk run helper0 = true := by decide +kernel
theorem test_firmware : ∃ s, s = mailbox run 2 loadReq ∧ Serves s .h0 0x02 loadReq ∧ firmwareOk s firmware0 (fieldOf loadReq 16 4) = true
    ∧ vendorHalves firmware0 (fieldOf firmware0 88 4) (firmware0.take (fieldOf firmware0 88 4)) ⟨true, true⟩ = (true, true) := by
  refine ⟨_, rfl, ⟨⟨[], rfl⟩, by decide +kernel⟩, by decide +kernel, ?_⟩
  have hl : fwHead.length = 128 := by decide +kernel
  rw [show fieldOf firmware0 88 4 = 128 by decide +kernel, show firmware0.take 128 = fwHead by
    rw [firmware0, List.append_assoc]; exact List.take_left' hl]
  exact halves_verify firmware0 fwHead 128 true _ _ _ _ (by decide +kernel) (block_slices fwHead fwHead [] false 128 hl) ⟨rfl, rfl⟩
theorem test_svn : Config.svnFloor.toNat ≤ fieldOf firmware0 12 4 := by
  have h : fieldOf firmware0 12 4 = 0xFFFFFFFF := by decide +kernel
  rw [h]; exact Nat.le_of_lt_succ Config.svnFloor.isLt

def testHead : List Byte := List.replicate 48 0 ++ idDigest run
def testResponse : List Byte := testHead ++ blockOf true testHead ++ []

theorem test_test_response : (nonced run).sec.nonce = some (sliceOf testResponse 0 48) ∧ sliceOf testResponse 48 48 = idDigest (nonced run)
    ∧ testResponse.length = 17248 ∧ testHalves testResponse ⟨true, true⟩ = (true, true) := by
  have hl : testHead.length = 96 := by decide +kernel
  refine ⟨by decide +kernel, by decide +kernel, by decide +kernel, ?_⟩
  rw [testHalves, show testResponse.take 96 = testHead by rw [testResponse, List.append_assoc]; exact List.take_left' hl]
  exact halves_verify testResponse testHead 96 false _ _ _ _ (by decide +kernel) (block_slices testHead testHead [] true 96 hl) ⟨rfl, rfl⟩

theorem test_identity_and_firmware :
    (let s : State := { run with sec := { run.sec with deriving_ := true, order := [(.h1, reqOf 1)] } };
      s.sec.deriving_ = true ∧ s.sec.order = [(.h1, reqOf 1)])
    ∧ [(1 : Byte)].length = fieldOf (leBytes 24 3 ++ leBytes 4 1) 24 4 ∧ run.sec.testFails < 3
    ∧ (⟨true, true⟩ : SigVerdict).rsa = true ∧ (⟨false, true⟩ : SigVerdict).rsa = false ∧ (⟨false, false⟩ : SigVerdict).slh = false
    ∧ stage (mailbox run 2 (reqOf 3)) = 2 := by decide +kernel

def create0 : List Byte := padTo 64 (leBytes 8 0x10 ++ leBytes 8 15 ++ leBytes 16 (2 ^ 127) ++ leBytes 4 98303 ++ leBytes 4 1)
def frames0 : List Byte := padTo 64 (leBytes 16 0x11 ++ leBytes 4 0 ++ leBytes 4 98303 ++ leBytes 4 1)
def blocks0 : List Byte := padTo 64 (leBytes 8 0x12 ++ leBytes 1 0 ++ leBytes 1 255 ++ leBytes 1 1)
def config0 (st : Nat) : State := { put run [(Reg.SEC_PART_STATUS_STATE 0, st)] with span := [(0, (0, 16))], pageMap := [] }

theorem test_partition_lifecycle :
    (((List.range 128).filter fun c => bitsOf (fieldOf create0 16 16) c 1 == 1) = [127] ∧ partState run 15 = 0 ∧ run.get Reg.PWR_REMOVE_STATE = 0
      ∧ 1 ≤ fieldOf create0 36 4 ∧ fieldOf create0 32 4 + fieldOf create0 36 4 ≤ 98304 ∧ spanFree run 15 98303 1 = true ∧ coreState run 127 ≠ 2
      ∧ partOfCore run 127 = none)
    ∧ (partState (config0 1) 0 = 1 ∧ (config0 1).get Reg.MEM_INTERLEAVE_VALID ≠ 0 ∧ 0 + 1 ≤ (SMap.get (0, 0) (config0 1).span 0).2 ∧ frameState (config0 1) (98303 + 0) = some .free
      ∧ (SMap.get (⟨0, false⟩ : PEntry) (config0 1).pageMap ((config0 1).get (Reg.MEM_PART_MAP_PM_BASE 0) + 0 + 0)).valid = false)
    ∧ ((List.range (fieldOf blocks0 10 1)).map (fieldOf blocks0 9 1 + ·) = [255] ∧ fieldOf blocks0 9 1 + fieldOf blocks0 10 1 ≤ 256
      ∧ (config0 1).get (Reg.QUE_BLOCK_ASSIGNED 255) = 0)
    ∧ ((config0 1).get (Reg.SEC_PART_STATUS_TDISP 0) = 0 ∧ lockCode (config0 1) 0 = 0 ∧ partState (config0 2) 0 = 2 ∧ owned run 0 = true)
    ∧ fieldOf frames0 16 4 = 0 ∧ fieldOf frames0 20 4 = 98303 ∧ fieldOf frames0 24 4 = 1 := by decide +kernel

theorem test_other_ports_partition : ∀ op ∈ [0x11, 0x12, 0x13, 0x14, 0x15], ∃ s : State, s = { mailbox run 3 (reqOf op) with
      sec := { run.sec with order := [(.h1, reqOf op)] } } ∧ s.sec.order = [(.h1, reqOf op)] ∧ fieldOf (reqOf op) 0 1 = op
    ∧ fieldOf (reqOf op) 8 1 = 0 ∧ owned s 0 = true ∧ portOf s 0 ≠ .h1 ∧ s.sec.attempts < 4 ∧ ochre s = false ∧ stage s = 3 := by
  intro op h
  exact ⟨_, rfl, rfl, by revert op; decide +kernel⟩

def trusted (st : Nat) : State :=
  { put run [(Reg.SEC_PART_STATUS_STATE 0, st), (Reg.SEC_PART_STATUS_TDISP 0, 1), (Reg.QUE_PORT_STATUS_LINK_UP .h0, 1), (Reg.ID_PORT_GEN .h0, 6)]
    with ides := [(0, ⟨7, 3, 3⟩)] }.setSpdm (.doe .h0) ⟨0x13, true, 0, some []⟩

theorem test_trusted_interfaces :
    (∀ st ∈ [1, 2, 3], tdi (trusted st) (.doe .h0) 0 = true ∧ partState (trusted st) 0 = st ∧ ochre (trusted st) = false)
    ∧ lockCode (trusted 1) 0 = 0 ∧ ((trusted 2).ide 0).active = 3 ∧ (trusted 2).get (Reg.ID_PORT_GEN (portOf (trusted 2) 0)) = 6
    ∧ (({ trusted 1 with ides := [] } : State).ide 0).active = 0 ∧ ((trusted 1).ide 0).stream = 7
    ∧ ((List.range 16).filter fun q => q != 0 && owned (trusted 1) q && portOf (trusted 1) q == portOf (trusted 1) 0
      && ((trusted 1).ide q).programmed != 0).length < 16
    ∧ ((trusted 1).ide 0).programmed &&& dirBit true ≠ 0 ∧ ((trusted 1).ide 0).active &&& dirBit true ≠ 0
    ∧ (trusted 3).get (Reg.SEC_PART_STATUS_TDISP 0) ≠ 0 ∧ inTdi (trusted 3) 0 0 0x87FFF = true := by decide +kernel

theorem test_spdm :
    (let t : Transport := .doe .h0; let s := { trusted 3 with sec := { run.sec with certs := [[1], []] } };
      answers s t = true ∧ (s.spdm t).version = 0x13 ∧ (s.spdm t).session = true ∧ (s.spdm t).signed ≠ none ∧ s.sec.certs.getD 0 [] ≠ []
        ∧ s.sec.certs.getD 1 [] = [] ∧ (measurement (s.setSpdm t { s.spdm t with signed := none, version := 0x13 }) t 6).isSome = true
        ∧ (put s [(Reg.SEC_STATUS_IDENTITY, 1)]).get Reg.SEC_STATUS_IDENTITY ≠ 0)
    ∧ answers run .mctp = true ∧ (run.spdm .mctp).version = 0 ∧ answers run (.doe .h1) = false := by decide +kernel

def tap (s : State) (k : JtagInstr) : State := { s with pwr := { s.pwr with jtag := k } }

theorem test_test_access :
    ([.extest, .clamp, .highz, .bypass, .idcode, .samplePreload].all fun k => [run, State.reset, put State.reset [(Reg.SEC_PART_STATUS_STATE 15, 1)]].all
      fun s => (tap s k).pwr.jtag == k) = true
    ∧ stage (tap run .extest) = 3 ∧ stage (tap State.reset .clamp) ≠ 3 ∧ (∀ p : Part, partState (tap State.reset .clamp) p = 0)
    ∧ partState (tap (put State.reset [(Reg.SEC_PART_STATUS_STATE 15, 1)]) .highz) 15 ≠ 0 ∧ run.get Reg.SEC_STATUS_TEST_OPENED = 0
    ∧ (put run [(Reg.SEC_STATUS_TEST_OPENED, 1)]).get Reg.SEC_STATUS_TEST_OPENED ≠ 0 := by decide +kernel

def locked : State := put run [(Reg.SEC_PART_STATUS_LOCK 0, 1)]
def ochreRun : State := put run [(Reg.HLT_STATUS_OCHRE, 1)]

theorem test_host_register_accesses :
    findReg 0x7FFFF8 = none ∧ stage State.reset = 0 ∧ (lets run 0x80310 (wr 1) fun _ x => x.off == 0x80310 && x.part == 0) = true
    ∧ (judge (put run [(Reg.SEC_PART_STATUS_PORT 0, 1)]) 0x80310 (wr 1)).2 = none
    ∧ (lets locked 0x80300 (wr 1) fun _ x => decide (x.part < 16) && x.vals.all fun v => v.1.acc != .rwl) = true
    ∧ (lets ochreRun 0x3030 (wr 1) fun _ x => !ochreOk x.name) = true ∧ restricted ochreRun = true
    ∧ accessOk ⟨.h0, 0, 0x7FFFF8, 8, true, 0⟩ = true ∧ accessOk ⟨.h0, 0, 2, 4, true, 0⟩ = false ∧ clocked run = true ∧ stage run ≠ 0
    ∧ accessOk ⟨.h0, 0, 0x40000, 2, false, 0⟩ = false ∧ atSecStatus ⟨.h0, 0, 0x40000, 2, false, 0⟩ = true := by
  decide +kernel

theorem test_host_reads :
    (let s := put run [(Reg.SYN_STEP_STEP 0, 7)];
      (hostRead s .h0 0x80310, hostRead s .h1 0x80310, hostRead run .h1 0x18 % 2, hostRead State.reset .h0 0x18, hostRead s .h0 0x7FFFF8) = (7, 0, 1, 0, 0))
    ∧ ((findReg 0x80310).map fun x => (regPart run x.1 x.2, x.1.name)) = some (some 0, "SYN_STEP") ∧ owned run 0 = true ∧ portOf run 0 ≠ .h1 := by
  decide +kernel

theorem test_access_codes : ([Acc.rw, .rwl, .wo, .ctr, .ro, .w1s, .w1c].map fun a => (storeField run 0x3000 (⟨7, 0, a, false, 0⟩, 257)).get ⟨0x3000, 0, 8, 0⟩) =
    [1, 1, 1, 1, run.get ⟨0x3000, 0, 8, 0⟩, run.get ⟨0x3000, 0, 8, 0⟩, run.get ⟨0x3000, 0, 8, 0⟩] := by decide +kernel

def ringed (head tail : Nat) : State := put run [(Reg.HLT_ERR_CTRL_ENABLE 0, 1), (Reg.HLT_ERR_CTRL_LOG 0, 4), (Reg.HLT_ERR_PTR_HEAD 0, head), (Reg.HLT_ERR_PTR_TAIL 0, tail)]

theorem test_error_records : SMap.wf 0 (ringed 0 15).regs = true ∧ (ringed 0 15).get (Reg.HLT_ERR_CTRL_ENABLE 0) ≠ 0
    ∧ (15 + 1) % 16 = (ringed 0 15).get (Reg.HLT_ERR_PTR_HEAD 0) % 16 ∧ (15 + 1) % 16 ≠ (ringed 3 15).get (Reg.HLT_ERR_PTR_HEAD 0) % 16
    ∧ ¬ (0xFF < 16 ∧ run.get (Reg.HLT_ERR_CTRL_ENABLE 0xFF) ≠ 0) := by decide +kernel

def railsOff (latched : Bool) : State := { State.reset with pwr := { PwrCtx.empty with rails := false, latched := latched } }

theorem test_links_supply_and_clocks :
    clocked run = true ∧ inPerst run .h0 = false ∧ run.pwr.rails = true ∧ (railsOff true).pwr.rails = false ∧ (railsOff false).pwr.latched = false
    ∧ run.pwr.rootLost = false ∧ stage (run.put Reg.CLK_STATUS_ROOT_LOCK 1) ≠ 0
    ∧ clocked State.reset = true ∧ State.reset.pwr.rails = true ∧ State.reset.pwr.rootLost = false ∧ stage (State.reset.put Reg.CLK_STATUS_ROOT_LOCK 1) = 0 ∧ State.reset.pwr.zeroizing = false ∧ run.get Reg.PWR_STATUS_VIN_OK ≠ 0
    ∧ (put run [(Reg.PWR_STATUS_VIN_OK, 0)]).get Reg.PWR_STATUS_VIN_OK = 0
    ∧ (let s : State := { put run [(Reg.CLK_STATUS_ROOT_LOCK, 0)] with pwr := { run.pwr with rootLost := true } };
      s.pwr.rails = true ∧ s.pwr.rootLost = true ∧ s.get Reg.CLK_STATUS_ROOT_LOCK = 0)
    ∧ (∀ b, let s : State := { run with pwr := { run.pwr with zeroizing := true, rootLost := b } };
      s.pwr.zeroizing = true ∧ clocked s = true) := by
  decide +kernel

theorem test_power_up_state : Reg.PWR_STATUS_RESET_SEEN ∈ keptFields ∧ run.get Reg.PWR_STATUS_RESET_SEEN < 2 ^ Reg.PWR_STATUS_RESET_SEEN.w
    ∧ Reg.SEC_STATUS_STAGE.id ∉ keptFields.map Fld.id := by decide +kernel

def twoCores : State :=
  let i : CarInst := ⟨0, 2, 0, [{ CarInst.stage ⟨0, 0, 0, []⟩ 0 with core := 0 }, { CarInst.stage ⟨0, 0, 0, []⟩ 0 with core := 1, vcore := 1 }]⟩
  run.setCar 0 0 (some i)

theorem test_temperatures_and_steps :
    clocked run = true ∧ run.get Reg.THM_STATUS_INLET_HOT = 0 ∧ (run.put Reg.THM_OTHER_INLET 36).get Reg.THM_STATUS_INLET_HOT = 0
    ∧ run.get Reg.PWR_STATUS_CUR_LIMIT = 0 ∧ effectiveLimit run = 1500 ∧ aclocksStand run = false ∧ stepGroup run 0 = [0]
    ∧ tileBoundary run 0 = true ∧ tileBoundary (draining run 2 0) 0 = false
    ∧ 100 * 1425 ≤ 95 * effectiveLimit run ∧ 95 * effectiveLimit run < 100 * 1426 ∧ effectiveLimit run < 1501
    ∧ (let s := put ({ draining run 2 0 with caravans := twoCores.caravans }) [(Reg.THM_COUPLING_REQ 0, 1)]
      stepGroup s 0 = [0, 1] ∧ tileBoundary s 0 = false ∧ ([0, 1].map (requested s)).foldl max 0 ≠ s.get (Reg.CLK_ACLK_STEP_STEP 1))
    ∧ (let s := put twoCores [(Reg.THM_COUPLING_REQ 0, 1)]
      ([0, 1].map (requested s)).foldl max 0 ≠ s.get (Reg.CLK_ACLK_STEP_STEP 1) ∧ ∀ d ∈ stepGroup s 0, tileBoundary s d = true)
    ∧ stepGroup twoCores 0 = [0, 1] ∧ ∀ d ∈ stepGroup twoCores 0, twoCores.get (Reg.CLK_ACLK_STEP_STEP d) = ([0, 1].map (requested twoCores)).foldl max 0 := by
  decide +kernel

theorem test_slowest_step : SMap.wf 0 run.regs = true ∧ requested run 127 ≤ 3 := by decide +kernel

def ownedByH1 : State := put run [(Reg.SEC_PART_STATUS_PORT 0, 1)]

theorem test_resets_and_management :
    ([0x10220, 0x10218].all fun off => [run, ownedByH1].all fun s => lets s off (wr 1) fun u x =>
      x.val 0 == some 1 && otherOwns u x.w.port == (portOf s 0 == .h1)) = true
    ∧ (put run [(Reg.PWR_REMOVE_STATE, 1)]).get Reg.PWR_REMOVE_STATE ≠ 0 ∧ run.get Reg.PWR_STATUS_MATE_SENSE ≠ 0
    ∧ ([0, 2].all fun st => let u := raise (removeFrames ((put run [(Reg.PWR_REMOVE_STATE, st)]).put Reg.PWR_STATUS_MATE_SENSE 0)) pwrLast ({ code := 0x0C42, cls := 3 } : Rec)
      removeReady u == (st == 2) && (SMap.keys u.flows).isEmpty) = true
    ∧ (let s : State := { run with pwr := { run.pwr with i3c := 9 }, unread := [[1]] };
      addressed s (.i3c 9) = true ∧ addressed s (.i3c 8) = false ∧ clocked s = true ∧ s.unread = [[1]] ∧ run.unread = [])
    ∧ (put run [(Reg.PWR_REMOVE_STATE, 1)]).get Reg.PWR_REMOVE_STATE = 1 ∧ run.get Reg.PWR_REMOVE_STATE ≠ 1
    ∧ ([599, 600, 1500, 1501].all fun n => lets run 0x10210 (wr n) fun _ x => x.val 0 == some n) = true := by decide +kernel

end Sys2Proof.Tests
end

/-!
SUPPORT. The quantizer to codes (R38) and the code 0 of a codebook (R36).
-/

namespace Sys2Proof.Machine

/-! ## The choice of a code

R38 compares codes by the distance of their entries and, where two are equally near, by parity and then by number. The
quantizer goes once over the codes that carry an entry first, in ascending order, and keeps the best so far: `IsBest` is what
holds of that code after each of them.
-/

/-- Code i of two codes with distinct entries equally near stands against code k by R38: the even one, else the lower. -/
def WinsTie (i k : Nat) : Prop := (i % 2 = 0 ∧ k % 2 = 1) ∨ (i % 2 = k % 2 ∧ i < k)

/-- Of the codes in l, whose distances d gives, j is the one that R38 chooses. -/
structure IsBest (d : Nat → Nat) (l : List Nat) (j : Nat) : Prop where
  mem : j ∈ l
  nearest : ∀ k ∈ l, d j ≤ d k
  ties : ∀ k ∈ l, d k = d j → k ≠ j → WinsTie j k

/-- A later code i takes the place of the best code j so far. -/
def Displaces (d : Nat → Nat) (i j : Nat) : Prop := d i < d j ∨ d i = d j ∧ i % 2 = 0 ∧ j % 2 = 1

theorem isBest_singleton (d : Nat → Nat) (i : Nat) : IsBest d [i] i where
  mem := by simp
  nearest := by simp
  ties := by simp

theorem IsBest.append_of_displaces {d : Nat → Nat} {l : List Nat} {i j : Nat} (h : IsBest d l j)
    (hi : Displaces d i j) : IsBest d (l ++ [i]) i where
  mem := by simp
  nearest k hk := by
    obtain hk | rfl : k ∈ l ∨ k = i := by simpa using hk
    · have := h.nearest k hk
      unfold Displaces at hi
      omega
    · exact le_rfl
  ties k hk hd hne := by
    have hk : k ∈ l := by simpa [hne] using hk
    have hjk := h.nearest k hk
    obtain hlt | ⟨heq, hi0, hj1⟩ := hi
    · omega
    · -- k is as near as j, which is odd and stands against it, so that k is odd as well
      by_cases hkj : k = j
      · exact .inl ⟨hi0, hkj ▸ hj1⟩
      · have hwin := h.ties k hk (hd.trans heq) hkj
        unfold WinsTie at *
        omega

theorem IsBest.append_of_not_displaces {d : Nat → Nat} {l : List Nat} {i j : Nat} (h : IsBest d l j) (hlt : j < i)
    (hi : ¬ Displaces d i j) : IsBest d (l ++ [i]) j where
  mem := by simp [h.mem]
  nearest k hk := by
    obtain hk | rfl : k ∈ l ∨ k = i := by simpa using hk
    · exact h.nearest k hk
    · unfold Displaces at hi
      omega
  ties k hk hd hne := by
    obtain hk | rfl : k ∈ l ∨ k = i := by simpa using hk
    · exact h.ties k hk hd hne
    · unfold Displaces at hi
      unfold WinsTie
      omega

/-- |v − entry[i] × m| with v as `exactOf` gives it. -/
def entryDist (c : Codebook) (w m i : Nat) : Nat :=
  ((exactOf w c.e).1 - c.entries.getD i 0 * m * 2 ^ (exactOf w c.e).2).natAbs

theorem nearer_entries (c : Codebook) (w m i j : Nat) :
    nearer (exactOf w c.e).1 (exactOf w c.e).2 (c.entries.getD i 0 * m) (c.entries.getD j 0 * m) =
      compare (entryDist c w m i) (entryDist c w m j) := rfl

/-- The codes that the quantizer tries: each the lowest that carries its entry. -/
def firstCodes (c : Codebook) : List Nat := (List.range c.entries.length).filter c.first

/-- The best code and its entry's multiple after code i, the body of the quantizer's loop. -/
def tryCode (c : Codebook) (w m : Nat) (best : Option (Nat × Int)) (i : Nat) : Option (Nat × Int) :=
  match best with
  | none => some (i, c.entries.getD i 0 * m)
  | some (j, y) =>
    match nearer (exactOf w c.e).1 (exactOf w c.e).2 (c.entries.getD i 0 * m) y with
    | .lt => some (i, c.entries.getD i 0 * m)
    | .gt => some (j, y)
    | .eq =>
      if c.entries.getD i 0 * m != y && i % 2 == 0 && j % 2 == 1 then some (i, c.entries.getD i 0 * m) else some (j, y)

theorem chooseCode_eq_foldl (c : Codebook) (w m : Nat) :
    chooseCode c w m = (((firstCodes c).foldl (tryCode c w m) none).map (·.1)).getD 0 := rfl

theorem tryCode_of_displaces {c : Codebook} {w m i j : Nat} (hm : 0 < m)
    (hne : c.entries.getD i 0 ≠ c.entries.getD j 0) (h : Displaces (entryDist c w m) i j) :
    tryCode c w m (some (j, c.entries.getD j 0 * m)) i = some (i, c.entries.getD i 0 * m) := by
  simp only [tryCode, nearer_entries]
  obtain hlt | ⟨heq, hi, hj⟩ := h
  · rw [Nat.compare_eq_lt.2 hlt]
  · have hmul : c.entries.getD i 0 * (m : Int) ≠ c.entries.getD j 0 * m := by
      rwa [Ne, Int.mul_eq_mul_right_iff (by omega)]
    rw [Nat.compare_eq_eq.2 heq]
    simp [-List.getD_eq_getElem?_getD, hmul, hi, hj]

theorem tryCode_of_not_displaces {c : Codebook} {w m i j : Nat} (h : ¬ Displaces (entryDist c w m) i j) :
    tryCode c w m (some (j, c.entries.getD j 0 * m)) i = some (j, c.entries.getD j 0 * m) := by
  unfold Displaces at h
  simp only [tryCode, nearer_entries]
  obtain hgt | heq : entryDist c w m j < entryDist c w m i ∨ entryDist c w m i = entryDist c w m j := by omega
  · rw [Nat.compare_eq_gt.2 hgt]
  · have hpar : ¬ (i % 2 = 0 ∧ j % 2 = 1) := fun hp => h (.inr ⟨heq, hp⟩)
    rw [Nat.compare_eq_eq.2 heq]
    exact if_neg (by simpa using fun _ hi => by omega)

/-- Over ascending codes with distinct entries the loop ends at the code that R38 chooses. -/
theorem foldl_tryCode_isBest {c : Codebook} {w m : Nat} (hm : 0 < m) (l : List Nat) (hl : l ≠ [])
    (hasc : l.Pairwise fun i j => i < j ∧ c.entries.getD i 0 ≠ c.entries.getD j 0) :
    ∃ j, l.foldl (tryCode c w m) none = some (j, c.entries.getD j 0 * m) ∧ IsBest (entryDist c w m) l j := by
  induction l using List.reverseRecOn with
  | nil => exact absurd rfl hl
  | append_singleton l i ih =>
    rw [List.foldl_append]
    obtain rfl | hnil := eq_or_ne l []
    · exact ⟨i, rfl, isBest_singleton _ i⟩
    · obtain ⟨hasc, -, hlast⟩ := List.pairwise_append.1 hasc
      obtain ⟨j, hj, hbest⟩ := ih hnil hasc
      obtain ⟨hlt, hne⟩ := hlast j hbest.mem i (by simp)
      simp only [hj, List.foldl_cons, List.foldl_nil]
      by_cases hd : Displaces (entryDist c w m) i j
      · exact ⟨i, tryCode_of_displaces hm hne.symm hd, hbest.append_of_displaces hd⟩
      · exact ⟨j, tryCode_of_not_displaces hd, hbest.append_of_not_displaces hlt hd⟩

/-! ### The codes that carry an entry first -/

theorem first_iff {c : Codebook} {i : Nat} (hi : i < c.entries.length) :
    c.first i = true ↔ ∀ k < i, c.entries.getD k 0 ≠ c.entries.getD i 0 := by
  simp only [Codebook.first, Bool.not_eq_true', List.contains_eq_mem, decide_eq_false_iff_not, List.mem_take_iff_getElem]
  constructor
  · intro h k hk hki
    exact h ⟨k, by omega, by rw [← hki, List.getD_eq_getElem _ _ (by omega)]⟩
  · rintro h ⟨k, hk, hki⟩
    exact h k (by omega) (by rw [← hki, List.getD_eq_getElem _ _ (by omega)])

theorem mem_firstCodes {c : Codebook} {i : Nat} :
    i ∈ firstCodes c ↔ i < c.entries.length ∧ ∀ k < i, c.entries.getD k 0 ≠ c.entries.getD i 0 := by
  simp only [firstCodes, List.mem_filter, List.mem_range]
  exact and_congr_right first_iff

theorem firstCodes_pairwise (c : Codebook) :
    (firstCodes c).Pairwise fun i j => i < j ∧ c.entries.getD i 0 ≠ c.entries.getD j 0 := by
  have hlt : (firstCodes c).Pairwise (· < ·) := List.pairwise_lt_range.filter _
  exact hlt.imp_of_mem fun _ hj h => ⟨h, (mem_firstCodes.1 hj).2 _ h⟩

/-- Every code has the entry of one that carries it first. -/
theorem exists_firstCode {c : Codebook} {i : Nat} (hi : i < c.entries.length) :
    ∃ j ∈ firstCodes c, c.entries.getD j 0 = c.entries.getD i 0 := by
  induction i using Nat.strong_induction_on with
  | _ i ih =>
    by_cases h : ∃ k < i, c.entries.getD k 0 = c.entries.getD i 0
    · obtain ⟨k, hk, hki⟩ := h
      obtain ⟨j, hj, hjk⟩ := ih k hk (by omega)
      exact ⟨j, hj, hjk.trans hki⟩
    · exact ⟨i, mem_firstCodes.2 ⟨hi, fun k hk hki => h ⟨k, hk, hki⟩⟩, rfl⟩

theorem entryDist_congr {c : Codebook} {w m i j : Nat} (h : c.entries.getD i 0 = c.entries.getD j 0) :
    entryDist c w m i = entryDist c w m j := by
  simp only [entryDist, h]

/-- Of the codes that carry an entry first the quantizer chooses the one that R38 names. -/
theorem chooseCode_isBest {c : Codebook} {w m : Nat} (hc : c.entries ≠ []) (hm : 0 < m) :
    IsBest (entryDist c w m) (firstCodes c) (chooseCode c w m) := by
  obtain ⟨i, hi, -⟩ := exists_firstCode (List.length_pos_of_ne_nil hc)
  obtain ⟨j, hj, hbest⟩ := foldl_tryCode_isBest (w := w) hm (firstCodes c) (List.ne_nil_of_mem hi) (firstCodes_pairwise c)
  have hcode : chooseCode c w m = j := by rw [chooseCode_eq_foldl, hj]; rfl
  exact hcode ▸ hbest

theorem chooseCode_nearest {c : Codebook} {w m i : Nat} (hc : c.entries ≠ []) (hm : 0 < m)
    (hi : i < c.entries.length) : entryDist c w m (chooseCode c w m) ≤ entryDist c w m i := by
  obtain ⟨j, hj, hji⟩ := exists_firstCode hi
  exact entryDist_congr hji ▸ (chooseCode_isBest hc hm).nearest j hj

theorem chooseCode_le_of_entry_eq {c : Codebook} {w m i : Nat} (hc : c.entries ≠ []) (hm : 0 < m)
    (hi : c.entries.getD i 0 = c.entries.getD (chooseCode c w m) 0) : chooseCode c w m ≤ i :=
  not_lt.1 fun hlt => (mem_firstCodes.1 (chooseCode_isBest hc hm).mem).2 i hlt hi

/-- The value 0 is nearest to the entry 0 alone. -/
theorem entry_eq_zero_of_entryDist_le {c : Codebook} {w m i : Nat} (hm : 0 < m) (hv : (exactOf w c.e).1 = 0)
    (h0 : c.entries.getD 0 0 = 0) (hi : entryDist c w m i ≤ entryDist c w m 0) : c.entries.getD i 0 = 0 := by
  have hprod : c.entries.getD i 0 * (m : Int) * 2 ^ (exactOf w c.e).2 = 0 := by
    simp only [entryDist, hv, h0] at hi
    simpa [-List.getD_eq_getElem?_getD] using hi
  have hpow : (2 : Int) ^ (exactOf w c.e).2 ≠ 0 := by positivity
  simpa [-List.getD_eq_getElem?_getD, hpow, hm.ne'] using hprod

/-- Settles O16: the chosen code is the best of the codes that carry an entry first, and each code has the entry of one of
these. -/
theorem quantizerChoosesTheNearest : Obligations.QuantizerChoosesTheNearest := by
  rintro book w m c hne hm rfl
  have hbest := chooseCode_isBest (w := w) hne hm
  simp only [nearer_entries, Nat.compare_ne_gt, Nat.compare_eq_eq]
  refine ⟨(mem_firstCodes.1 hbest.mem).1, fun i hi => chooseCode_nearest hne hm hi,
    fun i _ hic => chooseCode_le_of_entry_eq hne hm hic, fun i hi htie hdist honly _ => ?tie, fun hv h0 => ?zero⟩
  case tie =>
    obtain ⟨j, hj, hji⟩ := exists_firstCode hi
    obtain rfl := honly j (mem_firstCodes.1 hj).1 hji
    exact hbest.ties j hj htie.symm fun hjc => hdist (by rw [← hjc])
  case zero =>
    have hnear := chooseCode_nearest (w := w) hne hm (List.length_pos_of_ne_nil hne)
    have hentry := entry_eq_zero_of_entryDist_le hm hv h0 hnear
    exact Nat.le_zero.1 (chooseCode_le_of_entry_eq hne hm (h0.trans hentry.symm))

/-! ## Code 0 -/

theorem fieldOf_cons_zero_one (b : Byte) (bs : List Byte) : fieldOf (b :: bs) 0 1 = b.toNat := by
  simp [fieldOf, leNat]

/-- A signed byte is 0 only where its bits are. -/
theorem sext_eight_eq_zero {v : Nat} (hv : v < 256) (h : sext 8 v = 0) : v = 0 := by
  unfold sext at h
  split at h <;> omega

theorem presetOf_entry_zero {n : Nat} {es : List Int} {width : Nat} (h : presetOf n = some (es, width)) :
    es.getD 0 0 = 0 := by
  unfold presetOf at h
  split at h <;> cases h <;> rfl

/-- The check of R34, read backwards: the entries of a codebook are those of its record, of which the first is 0, or a
preset's. -/
theorem codebookOf_eq_some {cb : List Byte} {book : Codebook} (h : codebookOf cb = some book) :
    (fieldOf cb 17 1 = 0 ∧ sext 8 (fieldOf cb 0 1) = 0 ∧
      book.entries = ((List.range 16).map fun i => sext 8 (fieldOf cb i 1)).take (2 ^ fieldOf cb 16 1)) ∨
    (fieldOf cb 17 1 ≠ 0 ∧ presetOf (fieldOf cb 17 1) = some (book.entries, book.width)) := by
  simp only [codebookOf] at h
  split at h
  · cases h
  split at h
  · split at h
    next hpre =>
      split at h
      next hent =>
        simp only [Bool.and_eq_true, beq_iff_eq] at hent
        obtain ⟨⟨hzero, -⟩, -⟩ := hent
        cases h
        exact .inl ⟨hpre, hzero, rfl⟩
      next => cases h
    next hpre =>
      split at h
      next es pw hes =>
        split at h
        next hw =>
          cases h
          exact .inr ⟨hpre, hw ▸ hes⟩
        next => cases h
      next => cases h
  · cases h

theorem codebookOf_nil : codebookOf [] = none := by decide

theorem codebookOf_entry_zero {cb : List Byte} {book : Codebook} (h : codebookOf cb = some book) :
    book.entries.getD 0 0 = 0 := by
  obtain ⟨-, hzero, hents⟩ | ⟨-, hpre⟩ := codebookOf_eq_some h
  · rw [hents, List.getD_eq_getElem?_getD, List.getElem?_take_of_lt (by positivity)]
    exact hzero
  · exact presetOf_entry_zero hpre

/-- ENTRY[0] after a refit: that of the record where every new entry is 0, else 0. -/
theorem refit_entry_zero (b : Byte) (bs : List Byte) (book : Codebook) (e : Int) (floor t : Nat)
    (blocks : List (List Nat)) :
    fieldOf (refit (b :: bs) book e floor t blocks).1 0 1 = b.toNat ∨
      fieldOf (refit (b :: bs) book e floor t blocks).1 0 1 = 0 := by
  have hnew : ∀ f : Nat → Int × Bool, (((List.range (2 ^ book.width)).map f).getD 0 (0, false)) = f 0 := by
    intro f
    rw [List.getD_eq_getElem _ _ (by simp)]
    simp
  simp only [refit]
  split
  · exact .inl (fieldOf_cons_zero_one _ _)
  · right
    simp only [List.range_succ_eq_map, List.flatMap_cons, leBytes, List.cons_append]
    rw [fieldOf_cons_zero_one, hnew]
    rfl

/-- Settles O15: R34 lets only a record pass whose ENTRY[0] is 0 or that names a preset, and the refit writes 0 there or keeps
the record's bytes. -/
theorem codeZeroMeansZero : Obligations.CodeZeroMeansZero := by
  refine ⟨fun _ _ => codebookOf_entry_zero, fun cb book c e floor t blocks hbook hpre => ?_⟩
  cases cb with
  | nil => cases codebookOf_nil.symm.trans hbook
  | cons b bs =>
    obtain ⟨-, hzero, -⟩ | ⟨hne, -⟩ := codebookOf_eq_some hbook
    · rw [fieldOf_cons_zero_one] at hzero ⊢
      obtain hkept | hnew := refit_entry_zero b bs c e floor t blocks
      · exact hkept
      · rw [hnew, sext_eight_eq_zero b.isLt hzero]
    · exact absurd hpre hne

end Sys2Proof.Machine

/-!
SUPPORT. Reproducible sums (R113 to R116) and the parts they are split into.
-/

namespace Sys2Proof.Machine

/-! ## EMAX

`Option.merge max` is the maximum by which R113 step 1 combines the parts' exponents: none is the exponent of a part without a
finite non-zero value. It is associative and commutative, and none is its unit. -/

/-- The exponent that one value offers in the first pass of R113. -/
def offeredExp (x : Nat) : Option Int := if f32normal x then some (expOf x) else none

theorem emaxOf_eq_foldl (xs : List Nat) : emaxOf xs = (xs.map offeredExp).foldl (Option.merge max) none := by
  rw [List.foldl_map]
  refine List.foldl_ext _ _ none fun e x _ => ?_
  cases hx : f32normal x
  · simp [offeredExp, hx]
  · cases e <;> simp [offeredExp, hx]

theorem foldl_mergeMax (a : Option Int) (es : List (Option Int)) :
    es.foldl (Option.merge max) a = Option.merge max a (es.foldl (Option.merge max) none) := by
  rw [← List.foldl_assoc (op := Option.merge max), Option.merge_none_right]

theorem emaxOf_append (xs ys : List Nat) : emaxOf (xs ++ ys) = Option.merge max (emaxOf xs) (emaxOf ys) := by
  simp only [emaxOf_eq_foldl, List.map_append, List.foldl_append]
  exact foldl_mergeMax _ _

theorem emaxOf_perm {xs ys : List Nat} (h : xs.Perm ys) : emaxOf xs = emaxOf ys := by
  simp only [emaxOf_eq_foldl]
  exact (h.map offeredExp).foldl_op_eq

/-- R113 step 1: the parts' exponents, combined by maximum, give the exponent of all the values. -/
theorem foldl_mergeMax_emaxOf (parts : List (List Nat)) :
    (parts.map emaxOf).foldl (Option.merge max) none = emaxOf parts.flatten := by
  induction parts with
  | nil => rfl
  | cons p ps ih =>
    rw [List.map_cons, List.foldl_cons, Option.merge_none_left, foldl_mergeMax, ih, List.flatten_cons, emaxOf_append]

/-! ## The record of a part

Both halves of a record are folds that a split into parts respects: the accumulator is a sum of integers, and each flag says
whether some value is the special one it stands for. -/

/-- The integer that one value adds to the accumulator (R113 step 2). -/
def reproUnits (emax : Option Int) (x : Nat) : Int := emax.elim 0 fun e => reproInt e x

/-- The FLAGS of a record (R116): NaN, +infinity, −infinity. -/
def flagBits (nan pos neg : Bool) : Nat := nan.toNat + 2 * pos.toNat + 4 * neg.toNat

theorem flagBits_or : ∀ a b c a' b' c' : Bool,
    flagBits (a || a') (b || b') (c || c') = flagBits a b c ||| flagBits a' b' c' := by decide

theorem seenFlags_eq (xs : List Nat) : seenFlags xs =
    flagBits (xs.any (dec32 · == .nan)) (xs.any (dec32 · == .inf false)) (xs.any (dec32 · == .inf true)) := rfl

theorem seenFlags_append (xs ys : List Nat) : seenFlags (xs ++ ys) = seenFlags xs ||| seenFlags ys := by
  simp only [seenFlags_eq, List.any_append, flagBits_or]

theorem seenFlags_perm {xs ys : List Nat} (h : xs.Perm ys) : seenFlags xs = seenFlags ys := by
  simp only [seenFlags_eq, h.any_eq]

theorem reproOf_eq (emax : Option Int) (xs : List Nat) :
    reproOf emax xs = ⟨(xs.map (reproUnits emax)).sum, emax, seenFlags xs⟩ := by
  rw [List.sum_eq_foldl]
  cases emax <;> rfl

/-- The record depends on the multiset of the values alone. -/
theorem reproOf_perm (emax : Option Int) {xs ys : List Nat} (h : xs.Perm ys) : reproOf emax xs = reproOf emax ys := by
  rw [reproOf_eq, reproOf_eq, (h.map _).sum_eq, seenFlags_perm h]

/-! ## The sum of records -/

theorem reproAdd_same_emax (emax : Option Int) (a b : Int) (f g : Nat) :
    reproAdd ⟨a, emax, f⟩ ⟨b, emax, g⟩ = some ⟨a + b, emax, f ||| g⟩ := by
  cases emax <;> simp [reproAdd]

theorem reproAdd_zero (r : Repro) : reproAdd r ⟨0, none, 0⟩ = some r := by
  obtain ⟨acc, emax, flags⟩ := r
  cases emax <;> simp [reproAdd]

/-- The records of two parts under one EMAX add up to the record of the two parts together. -/
theorem reproAdd_reproOf (emax : Option Int) (xs ys : List Nat) :
    reproAdd (reproOf emax xs) (reproOf emax ys) = some (reproOf emax (xs ++ ys)) := by
  simp only [reproOf_eq, reproAdd_same_emax, List.map_append, List.sum_append, seenFlags_append]

theorem reproSum_cons_of_eq_some {r t : Repro} {rs : List Repro} (h : reproSum rs = some t) :
    reproSum (r :: rs) = reproAdd r t := by
  rw [reproSum, h]

/-- One part at least: the sum of no records carries no EMAX. -/
theorem reproSum_map_reproOf_cons (emax : Option Int) (p : List Nat) (ps : List (List Nat)) :
    reproSum ((p :: ps).map (reproOf emax)) = some (reproOf emax (p :: ps).flatten) := by
  induction ps generalizing p with
  | nil => simpa using (reproSum_cons_of_eq_some rfl).trans (reproAdd_zero (reproOf emax p))
  | cons q qs ih => exact (reproSum_cons_of_eq_some (ih q)).trans (reproAdd_reproOf emax p (q :: qs).flatten)

/-- Each part's record under the EMAX of all the values: the sum is the unsplit record. -/
theorem reproSum_map_reproOf_emaxOf (ps : List (List Nat)) :
    reproSum (ps.map (reproOf (emaxOf ps.flatten))) = some (reproOf (emaxOf ps.flatten) ps.flatten) := by
  cases ps with
  | nil => rfl
  | cons p ps => exact reproSum_map_reproOf_cons _ p ps

/-- Settles O17: EMAX and the record of a list respect a reordering, and the records of the parts add up to the record of their
concatenation. -/
theorem reproducibleSumsIgnoreTheSplit : Obligations.ReproducibleSumsIgnoreTheSplit := by
  intro parts ps xs hxs hps
  have hall : ps.flatten.Perm xs := hps.flatten.trans hxs
  refine ⟨emaxOf_perm hxs, ?sum, ?emax⟩
  case sum =>
    rw [← emaxOf_perm hall, ← reproOf_perm _ hall]
    exact reproSum_map_reproOf_emaxOf ps
  case emax =>
    rw [← emaxOf_perm hxs, ← foldl_mergeMax_emaxOf]
    exact List.foldl_ext _ _ none fun a b _ => by cases a <;> cases b <;> rfl

end Sys2Proof.Machine

namespace Sys2Proof.Machine

/-! ## Changes that keep the queue and the canonical forms, one after another

`Keeps s t` is a premise and a conclusion of every lemma: a chain of operations that starts at `s` is the chain of their lemmas.

Some meanings match on a value that the kernel would compute to its end when it compares two forms of the match. Their proofs
first give a name to the function and to what it calls there (`exists_eq`), so that nothing is left to compute. -/

/-! ### Conditionals, folds and results in a pair -/

theorem Keeps.of_eq {s a b : State} (e : a = b) (h : Keeps s a) : Keeps s b := e ▸ h
theorem Keeps.of_fst {α : Type} {s u : State} {a : α} {p : State × α} (e : p = (u, a)) (h : Keeps s p.1) : Keeps s u := by
  subst e
  exact h
theorem Keeps.of_snd {α : Type} {s u : State} {a : α} {p : α × State} (e : p = (a, u)) (h : Keeps s p.2) : Keeps s u := by
  subst e
  exact h
theorem Keeps.of_snd_fst {α β : Type} {s u : State} {a : α} {b : β} {p : α × State × β} (e : p = (a, u, b))
    (h : Keeps s p.2.1) : Keeps s u := by
  subst e
  exact h
theorem Keeps.of_snd_snd {α β : Type} {s u : State} {a : α} {b : β} {p : α × β × State} (e : p = (a, b, u))
    (h : Keeps s p.2.2) : Keeps s u := by
  subst e
  exact h

theorem Keeps.ite {s a b : State} {c : Prop} [Decidable c] (ha : Keeps s a) (hb : Keeps s b) : Keeps s (if c then a else b) := by
  split
  · exact ha
  · exact hb

theorem Keeps.foldl' {α : Type} {s t : State} {g : State → α → State} {l : List α} (h : Keeps s t)
    (hg : ∀ u x, Keeps s u → Keeps s (g u x)) : Keeps s (l.foldl g t) := by
  induction l generalizing t with
  | nil => exact h
  | cons x l ih => exact ih (hg t x h)

theorem Keeps.foldl_fst {α β : Type} {s : State} {p : State × α} {g : State × α → β → State × α} {l : List β}
    (h : Keeps s p.1) (hg : ∀ q x, Keeps s q.1 → Keeps s (g q x).1) : Keeps s (l.foldl g p).1 := by
  induction l generalizing p with
  | nil => exact h
  | cons x l ih => exact ih (hg p x h)

theorem Keeps.foldl_snd_snd {α β γ : Type} {s : State} {p : α × β × State} {g : α × β × State → γ → α × β × State}
    {l : List γ} (h : Keeps s p.2.2) (hg : ∀ q x, Keeps s q.2.2 → Keeps s (g q x).2.2) : Keeps s (l.foldl g p).2.2 := by
  induction l generalizing p with
  | nil => exact h
  | cons x l ih => exact ih (hg p x h)

theorem Keeps.ite_fst {α : Type} {s : State} {a b : State × α} {c : Prop} [Decidable c] (ha : Keeps s a.1) (hb : Keeps s b.1) :
    Keeps s (if c then a else b).1 := by
  split
  · exact ha
  · exact hb
theorem Keeps.ite_snd {α : Type} {s : State} {a b : α × State} {c : Prop} [Decidable c] (ha : Keeps s a.2) (hb : Keeps s b.2) :
    Keeps s (if c then a else b).2 := by
  split
  · exact ha
  · exact hb
theorem Keeps.ite_snd_fst {α β : Type} {s : State} {a b : α × State × β} {c : Prop} [Decidable c] (ha : Keeps s a.2.1)
    (hb : Keeps s b.2.1) : Keeps s (if c then a else b).2.1 := by
  split
  · exact ha
  · exact hb
theorem Keeps.ite_snd_snd {α β : Type} {s : State} {a b : α × β × State} {c : Prop} [Decidable c] (ha : Keeps s a.2.2)
    (hb : Keeps s b.2.2) : Keeps s (if c then a else b).2.2 := by
  split
  · exact ha
  · exact hb
theorem Keeps.ite_state {s : State} {a b : VecOut} {c : Prop} [Decidable c] (ha : Keeps s a.state) (hb : Keeps s b.state) :
    Keeps s (if c then a else b).state := by
  split
  · exact ha
  · exact hb

theorem Keeps.getD {s t : State} {o : Option State} (ho : ∀ u, o = some u → Keeps s u) (h : Keeps s t) : Keeps s (o.getD t) := by
  cases o with
  | none => exact h
  | some u => exact ho u rfl

/-! ### Operations that may end with no state -/

theorem Keeps.of_some {s t u : State} (e : some t = some u) (h : Keeps s t) : Keeps s u := .of_eq (Option.some.inj e) h
theorem Keeps.of_ite_some {s u : State} {a b : Option State} {c : Prop} [Decidable c] (e : (if c then a else b) = some u)
    (ha : a = some u → Keeps s u) (hb : b = some u → Keeps s u) : Keeps s u := by
  split at e
  · exact ha e
  · exact hb e
theorem Keeps.of_map_some {α : Type} {s u : State} {o : Option α} {f : α → State} (e : o.map f = some u)
    (hf : ∀ v, o = some v → Keeps s (f v)) : Keeps s u := by
  obtain ⟨v, ho, rfl⟩ := Option.map_eq_some_iff.mp e
  exact hf v ho
theorem Keeps.of_bind_some {α : Type} {s u : State} {o : Option α} {f : α → Option State} (e : o.bind f = some u)
    (hf : ∀ v, o = some v → f v = some u → Keeps s u) : Keeps s u := by
  obtain ⟨v, ho, hv⟩ := Option.bind_eq_some_iff.mp e
  exact hf v ho hv

/-- A list of changes, each of which may end with no state: where the last leaves one, each of them left one. -/
theorem Keeps.of_foldl_some {α : Type} {s t u : State} {g : Option State → α → Option State} {l : List α}
    (e : l.foldl g (some t) = some u) (h : Keeps s t) (hn : ∀ x, g none x = none)
    (hg : ∀ v x w, g (some v) x = some w → Keeps s v → Keeps s w) : Keeps s u := by
  induction l generalizing t with
  | nil => exact .of_some e h
  | cons x l ih =>
    rw [List.foldl_cons] at e
    cases hx : g (some t) x with
    | some v => exact ih (hx ▸ e) (hg t x v hx h)
    | none =>
      rw [hx, List.foldl_fixed' hn] at e
      cases e

/-- The same with a count that goes along. -/
theorem Keeps.of_foldl_fst_some {α β : Type} {s t u : State} {b : β} {g : Option State × β → α → Option State × β} {l : List α}
    (e : (l.foldl g (some t, b)).1 = some u) (h : Keeps s t) (hn : ∀ b x, (g (none, b) x).1 = none)
    (hg : ∀ v b x w, (g (some v, b) x).1 = some w → Keeps s v → Keeps s w) : Keeps s u := by
  have hnone : ∀ (l : List α) b, (l.foldl g (none, b)).1 = none := by
    intro l
    induction l with
    | nil => intro b; rfl
    | cons x l ih =>
      intro b
      rw [List.foldl_cons, ← Prod.mk.eta (p := g (none, b) x), hn b x]
      exact ih _
  induction l generalizing t b with
  | nil => exact .of_some e h
  | cons x l ih =>
    rw [List.foldl_cons, ← Prod.mk.eta (p := g (some t, b) x)] at e
    cases hx : (g (some t, b) x).1 with
    | some v => exact ih (hx ▸ e) (hg t b x v hx h)
    | none =>
      rw [hx, hnone] at e
      cases e

/-- A change of fields other than the queue, memory, the register file and the record of writes. -/
theorem Keeps.of_mk {s t : State}
    {free timeUs out cache tick nativePins frames frameBase pageMap mapout tokens levels grants stalls chanServed cmds
     recent seqs visits dma dmaEng dqs dcqCount dcqWritten feedLast stg gtag acc slots engs vec progs launches vcs saved
     slotOwner caravans banks tags shadows skewed mbs train oasQueues oasActive oasTurn oasXfers flows colls creditTurn
     epochs failCode heat sirocco sirSteps mirage dump sec mlogs span slowKeys ides spdms pwr unread errWrap unsig msixTable
     msixPend halves faultCode}
    (h : Keeps s t) :
    Keeps s (.mk t.pending free timeUs t.regs t.written out t.mem cache tick nativePins frames frameBase pageMap mapout tokens levels
      grants stalls chanServed cmds recent seqs visits dma dmaEng dqs dcqCount dcqWritten feedLast stg gtag acc slots engs vec
      progs launches vcs saved slotOwner caravans banks tags shadows skewed mbs train oasQueues oasActive oasTurn oasXfers
      flows colls creditTurn epochs failCode heat sirocco sirSteps mirage dump sec mlogs span slowKeys ides spdms pwr unread
      errWrap unsig msixTable msixPend halves faultCode) := h

/-- What a meaning answers: a fault, a refusal, or a next state that keeps the queue and the canonical forms. -/
def KeepsRes (s : State) (r : Res) : Prop := ∀ t, r = .next t → Keeps s t

theorem KeepsRes.next {s t : State} (h : Keeps s t) : KeepsRes s (.next t) := by
  rintro _ ⟨⟩
  exact h
theorem KeepsRes.fault {s : State} {f : Fault} : KeepsRes s (.fault f) := by rintro _ ⟨⟩
theorem KeepsRes.refused {s : State} {r : Refusal} : KeepsRes s (.refused r) := by rintro _ ⟨⟩
theorem KeepsRes.ite {s : State} {a b : Res} {c : Prop} [Decidable c] (ha : KeepsRes s a) (hb : KeepsRes s b) :
    KeepsRes s (if c then a else b) := by
  split
  · exact ha
  · exact hb

/-! ### Registers, memory and records -/

theorem Keeps.put {s t : State} {f : Fld} {v : Nat} (h : Keeps s t) : Keeps s (t.put f v) := keeps_trans h (keeps_put t f v)
theorem Keeps.markWritten {s t : State} {f : Fld} (h : Keeps s t) : Keeps s (t.markWritten f) :=
  keeps_trans h (keeps_markWritten t f)
theorem Keeps.resetRange {s t : State} {lo hi : Nat} (h : Keeps s t) : Keeps s (t.resetRange lo hi) :=
  keeps_trans h (keeps_resetRange t lo hi)
theorem Keeps.storeAt {s t : State} {as : List Nat} {bs : List Byte} (h : Keeps s t) : Keeps s (storeAt t as bs) :=
  keeps_trans h (keeps_storeAt t as bs)
theorem Keeps.touchAll {s t : State} {wr : Bool} {n : Nat} {as : List Nat} (h : Keeps s t) : Keeps s (touchAll t wr n as) :=
  keeps_trans h (keeps_touchAll t wr n as)
theorem Keeps.access {s t : State} {wr : Bool} {as : List Nat} (h : Keeps s t) : Keeps s (access t wr as) :=
  keeps_trans h (keeps_access t wr as)
theorem Keeps.pWrite {s t u : State} {p x : Nat} {bs : List Byte} (e : pWrite t p x bs = some u) (h : Keeps s t) : Keeps s u :=
  keeps_trans h (keeps_pWrite e)
theorem Keeps.logRec {s t : State} {r : Rec} (h : Keeps s t) : Keeps s (logRec t r) := keeps_trans h (keeps_logRec t r)
theorem Keeps.raise {s t : State} {last : List Fld} {r : Rec} (h : Keeps s t) : Keeps s (raise t last r) :=
  keeps_trans h (keeps_raise t last r)
theorem Keeps.storeField {s t : State} {key : Nat} {x : FRow × Nat} (h : Keeps s t) : Keeps s (storeField t key x) :=
  keeps_trans h (keeps_storeField t key x)
theorem Keeps.storeBut {s t : State} {x : Wr} {los : List Nat} (h : Keeps s t) : Keeps s (storeBut t x los) :=
  keeps_trans h (keeps_storeBut t x los)
theorem Keeps.ringRecord {s t : State} {p : Nat} {ws : List Nat} (h : Keeps s t) : Keeps s (ringRecord t p ws) := by
  have hf := ringRecord_frame t p ws
  exact keeps_trans h (keeps_of_regs (congrArg State.pending hf :) (congrArg State.mem hf :) (congrArg State.written hf :)
    (ringRecord_regs t p ws))


/-! ### Ops -/

theorem Keeps.bump {s t : State} {f n} (h : Keeps s t) : Keeps s (State.bump t f n) := .put h

theorem Keeps.bumpWrap {s t : State} {f n} (h : Keeps s t) : Keeps s (State.bumpWrap t f n) := .put h

theorem Keeps.putAll {s t : State} {fs v} (h : Keeps s t) : Keeps s (State.putAll t fs v) :=
  .foldl' h (fun _ _ hu => .put hu)

theorem Keeps.clear {s t : State} {f} (h : Keeps s t) : Keeps s (State.clear t f) := .put h

theorem Keeps.emit {s t : State} {o} (h : Keeps s t) : Keeps s (State.emit t o) := .of_mk h

theorem Keeps.draw {s t : State} (h : Keeps s t) : Keeps s (State.draw t).2 := .of_mk h

theorem Keeps.putFree {s t : State} {f} (h : Keeps s t) : Keeps s (State.putFree t f) := .of_mk (.put h)

theorem Keeps.putLog {s t : State} {i a3 a4} (h : Keeps s t) : Keeps s (putLog t i a3 a4) := by
  fun_induction Machine.putLog
  · exact h
  next e =>
    exact e (.put h)

theorem Keeps.setIde {s t : State} {p x} (h : Keeps s t) : Keeps s (State.setIde t p x) := .of_mk h

theorem Keeps.toHost {s t : State} {port p addr bs} (h : Keeps s t) : Keeps s (toHost t port p addr bs) := .emit h

theorem Keeps.sendMsix {s t : State} {b v} (h : Keeps s t) : Keeps s (sendMsix t b v) := .ite (.of_mk h) (.emit h)

theorem Keeps.setFrame {s t : State} {f st} (h : Keeps s t) : Keeps s (setFrame t f st) := by
  unfold Machine.setFrame
  extract_lets old count
  have hcount : ∀ u x up, Keeps s u → Keeps s (count u x up) := by
    intro u x up hu
    have hstep : ∀ r : Fld, Keeps s (if up = true then u.put r (u.get r + 1) else u.put r (u.get r - 1)) :=
      fun r => .ite (.put hu) (.put hu)
    cases x with
    | free => exact hstep _
    | zeroizing p => exact hstep _
    | quarantined => exact hstep _
    | owned p => exact hu
  exact .of_mk (hcount _ _ _ (hcount _ _ _ h))

theorem Keeps.pinCounts {s t : State} (h : Keeps s t) : Keeps s (pinCounts t) := .foldl' h (fun _ _ hu => .put hu)

theorem Keeps.touch {s t : State} {a2 wr} (h : Keeps s t) : Keeps s (touch t a2 wr) := by
  unfold Machine.touch
  refine .ite (.of_mk (.ite h ?_)) h
  split
  · exact .of_mk h
  · exact h

theorem Keeps.takeKeys {s t : State} {ks} (h : Keeps s t) : Keeps s (takeKeys t ks) := .of_mk h

theorem Keeps.waitParts {s t : State} {ps} (h : Keeps s t) : Keeps s (waitParts t ps) :=
  .foldl' h (fun _ _ hu => .bumpWrap hu)

theorem Keeps.waitKeys {s t : State} {ks} (h : Keeps s t) : Keeps s (waitKeys t ks) := .waitParts h

theorem Keeps.payTokens {s t : State} {ks} (h : Keeps s t) : Keeps s (payTokens t ks) :=
  .ite (.takeKeys h) (.ite (.of_mk (.foldl' h (fun _ _ hu => .bumpWrap hu))) (.foldl' (.of_mk h)
    (fun _ _ hv => .bumpWrap hv)))

theorem Keeps.unlessStalled {s t t1 : State} (h : Keeps s t) (h1 : Keeps s t1) : Keeps s (unlessStalled t t1) :=
  .ite (.foldl' h (fun _ _ hu => .put hu)) h1

theorem Keeps.pTouch {s t : State} {p x n} (h : Keeps s t) : Keeps s (pTouch t p x n) := by
  unfold Machine.pTouch
  split
  · exact .access h
  · exact h

theorem Keeps.pPut {s t : State} {p x n v} (h : Keeps s t) : Keeps s (pPut t p x n v) :=
  .getD (fun _ e => .pWrite e h) h

theorem Keeps.devWrite {s t : State} {a2 bs} (h : Keeps s t) : Keeps s (devWrite t a2 bs) := .storeAt (.access h)

/-! ### Operands -/

theorem Keeps.stgWrite {s t : State} {c bank x bs} (h : Keeps s t) : Keeps s (stgWrite t c bank x bs) := .of_mk h

theorem Keeps.setPresent {s t : State} {c bank g tag skew} (h : Keeps s t) : Keeps s
    (setPresent t c bank g tag skew) :=
  .of_mk (.put h)

theorem Keeps.clearPresent {s t : State} {c bank a4 a5} (h : Keeps s t) : Keeps s (clearPresent t c bank a4 a5) := by
  fun_induction Machine.clearPresent
  · exact h
  next e =>
    exact e (.put h)

theorem Keeps.clearStaging {s t : State} {c} (h : Keeps s t) : Keeps s (clearStaging t c) :=
  .clearPresent (.clearPresent (.clearPresent h))

/-! ### Ripple -/

theorem Keeps.setTr {s t : State} {p t3} (h : Keeps s t) : Keeps s (State.setTr t p t3) := .of_mk h

theorem Keeps.drawKey {s t : State} {p} (h : Keeps s t) : Keeps s (drawKey t p).2 := .setTr h

theorem Keeps.digestTile {s t : State} {p v c seq iid q bs} (h : Keeps s t) : Keeps s
    (digestTile t p v c seq iid q bs) := by
  unfold Machine.digestTile
  dsimp only
  split
  · exact .setTr h
  · exact .setTr h
  · exact h

theorem Keeps.recordOrder {s t : State} {p seq q b raw} (h : Keeps s t) : Keeps s (recordOrder t p seq q b raw) := by
  unfold Machine.recordOrder
  dsimp only
  split
  · exact .setTr h
  · exact h

theorem Keeps.recordFabric {s t : State} {p f} (h : Keeps s t) : Keeps s (recordFabric t p f) := by
  unfold Machine.recordFabric
  dsimp only
  split
  · exact .setTr h
  · exact h

theorem Keeps.recordBinding {s t : State} {p x} (h : Keeps s t) : Keeps s (recordBinding t p x) := by
  unfold Machine.recordBinding
  dsimp only
  split
  · exact .setTr h
  · exact h

theorem Keeps.endReplay {s t : State} {p r st} (h : Keeps s t) : Keeps s (endReplay t p r st) :=
  .put (.put (.setTr h))

theorem Keeps.startReplayed {s t : State} {p r} (h : Keeps s t) : Keeps s (startReplayed t p r) := by
  unfold Machine.startReplayed
  split
  · exact .of_mk (.setTr h)
  · exact .endReplay h

theorem Keeps.replayNext {s t : State} {p seq} (h : Keeps s t) : Keeps s (replayNext t p seq) := by
  unfold Machine.replayNext
  split
  · exact h
  · split
    · exact .raise (.put (.put (.put (.put (.put (.endReplay h))))))
    · exact .ite (.endReplay h) (.startReplayed h)

/-! ### Cmd -/

theorem Keeps.setCmd {s t : State} {p q c} (h : Keeps s t) : Keeps s (State.setCmd t p q c) := .of_mk h

theorem Keeps.queueFlags {s t : State} {q} (h : Keeps s t) : Keeps s (queueFlags t q) := .put (.put h)

theorem Keeps.signalRecord {s t : State} {q port} (h : Keeps s t) : Keeps s (signalRecord t q port) :=
  .ite (.ite (.sendMsix (.of_mk h)) (.of_mk h)) h

theorem Keeps.finishCmd {s t : State} {p seq outcome code abortResult detail} (h : Keeps s t) : Keeps s
    (finishCmd t p seq outcome code abortResult detail) :=
  .ite (.replayNext (.setCmd h)) (.signalRecord (.queueFlags (.setCmd (.ite (.put (.put (.ite (.put (.put (.of_mk
    (.toHost h)))) (.put (.of_mk (.toHost h)))))) (.put (.ite (.put (.put (.of_mk (.toHost h)))) (.put (.of_mk
    (.toHost h)))))))))

theorem Keeps.dropCmd {s t : State} {p seq} (h : Keeps s t) : Keeps s (dropCmd t p seq) :=
  .ite (.setCmd h) (.queueFlags (.setCmd (.put h)))

theorem Keeps.completeCmd {s t : State} {p seq detail} (h : Keeps s t) : Keeps s (completeCmd t p seq detail) :=
  .finishCmd h

theorem Keeps.failCmd {s t : State} {last p seq r detail} (h : Keeps s t) : Keeps s (failCmd t last p seq r detail) :=
  .finishCmd (.raise h)

theorem Keeps.abortsDone {s t : State} {p seq} (h : Keeps s t) : Keeps s (abortsDone t p seq) :=
  .foldl' h (fun _ _ hu => .ite (.finishCmd hu) hu)

theorem Keeps.settleLaunch {s t : State} {p} (h : Keeps s t) : Keeps s (settleLaunch t p) := by
  unfold Machine.settleLaunch
  refine .foldl' h (fun u x hu => ?_)
  split
  · dsimp only
    split
    · exact .ite (.abortsDone (.finishCmd hu)) hu
    · exact hu
    · exact hu
  · dsimp only
    split
    · exact .ite (.abortsDone (.finishCmd hu)) hu
    · exact .abortsDone (.finishCmd hu)
    · exact hu

theorem Keeps.copyEnded {s t : State} {d} (h : Keeps s t) : Keeps s (copyEnded t d) := by
  unfold Machine.copyEnded
  refine .ite ?_ h
  split
  · exact .ite (.completeCmd h) (.setCmd h)
  · exact .ite (.abortsDone (.finishCmd h)) (.setCmd h)
  · exact h

/-! ### Flow -/

theorem Keeps.setFlow {s t : State} {p f x} (h : Keeps s t) : Keeps s (State.setFlow t p f x) := .of_mk h

theorem Keeps.readRecord {s t : State} {p x n} (h : Keeps s t) : Keeps s (readRecord t p x n) := by
  unfold Machine.readRecord
  split
  · exact .raise h
  · exact .pTouch h

theorem Keeps.lookFlow {s t : State} {p f} (h : Keeps s t) : Keeps s (lookFlow t p f) := .ite (.readRecord h) h

theorem Keeps.emitFrame {s t : State} {p f ty flags op phase tag psn inst off payload} (h : Keeps s t) : Keeps s
    (emitFrame t p f ty flags op phase tag psn inst off payload).1 := by
  unfold Machine.emitFrame
  split
  · exact h
  · exact .emit (.setFlow (.readRecord h))

theorem Keeps.sendSeq {s t : State} {p f x pay} (h : Keeps s t) : Keeps s (sendSeq t p f x pay) := by
  obtain ⟨F, hF⟩ : ∃ F, F = @Machine.sendSeq := ⟨_, rfl⟩
  rw [← hF]
  delta Machine.sendSeq at hF
  subst hF
  beta_reduce
  extract_lets
  split
  next u n e => exact .setFlow (.of_fst e (.emitFrame (.pPut h)))

theorem Keeps.putCtrl {s t : State} {p f code args} (h : Keeps s t) : Keeps s (putCtrl t p f code args) := .sendSeq h

theorem Keeps.sendCtrl {s t : State} {p f code args} (h : Keeps s t) : Keeps s (sendCtrl t p f code args) :=
  .ite (.ite (.putCtrl h) (.setFlow h)) h

theorem Keeps.sendHeld {s t : State} {a1 a3 a4} (h : Keeps s t) : Keeps s (sendHeld a1 t a3 a4) := by
  fun_induction Machine.sendHeld
  · exact h
  · exact h
  next e =>
    exact e (.putCtrl (.setFlow h))
  · exact h

theorem Keeps.sendMessages {s t : State} {p f a4 a5} (h : Keeps s t) : Keeps s (sendMessages t p f a4 a5) := by
  fun_induction Machine.sendMessages
  · exact h
  next e e' =>
    exact e' (.emitFrame (.of_snd e (.draw h)))

theorem Keeps.startShakes {s t : State} (h : Keeps s t) : Keeps s (startShakes t) :=
  .foldl' h (fun _ _ hu => .sendMessages (.setFlow hu))

theorem Keeps.setFlowState {s t : State} {p f v} (h : Keeps s t) : Keeps s (setFlowState t p f v) :=
  .ite (.startShakes (.setFlow (.ite (.put (.ite (.setFlow (.pPut h)) (.pPut h))) (.ite (.put (.ite (.setFlow
    (.pPut h)) (.pPut h))) (.ite (.setFlow (.pPut h)) (.pPut h)))))) (.ite (.put (.ite (.setFlow (.pPut h))
    (.pPut h))) (.ite (.put (.ite (.setFlow (.pPut h)) (.pPut h))) (.ite (.setFlow (.pPut h)) (.pPut h))))

theorem Keeps.removeFrames {s t : State} (h : Keeps s t) : Keeps s (removeFrames t) :=
  .foldl' h (fun _ _ hu => .foldl' hu (fun _ _ hv => .sendCtrl hv))

theorem Keeps.linkDown {s t : State} {f} (h : Keeps s t) : Keeps s (linkDown t f) := .ite (.raise (.put h)) h

theorem Keeps.portsDown {s t : State} (h : Keeps s t) : Keeps s (portsDown t) :=
  .foldl' h (fun _ _ hu => .linkDown hu)

/-! ### Stop -/

theorem Keeps.setVc {s t : State} {p v c} (h : Keeps s t) : Keeps s (State.setVc t p v c) := .of_mk h

theorem Keeps.setEng {s t : State} {c e3} (h : Keeps s t) : Keeps s (State.setEng t c e3) := .of_mk h

theorem Keeps.setVu {s t : State} {c e3} (h : Keeps s t) : Keeps s (State.setVu t c e3) := .put (.of_mk h)

theorem Keeps.setLaunch {s t : State} {p l} (h : Keeps s t) : Keeps s (State.setLaunch t p l) := .of_mk h

theorem Keeps.setProg {s t : State} {p h3 g} (h : Keeps s t) : Keeps s (State.setProg t p h3 g) := .of_mk h

theorem Keeps.setCar {s t : State} {p d i} (h : Keeps s t) : Keeps s (State.setCar t p d i) := .of_mk h

theorem Keeps.setMb {s t : State} {p m b} (h : Keeps s t) : Keeps s (State.setMb t p m b) := .of_mk h

theorem Keeps.launchTile {s t : State} {p v c iid q bs} (h : Keeps s t) : Keeps s (launchTile t p v c iid q bs) :=
  .digestTile h

theorem Keeps.bumpPair {s t : State} {f : Nat → Fld} {c n} (h : Keeps s t) : Keeps s (bumpPair t f c n) :=
  .foldl' h (fun _ _ hu => .bump hu)

theorem Keeps.bumpPairWrap {s t : State} {f : Nat → Fld} {c n} (h : Keeps s t) : Keeps s (bumpPairWrap t f c n) :=
  .foldl' h (fun _ _ hu => .bumpWrap hu)

theorem Keeps.retire {s t : State} {c} (h : Keeps s t) : Keeps s (retire t c) := .bumpPairWrap h

theorem Keeps.partDone {s t : State} {p v i} (h : Keeps s t) : Keeps s (partDone t p v i) :=
  .ite h (.ite (.ite (.setVc h) (.retire (.setVc h))) (.setVc h))

theorem Keeps.clearNamed {s t : State} {c a3} (h : Keeps s t) : Keeps s (clearNamed t c a3) := by
  fun_induction Machine.clearNamed
  · exact h
  next e =>
    exact e (.clearPresent h)

theorem Keeps.engFlags {s t : State} {c} (h : Keeps s t) : Keeps s (engFlags t c) := .put (.put h)

theorem Keeps.freeSlot {s t : State} {c t3} (h : Keeps s t) : Keeps s (freeSlot t c t3) := .of_mk (.put h)

theorem Keeps.abortEngine {s t : State} {c} (h : Keeps s t) : Keeps s (abortEngine t c) := by
  unfold Machine.abortEngine
  refine .engFlags (.put (.put (.put (.put (.put (.setEng (.clearNamed (.foldl' ?_ (fun _ _ hu => .ite
    (.freeSlot hu) hu)))))))))
  split
  · refine .freeSlot ?_
    split
    · exact .freeSlot h
    · exact h
  · split
    · exact .freeSlot h
    · exact h

theorem Keeps.abortVector {s t : State} {c} (h : Keeps s t) : Keeps s (abortVector t c) :=
  .foldl' (.setVu h) (fun _ _ hu => .put hu)

theorem Keeps.setChan {s t : State} {c n x} (h : Keeps s t) : Keeps s (State.setChan t c n x) := .of_mk h

theorem Keeps.setDqRing {s t : State} {k ds} (h : Keeps s t) : Keeps s (setDqRing t k ds) := .put (.of_mk h)

theorem Keeps.stopCopy {s t : State} {p seq} (h : Keeps s t) : Keeps s (stopCopy t p seq) :=
  .foldl' (.of_mk h) (fun _ _ hu => .setDqRing hu)

theorem Keeps.failCopy {s t : State} {last p seq r} (h : Keeps s t) : Keeps s (failCopy t last p seq r) :=
  .settleLaunch (.setCmd (.stopCopy (.raise h)))

theorem Keeps.stopDma {s t : State} {p} (h : Keeps s t) : Keeps s (stopDma t p) :=
  .foldl' (.of_mk h) (fun _ _ hu => .of_mk (.put hu))

theorem Keeps.releasePins {s t : State} {which : PinOwner → Bool} (h : Keeps s t) : Keeps s (releasePins t which) :=
  .pinCounts (.of_mk h)

theorem Keeps.releaseNative {s t : State} {p} (h : Keeps s t) : Keeps s (releaseNative t p) := .pinCounts (.of_mk h)

theorem Keeps.carEnded {s t : State} {i aborted} (h : Keeps s t) : Keeps s (carEnded t i aborted) := by
  unfold Machine.carEnded
  refine .foldl' (.foldl' h (fun u x hu => ?_)) (fun _ _ hv => .bumpWrap (.foldl' (.ite (.put hv) hv)
    (fun _ _ hw => .put hw)))
  split
  · exact .put (.put (.put hu))

theorem Keeps.abortCar {s t : State} {p d} (h : Keeps s t) : Keeps s (abortCar t p d) := by
  unfold Machine.abortCar
  split
  · exact h
  · refine .setCar (.releasePins (.foldl' (.carEnded h) (fun u x hu => ?_)))
    split
    · exact .foldl' hu (fun _ _ hv => .clearPresent hv)

theorem Keeps.abortCars {s t : State} {p seq own log} (h : Keeps s t) : Keeps s (abortCars t p seq own log).1 := by
  unfold Machine.abortCars
  refine .foldl_fst h (fun x y hu => ?_)
  split
  · exact hu
  · exact .abortCar (.ite (.raise hu) hu)

theorem Keeps.setRefs {s t : State} {p i slot} {f : Nat → Nat} (h : Keeps s t) : Keeps s (setRefs t p i slot f) :=
  .pPut h

theorem Keeps.mbBoundary {s t : State} {p holds} (h : Keeps s t) : Keeps s (mbBoundary t p holds) := .ite (.setTr h) h

theorem Keeps.closeMb {s t : State} {p m holds} (h : Keeps s t) : Keeps s (closeMb t p m holds) :=
  .mbBoundary (.put (.setMb (.foldl' h (fun _ _ hu => .setRefs hu))))

theorem Keeps.closeSpans {s t : State} {p vs} (h : Keeps s t) : Keeps s (closeSpans t p vs) := by
  unfold Machine.closeSpans
  refine .foldl' h (fun u x hu => ?_)
  split
  · exact .ite (.closeMb hu) hu
  · exact hu

theorem Keeps.instCount {s t : State} {p} (h : Keeps s t) : Keeps s (instCount t p) := .put h

theorem Keeps.tellAbort {s t : State} {x} (h : Keeps s t) : Keeps s (tellAbort t x) := by
  unfold Machine.tellAbort
  refine .ite h (.foldl' h (fun u y hu => ?_))
  split
  · exact .ite hu (.sendCtrl hu)

theorem Keeps.stopFill {s t : State} {x q} (h : Keeps s t) : Keeps s (stopFill t x q) := .setDqRing (.of_mk h)

theorem Keeps.dropColl {s t : State} {x} (h : Keeps s t) : Keeps s (dropColl t x) := by
  unfold Machine.dropColl
  refine .instCount ?_
  split
  · exact .ite (.put (.put (.put (.stopFill (.of_mk (.of_mk h)))))) (.of_mk (.of_mk h))
  · exact .of_mk h

theorem Keeps.dropColls {s t : State} {p seq} (h : Keeps s t) : Keeps s (dropColls t p seq) :=
  .foldl' h (fun _ _ hu => .dropColl (.tellAbort hu))

theorem Keeps.setMir {s t : State} {p x} (h : Keeps s t) : Keeps s (State.setMir t p x) := .of_mk h

theorem Keeps.dropCtl {s t : State} {p} (h : Keeps s t) : Keeps s (dropCtl t p) := .of_mk h

theorem Keeps.mirageEnd {s t : State} {p} (h : Keeps s t) : Keeps s (mirageEnd t p) := .put (.setMir (.dropCtl h))

theorem Keeps.mirageFail {s t : State} {p code} (h : Keeps s t) : Keeps s (mirageFail t p code) :=
  .raise (.mirageEnd h)

theorem Keeps.seqIdle {s t : State} {c} (h : Keeps s t) : Keeps s (seqIdle t c) :=
  .foldl' (.put (.put h)) (fun _ _ hu => .put hu)

theorem Keeps.clearLaunch {s t : State} {p} (h : Keeps s t) : Keeps s (clearLaunch t p) :=
  .setLaunch (.releaseNative (.releasePins (.of_mk (.foldl' (.foldl' (.foldl' h (fun _ _ hu => .setEng
    (.clearNamed hu))) (fun _ _ hv => .seqIdle hv)) (fun _ _ hw => .setVc hw)))))

theorem Keeps.haltLaunch {s t : State} {p own log} (h : Keeps s t) : Keeps s (haltLaunch t p own log).1 := by
  unfold Machine.haltLaunch
  split
  · exact h
  · split
    next e =>
      exact .clearLaunch (.put (.dropColls (.closeSpans (.setTr (.stopDma (.foldl' (.of_fst e (.abortCars h))
        (fun _ _ hu => .abortVector (.abortEngine hu))))))))

theorem Keeps.stopCar {s t : State} {last p r own} (h : Keeps s t) : Keeps s (stopCar t last p r own) := by
  unfold Machine.stopCar
  split
  · exact .raise h
  · dsimp only
    exact .finishCmd (.haltLaunch (.raise h))

theorem Keeps.stopLaunch {s t : State} {last p r} (h : Keeps s t) : Keeps s (stopLaunch t last p r) := by
  unfold Machine.stopLaunch
  split
  · exact .stopCar h
  · exact .stopCar h

theorem Keeps.abortLaunch {s t : State} {p} (h : Keeps s t) : Keeps s (abortLaunch t p) := by
  unfold Machine.abortLaunch
  split
  · exact h
  · split
    next e =>
      exact .settleLaunch (.setCmd (.of_fst e (.haltLaunch h)))

theorem Keeps.killLaunch {s t : State} {p} (h : Keeps s t) : Keeps s (killLaunch t p) := .haltLaunch h

theorem Keeps.tryCommit {s t : State} {p} (h : Keeps s t) : Keeps s (tryCommit t p) := by
  unfold Machine.tryCommit
  split
  · exact h
  · exact .ite (.finishCmd (.clearLaunch h)) h

/-! ### Caravan -/

theorem Keeps.carPublish {s t : State} {i} (h : Keeps s t) : Keeps s (carPublish t i) := by
  unfold Machine.carPublish
  refine .foldl' h (fun u x hu => ?_)
  split
  · exact .put (.put (.put (.put (.put (.put (.put hu))))))

theorem Keeps.sentCar {s t : State} {p d i} (h : Keeps s t) : Keeps s (sentCar t p d i) := .of_mk (.setCar h)

theorem Keeps.carPump {s t : State} {p d} (h : Keeps s t) : Keeps s (carPump t p d) := by
  unfold Machine.carPump
  split
  · exact h
  · exact .carPublish (.sentCar h)

theorem Keeps.carPumpAll {s t : State} {p} (h : Keeps s t) : Keeps s (carPumpAll t p) :=
  .foldl' h (fun _ _ hu => .carPump hu)

theorem Keeps.carEnter {s t : State} {p v} (h : Keeps s t) : Keeps s (carEnter t p v) := by
  unfold Machine.carEnter
  split
  · exact h
  · exact .carPublish (.setCar h)

theorem Keeps.carBrought {s t : State} {p v b first n} (h : Keeps s t) : Keeps s (carBrought t p v b first n) := by
  unfold Machine.carBrought
  split
  · exact h
  · exact .setCar h

theorem Keeps.carOut {s t : State} {p v bs} (h : Keeps s t) : Keeps s (carOut t p v bs) := by
  unfold Machine.carOut
  split
  · exact h
  · exact .sentCar h

theorem Keeps.carWaits {s t : State} {p v sends} (h : Keeps s t) : Keeps s (carWaits t p v sends) := by
  unfold Machine.carWaits
  split
  · exact h
  · exact .carPublish (.setCar h)

theorem Keeps.carTake {s t : State} {p v} (h : Keeps s t) : Keeps s (carTake t p v) := by
  unfold Machine.carTake
  split
  · exact h
  · exact .setCar h

theorem Keeps.tileRead {s t : State} {p v n rel} (h : Keeps s t) : Keeps s (tileRead t p v n rel) := by
  unfold Machine.tileRead
  split
  · exact h
  · exact .setCar (.ite (.clearPresent h) h)

theorem Keeps.landGranule {s t : State} {p d i k data} (h : Keeps s t) : Keeps s (landGranule t p d i k data) :=
  .setCar (.ite (.ite (.foldl' (.stgWrite h) (fun _ _ hu => .setPresent hu)) h) (.setPresent (.stgWrite h)))

theorem KeepsRes.execHandOverGranuleLand {s t : State} {p d k fault} (h : Keeps s t) : KeepsRes s
    (execHandOverGranuleLand p d k fault t) := by
  unfold Machine.execHandOverGranuleLand
  split
  · exact .next h
  · dsimp only
    split
    · exact .next h
    · refine .ite (.next h) (.ite (.next (.stopCar (.setCar ?_))) (.ite (.next (.setCar ?_)) (.next (.carPump
        (.landGranule ?_)))))
      · split
        · exact .clearPresent h
        · exact h
      · split
        · exact .clearPresent h
        · exact h
      · split
        · exact .clearPresent h
        · exact h

theorem KeepsRes.execFetchPartStart {s t : State} {p d k} (h : Keeps s t) : KeepsRes s
    (execFetchPartStart p d k t) := by
  unfold Machine.execFetchPartStart
  split
  · exact .next h
  · exact .ite (.next (.carPublish (.setCar (.setVc h)))) (.next h)

theorem Keeps.carFetchEnd {s t : State} {p v d i k} (h : Keeps s t) : Keeps s (carFetchEnd t p v d i k) :=
  .ite (.carPublish (.setCar h)) h

theorem Keeps.closeCar {s t : State} {p d i} (h : Keeps s t) : Keeps s (closeCar t p d i) :=
  .setCar (.releasePins (.foldl' (.foldl' (.carEnded h) (fun _ _ hu => .retire (.setVc hu))) (fun _ _ hv => .put hv)))

theorem KeepsRes.execCaravanInstanceEnd {s t : State} {p d} (h : Keeps s t) : KeepsRes s
    (execCaravanInstanceEnd p d t) := by
  unfold Machine.execCaravanInstanceEnd
  split
  · exact .next h
  · exact .ite (.next (.tryCommit (.closeCar h))) (.next h)

theorem Keeps.carTileEnd {s t : State} {p v d i k} (h : Keeps s t) : Keeps s (carTileEnd t p v d i k) :=
  .ite (.carPump (.retire (.setCar h))) h

theorem Keeps.setBank {s t : State} {c b} (h : Keeps s t) : Keeps s (State.setBank t c b) := .of_mk h

theorem Keeps.loadBank {s t : State} {c key waits} (h : Keeps s t) : Keeps s (loadBank t c key waits) :=
  .put (.setBank h)

theorem KeepsRes.execBankLoad {s t : State} {c bank v} (h : Keeps s t) : KeepsRes s (execBankLoad c bank v t) :=
  .ite (.next (.emit (.bump h))) (.next (.loadBank h))

theorem Keeps.preload {s t : State} {c} (h : Keeps s t) : Keeps s (preload t c) := by
  unfold Machine.preload
  split
  · exact h
  · dsimp only
    split
    · exact h
    · exact .ite h (.loadBank h)

theorem Keeps.switchBank {s t : State} {c} (h : Keeps s t) : Keeps s (switchBank t c) :=
  .preload (.bumpWrap (.put (.setBank h)))

theorem Keeps.wantCode {s t : State} {c key} (h : Keeps s t) : Keeps s (wantCode t c key) := by
  unfold Machine.wantCode
  refine .ite (.preload (.setBank h)) ?_
  split
  · exact .ite (.switchBank h) (.loadBank h)
  · exact .ite (.setBank h) (.loadBank h)
  · exact .loadBank h

theorem Keeps.dropCode {s t : State} {p h3} (h : Keeps s t) : Keeps s (dropCode t p h3) :=
  .foldl' h (fun _ _ hu => .put (.setBank hu))

theorem KeepsRes.execBankLoadComplete {s t : State} {c} (h : Keeps s t) : KeepsRes s (execBankLoadComplete c t) := by
  unfold Machine.execBankLoadComplete
  dsimp only
  split
  · exact .next h
  · exact .next (.ite (.switchBank (.put (.setBank h))) (.put (.setBank h)))

theorem KeepsRes.execBankSwitch {s t : State} {c} (h : Keeps s t) : KeepsRes s (execBankSwitch c t) := by
  unfold Machine.execBankSwitch
  refine .ite ?_ (.next h)
  split
  · exact .next (.ite (.switchBank h) h)
  · exact .next (.setBank h)
  · exact .next h

/-! ### Fence -/

theorem Keeps.setMaster {s t : State} {p i o n v} (h : Keeps s t) : Keeps s (setMaster t p i o n v) := .pPut h

theorem Keeps.setSlotState {s t : State} {p i slot v} (h : Keeps s t) : Keeps s (setSlotState t p i slot v) := .pPut h

theorem Keeps.noteTags {s t : State} {p x n} (h : Keeps s t) : Keeps s (noteTags t p x n) := .of_mk h

theorem Keeps.setOasQueue {s t : State} {p q} (h : Keeps s t) : Keeps s (setOasQueue t p q) := .put (.of_mk h)

theorem Keeps.endRequest {s t : State} {r code rec_ more hw} (h : Keeps s t) : Keeps s
    (endRequest t r code rec_ more hw) :=
  .ite (.stopCar (.setMaster h)) (.raise (.setMaster h))

theorem Keeps.oasIdle {s t : State} (h : Keeps s t) : Keeps s (oasIdle t) := by
  unfold Machine.oasIdle
  split
  · exact h
  · exact .put (.put (.put (.put (.of_mk h))))

theorem Keeps.giveBack {s t : State} {x} (h : Keeps s t) : Keeps s (giveBack t x) := by
  unfold Machine.giveBack
  split
  · exact h
  · exact .setMaster (.setSlotState h)

theorem Keeps.cancelRequests {s t : State} {p code hw} (h : Keeps s t) : Keeps s (cancelRequests t p code hw) := by
  unfold Machine.cancelRequests
  refine .foldl' ?_ (fun _ _ hu => .ite hu (.endRequest hu))
  split
  · exact .ite (.ite (.oasIdle (.giveBack (.setOasQueue h))) (.endRequest (.oasIdle (.giveBack (.setOasQueue h)))))
      (.setOasQueue h)
  · exact .setOasQueue h

theorem Keeps.clearCore {s t : State} {c} (h : Keeps s t) : Keeps s (clearCore t c) :=
  .setBank (.setVu (.setEng (.of_mk (.foldl' (.clearStaging h) (fun _ _ hu => .freeSlot hu)))))

theorem Keeps.dropChannel {s t : State} {c n off} (h : Keeps s t) : Keeps s (dropChannel t c n off) :=
  .putFree (.put (.ite (.put (.put (.put (.setChan h)))) (.put (.put (.setChan h)))))

theorem Keeps.stopOnCore {s t : State} {p c hostFence} (h : Keeps s t) : Keeps s (stopOnCore t p c hostFence) := by
  unfold Machine.stopOnCore
  split
  · dsimp only
    split
    · exact .stopCar h
    · exact .stopLaunch h
  · dsimp only
    split
    · exact .stopCar h
    · exact .stopLaunch h

theorem Keeps.stopCopies {s t : State} {c hostFence} (h : Keeps s t) : Keeps s (stopCopies t c hostFence) :=
  .foldl' h (fun _ _ hu => .ite (.failCopy hu) (.copyEnded hu))

theorem Keeps.settleAll {s t : State} (h : Keeps s t) : Keeps s (settleAll t) :=
  .foldl' h (fun _ _ hu => .settleLaunch hu)

theorem Keeps.healthCounts {s t : State} (h : Keeps s t) : Keeps s (healthCounts t) := .put (.put h)

theorem Keeps.enterOchre {s t : State} {reason hw} (h : Keeps s t) : Keeps s (enterOchre t reason hw) :=
  .ite h (.portsDown (.removeFrames (.foldl' (.raise (.put (.put h))) (fun _ _ hu => .of_mk (.put (.dropCtl (.put
    (.cancelRequests (.ite (.stopCar hu) hu)))))))))

theorem Keeps.turnGrey {s t : State} {c code fence} (h : Keeps s t) : Keeps s (turnGrey t c code fence) :=
  .ite h (.settleAll (.healthCounts (.clearCore (.foldl' (.stopCopies (.ite (.foldl' (.ite (.stopOnCore (.raise
    (.put h))) (.raise (.put h))) (fun _ _ hu => .ite (.setProg hu) hu)) (.raise (.put h))))
    (fun _ _ hv => .dropChannel hv)))))

theorem Keeps.judgeLive {s t : State} {hw} (h : Keeps s t) : Keeps s (judgeLive t hw) := .ite (.enterOchre h) h

theorem Keeps.turnAmber {s t : State} {c code} (h : Keeps s t) : Keeps s (turnAmber t c code) :=
  .healthCounts (.of_mk (.raise (.put h)))

theorem Keeps.attributed {s t : State} {c code} (h : Keeps s t) : Keeps s (attributed t c code) :=
  .ite (.turnAmber h) (.ite (.judgeLive (.turnGrey h)) h)

theorem Keeps.requestSirocco {s t : State} {p} (h : Keeps s t) : Keeps s (requestSirocco t p) := .ite (.put h) h

theorem Keeps.siroccoBegin {s t : State} {p} (h : Keeps s t) : Keeps s (siroccoBegin t p) :=
  .ite (.raise (.put h)) (.put (.of_mk (.foldl' (.drawKey (.drawKey h)) (fun _ _ hu => .clearStaging hu))))

theorem Keeps.pairedMismatch {s t : State} {p v c shadow detail} (h : Keeps s t) : Keeps s
    (pairedMismatch t p v c shadow detail) :=
  .requestSirocco (.ite (.turnAmber (.ite (.turnAmber (.stopLaunch h)) (.stopLaunch h))) (.ite (.turnAmber
    (.stopLaunch h)) (.stopLaunch h)))

theorem Keeps.pairTile {s t : State} {p v c bs} (h : Keeps s t) : Keeps s (pairTile t p v c bs).1 := by
  unfold Machine.pairTile
  split
  · dsimp only
    split
    · exact .setLaunch h
    · exact .ite_fst (.of_mk (.setLaunch h)) (.pairedMismatch (.of_mk (.setLaunch h)))
  · exact h

theorem Keeps.takeStep {s t : State} {cs} (h : Keeps s t) : Keeps s (takeStep t cs) :=
  .foldl' h (fun _ _ hu => .put hu)

/-! ### RegBase -/

theorem Keeps.holdHalf {s t : State} {off w} (h : Keeps s t) : Keeps s (holdHalf t off w) := .of_mk h

theorem Keeps.regRecord {s t : State} {last code part core off w more} (h : Keeps s t) : Keeps s
    (regRecord t last code part core off w more) :=
  .raise h

theorem Keeps.wrRecord {s t : State} {last code x more} (h : Keeps s t) : Keeps s (wrRecord t last code x more) :=
  .regRecord h

theorem Keeps.judge {s t : State} {off w} (h : Keeps s t) : Keeps s (judge t off w).1 := by
  unfold Machine.judge
  split
  · exact h
  · refine .ite_fst h ?_
    extract_lets +onlyGivenNames held u core refuse sel part charged
    have hu : Keeps s u := .holdHalf h
    have hr : ∀ v code q, Keeps s v → Keeps s (refuse v code q).1 := fun _ _ _ hv => .regRecord hv
    refine .ite_fst (hr _ _ _ hu) (.ite_fst (hr _ _ _ hu) (.ite_fst (hr _ _ _ hu) (.ite_fst (hr _ _ _ hu) ?_)))
    extract_lets +onlyGivenNames key cur vals locked
    split
    next v vals' e =>
      have hv : Keeps s v := .of_fst e (.ite_fst (.ite (.regRecord hu) hu) hu)
      exact .ite (.regRecord hv) hv

theorem Keeps.storeAll {s t : State} {x} (h : Keeps s t) : Keeps s (storeAll t x) := .storeBut h

theorem Keeps.hostWrite {s t : State} {off w} {act : State → Wr → State} (h : Keeps s t)
    (hact : ∀ u x2, Keeps s u → Keeps s (act u x2)) : Keeps s (hostWrite t off w act) := by
  unfold Machine.hostWrite
  split
  next e =>
    exact hact _ _ (.of_fst e (.judge h))
  next e' =>
    exact .of_fst e' (.judge h)

/-! ### MemOps -/

theorem Keeps.setBucket {s t : State} {p e3 n} (h : Keeps s t) : Keeps s (setBucket t p e3 n) := .of_mk h

theorem Keeps.capBucket {s t : State} {p e3} (h : Keeps s t) : Keeps s (capBucket t p e3) := .setBucket h

theorem Keeps.loseLine {s t : State} {ln} (h : Keeps s t) : Keeps s (loseLine t ln) :=
  .ite (.storeAt (.of_mk h)) (.of_mk h)

theorem Keeps.memFindAt {s t : State} {a2 ev} (h : Keeps s t) : Keeps s (memFindAt t a2 ev).1 := by
  unfold Machine.memFindAt
  split
  · exact .ite h (.bump h)
  · exact .ite h (.bump h)
  · exact .ite_fst h (.bump (.bump h))
  · exact .ite_fst h (.bump h)
  · exact .bump h
  · exact .ite_fst h (.ite_fst (.bump (.loseLine h)) (.bump h))

theorem Keeps.findAll {s t : State} {at_ : Nat → Option Nat} {a3} (h : Keeps s t) : Keeps s (findAll t at_ a3).1 := by
  fun_induction Machine.findAll
  · exact h
  next e e' =>
    exact e' (.of_fst e (.memFindAt h))
  next e'' =>
    exact .of_fst e'' (.memFindAt h)
  next e1 =>
    exact e1 h
  next e2 =>
    exact e2 h

theorem Keeps.memFinds {s t : State} {at_ : Nat → Option Nat} {ev} (h : Keeps s t) : Keeps s (memFinds t at_ ev).1 :=
  .findAll h

theorem Keeps.readFinds {s t : State} {p} {at_ : Nat → Option Nat} {ev} (h : Keeps s t) : Keeps s
    (readFinds t p at_ ev).1 := by
  unfold Machine.readFinds
  split
  · exact h
  · split
    next e =>
      exact .of_fst e (.memFinds h)

theorem Keeps.becomeFaulted {s t : State} {p code} (h : Keeps s t) : Keeps s (becomeFaulted t p code) :=
  .ite (.stopLaunch (.ite h (.put (.of_mk h)))) (.ite h (.put (.of_mk h)))

theorem Keeps.afterLoss {s t : State} {a2 code} (h : Keeps s t) : Keeps s (afterLoss t a2 code) := by
  unfold Machine.afterLoss
  refine .ite ?_ h
  split
  · exact .becomeFaulted h
  · exact h

theorem Keeps.pinLine {s t u : State} {o ln} (e : pinLine t o ln = some u) (h : Keeps s t) : Keeps s u := by
  unfold Machine.pinLine at e
  dsimp only at e
  split at e
  · cases e
  · split at e
    · cases e
    · cases e
      exact .of_mk (.access h)

theorem Keeps.pinAll {s t : State} {u o l} (e : pinAll t o l = some u) (h : Keeps s t) : Keeps s u := by
  induction l generalizing t with
  | nil => cases e; exact h
  | cons ln l ih =>
    unfold Machine.pinAll at e
    split at e
    next v hv => exact ih e (.pinLine hv h)
    · cases e

theorem Keeps.pinRange {s t : State} {p o x n} (h : Keeps s t) : Keeps s (pinRange t p o x n).2 := by
  unfold Machine.pinRange
  refine .ite_snd h ?_
  dsimp only
  split
  · exact h
  · split
    next e =>
      exact .pinCounts (.pinAll e h)
    · exact h

/-! ### Scale -/

theorem Keeps.observe {s t : State} {p i par o} (h : Keeps s t) : Keeps s (observe t p i par o) :=
  .pPut (.pPut (.pPut (.pPut h)))

theorem Keeps.scaleStep5 {s t : State} {p i t4} (h : Keeps s t) : Keeps s (scaleStep5 t p i t4) :=
  .pPut (.pPut (.pPut h))

theorem Keeps.scaleFault {s t : State} {p i t4 code} (h : Keeps s t) : Keeps s (scaleFault t p i t4 code) :=
  .logRec (.setTr h)

theorem Keeps.scaleUpdate {s t : State} {p i n} (h : Keeps s t) : Keeps s (scaleUpdate t p i n) := by
  obtain ⟨F, hF⟩ : ∃ F, F = @Machine.scaleUpdate := ⟨_, rfl⟩
  rw [← hF]
  delta Machine.scaleUpdate at hF
  subst hF
  beta_reduce
  extract_lets a par hiV loV head t1 t2 t3 cnt t4 ent hi lo
  have h4 : Keeps s t4 := .pPut (.pPut (.pPut (.pPut h)))
  clear_value t4
  refine .ite (.scaleFault h) (.ite (.scaleStep5 (.logRec h)) (.ite (.scaleStep5 h) ?_))
  split
  exact .scaleStep5 (.pPut (.pPut (.pPut h4)))

/-! ### Xft -/

theorem Keeps.Coll_touchParts {s t : State} {x ps} (h : Keeps s t) : Keeps s (Coll.touchParts t x ps) := by
  unfold Machine.Coll.touchParts
  refine .ite h (.foldl' h (fun u y hu => ?_))
  split
  · exact .pTouch hu

theorem Keeps.putColl {s t : State} {x} (h : Keeps s t) : Keeps s (putColl t x) := .of_mk h

theorem Keeps.failColl {s t : State} {x code detail tell} (h : Keeps s t) : Keeps s (failColl t x code detail tell) :=
  .ite (.mirageFail (.ite (.tellAbort h) h)) (.stopLaunch (.dropColl (.ite (.tellAbort h) h)))

theorem Keeps.collWrite {s t : State} {x at_ bs} (h : Keeps s t) : Keeps s (collWrite t x at_ bs).2 := by
  unfold Machine.collWrite
  refine .ite_snd h ?_
  split
  next e =>
    exact .pWrite e h
  · exact h

theorem Keeps.sendStream {s t : State} {a1 a3 a4} (h : Keeps s t) : Keeps s (sendStream a1 t a3 a4).1 := by
  fun_induction Machine.sendStream
  · exact h
  · exact h
  · exact h
  next e =>
    exact e (.sendSeq (.ite (.Coll_touchParts h) h))

theorem Keeps.sendReq {s t : State} {x k ready} (h : Keeps s t) : Keeps s (sendReq t x k ready) := .emitFrame h

theorem Keeps.sendGrant {s t : State} {x f k limit} (h : Keeps s t) : Keeps s (sendGrant t x f k limit) :=
  .emitFrame h

theorem Keeps.driveStream {s t : State} {x k} (h : Keeps s t) : Keeps s (driveStream t x k).1 := by
  unfold Machine.driveStream
  dsimp only
  exact .sendStream (.ite_fst (.sendReq h) h)

theorem Keeps.ownOutput {s t : State} {x} (h : Keeps s t) : Keeps s (ownOutput t x).2.1 := by
  unfold Machine.ownOutput
  refine .ite_snd_fst h (.ite_snd_fst (.ite_snd_fst ?_ h) (.ite_snd_fst ?_ h))
  · dsimp only
    split
    next e =>
      exact .bump (.of_snd e (.collWrite h))
    next e' =>
      exact .of_snd e' (.collWrite h)
  · split
    · exact h
    · dsimp only
      split
      next e'' =>
        exact .bump (.of_snd e'' (.collWrite h))
      next e1 =>
        exact .of_snd e1 (.collWrite h)

theorem Keeps.countCodes {s t : State} {x} (h : Keeps s t) : Keeps s (countCodes t x).1 := .ite_fst (.bump h) h

theorem Keeps.pumpColl {s t : State} {p g i} (h : Keeps s t) : Keeps s (pumpColl t p g i) := by
  unfold Machine.pumpColl
  split
  · exact h
  · split
    next e =>
      split
      next e' =>
        exact .failColl (.putColl (.of_snd_fst e' (.ownOutput (.of_fst e (.countCodes h)))))
      next e'' =>
        refine .ite (.putColl (.of_snd_fst e'' (.ownOutput (.of_fst e (.countCodes h))))) ?_
        split
        next e1 =>
          exact .putColl (.of_fst e1 (.foldl_fst (.of_snd_fst e'' (.ownOutput (.of_fst e (.countCodes h))))
            (fun _ _ hu => .driveStream hu)))

theorem Keeps.pumpAll {s t : State} {p} (h : Keeps s t) : Keeps s (pumpAll t p) :=
  .foldl' h (fun _ _ hu => .pumpColl hu)

theorem Keeps.landSlices {s t : State} {x rank a4 a5} (h : Keeps s t) : Keeps s (landSlices t x rank a4 a5).2.1 := by
  fun_induction Machine.landSlices
  · exact h
  next e =>
    exact e h
  next e' =>
    exact e' h
  next e'' _ e1 =>
    exact e1 (.of_snd e'' (.collWrite h))
  next e2 =>
    exact .of_snd e2 (.collWrite h)

theorem Keeps.landData {s t : State} {x k off bs} (h : Keeps s t) : Keeps s (landData t x k off bs).2.1 :=
  .ite_snd_fst h (.landSlices h)

/-! ### Dma -/

theorem Keeps.pushDescOn {s t : State} {k d} (h : Keeps s t) : Keeps s (pushDescOn t k d) := .setDqRing h

theorem Keeps.pushDesc {s t : State} {p c d} (h : Keeps s t) : Keeps s (pushDesc t p c d) := .pushDescOn h

theorem Keeps.descFault {s t : State} {last c d code detail} (h : Keeps s t) : Keeps s
    (descFault t last c d code detail) :=
  .ite (.ite (.stopLaunch h) (.raise h)) (.ite (.raise h) (.ite (.failCopy h) (.raise h)))

theorem Keeps.paceWrite {s t : State} {c n src low high enable} (h : Keeps s t) : Keeps s
    (paceWrite t c n src low high enable) := by
  unfold Machine.paceWrite
  extract_lets set u
  have hset : ∀ w f v, Keeps s w → Keeps s (set w f v) := by
    intro w f v hw
    unfold set
    split
    · exact .markWritten (.put hw)
    · exact hw
  have hu : Keeps s u := hset _ _ _ (hset _ _ _ (hset _ _ _ h))
  exact .ite (.put (.put (.put hu))) (.ite (.raise (.put hu)) (.put (.put hu)))

theorem Keeps.activate {s t : State} {c n x shadow} (h : Keeps s t) : Keeps s (activate t c n x shadow) :=
  .ite (.descFault (.put (.put (.put (.put (.put (.setChan h))))))) (.put (.put (.put (.put (.put (.setChan h))))))

theorem Keeps.feed {s t : State} {e2 n} (h : Keeps s t) : Keeps s (feed t e2 n) := by
  unfold Machine.feed
  split
  · dsimp only
    split
    · exact h
    · exact h
  · dsimp only
    split
    · exact h
    · exact .ite (.descFault (.setDqRing h)) (.ite (.activate (.ite (.of_mk (.setDqRing h)) (.setDqRing h))) (.put
        (.setChan (.ite (.of_mk (.setDqRing h)) (.setDqRing h)))))

theorem Keeps.visit {s t : State} {e2 f} (h : Keeps s t) : Keeps s (visit t e2 f) := by
  unfold Machine.visit
  split
  · exact .feed (.of_mk h)
  · exact h

theorem KeepsRes.execDescriptorLoad {s t : State} {e1 n given} (h : Keeps s t) : KeepsRes s
    (execDescriptorLoad e1 n given t) := by
  unfold Machine.execDescriptorLoad
  refine .ite (.next (.visit ?_)) (.next h)
  split
  · exact .pushDescOn h
  · exact h

theorem Keeps.slotGone {s t : State} {c n ready} (h : Keeps s t) : Keeps s (slotGone t c n ready) := .of_mk h

theorem Keeps.paceUp {s t : State} {c n b} (h : Keeps s t) : Keeps s (paceUp t c n b) :=
  .ite (.ite (.put (.put (.of_mk h))) (.of_mk h)) h

theorem Keeps.burstWaits {s t : State} {c credit} (h : Keeps s t) : Keeps s (burstWaits t c credit) := .waitParts h

theorem KeepsRes.execBurstGrant {s t : State} {c credit} (h : Keeps s t) : KeepsRes s
    (execBurstGrant c credit t) := by
  unfold Machine.execBurstGrant
  refine .ite (.next h) ?_
  dsimp only
  split
  · exact .next (.burstWaits h)
  · split
    · exact .next (.burstWaits h)
    · exact .next (.paceUp (.setChan (.takeKeys (.slotGone (.burstWaits h)))))

theorem Keeps.frqLand {s t : State} {d n} (h : Keeps s t) : Keeps s (frqLand t d n) := .of_mk h

theorem Keeps.landPresent {s t : State} {c d k n} (h : Keeps s t) : Keeps s (landPresent t c d k n) := by
  unfold Machine.landPresent
  split
  · exact .foldl' h (fun _ _ hu => .setPresent hu)

theorem Keeps.burstStore {s t : State} {c x k bs} (h : Keeps s t) : Keeps s (burstStore t c x k bs).2.2 := by
  unfold Machine.burstStore
  dsimp only
  split
  · split
    · exact h
    · split
      · exact .foldl' (.storeAt (.touchAll h)) (fun _ _ hu => .noteTags hu)
      · exact .noteTags (.storeAt (.touchAll h))
  · split
    · exact .ite (.stgWrite h) (.landPresent (.stgWrite h))
    · split
      · exact .toHost h
      · split
        · exact .frqLand h
        · exact .ite (.storeAt (.touchAll h)) h

theorem Keeps.served {s t : State} {x} (h : Keeps s t) : Keeps s (served t x) := by
  unfold Machine.served
  split
  · exact .of_mk h
  · exact h

theorem Keeps.afterLand {s t : State} {d k n stopped} (h : Keeps s t) : Keeps s (afterLand t d k n stopped) :=
  .settleLaunch (.ite (.carPumpAll (.carBrought h)) (.ite (.pumpAll h) h))

theorem KeepsRes.execBurstLand {s t : State} {c n host ev} (h : Keeps s t) : KeepsRes s (execBurstLand c n host ev t) := by
  unfold Machine.execBurstLand
  split
  · exact .next h
  refine .ite (.next h) ?_
  split
  · exact .next h
  next x _ _ f rest _ =>
  extract_lets +onlyGivenNames b d k shadow u m
  have hu : Keeps s u := .served h
  split
  next v found i e =>
  have hv : Keeps s v := .of_fst e (.memFinds hu)
  split
  split
  split
  split
  next code detail w e' =>
  have hw : Keeps s w := .of_snd_snd e' (.ite_snd_snd hv (.burstStore (.ite (.touchAll hv) hv)))
  exact .ite (.next (.settleLaunch (.afterLoss (.descFault (.setChan hw)))))
    (.next (.afterLand (.ite (.setCmd (.put (.setChan hw))) (.put (.setChan hw)))))

theorem Keeps.promote {s t : State} {c n} (h : Keeps s t) : Keeps s (promote t c n) := by
  unfold Machine.promote
  split
  · exact .activate h
  · exact .put (.put (.setChan h))

theorem Keeps.dmaRecord {s t : State} {c n x} (h : Keeps s t) : Keeps s (dmaRecord t c n x) :=
  .ite (.of_mk (.emit h)) h

theorem KeepsRes.execTransferComplete {s t : State} {c n} (h : Keeps s t) : KeepsRes s
    (execTransferComplete c n t) := by
  unfold Machine.execTransferComplete
  split
  · exact .next h
  · exact .ite (.ite (.next (.settleLaunch (.copyEnded (.promote (.bumpWrap (.dmaRecord h)))))) (.ite (.next
      (.tryCommit (.partDone (.ite (.clearPresent (.ite (.launchTile (.promote (.bumpWrap (.dmaRecord h)))) (.promote
      (.bumpWrap (.dmaRecord h))))) (.ite (.launchTile (.promote (.bumpWrap (.dmaRecord h)))) (.promote (.bumpWrap
      (.dmaRecord h)))))))) (.next (.copyEnded (.promote (.bumpWrap (.dmaRecord h))))))) (.next h)

theorem KeepsRes.execPaceResume {s t : State} {c n level} (h : Keeps s t) : KeepsRes s (execPaceResume c n level t) :=
  .ite (.next h) (.ite (.next (.put (.put (.of_mk h)))) (.next (.of_mk h)))

theorem Keeps.freeRecord {s t : State} {c d} (h : Keeps s t) : Keeps s (freeRecord t c d) := .ite (.of_mk h) h

theorem Keeps.disableChannel {s t : State} {c n} (h : Keeps s t) : Keeps s (disableChannel t c n) :=
  .foldl' (.dropChannel h) (fun _ _ hu => .ite (.copyEnded (.freeRecord hu)) (.ite (.settleLaunch (.freeRecord hu))
    (.descFault (.freeRecord hu))))

theorem Keeps.chCtrl {s t : State} {c n x} (h : Keeps s t) : Keeps s (chCtrl c n t x) := by
  unfold Machine.chCtrl
  refine .ite (.ite h (.disableChannel h)) (.ite (.promote (.put ?_)) (.ite (.put (.put h)) h))
  split
  · exact .freeRecord (.ite (.put (.put h)) h)
  · exact .ite (.put (.put h)) h

theorem KeepsRes.execDmaChDisable {s t : State} {c n w} (h : Keeps s t) : KeepsRes s (execDmaChDisable c n w t) :=
  .next (.hostWrite h (fun _ _ hu => .chCtrl hu))

theorem KeepsRes.execDmaChHaltedClear {s t : State} {c n w} (h : Keeps s t) : KeepsRes s
    (execDmaChHaltedClear c n w t) :=
  .next (.hostWrite h (fun _ _ hu => .chCtrl hu))

theorem Keeps.dqCtrl {s t : State} {e1 n w x} (h : Keeps s t) : Keeps s (dqCtrl e1 n w t x) :=
  .ite h (.ite (.regRecord h) (.ite (.put (.put (.ite (.put (.put (.put h))) h))) (.ite (.put (.put (.put h))) h)))

theorem KeepsRes.execDqStop {s t : State} {e1 n w} (h : Keeps s t) : KeepsRes s (execDqStop e1 n w t) :=
  .ite (.next (.hostWrite h (fun _ _ hu => .dqCtrl hu))) (.next h)

theorem KeepsRes.execDqResume {s t : State} {e1 n w} (h : Keeps s t) : KeepsRes s (execDqResume e1 n w t) :=
  .ite (.next (.hostWrite h (fun _ _ hu => .dqCtrl hu))) (.next h)

theorem KeepsRes.execDqStopped {s t : State} {e1 n} (h : Keeps s t) : KeepsRes s (execDqStopped e1 n t) :=
  .ite (.next (.put (.put (.put h)))) (.next h)

/-! ### Engine -/

theorem Keeps.namePass {s t : State} {c x} (h : Keeps s t) : Keeps s (namePass t c x) := by
  unfold Machine.namePass
  refine .foldl' h (fun u y hu => ?_)
  split
  · exact .setEng hu

theorem Keeps.addPass {s t : State} {c x} (h : Keeps s t) : Keeps s (addPass t c x) := .setEng h

theorem Keeps.runTile {s t : State} {x l z book quarter} (h : Keeps s t) : Keeps s (runTile t x l z book quarter) :=
  .bumpPair (.of_mk h)

theorem Keeps.engFault {s t : State} {c p v code detail} (h : Keeps s t) : Keeps s (engFault t c p v code detail) :=
  .stopLaunch h

theorem Keeps.recordStops {s t : State} {last c p v code detail tile} (h : Keeps s t) : Keeps s
    (recordStops t last c p v code detail tile) :=
  .afterLoss (.stopLaunch h)

theorem Keeps.startPass {s t : State} {c x rest z u6} (h : Keeps s t) : Keeps s (startPass t c x rest z u6) := by
  unfold Machine.startPass
  refine .foldl' (.setEng h) (fun u y hu => ?_)
  split
  · exact .put (.put (.put (.put (.put (.of_mk (.put hu))))))

theorem Keeps.passWaiting {s t : State} {c x} (h : Keeps s t) : Keeps s (passWaiting t c x) :=
  .foldl' h (fun _ _ hu => .ite (.bumpWrap (.put hu)) (.put hu))

theorem Keeps.recordReads {s t u : State} {p xs ev r11 r20} (e : recordReads t p xs ev = some (u, r11, r20))
    (h : Keeps s t) : Keeps s u := by
  unfold Machine.recordReads at e
  split at e
  · cases e
  · split at e
    next e' =>
      cases e
      exact .ite (.access (.of_fst e' (.readFinds h))) (.of_fst e' (.readFinds h))

theorem KeepsRes.issuePass {s t : State} {c ev} (h : Keeps s t) : KeepsRes s (issuePass c ev t) := by
  unfold Machine.issuePass
  split
  · dsimp only
    refine .ite (.next (.engFault h)) (.ite (.next (.engFault h)) (.ite (.next (.engFault h)) (.ite (.next
      (.engFault h)) (.ite (.next (.engFault h)) (.ite (.next (.carWaits (.passWaiting h))) (.ite (.next
      (.engFault h)) ?_))))))
    split
    · exact .next (.engFault h)
    · refine .ite (.next (.carWaits (.passWaiting h))) (.ite (.next (.engFault h)) ?_)
      split
      · exact .next (.carWaits (.passWaiting h))
      next e =>
        exact .next (.carEnter (.startPass (.recordReads e h)))
      next e' =>
        exact .next (.recordStops (.recordReads e' h))
  · exact .next h

theorem KeepsRes.execPassIssue {s t : State} {x} (h : Keeps s t) : KeepsRes s (execPassIssue x t) := .issuePass h

theorem Keeps.sramEvent {s t : State} {c p v last ev} (h : Keeps s t) : Keeps s (sramEvent t c p v last ev).1 := by
  unfold Machine.sramEvent
  split
  · exact h
  · exact .bump h
  · exact .bump h
  · exact .attributed (.stopLaunch h)
  · exact .attributed (.stopLaunch h)
  · exact .ite h (.of_mk h)

theorem Keeps.sramEvents {s t : State} {p v} {last : Nat → List Fld} {a5} (h : Keeps s t) : Keeps s
    (sramEvents t p v last a5).1 := by
  fun_induction Machine.sramEvents
  · exact h
  next e =>
    exact .of_fst e (.sramEvent h)
  next e' _ e'' =>
    exact e'' (.of_fst e' (.sramEvent h))

theorem Keeps.runTiles {s t : State} {c x e4} (h : Keeps s t) : Keeps s (runTiles t c x e4) := by
  unfold Machine.runTiles
  refine .foldl' h (fun u y hu => ?_)
  split
  · exact .runTile hu

theorem Keeps.endPass {s t : State} {c x e4} (h : Keeps s t) : Keeps s (endPass t c x e4) := by
  unfold Machine.endPass
  refine .setEng (.foldl' (.runTiles h) (fun u y hu => ?_))
  split
  · exact .bumpPairWrap (.setEng (.put (.put (.put (.put (.put (.foldl' hu (fun _ _ hv => .clearPresent hv))))))))

theorem KeepsRes.execPassComplete {s t : State} {c evs} (h : Keeps s t) : KeepsRes s (execPassComplete c evs t) := by
  unfold Machine.execPassComplete
  dsimp only
  split
  · exact .next h
  · refine .ite (.next (.sramEvents h)) ?_
    split
    · exact .next (.engFault (.ite (.sramEvents h) (.runTiles (.sramEvents h))))
    · exact .next (.partDone (.endPass (.sramEvents h)))

theorem Keeps.queueDrain {s t : State} {c x} (h : Keeps s t) : Keeps s (queueDrain t c x) := .setEng h

theorem Keeps.startDrain {s t : State} {c x rest e5 conv} (h : Keeps s t) : Keeps s
    (startDrain t c x rest e5 conv) := by
  unfold Machine.startDrain
  refine .put (.put (.put (.setEng ?_)))
  split
  · exact .carTake h
  · exact h

theorem KeepsRes.issueDrain {s t : State} {c ev} (h : Keeps s t) : KeepsRes s (issueDrain c ev t) := by
  unfold Machine.issueDrain
  split
  · refine .ite (.next (.engFault h)) (.ite (.next (.engFault h)) (.ite (.next (.engFault h)) (.ite (.next (.carWaits
      (.bumpWrap (.put h)))) (.ite (.next (.engFault h)) (.ite (.next (.engFault h)) ?_)))))
    split
    · exact .next (.carWaits (.bumpWrap (.put h)))
    next e =>
      exact .next (.carEnter (.startDrain (.recordReads e h)))
    next e' =>
      exact .next (.recordStops (.recordReads e' h))
  · exact .next h

theorem KeepsRes.execDrainIssue {s t : State} {x} (h : Keeps s t) : KeepsRes s (execDrainIssue x t) := .issueDrain h

theorem Keeps.storeRow {s t u : State} {p d r0 c0 k r es cells} (e : storeRow t p d r0 c0 k r es cells = some u)
    (h : Keeps s t) : Keeps s u := by
  refine .of_foldl_some e h (fun _ => rfl) fun v x w ew hv => ?_
  dsimp only [Option.bind_some] at ew
  split at ew
  · exact .pWrite ew hv
  · exact .of_some ew hv

theorem Keeps.writeUnit {s t u : State} {c x n es rows cells bytes} (e : writeUnit t c x n es rows cells bytes = some u)
    (h : Keeps s t) : Keeps s u := by
  unfold Machine.writeUnit at e
  split at e
  · exact .of_some e (.foldl' (.stgWrite h) fun _ _ hu => .setPresent hu)
  · exact .of_some e (.carOut h)
  · exact .of_foldl_some e h (fun _ => rfl) fun _ _ _ ew hv => .storeRow ew hv

theorem KeepsRes.outputUnit {s t : State} {c : Nat} (h : Keeps s t) : KeepsRes s (outputUnit c t) := by
  unfold Machine.outputUnit
  extract_lets e
  split
  · exact .next h
  · refine .ite (.next h) ?_
    extract_lets p es
    split
    next rows cells bytes _ =>
    extract_lets u
    have hu : Keeps s u := by
      unfold u
      split
      · exact .observe h
      · exact h
    split
    next x _ _ _ _ v ev =>
      have hv : Keeps s v := .of_ite_some ev (fun ew => .of_some ew hu) fun ew => .writeUnit ew hu
      exact .next (.carPumpAll (.setEng (.launchTile hv)))
    · exact .next (.engFault hu)

/-- What a meaning leaves where an access of it stalls. -/
theorem KeepsRes.stalled {s t : State} {r : Res} (h : Keeps s t) : KeepsRes s r → KeepsRes s
    (match r with | .next u => .next (unlessStalled t u) | o => o) := by
  intro hr
  split
  next u => exact .next (.unlessStalled h (hr u rfl))
  · exact hr

theorem KeepsRes.execOutputUnitComplete {s t : State} {c} (h : Keeps s t) : KeepsRes s (execOutputUnitComplete c t) :=
  .stalled (r := Machine.outputUnit c t) h (.outputUnit h)

theorem Keeps.writeStats {s t : State} {c x e4} (h : Keeps s t) : Keeps s (writeStats t c x e4) := by
  unfold Machine.writeStats
  split
  · exact .foldl' (.stgWrite (.launchTile h)) (fun _ _ hu => .setPresent hu)
  · exact .carOut (.launchTile h)

theorem Keeps.releaseUnits {s t : State} {c x e4} (h : Keeps s t) : Keeps s (releaseUnits t c x e4).1 := by
  unfold Machine.releaseUnits
  refine .ite_fst (.foldl_fst h (fun y i hu => ?_)) h
  split
  · exact hu
  · split
    · split
      next e =>
        exact .writeUnit e hu
      · exact hu

theorem Keeps.drainOver {s t : State} {c x} (h : Keeps s t) : Keeps s (drainOver t c x) :=
  .carPumpAll (.partDone (.put (.freeSlot (.setEng h))))

theorem KeepsRes.execDrainComplete {s t : State} {c evs} (h : Keeps s t) : KeepsRes s
    (execDrainComplete c evs t) := by
  unfold Machine.execDrainComplete
  dsimp only
  split
  · exact .next h
  · refine .ite (.next (.sramEvents h)) (.ite (.next (.sramEvents h)) (.ite (.next (.pairTile (.sramEvents h))) ?_))
    split
    next e =>
      exact .next (.engFault (.of_fst e (.releaseUnits (.pairTile (.sramEvents h)))))
    next e' =>
      exact .next (.unlessStalled (.sramEvents h) (.drainOver (.ite (.writeStats (.of_fst e' (.releaseUnits
        (.pairTile (.sramEvents h))))) (.of_fst e' (.releaseUnits (.pairTile (.sramEvents h)))))))

theorem KeepsRes.execOperandWaitTimeout {s t : State} {c} (h : Keeps s t) : KeepsRes s
    (execOperandWaitTimeout c t) := by
  unfold Machine.execOperandWaitTimeout
  split
  · exact .next h
  · exact .ite (.next h) (.ite (.next (.engFault h)) (.next h))

/-! ### Version -/

theorem Keeps.noteBinding {s t : State} {p m i k} (h : Keeps s t) : Keeps s (noteBinding t p m i k) := .pPut h

theorem Keeps.bindTo {s t : State} {p m t4 i k} (h : Keeps s t) : Keeps s (bindTo t p m t4 i k) :=
  .recordBinding (.setMb (.noteBinding (.setRefs h)))

/-! ### Vector -/

theorem Keeps.vecFault {s t : State} {c j code detail} (h : Keeps s t) : Keeps s (vecFault t c j code detail) :=
  .stopLaunch h

theorem Keeps.startJob {s t : State} {c gs j rest} (h : Keeps s t) : Keeps s (startJob t c gs j rest) :=
  .ite (.put (.ite (.put (.setVu (.ite (.carTake h) h))) (.put (.put (.setVu (.ite (.carTake h) h)))))) (.put (.ite
    (.put (.setVu (.ite (.carTake h) h))) (.put (.put (.setVu (.ite (.carTake h) h))))))

theorem KeepsRes.issueJob {s t : State} {c gs ev} (h : Keeps s t) : KeepsRes s (issueJob c gs ev t) := by
  unfold Machine.issueJob
  split
  · exact .next h
  · refine .ite (.next h) (.ite (.next (.vecFault h)) (.ite (.next (.ite (.put h) (.carWaits (.put h)))) (.ite (.next
      (.vecFault h)) (.ite (.next (.ite (.put h) (.carWaits (.put h)))) ?_))))
    split
    · exact .next (.ite (.put h) (.carWaits (.put h)))
    next e =>
      exact .next (.ite (.startJob (.recordReads e h)) (.carEnter (.startJob (.recordReads e h))))
    next e' =>
      exact .next (.recordStops (.recordReads e' h))

theorem KeepsRes.execVectorIssue {s t : State} {x gs} (h : Keeps s t) : KeepsRes s (execVectorIssue x gs t) :=
  .issueJob h

theorem Keeps.vopOut {s t : State} {c j f latch} (h : Keeps s t) : Keeps s (vopOut t c j f latch).state :=
  .ite_state h (.ite_state h (.ite_state h h))

theorem Keeps.foldExp {s t : State} {p a3 e4} (h : Keeps s t) : Keeps s (foldExp t p a3 e4) := by
  unfold Machine.foldExp
  split
  · exact .pPut h
  · exact h

theorem Keeps.reduceOut {s t : State} {c j f} (h : Keeps s t) : Keeps s (reduceOut t c j f).state := by
  unfold Machine.reduceOut
  split
  · dsimp only
    split
    · exact h
    · split
      · exact .launchTile (.foldExp h)
      · exact h
  · split
    · split
      · dsimp only
        split
        · exact h
        · split
          · split
            · exact .pTouch h
            · exact h
          · split
            · exact .pTouch h
            · exact h
      · dsimp only
        split
        · exact h
        · split
          · split
            · exact .pTouch h
            · exact h
          · split
            · exact .pTouch h
            · exact h
    · split
      · dsimp only
        split
        · exact h
        · split
          · exact h
          · exact h
      · dsimp only
        split
        · exact h
        · split
          · exact h
          · exact h

theorem Keeps.quantOut {s t : State} {j f} (h : Keeps s t) : Keeps s (quantOut t j f).state := by
  unfold Machine.quantOut
  split
  · extract_lets p whole all a floor u
    split
    · exact h
    · exact h
    · extract_lets e v r
      have hv : Keeps s v := .ite (.pPut (.pTouch h)) (.pTouch h)
      split
      next w ew =>
        refine .of_foldl_fst_some ew hv (fun _ _ => rfl) fun y _ kb z ez hy => ?_
        dsimp only at ez
        split at ez
        · exact .of_bind_some ez fun _ ew ez => .pWrite ez (.pWrite ew hy)
        · exact .of_some ez hy
      · exact hv
  · exact h

theorem Keeps.writeOuts {s t : State} {c j a4} (h : Keeps s t) : Keeps s (writeOuts t c j a4) := by
  fun_induction Machine.writeOuts
  · exact h
  next e =>
    exact e (.carOut h)
  next e' =>
    exact e' (.foldl' (.stgWrite h) (fun _ _ hu => .setPresent hu))

theorem Keeps.release {s t : State} {c j} (h : Keeps s t) : Keeps s (release t c j) := by
  unfold Machine.release
  refine .ite (.foldl' ?_ (fun _ _ hu => .clearPresent hu)) ?_
  · split
    · exact .ite (.tileRead h) h
    · exact .ite (.tileRead h) h
    · exact h
  · split
    · exact .ite (.tileRead h) h
    · exact .ite (.tileRead h) h
    · exact h

theorem Keeps.tallyUp {s t : State} {c t3} (h : Keeps s t) : Keeps s (tallyUp t c t3) := .bumpPair (.bumpPair h)

theorem Keeps.jobDone {s t : State} {c j} (h : Keeps s t) : Keeps s (jobDone t c j) :=
  .carPumpAll (.partDone (.bumpPairWrap h))

theorem Keeps.gatherRow {s t : State} {c d dst pos bytes last} (h : Keeps s t) : Keeps s
    (gatherRow t c d dst pos bytes last) :=
  .foldl' (.stgWrite h) (fun _ _ hu => .setPresent hu)

theorem Keeps.atomicAdd {s t u : State} {p a3 fmt v} (e : atomicAdd t p a3 fmt v = some u)
    (h : Keeps s t) : Keeps s u := by
  unfold Machine.atomicAdd at e
  split at e
  · dsimp only at e
    split at e
    · cases e
    · split at e
      · exact .of_map_some e (fun _ e' => .bump (.pWrite e' h))
      · exact .of_map_some e (fun _ e'' => .pWrite e'' h)
  · dsimp only at e
    split at e
    · cases e
    · split at e
      · exact .of_map_some e (fun _ e1 => .bump (.pWrite e1 h))
      · exact .of_map_some e (fun _ e2 => .pWrite e2 h)
  · dsimp only at e
    split at e
    · cases e
    · split at e
      · exact .of_map_some e (fun _ e3 => .bump (.pWrite e3 h))
      · exact .of_map_some e (fun _ e4 => .pWrite e4 h)
  · dsimp only at e
    split at e
    · cases e
    · split at e
      · exact .of_map_some e (fun _ e5 => .bump (.pWrite e5 h))
      · exact .of_map_some e (fun _ e6 => .pWrite e6 h)

theorem Keeps.scatterRow {s t u : State} {c p f d pos r} (e : scatterRow t c p f d pos r = some u)
    (h : Keeps s t) : Keeps s u := by
  refine .of_foldl_some e h (fun _ => rfl) fun v x w ew hv => ?_
  dsimp only [Option.bind_some] at ew
  split at ew
  · exact .of_map_some ew fun y ey => .tallyUp (.atomicAdd ey hv)
  · exact .atomicAdd ew hv

/-- How a row of a gather or scatter ends: each state that it may end in keeps the queue and the canonical forms. -/
def KeepsRow (s : State) : RowStep → Prop
  | .on u | .hold u | .ended u => Keeps s u
  | .stop _ _ => True

theorem KeepsRow.gatherStep {s t : State} {c p f d k x} (h : Keeps s t) : KeepsRow s (gatherStep t c p f d k x) := by
  unfold Machine.gatherStep
  dsimp only
  split
  · exact Keeps.gatherRow h
  · split
    · trivial
    · split
      · exact Keeps.gatherRow (.access h)
      · exact Keeps.waitKeys h

theorem KeepsRow.scatterStep {s t : State} {c p v iid f d k x} (h : Keeps s t) : KeepsRow s (scatterStep t c p v iid f d k x) := by
  unfold Machine.scatterStep
  extract_lets n src
  split
  next u e => exact Keeps.of_fst e (.pairTile h)
  next u e =>
    have hu : Keeps s (Machine.launchTile u p v c iid 0 (src ++ leBytes 4 x)) := .launchTile (.of_fst e (.pairTile h))
    dsimp only
    split
    · exact hu
    · split
      next w ew => exact Keeps.scatterRow ew hu
      · trivial

theorem Keeps.rowsThrough {s t : State} {row limit base xs k} (h : Keeps s t)
    (hrow : ∀ u k x, Keeps s u → KeepsRow s (row u k x)) : Keeps s (rowsThrough row limit base xs k t).state := by
  induction xs generalizing k t with
  | nil => exact h
  | cons x r ih =>
    have hx := hrow t k x h
    unfold Machine.rowsThrough
    split
    · exact h
    · split
      next e => exact ih (by rwa [e] at hx)
      · exact h
      next e => rwa [e] at hx
      next e => rwa [e] at hx

theorem Keeps.segExps {s t : State} {c p v f segs} (h : Keeps s t) : Keeps s (segExps t c p v f segs) := by
  unfold Machine.segExps
  split
  · exact h
  · exact .foldl' h (fun _ _ hu => .foldExp hu)

theorem Keeps.segWrite {s t : State} {c j f segs upto} (h : Keeps s t) : Keeps s (segWrite t c j f segs upto) :=
  .tallyUp (.ite h (.writeOuts h))

theorem Keeps.gsRunOn {s t : State} {c j} (h : Keeps s t) : Keeps s (gsRunOn t c j) := by
  unfold Machine.gsRunOn
  extract_lets e p finish through
  have hfin : ∀ u, Keeps s u → Keeps s (finish u) := fun u hu => .jobDone (.release (.put (.put (.setVu hu))))
  have hthr : ∀ count limit row, (∀ u k x, Keeps s u → KeepsRow s (row u k x)) → Keeps s (through count limit row) := by
    intro count limit row hrow
    have hr : Keeps s (Machine.rowsThrough (fun s k x => row s (e.handled + k) x) limit e.taken
        (e.fifo.take (count - e.handled)) 0 t).state := .rowsThrough h fun _ _ _ hu => hrow _ _ _ hu
    exact .ite hr (.ite (.vecFault (.setVu hr)) (.ite (hfin _ (.setVu hr)) (.put (.setVu hr))))
  split
  · split
    · exact h
    · exact hthr _ _ _ fun _ _ _ hu => .gatherStep hu
  · split
    · exact h
    · exact hthr _ _ _ fun _ _ _ hu => .scatterStep hu
  · split
    · exact h
    · extract_lets
      split
      · exact .vecFault h
      · exact hfin _ (.writeOuts (.access h))
  · extract_lets xs segs u
    have hu : Keeps s u := .setVu h
    split
    · exact .vecFault (.segWrite hu)
    · refine .ite ?_ (.put hu)
      split
      · exact .vecFault hu
      · exact hfin _ (.segWrite (.ite (.segExps hu) hu))
  · exact hfin _ h

theorem Keeps.vecOut {s t : State} {c j latch} (h : Keeps s t) : Keeps s (vecOut t c j latch).state := by
  unfold Machine.vecOut
  split
  · exact .vopOut h
  · exact .reduceOut h
  · exact .quantOut h
  · exact h

theorem Keeps.endJob {s : State} {o c j latch} (h : Keeps s o.state) : Keeps s (endJob o c j latch) := by
  unfold Machine.endJob
  extract_lets +onlyGivenNames u v
  have hu : Keeps s u := .tallyUp h
  have hv : Keeps s v := by
    unfold v
    split
    · split
      · exact .ite (.observe hu) hu
      · exact hu
    · exact hu
  exact .put (.put (.setVu (.release (.writeOuts hv))))

theorem Keeps.completionFinds {s t : State} {c j ev} (h : Keeps s t) : Keeps s (completionFinds t c j ev).1 := by
  unfold Machine.completionFinds
  split
  next e =>
    exact .ite_fst (.of_fst e (.readFinds h)) (.ite_fst h (.recordStops (.of_fst e (.readFinds h))))

theorem KeepsRes.completeJob {s t : State} {c gs evs ev} (h : Keeps s t) : KeepsRes s (completeJob c gs evs ev t) := by
  unfold Machine.completeJob
  extract_lets +onlyGivenNames e
  split
  · exact .next h
  next j _ =>
  split
  next u stop eu =>
  have hu : Keeps s u := .of_fst eu (.sramEvents h)
  split
  next v halt ev' =>
  have hv : Keeps s v := .of_fst ev' (.ite_fst hu (.completionFinds hu))
  refine .ite (.next hv) (.ite (.next (.gsRunOn hv)) ?_)
  have hpair : Keeps s (match jobTile v c j with
      | some bs => Machine.pairTile v j.part j.vcore c bs
      | none => (v, true)).1 := by
    split
    · exact .pairTile hv
    · exact hv
  split
  next w ew => exact .next (.of_fst ew hpair)
  next w ew =>
    have hw : Keeps s w := .of_fst ew hpair
    exact .ite (.next (.vecFault hw)) (.next (.jobDone (.endJob (.vecOut hw))))

theorem KeepsRes.execVectorComplete {s t : State} {c gs x} (h : Keeps s t) : KeepsRes s (execVectorComplete c gs x t) :=
  .stalled (r := Machine.completeJob c gs x.sram x.ev t) h (.completeJob h)

theorem KeepsRes.execVectorWaitTimeout {s t : State} {c gs} (h : Keeps s t) : KeepsRes s
    (execVectorWaitTimeout c gs t) := by
  unfold Machine.execVectorWaitTimeout
  refine .ite (.next h) ?_
  split
  · exact .ite (.next (.vecFault h)) (.next h)
  · exact .ite (.next h) (.next (.vecFault h))
  · exact .next h

theorem KeepsRes.fillFifo {s t : State} {c ev} (h : Keeps s t) : KeepsRes s (fillFifo c ev t) := by
  unfold Machine.fillFifo
  dsimp only
  split
  · exact .next h
  · split
    · exact .next h
    · refine .ite (.next (.stopLaunch h)) ?_
      split
      · exact .next (.stopLaunch h)
      · exact .ite (.next (.waitKeys h)) (.ite (.next (.recordStops (.readFinds h))) (.next (.ite (.partDone (.ite
          (.put (.setVu (.access (.readFinds h)))) (.setVu (.access (.readFinds h))))) (.ite (.put (.setVu (.access
          (.readFinds h)))) (.setVu (.access (.readFinds h)))))))

theorem KeepsRes.execIndexFifoFill {s t : State} {x} (h : Keeps s t) : KeepsRes s (execIndexFifoFill x t) :=
  .fillFifo h

/-! ### Tynte -/

theorem KeepsRes.withCtx {s t : State} {a2 pr fetch} {k : Ctx → State} (h : Keeps s t) (hk : ∀ x1, Keeps s
    (k x1)) : KeepsRes s (withCtx t a2 pr fetch k) := by
  unfold Machine.withCtx
  split
  · exact .next h
  · exact .ite (.next (hk _)) (.next h)

theorem Keeps.issued {s t : State} {x} (h : Keeps s t) : Keeps s (issued t x) := .setVc h

theorem Keeps.seqFault {s t : State} {x code detail} (h : Keeps s t) : Keeps s (seqFault t x code detail) :=
  .stopLaunch h

theorem KeepsRes.withBody {s t : State} {a2 pr fetch t5} {k : Ctx → State} (h : Keeps s t) (hk : ∀ x1, Keeps s
    (k x1)) : KeepsRes s (withBody t a2 pr fetch t5 k) :=
  .withCtx h (fun _ => .ite (hk _) (.stopLaunch h))

/-- The state that the binding of a tensor leaves keeps the queue and the canonical forms. -/
def KeepsBound (s : State) : Bound → Prop
  | .slot _ u => Keeps s u
  | _ => True

theorem KeepsBound.bindTensor {s t : State} {p v d} (h : Keeps s t) : KeepsBound s (bindTensor t p v d) := by
  obtain ⟨F, hF⟩ := exists_eq (a' := @Machine.bindTensor)
  obtain ⟨version, hv⟩ := exists_eq (a' := @Machine.versionOf)
  obtain ⟨forced, hf⟩ := exists_eq (a' := @Machine.bindForced)
  obtain ⟨look, hl⟩ := exists_eq (a' := @Machine.bindLook)
  rw [← hF]
  delta Machine.bindTensor at hF
  rw [← hv, ← hf, ← hl] at hF
  subst hF
  beta_reduce
  split
  · exact h
  · split
    · extract_lets
      split
      · exact h
      · split
        · exact Keeps.bindTo h
        · split
          · exact Keeps.bindTo h
          · trivial
          · trivial
    · exact h

/-- The same of the binding of a list of tensors. -/
def KeepsBinds (s : State) : Binds → Prop
  | .bound u _ | .waits u _ | .stale u _ => Keeps s u

theorem KeepsBinds.bindAll {s t : State} {x ds ts} (h : Keeps s t) : KeepsBinds s (bindAll t x ds ts) := by
  induction ds generalizing t ts with
  | nil => exact h
  | cons d r ih =>
    unfold Machine.bindAll
    split
    · exact ih h
    next d' _ =>
      have hb := KeepsBound.bindTensor (p := x.p) (v := x.v) (d := d') h
      split
      next e => exact ih (by rwa [e] at hb)
      · exact h
      · exact h

theorem Keeps.withBound {s t : State} {x k ds ts} (h : Keeps s t) (hk : ∀ u ts, Keeps s u → Keeps s
    (k u ts)) : Keeps s (withBound t x k ds ts) := by
  have hb := KeepsBinds.bindAll (x := x) (ds := ds) (ts := ts) h
  unfold Machine.withBound
  split
  next e =>
    rw [e] at hb
    exact hk _ _ (.issued hb)
  next e =>
    rw [e] at hb
    exact .setVc hb
  next e =>
    rw [e] at hb
    exact .seqFault hb

theorem Keeps.openParts {s t : State} {x n wr} (h : Keeps s t) : Keeps s (openParts t x n wr).1 := .setVc h

theorem Keeps.doneNow {s t : State} {x} (h : Keeps s t) : Keeps s (doneNow t x) := .retire h

theorem KeepsRes.execNop {s t : State} {a1 pr} (h : Keeps s t) : KeepsRes s (execNop a1 pr t) :=
  .withCtx h (fun _ => .doneNow h)

theorem Keeps.doneOnce {s t : State} {x} (h : Keeps s t) : Keeps s (doneOnce t x) := .ite h (.doneNow h)

theorem KeepsRes.execLoop {s t : State} {a1 f} (h : Keeps s t) : KeepsRes s (execLoop a1 f t) :=
  .withCtx h (fun _ => .ite h (.doneOnce (.setVc h)))

theorem KeepsRes.execEndloop {s t : State} {a1} (h : Keeps s t) : KeepsRes s (execEndloop a1 t) := by
  unfold Machine.execEndloop
  refine .withCtx h (fun x => ?_)
  dsimp only
  split
  · exact h
  · exact .doneOnce (.setVc h)

theorem KeepsRes.execStream {s t : State} {a1 f} (h : Keeps s t) : KeepsRes s (execStream a1 f t) :=
  .withCtx h (fun _ => .doneNow (.setVc h))

theorem Keeps.saveSlots {s t : State} {p m c} (h : Keeps s t) : Keeps s (saveSlots t p m c) :=
  .of_mk (.foldl' h (fun _ _ hu => .freeSlot hu))

theorem Keeps.restoreSlots {s t : State} {p h3 v} (h : Keeps s t) : Keeps s (restoreSlots t p h3 v) := by
  unfold Machine.restoreSlots
  refine .of_mk (.foldl' h (fun u x hu => ?_))
  split
  · exact .of_mk (.put hu)

theorem Keeps.takeCores {s t : State} {p h3 v} (h : Keeps s t) : Keeps s (takeCores t p h3 v) := by
  unfold Machine.takeCores
  refine .restoreSlots (.foldl' h (fun u x hu => ?_))
  split
  · exact .of_mk (.ite hu (.ite (.foldl' hu (fun _ _ hv => .freeSlot hv)) (.saveSlots hu)))

theorem Keeps.leaveCores {s t : State} {p h3 v} (h : Keeps s t) : Keeps s (leaveCores t p h3 v) := by
  unfold Machine.leaveCores
  refine .foldl' h (fun u x hu => ?_)
  split
  · exact .saveSlots hu

theorem Keeps.turnTo {s t : State} {p c} (h : Keeps s t) : Keeps s (turnTo t p c) := by
  unfold Machine.turnTo
  split
  · exact .wantCode (.ite (.takeCores (.put h)) (.put h))
  · exact h

theorem Keeps.turnCore {s t : State} {p c old} (h : Keeps s t) : Keeps s (turnCore t p c old) :=
  .turnTo (.ite (.leaveCores (.foldl' h (fun _ _ hu => .clearStaging hu))) (.foldl' h
    (fun _ _ hv => .clearStaging hv)))

theorem Keeps.reachBarrier {s t : State} {p v} (h : Keeps s t) : Keeps s (reachBarrier t p v) := by
  unfold Machine.reachBarrier
  split
  · exact .setLaunch h
  · exact h

theorem Keeps.newPhase {s t : State} {p} {over_ : Nat → Bool} (h : Keeps s t) : Keeps s (newPhase t p over_) := by
  unfold Machine.newPhase
  split
  · exact h
  · exact .foldl' (.foldl' h (fun _ _ hu => .put (.retire (.setVc hu)))) (fun _ _ hv => .turnTo hv)

theorem Keeps.tryPhase {s t : State} {p} (h : Keeps s t) : Keeps s (tryPhase t p) := .ite (.newPhase h) h

theorem KeepsRes.execEndI {s t : State} {a1} (h : Keeps s t) : KeepsRes s (execEndI a1 t) := by
  unfold Machine.execEndI
  refine .withCtx h (fun x => ?_)
  split
  · exact .ite (.carFetchEnd h) (.tryCommit (.carTileEnd h))
  · refine .ite h (.tryCommit (.tryPhase (.turnCore (.retire (.setVc ?_)))))
    split
    · exact .setLaunch h
    · exact h

theorem KeepsRes.execBarrier {s t : State} {a1} (h : Keeps s t) : KeepsRes s (execBarrier a1 t) :=
  .withCtx h (fun _ => .ite h (.tryPhase (.turnCore (.reachBarrier (.put (.setVc h))))))

theorem Keeps.wakeToken {s t : State} {p t3} (h : Keeps s t) : Keeps s (wakeToken t p t3) := by
  unfold Machine.wakeToken
  split
  · exact h
  · refine .foldl' h (fun u x hu => ?_)
    dsimp only
    split
    · exact .ite (.put (.retire (.setVc hu))) hu
    · exact hu

theorem Keeps.addToken {s t : State} {p t3} (h : Keeps s t) : Keeps s (addToken t p t3) := by
  unfold Machine.addToken
  split
  · exact h
  · exact .wakeToken (.setLaunch h)

theorem KeepsRes.execSignal {s t : State} {a1 pr token} (h : Keeps s t) : KeepsRes s (execSignal a1 pr token t) :=
  .withCtx h (fun _ => .ite (.addToken (.doneNow h)) h)

theorem KeepsRes.execWait {s t : State} {a1 pr token value} (h : Keeps s t) : KeepsRes s
    (execWait a1 pr token value t) :=
  .withCtx h (fun _ => .ite (.doneNow h) (.ite h (.put (.setVc h))))

theorem KeepsRes.execTokenWaitTimeout {s t : State} {a1} (h : Keeps s t) : KeepsRes s
    (execTokenWaitTimeout a1 t) := by
  unfold Machine.execTokenWaitTimeout
  split
  · exact .next h
  · dsimp only
    split
    · exact .ite (.next h) (.next (.stopLaunch h))
    · exact .next h

theorem KeepsRes.execLoad {s t : State} {a1 pr f} (h : Keeps s t) : KeepsRes s (execLoad a1 pr f t) := by
  unfold Machine.execLoad
  refine .withBody h (fun x => .ite h (.withBound h (fun u y hu => ?_)))
  split
  · refine .ite (.seqFault hu) (.ite (.doneNow hu) ?_)
    split
    next e =>
      exact .pushDesc (.of_fst e (.openParts hu))
  · exact .seqFault hu
  · exact .seqFault hu
  · exact hu

theorem KeepsRes.execStore {s t : State} {a1 pr f} (h : Keeps s t) : KeepsRes s (execStore a1 pr f t) := by
  unfold Machine.execStore
  refine .withBody h (fun x => .ite h ?_)
  split
  · refine .ite (.seqFault h) (.ite (.doneNow h) (.ite (.carWaits h) ?_))
    split
    next e =>
      split
      · dsimp only
        split
        next e' =>
          exact .carEnter (.pushDesc (.of_fst e' (.pairTile (.of_fst e (.openParts h)))))
        next e'' =>
          exact .of_fst e'' (.pairTile (.of_fst e (.openParts h)))
      · dsimp only
        split
        next e1 =>
          exact .carEnter (.pushDesc (.of_fst e1 (.pairTile (.of_fst e (.openParts h)))))
        next e2 =>
          exact .of_fst e2 (.pairTile (.of_fst e (.openParts h)))
  · exact .seqFault h
  · exact .seqFault h
  · exact h

theorem KeepsRes.prefetchLines {s t : State} {a1 pr f ev} (h : Keeps s t) : KeepsRes s
    (prefetchLines a1 pr f ev t) := by
  unfold Machine.prefetchLines
  refine .withCtx h (fun x => .ite h (.withBound h (fun u y hu => ?_)))
  split
  · refine .ite (.seqFault hu) ?_
    split
    · exact .seqFault hu
    · split
      next e =>
        refine .ite (.waitKeys hu) (.ite (.recordStops (.of_fst e (.readFinds hu))) (.ite ?_ (.doneNow (.access
          (.of_fst e (.readFinds hu))))))
        split
        next e' =>
          exact .ite (.stopLaunch (.of_snd e' (.pinRange (.of_fst e (.readFinds hu))))) (.doneNow (.of_snd e'
            (.pinRange (.of_fst e (.readFinds hu)))))
  · exact .seqFault hu
  · exact hu

theorem KeepsRes.execPrefetch {s t : State} {a1 pr x} (h : Keeps s t) : KeepsRes s (execPrefetch a1 pr x t) :=
  .prefetchLines h

theorem KeepsRes.execTableSetup {s t : State} {a1 pr f} (h : Keeps s t) : KeepsRes s (execTableSetup a1 pr f t) :=
  .withCtx h (fun _ => .ite (.carWaits h) (.withBound h (fun _ _ hu => .carEnter (.doneNow (.setVc hu)))))

theorem KeepsRes.execCodebookSet {s t : State} {a1 pr f} (h : Keeps s t) : KeepsRes s
    (execCodebookSet a1 pr f t) := by
  unfold Machine.execCodebookSet
  refine .withCtx h (fun x => .ite h ?_)
  split
  · split
    next e =>
      exact .carEnter (.doneNow (.pWrite e h))
    · exact .seqFault h
  · exact h

theorem Keeps.opbPass {s t u : State} {x f word tab ta tb tw bcol arow kb0 high iid q gang y}
    (e : opbPass t x f word tab ta tb tw bcol arow kb0 high iid q gang = some (u, y)) (h : Keeps s t) : Keeps s u := by
  unfold Machine.opbPass at e
  extract_lets eng skew inA aLen bLen sLen stg lo aBase bBase sBase rec_ rowMajor row col inside lim pass eng' v k0 es
    rowLen poss push at e
  have e := (Option.ite_none_left_eq_some.mp e).2
  obtain ⟨rfl, -⟩ := Prod.mk.inj (Option.some.inj e)
  have hpush : ∀ u k bank g len tag shift t fl, Keeps s u → Keeps s (push u k bank g len tag shift t fl) :=
    fun _ _ _ _ _ _ _ _ _ hu => .pushDesc hu
  refine .foldl' (.namePass (.setEng h)) fun v k hv => ?_
  extract_lets w
  have hw : Keeps s w := by
    unfold w
    split
    · exact .ite hv (hpush _ _ _ _ _ _ _ _ _ hv)
    · exact hv
  split
  · exact hw
  · extract_lets col' _ z
    have hz : Keeps s z := .ite hw (.ite (hpush _ _ _ _ _ _ _ _ _ hw) (hpush _ _ _ _ _ _ _ _ _ hw))
    exact .ite (hpush _ _ _ _ _ _ _ _ _ hz) hz

theorem Keeps.opbPasses {s t u : State} {x f word tab ta tb tw bcol arow kb0 high iid gang put}
    (e : opbPasses t x f word tab ta tb tw bcol arow kb0 high iid gang put = some u) (h : Keeps s t)
    (hput : ∀ u y, Keeps s u → Keeps s (put u y)) : Keeps s u :=
  .of_foldl_some e h (fun _ => rfl) fun _ _ _ ew hv =>
    .of_map_some ew fun y ey => hput _ _ (.opbPass (y := y.2) ey hv)

theorem Keeps.makePass {s t : State} {c y} (h : Keeps s t) : Keeps s (makePass t c y) := .setEng h

theorem Keeps.takeMade {s t : State} {x} (h : Keeps s t) : Keeps s (takeMade t x) := by
  unfold Machine.takeMade
  split
  · exact h
  · split
    next e =>
      exact .addPass (.setEng (.of_fst e (.openParts h)))

theorem KeepsRes.execOpb {s t : State} {a1 pr f} (h : Keeps s t) : KeepsRes s (execOpb a1 pr f t) := by
  unfold Machine.execOpb
  refine .withCtx h (fun x => .ite (.takeMade h) (.ite h (.withBound h (fun u y hu => ?_))))
  split
  · refine .ite (.seqFault hu) ?_
    split
    · dsimp only
      exact .getD (fun _ e => .opbPasses e (.setVc (.openParts hu)) (fun _ _ hv => .makePass hv)) hu
    · dsimp only
      exact .getD (fun _ e' => .opbPasses e' (.openParts hu) (fun _ _ hw => .addPass hw)) hu
  · exact .seqFault hu

theorem Keeps.pushDrain {s t : State} {x f g orow ocol high iid gang q} (h : Keeps s t) : Keeps s
    (pushDrain t x f g orow ocol high iid gang q) :=
  .queueDrain h

theorem KeepsRes.execDrain {s t : State} {a1 pr f} (h : Keeps s t) : KeepsRes s (execDrain a1 pr f t) := by
  unfold Machine.execDrain
  refine .withBody h (fun x => .ite h ?_)
  split
  · refine .ite h ?_
    split
    · split
      · dsimp only
        exact .foldl' (.openParts h) (fun _ _ hu => .pushDrain hu)
      · dsimp only
        exact .foldl' (.openParts h) (fun _ _ hv => .pushDrain hv)
    · split
      · dsimp only
        exact .foldl' (.openParts h) (fun _ _ hw => .pushDrain hw)
      · dsimp only
        exact .foldl' (.openParts h) (fun _ _ hz => .pushDrain hz)
  · exact .seqFault h

theorem Keeps.pushJob {s t : State} {x gs t4 wr} (h : Keeps s t) : Keeps s (pushJob t x gs t4 wr) := by
  unfold Machine.pushJob
  split
  next e =>
    exact .setVu (.of_fst e (.openParts h))

theorem KeepsRes.execVop {s t : State} {a1 pr f} (h : Keeps s t) : KeepsRes s (execVop a1 pr f t) := by
  unfold Machine.execVop
  refine .withBody h (fun x => ?_)
  split
  · exact .pushJob h
  · exact .seqFault h

theorem KeepsRes.execReduce {s t : State} {a1 pr f} (h : Keeps s t) : KeepsRes s (execReduce a1 pr f t) := by
  unfold Machine.execReduce
  refine .withBody h (fun x => .ite h ?_)
  split
  · exact .pushJob h
  · exact .seqFault h

theorem KeepsRes.execIndexStream {s t : State} {a1 pr f} (h : Keeps s t) : KeepsRes s
    (execIndexStream a1 pr f t) := by
  unfold Machine.execIndexStream
  refine .withCtx h (fun x => .ite h ?_)
  split
  · refine .ite (.doneNow h) ?_
    split
    next e =>
      exact .setVu (.of_fst e (.openParts h))
  · exact .seqFault h

theorem KeepsRes.execGather {s t : State} {a1 pr f} (h : Keeps s t) : KeepsRes s (execGather a1 pr f t) := by
  unfold Machine.execGather
  refine .withBody h (fun x => .ite h ?_)
  split
  · exact .pushJob h
  · exact .seqFault h

theorem KeepsRes.execScatterAdd {s t : State} {a1 pr f} (h : Keeps s t) : KeepsRes s (execScatterAdd a1 pr f t) := by
  unfold Machine.execScatterAdd
  refine .withBody h (fun x => .ite h ?_)
  split
  · exact .pushJob h
  · exact .seqFault h

theorem KeepsRes.execSegmentReduce {s t : State} {a1 pr f} (h : Keeps s t) : KeepsRes s
    (execSegmentReduce a1 pr f t) := by
  unfold Machine.execSegmentReduce
  refine .withBody h (fun x => .ite h ?_)
  split
  · exact .pushJob h
  · exact .seqFault h

theorem KeepsRes.execAnchorRead {s t : State} {a1 pr f} (h : Keeps s t) : KeepsRes s (execAnchorRead a1 pr f t) := by
  unfold Machine.execAnchorRead
  refine .withBody h (fun x => .ite h ?_)
  split
  · exact .pushJob h
  · exact .seqFault h

theorem KeepsRes.execQuantCodes {s t : State} {a1 pr f} (h : Keeps s t) : KeepsRes s (execQuantCodes a1 pr f t) := by
  unfold Machine.execQuantCodes
  refine .withCtx h (fun x => .ite h ?_)
  split
  · exact .pushJob h
  · exact .seqFault h

theorem Keeps.nextParticipant {s t : State} {p c d} (h : Keeps s t) : Keeps s (nextParticipant t p c d) := by
  unfold Machine.nextParticipant
  split
  · exact .put h
  · exact h

theorem KeepsRes.execCaravan {s t : State} {a1 pr f} (h : Keeps s t) : KeepsRes s (execCaravan a1 pr f t) := by
  unfold Machine.execCaravan
  refine .withCtx h (fun x => .ite h ?_)
  split
  · exact .ite (.setCar (.nextParticipant (.put (.setVc h)))) (.nextParticipant (.put (.setVc h)))
  · exact .seqFault h

theorem Keeps.openStages {s t : State} {i c} (h : Keeps s t) : Keeps s (openStages t i c) :=
  .foldl' (.put (.put h)) (fun _ _ hu => .put (.put (.put (.put hu))))

theorem KeepsRes.execCaravanInstanceStart {s t : State} {p d} (h : Keeps s t) : KeepsRes s
    (execCaravanInstanceStart p d t) := by
  unfold Machine.execCaravanInstanceStart
  split
  · refine .ite ?_ (.next h)
    split
    · exact .next (.stopCar h)
    · exact .next (.takeStep (.carPublish (.setCar (.foldl' (.foldl' h (fun _ _ hu => .setVc hu))
        (fun _ _ hv => .openStages hv)))))
  · exact .next h

/-! ### Training -/

theorem Keeps.mbCount {s t : State} {p} (h : Keeps s t) : Keeps s (mbCount t p) := .put h

theorem Keeps.holdingFlag {s t : State} {p} (h : Keeps s t) : Keeps s (holdingFlag t p) := .put h

theorem KeepsRes.execMbBegin {s t : State} {a1 pr mb step} (h : Keeps s t) : KeepsRes s
    (execMbBegin a1 pr mb step t) := by
  unfold Machine.execMbBegin
  refine .withCtx h (fun x => ?_)
  split
  · exact .ite (.seqFault h) (.ite (.setVc h) (.doneNow (.mbCount (.setVc (.issued (.setMb h))))))
  · exact .seqFault h

theorem Keeps.mbEnded {s t : State} {p m} (h : Keeps s t) : Keeps s (mbEnded t p m) := .ite (.closeMb h) h

theorem KeepsRes.execMbEnd {s t : State} {a1 pr mb step} (h : Keeps s t) : KeepsRes s
    (execMbEnd a1 pr mb step t) := by
  unfold Machine.execMbEnd
  refine .withCtx h (fun x => ?_)
  split
  · exact .ite (.seqFault h) (.ite h (.mbEnded (.doneNow (.setVc (.setMb h)))))
  · exact .seqFault h

theorem KeepsRes.execMicroBatchTableWaitTimeout {s t : State} {a1} (h : Keeps s t) : KeepsRes s
    (execMicroBatchTableWaitTimeout a1 t) := by
  unfold Machine.execMicroBatchTableWaitTimeout
  split
  · exact .next h
  · dsimp only
    split
    · exact .ite (.next h) (.next (.stopLaunch h))
    · exact .next h

theorem KeepsRes.execStepEnd {s t : State} {a1 pr step} (h : Keeps s t) : KeepsRes s (execStepEnd a1 pr step t) := by
  unfold Machine.execStepEnd
  refine .withCtx h (fun x => ?_)
  split
  · exact .ite h (.ite (.seqFault h) (.ite (.seqFault h) (.tryPhase (.turnCore (.reachBarrier (.setVc h))))))
  · exact .seqFault h

theorem Keeps.ringWrite {s t : State} {p o bs} (h : Keeps s t) : Keeps s (ringWrite t p o bs) :=
  .getD (fun _ e => .pWrite e (.getD (fun _ e' => .pWrite e' h) h)) (.getD (fun _ e'' => .pWrite e'' h) h)

theorem Keeps.recordGuard {s t : State} {p} (h : Keeps s t) : Keeps s (recordGuard t p) :=
  .foldl' h (fun _ _ hu => .put hu)

theorem Keeps.closeRecord {s t : State} {p} (h : Keeps s t) : Keeps s (closeRecord t p) := by
  obtain ⟨F, hF⟩ := exists_eq (a' := @Machine.closeRecord)
  obtain ⟨meets, hm⟩ := exists_eq (a' := @ringMeets)
  rw [← hF]
  delta Machine.closeRecord at hF
  rw [← hm] at hF
  subst hF
  beta_reduce
  extract_lets +onlyGivenNames u
  split
  · exact h
  · extract_lets +onlyGivenNames _ _ _ _ _ _ _ v w
    have hw : Keeps s w := .ringWrite (.setTr h)
    exact .ite hw (.logRec (.put hw))

theorem Keeps.openRecord {s t : State} {p} (h : Keeps s t) : Keeps s (openRecord t p) := by
  unfold Machine.openRecord
  refine .ite ?_ h
  split
  next e =>
    exact .setTr (.of_snd e (.drawKey h))

theorem Keeps.siroccoPeriod {s t : State} {p} (h : Keeps s t) : Keeps s (siroccoPeriod t p) :=
  .ite (.requestSirocco (.of_mk h)) (.of_mk h)

theorem Keeps.stepTaken {s t : State} {p} (h : Keeps s t) : Keeps s (stepTaken t p) :=
  .ite (.siroccoBegin (.siroccoPeriod (.recordGuard (.openRecord (.closeRecord (.ite (.emit (.newPhase
    (.bumpWrap h))) (.newPhase (.bumpWrap h)))))))) (.siroccoPeriod (.recordGuard (.openRecord (.closeRecord (.ite
    (.emit (.newPhase (.bumpWrap h))) (.newPhase (.bumpWrap h)))))))

theorem Keeps.takeBoundary {s t : State} {p} (h : Keeps s t) : Keeps s (takeBoundary t p) := by
  unfold Machine.takeBoundary
  dsimp only
  split
  · exact h
  · exact .unlessStalled h (.holdingFlag (.ite (.stepTaken (.setTr h)) (.setTr h)))

theorem KeepsRes.execBoundaryReady {s t : State} {p} (h : Keeps s t) : KeepsRes s (execBoundaryReady p t) :=
  .ite (.next (.ite (.setTr h) (.ite (.setTr h) h))) (.next (.ite (.holdingFlag (.ite (.setTr h) (.ite
    (.setTr h) h))) (.takeBoundary (.ite (.setTr h) (.ite (.setTr h) h)))))

theorem Keeps.syncEdge {s t : State} {p} (h : Keeps s t) : Keeps s (syncEdge t p) := by
  unfold Machine.syncEdge
  refine .ite h (.ite (.bump h) ?_)
  split
  · exact .ite (.takeBoundary h) (.put h)
  · exact .put h

theorem KeepsRes.execStepSyncInEdge {s t : State} (h : Keeps s t) : KeepsRes s (execStepSyncInEdge t) :=
  .next (.foldl' (.put h) (fun _ _ hu => .syncEdge hu))

theorem KeepsRes.execBoundaryEarliestReached {s t : State} {p} (h : Keeps s t) : KeepsRes s
    (execBoundaryEarliestReached p t) := by
  unfold Machine.execBoundaryEarliestReached
  dsimp only
  split
  · exact .next h
  · exact .ite (.next h) (.ite (.next (.takeBoundary (.put (.setTr h)))) (.next (.setTr h)))

theorem KeepsRes.execBoundaryLatestReached {s t : State} {p} (h : Keeps s t) : KeepsRes s
    (execBoundaryLatestReached p t) := by
  unfold Machine.execBoundaryLatestReached
  dsimp only
  split
  · exact .next h
  · exact .ite (.next h) (.next (.setTr (.takeBoundary (.bump h))))

theorem KeepsRes.execLateDropExpiry {s t : State} {p} (h : Keeps s t) : KeepsRes s (execLateDropExpiry p t) :=
  .next (.setTr h)

theorem Keeps.recordFinds {s t : State} {p i ev} (h : Keeps s t) : Keeps s (recordFinds t p i ev).1 := by
  unfold Machine.recordFinds
  dsimp only
  exact .ite (.pTouch (.memFinds h)) (.memFinds h)

theorem Keeps.rippleScale {s t : State} {p i step} (h : Keeps s t) : Keeps s (rippleScale t p i step) := by
  unfold Machine.rippleScale
  split
  · exact .ite (.setTr h) h
  · exact h

theorem KeepsRes.execScaleRecordUpdate {s t : State} {p record step ev} (h : Keeps s t) : KeepsRes s
    (execScaleRecordUpdate p record step ev t) :=
  .ite (.next h) (.ite (.next (.afterLoss (.scaleFault (.recordFinds h)))) (.next (.unlessStalled h (.rippleScale
    (.scaleUpdate (.recordFinds h))))))

theorem KeepsRes.execVersionWaitTimeout {s t : State} {a1} (h : Keeps s t) : KeepsRes s
    (execVersionWaitTimeout a1 t) := by
  unfold Machine.execVersionWaitTimeout
  split
  · split
    · exact .next h
    · dsimp only
      split
      · exact .ite (.next h) (.next (.stopLaunch h))
      · exact .next h
  · split
    · exact .ite (.next (.endRequest (.oasIdle (.giveBack h)))) (.next h)
    · exact .next h

theorem Keeps.enableBit {s t : State} {last x lo f ok code} {on : State → State} (h : Keeps s t)
    (hon : ∀ u, Keeps s u → Keeps s (on u)) : Keeps s (enableBit t last x lo f ok code on) := by
  unfold Machine.enableBit
  split
  · exact .ite (hon _ (.put h)) (.wrRecord (.put h))
  · exact .put h
  · exact h

theorem Keeps.synCtrl {s t : State} {x} (h : Keeps s t) : Keeps s (synCtrl t x) :=
  .enableBit (.storeBut h) (fun _ hu => hu)

theorem KeepsRes.execSynCtrlWrite {s t : State} {p w} (h : Keeps s t) : KeepsRes s (execSynCtrlWrite p w t) :=
  .next (.hostWrite h (fun _ _ hu => .synCtrl hu))

theorem Keeps.synStep {s t : State} {x} (h : Keeps s t) : Keeps s (synStep t x) := .ite (.wrRecord h) (.storeAll h)

theorem KeepsRes.execSynStepWrite {s t : State} {p w} (h : Keeps s t) : KeepsRes s (execSynStepWrite p w t) :=
  .next (.hostWrite h (fun _ _ hu => .synStep hu))

theorem Keeps.closeAll {s t : State} {p} (h : Keeps s t) : Keeps s (closeAll t p) :=
  .foldl' h (fun _ _ hu => .closeMb hu)

theorem Keeps.clearBindings {s t : State} {p} (h : Keeps s t) : Keeps s (clearBindings t p) :=
  .foldl' h (fun _ _ hu => .setMb (.foldl' hu (fun _ _ hv => .setRefs hv)))

theorem Keeps.synVersionCtrl {s t : State} {x} (h : Keeps s t) : Keeps s (synVersionCtrl t x) := by
  unfold Machine.synVersionCtrl
  refine .ite (.ite (.wrRecord ?_) (.closeAll ?_)) ?_
  · split
    · exact .clearBindings (.put (.storeBut h))
    · exact .put (.storeBut h)
    · exact .storeBut h
  · split
    · exact .clearBindings (.put (.storeBut h))
    · exact .put (.storeBut h)
    · exact .storeBut h
  · split
    · exact .clearBindings (.put (.storeBut h))
    · exact .put (.storeBut h)
    · exact .storeBut h

theorem KeepsRes.execCloseAll {s t : State} {p w} (h : Keeps s t) : KeepsRes s (execCloseAll p w t) :=
  .next (.hostWrite h (fun _ _ hu => .synVersionCtrl hu))

theorem KeepsRes.execSynVersionEnable {s t : State} {p w} (h : Keeps s t) : KeepsRes s (execSynVersionEnable p w t) :=
  .next (.hostWrite h (fun _ _ hu => .synVersionCtrl hu))

theorem Keeps.synSeedKey {s t : State} {x} (h : Keeps s t) : Keeps s (synSeedKey t x) :=
  .ite (.setTr (.storeAll h)) (.storeAll h)

theorem KeepsRes.execSynSeedKeyWrite {s t : State} {p w} (h : Keeps s t) : KeepsRes s (execSynSeedKeyWrite p w t) :=
  .next (.hostWrite h (fun _ _ hu => .synSeedKey hu))

theorem Keeps.synRippleCtrl {s t : State} {x} (h : Keeps s t) : Keeps s (synRippleCtrl t x) :=
  .enableBit (.storeBut h) (fun _ hu => hu)

theorem KeepsRes.execSynRippleEnable {s t : State} {p w} (h : Keeps s t) : KeepsRes s (execSynRippleEnable p w t) :=
  .next (.hostWrite h (fun _ _ hu => .synRippleCtrl hu))

theorem Keeps.replayStart {s t : State} {p x} (h : Keeps s t) : Keeps s (replayStart t p x) := by
  unfold Machine.replayStart
  refine .ite (.wrRecord h) (.ite (.wrRecord (.put (.put (.put (.put (.put (.put h))))))) (.ite (.wrRecord (.put
    (.put (.put (.put (.put (.put h))))))) ?_))
  split
  · exact .wrRecord (.put (.put (.put (.put (.put (.put h))))))
  · exact .ite (.wrRecord (.put (.put (.put (.put (.put (.put h))))))) (.startReplayed (.put (.put (.put (.setTr
      (.getD (fun _ e => .pWrite e (.put (.put (.put (.put (.put h)))))) (.put (.put (.put (.put (.put h)))))))))))

theorem Keeps.synReplayCtrl {s t : State} {x} (h : Keeps s t) : Keeps s (synReplayCtrl t x) := by
  unfold Machine.synReplayCtrl
  refine .ite (.replayStart (.ite ?_ (.storeAll h))) (.ite ?_ (.storeAll h))
  · split
    · exact .setTr (.storeAll h)
    · exact .storeAll h
  · split
    · exact .setTr (.storeAll h)
    · exact .storeAll h

theorem KeepsRes.execReplayStart {s t : State} {p w} (h : Keeps s t) : KeepsRes s (execReplayStart p w t) :=
  .next (.hostWrite h (fun _ _ hu => .synReplayCtrl hu))

theorem KeepsRes.execReplayAbort {s t : State} {p w} (h : Keeps s t) : KeepsRes s (execReplayAbort p w t) :=
  .next (.hostWrite h (fun _ _ hu => .synReplayCtrl hu))

/-! ### Oasis -/

theorem KeepsRes.execUpdate {s t : State} {a1 pr f} (h : Keeps s t) : KeepsRes s (execUpdate a1 pr f t) := by
  unfold Machine.execUpdate
  refine .withCtx h (fun x => .ite h ?_)
  split
  · refine .ite (.seqFault h) (.ite (.seqFault h) (.ite (.seqFault h) (.ite (.seqFault h) (.ite (.setVc h) ?_))))
    dsimp only
    split
    next e =>
      exact .of_fst e (.pairTile (.issued h))
    next e' =>
      exact .doneNow (.ite (.setVc (.launchTile (.of_fst e' (.pairTile (.issued h))))) (.setOasQueue (.setVc
        (.launchTile (.of_fst e' (.pairTile (.issued h)))))))
  · exact .seqFault h

theorem KeepsRes.execOasisQueueFull {s t : State} {a1} (h : Keeps s t) : KeepsRes s (execOasisQueueFull a1 t) := by
  unfold Machine.execOasisQueueFull
  split
  · exact .next h
  · exact .ite (.next h) (.next (.stopLaunch h))

theorem Keeps.takeRequest {s t : State} {p r i k} (h : Keeps s t) : Keeps s (takeRequest t p r i k) :=
  .put (.put (.put (.of_mk (.setSlotState h))))

theorem Keeps.readRecords {s t : State} {p i b} (h : Keeps s t) : Keeps s (readRecords t p i b) :=
  .foldl' (.pTouch h) (fun _ _ hu => .pTouch hu)

theorem KeepsRes.execUpdateRequestStart {s t : State} (h : Keeps s t) : KeepsRes s (execUpdateRequestStart t) := by
  obtain ⟨F, hF⟩ := exists_eq (a' := @Machine.execUpdateRequestStart)
  obtain ⟨version, hv⟩ := exists_eq (a' := @Machine.versionOf)
  obtain ⟨slot, hs⟩ := exists_eq (a' := @Machine.targetSlot)
  rw [← hF]
  delta Machine.execUpdateRequestStart at hF
  rw [← hv, ← hs] at hF
  subst hF
  beta_reduce
  split
  · split
    · exact .next h
    · refine .ite (.next h) ?_
      extract_lets u bad
      have hu : Keeps s u := .readRecords (.setOasQueue h)
      have hbad : ∀ code, KeepsRes s (bad code) := fun _ => .next (.endRequest hu)
      refine .ite (hbad _) (.ite (hbad _) (.ite (hbad _) (.ite (hbad _) ?_)))
      split
      · exact hbad _
      · split
        · exact hbad _
        · exact .next (.takeRequest hu)
  · exact .next h

theorem Keeps.failPass {s t : State} {x code status more hw} (h : Keeps s t) : Keeps s
    (failPass t x code status more hw) := by
  unfold Machine.failPass
  refine .endRequest (.oasIdle (.setMaster ?_))
  split
  · exact .setSlotState h
  · exact h

theorem Keeps.writeCodes {s t u : State} {p d n book k blocks} (e : (writeCodes t p d n book k blocks).1 = some u)
    (h : Keeps s t) : Keeps s u :=
  .of_foldl_fst_some e h (fun _ _ => rfl) fun _ _ _ _ ew hv =>
    .of_bind_some ew fun _ ey ew => .pWrite ew (.pWrite ey hv)

theorem Keeps.beginPass {s t : State} {x i} (h : Keeps s t) : Keeps s (beginPass t x i) :=
  .of_mk (.setMaster (.noteTags (.pPut (.setSlotState h))))

theorem Keeps.runPass {s t : State} {x} (h : Keeps s t) : Keeps s (runPass t x) := by
  obtain ⟨F, hF⟩ := exists_eq (a' := @Machine.runPass)
  obtain ⟨book, hb⟩ := exists_eq (a' := @codebookOf)
  obtain ⟨fit, hr⟩ := exists_eq (a' := @refit)
  obtain ⟨field, hm⟩ := exists_eq (a' := @masterFld)
  obtain ⟨place, hp⟩ := exists_eq (a' := @refusedAt)
  obtain ⟨write, hw⟩ := exists_eq (a' := @Machine.writeCodes)
  rw [← hF]
  delta Machine.runPass at hF
  rw [← hb, ← hw, ← hr, ← hp, ← hm] at hF
  have hw : ∀ {u p d n b k l w}, (write u p d n b k l).1 = some w → Keeps s u → Keeps s w :=
    fun e hu => .writeCodes (hw ▸ e) hu
  subst hF
  beta_reduce
  extract_lets +onlyGivenNames r p n blocks other
  split
  · exact .failPass h
  extract_lets +onlyGivenNames v cb
  have hv : Keeps s v := .devWrite h
  split
  · exact .failPass hv
  · extract_lets +onlyGivenNames a guess e w wt
    have hw' : Keeps s w := .ite hv (.put (.bumpWrap hv))
    split
    next o clip ew =>
    split
    · split
      exact .failPass hw'
    next z ez =>
      have hz : Keeps s z := .of_bind_some ez fun y ey ez => .pWrite ez (hw (by rw [ew]; exact ey) hw')
      extract_lets +onlyGivenNames every refitted
      split
      exact .of_mk hz

theorem Keeps.linkCount {s t : State} {retries crcs} (h : Keeps s t) : Keeps s (linkCount t retries crcs) :=
  .bump (.bump h)

theorem Keeps.writeCopy {s t : State} {bad ev n m} (h : Keeps s t) : Keeps s (writeCopy bad ev n m t) := by
  obtain ⟨F, hF⟩ := exists_eq (a' := @Machine.writeCopy)
  obtain ⟨version, hv⟩ := exists_eq (a' := @Machine.versionOf)
  obtain ⟨refusal, hp⟩ := exists_eq (a' := @partRefusal)
  obtain ⟨find, hr⟩ := exists_eq (a' := @Machine.readFinds)
  rw [← hF]
  delta Machine.writeCopy at hF
  rw [← hv, ← hp, ← hr] at hF
  have hr : ∀ u p at', Keeps s u → Keeps s (find u p at' ev).1 := fun _ _ _ hu => hr ▸ .readFinds hu
  subst hF
  beta_reduce
  split
  · exact h
  extract_lets +onlyGivenNames r p
  split
  · exact h
  extract_lets +onlyGivenNames k
  refine .ite h ?_
  extract_lets +onlyGivenNames u x v votes
  have hv : Keeps s v := .linkCount (.beginPass h)
  refine .ite (.failPass hv) ?_
  split
  · exact .failPass hv
  · split
    next w found more e =>
    have hw : Keeps s w := .of_fst e (hr _ _ _ hv)
    exact .ite (.afterLoss (.failPass hw)) (.runPass (.foldl' hw fun _ _ hu => .pTouch hu))

theorem KeepsRes.execWorkingCopyWriteStart {s t : State} {slowBad x} (h : Keeps s t) : KeepsRes s
    (execWorkingCopyWriteStart slowBad x t) :=
  .next (.unlessStalled h (.writeCopy h))

theorem Keeps.commitPass {s t : State} {x} (h : Keeps s t) : Keeps s (commitPass t x) := by
  unfold Machine.commitPass
  refine .bumpWrap (.oasIdle ?_)
  split
  · refine .setSlotState (.setMaster ?_)
    split
    · exact .setMaster (.setMaster (.getD (fun _ e => .pWrite e (.setMaster (.setMaster (.setMaster (.setMaster
        (.setMaster h)))))) (.setMaster (.setMaster (.setMaster (.setMaster (.setMaster h)))))))
    · exact .getD (fun _ e' => .pWrite e' (.setMaster (.setMaster (.setMaster (.setMaster (.setMaster h))))))
        (.setMaster (.setMaster (.setMaster (.setMaster (.setMaster h)))))
  · refine .setMaster ?_
    split
    · exact .setMaster (.setMaster (.getD (fun _ e'' => .pWrite e'' (.setMaster (.setMaster (.setMaster (.setMaster
        (.setMaster h)))))) (.setMaster (.setMaster (.setMaster (.setMaster (.setMaster h)))))))
    · exact .getD (fun _ e1 => .pWrite e1 (.setMaster (.setMaster (.setMaster (.setMaster (.setMaster h))))))
        (.setMaster (.setMaster (.setMaster (.setMaster (.setMaster h)))))

theorem KeepsRes.execUpdateCommit {s t : State} (h : Keeps s t) : KeepsRes s (execUpdateCommit t) := by
  unfold Machine.execUpdateCommit
  split
  · exact .next h
  · exact .ite (.next h) (.next (.unlessStalled h (.ite (.commitPass h) (.raise (.commitPass h)))))

theorem Keeps.oasQueueWr {s t : State} {x} (h : Keeps s t) : Keeps s (oasQueueWr t x) := .ite (.cancelRequests h) h

theorem KeepsRes.execOasQueueCancel {s t : State} {p w} (h : Keeps s t) : KeepsRes s (execOasQueueCancel p w t) :=
  .next (.hostWrite h (fun _ _ hu => .oasQueueWr hu))

theorem Keeps.oasCtrl {s t : State} {x} (h : Keeps s t) : Keeps s (oasCtrl t x) :=
  .enableBit (.storeBut h) (fun _ hu => hu)

theorem KeepsRes.execOasCtrlEnable {s t : State} {p w} (h : Keeps s t) : KeepsRes s (execOasCtrlEnable p w t) :=
  .next (.hostWrite h (fun _ _ hu => .oasCtrl hu))

theorem Keeps.oasKey {s t : State} {x} (h : Keeps s t) : Keeps s (oasKey t x) :=
  .ite h (.ite (.wrRecord h) (.ite (.put (.storeAll h)) (.storeAll h)))

theorem KeepsRes.execOasDigestKeyWrite {s t : State} {p n w} (h : Keeps s t) : KeepsRes s
    (execOasDigestKeyWrite p n w t) :=
  .next (.hostWrite h (fun _ _ hu => .oasKey hu))

theorem Keeps.xferBegin {s t : State} {p} (h : Keeps s t) : Keeps s (xferBegin t p) :=
  .put (.put (.ite (.put (.ite (.setMaster (.of_mk h)) (.of_mk h))) (.ite (.setMaster (.of_mk h)) (.of_mk h))))

theorem Keeps.xferStart {s t : State} {p x} (h : Keeps s t) : Keeps s (xferStart t p x) := by
  unfold Machine.xferStart
  extract_lets i op running known refuse queued
  have hr : ∀ code, Keeps s (refuse code) := by
    intro code
    have hu : Keeps s (if running = true then t.put (Reg.OAS_XFER_STATUS_LAST_CODE p) code else
        (t.put (Reg.OAS_XFER_STATUS_LAST_CODE p) code).put (Reg.OAS_XFER_STATUS_STATE p) 3) := .ite (.put h) (.put (.put h))
    exact .wrRecord (.ite (.setMaster hu) hu)
  exact .ite (hr _) (.ite (hr _) (.ite (hr _) (.ite (hr _) (.ite (hr _) (.ite (hr _) (.ite (hr _) (.ite (hr _)
    (.xferBegin (.readRecords h)))))))))

theorem Keeps.oasXferWr {s t : State} {x} (h : Keeps s t) : Keeps s (oasXferWr t x) :=
  .ite (.wrRecord h) (.ite (.xferStart (.storeAll h)) (.storeAll h))

theorem KeepsRes.execOasInit {s t : State} {p w} (h : Keeps s t) : KeepsRes s (execOasInit p w t) :=
  .next (.hostWrite h (fun _ _ hu => .oasXferWr hu))

theorem KeepsRes.execOasRead {s t : State} {p w} (h : Keeps s t) : KeepsRes s (execOasRead p w t) :=
  .next (.hostWrite h (fun _ _ hu => .oasXferWr hu))

theorem KeepsRes.execOasDigest {s t : State} {p w} (h : Keeps s t) : KeepsRes s (execOasDigest p w t) :=
  .next (.hostWrite h (fun _ _ hu => .oasXferWr hu))

theorem KeepsRes.execInitQuant {s t : State} {p w} (h : Keeps s t) : KeepsRes s (execInitQuant p w t) :=
  .next (.hostWrite h (fun _ _ hu => .oasXferWr hu))

theorem Keeps.xferEnd {s t : State} {p t3 code status} (h : Keeps s t) : Keeps s (xferEnd t p t3 code status) :=
  .ite (.put (.put (.setMaster (.of_mk h)))) (.put (.put (.setMaster (.put (.setMaster (.of_mk h))))))

theorem Keeps.xferFail {s t : State} {p t3 code status more} (h : Keeps s t) : Keeps s
    (xferFail t p t3 code status more) :=
  .xferEnd (.raise h)

theorem Keeps.xferInit {s t : State} {p x was bs} (h : Keeps s t) : Keeps s (xferInit t p x was bs) := by
  obtain ⟨F, hF⟩ := exists_eq (a' := @Machine.xferInit)
  obtain ⟨book, hb⟩ := exists_eq (a' := @codebookOf)
  obtain ⟨version, hv⟩ := exists_eq (a' := @Machine.versionOf)
  obtain ⟨place, hp⟩ := exists_eq (a' := @refusedAt)
  obtain ⟨find, hf⟩ := exists_eq (a' := @List.findSome? Nat TDesc)
  obtain ⟨write, hw⟩ := exists_eq (a' := @Machine.writeCodes)
  rw [← hF]
  delta Machine.xferInit at hF
  rw [← hb, ← hw, ← hv, ← hp, ← hf] at hF
  have hw : ∀ {u p d n b k l w}, (write u p d n b k l).1 = some w → Keeps s u → Keeps s w :=
    fun e hu => .writeCodes (hw ▸ e) hu
  subst hF
  beta_reduce
  extract_lets i blocks a u
  split
  · exact .xferFail h
  split
  · exact .xferFail h
  · extract_lets e v
    have hv : Keeps s v := .setMaster (.setMaster (.setMaster (.devWrite h)))
    split
    · exact .xferEnd hv
    split
    · exact .xferFail hv
    split
    · extract_lets 
      split
      next z ez => exact .xferEnd (.of_bind_some ez fun y ey ez => .pWrite ez (hw ey hv))
      · split
        exact .xferFail hv
    · exact .xferFail hv

theorem Keeps.xferRead {s t : State} {p t3 was bad} (h : Keeps s t) : Keeps s (xferRead t p t3 was bad) :=
  .ite (.xferEnd (.foldl' (.foldl' h (fun _ _ hu => .getD (fun _ e => .pWrite e hu) hu)) (fun _ _ hv => .bump
    (.raise hv)))) (.xferEnd (.foldl' (.foldl' h (fun _ _ hw => .getD (fun _ e' => .pWrite e' hw) hw))
    (fun _ _ hz => .bump (.raise hz))))

theorem Keeps.endTransfer {s t : State} {p bad ev retries crcs} (h : Keeps s t) : Keeps s
    (endTransfer p bad ev retries crcs t) := by
  unfold Machine.endTransfer
  split
  · exact h
  · refine .ite (.ite (.xferEnd (.setMaster (.setMaster (.linkCount h)))) (.xferFail (.linkCount h))) ?_
    split
    · exact .xferFail (.linkCount h)
    · refine .ite (.xferRead (.linkCount h)) ?_
      split
      next e =>
        exact .ite (.afterLoss (.xferFail (.of_fst e (.readFinds (.linkCount h))))) (.xferInit (.pTouch (.of_fst e
          (.readFinds (.linkCount h)))))

theorem KeepsRes.execOasTransferComplete {s t : State} {p bad x} (h : Keeps s t) : KeepsRes s
    (execOasTransferComplete p bad x t) :=
  .next (.unlessStalled h (.endTransfer h))

theorem Keeps.oasLost {s t : State} {code} (h : Keeps s t) : Keeps s (oasLost t code) := by
  unfold Machine.oasLost
  refine .enterOchre (.put (.foldl' ?_ (fun u x hu => ?_)))
  · split
    · exact .ite (.failPass h) h
    · exact h
  · split
    · exact .xferEnd hu
    · exact hu

theorem KeepsRes.retireModule {s t : State} {m retries crcs} (h : Keeps s t) : KeepsRes s
    (retireModule m retries crcs t) :=
  .ite (.next h) (.ite (.next (.oasLost (.raise (.raise (.put (.put (.linkCount h))))))) (.next (.raise (.put (.put
    (.linkCount h))))))

theorem KeepsRes.execOasisLinkModuleRetired {s t : State} {x} (h : Keeps s t) : KeepsRes s
    (execOasisLinkModuleRetired x t) :=
  .retireModule h

theorem KeepsRes.execOasisDieInternalFault {s t : State} (h : Keeps s t) : KeepsRes s (execOasisDieInternalFault t) :=
  .next (.ite (.oasLost h) h)

/-! ### Teardown -/

theorem Keeps.zeroizeFrame {s t : State} {p f} (h : Keeps s t) : Keeps s (zeroizeFrame t p f) := .setFrame (.of_mk h)

theorem Keeps.partFree {s t : State} {p} (h : Keeps s t) : Keeps s (partFree t p) :=
  .of_mk (.foldl' (.put (.put h)) (fun _ _ hu => .putAll hu))

theorem Keeps.tryFree {s t : State} {p} (h : Keeps s t) : Keeps s (tryFree t p) := .ite (.partFree h) h

theorem Keeps.purgeChannel {s t : State} {p k} (h : Keeps s t) : Keeps s (purgeChannel t p k) :=
  .ite (.promote (.setChan (.put (.foldl' h (fun _ _ hu => .freeRecord hu))))) (.ite (.put (.setChan (.foldl' h
    (fun _ _ hv => .freeRecord hv)))) (.foldl' h (fun _ _ hw => .freeRecord hw)))

theorem Keeps.purgeDma {s t : State} {p} (h : Keeps s t) : Keeps s (purgeDma t p) :=
  .foldl' (.foldl' h (fun _ _ hu => .setDqRing hu)) (fun _ _ hv => .purgeChannel hv)

theorem Keeps.endCommands {s t : State} {p records why} (h : Keeps s t) : Keeps s (endCommands t p records why) := by
  unfold Machine.endCommands
  split
  · dsimp only
    exact .foldl' (.purgeDma (.haltLaunch (.raise (.setTr h)))) (fun _ _ hu => .ite (.finishCmd hu) (.dropCmd hu))
  · dsimp only
    exact .foldl' (.purgeDma (.haltLaunch (.setTr h))) (fun _ _ hv => .ite (.finishCmd hv) (.dropCmd hv))

theorem Keeps.closeFlows {s t : State} {p} (h : Keeps s t) : Keeps s (closeFlows t p) :=
  .of_mk (.foldl' h (fun _ _ hu => .ite hu (.setFlowState (.sendCtrl hu))))

theorem Keeps.leaveCore {s t : State} {p c} (h : Keeps s t) : Keeps s (leaveCore t p c) :=
  .put (.of_mk (.foldl' (.engFlags (.foldl' (.foldl' (.seqIdle (.clearCore h)) (fun _ _ hu => .resetRange hu))
    (fun _ _ hv => .put hv))) (fun _ _ hw => .ite (.put (.put (.resetRange hw))) (.ite (.put (.resetRange
    (.resetRange hw))) (.resetRange (.resetRange hw))))))

theorem Keeps.freeBlocks {s t : State} {p} (h : Keeps s t) : Keeps s (freeBlocks t p) :=
  .foldl' h (fun _ _ hu => .ite (.put (.put (.put (.of_mk (.resetRange hu))))) hu)

theorem Keeps.resetPages {s t : State} {p} (h : Keeps s t) : Keeps s (resetPages t p) :=
  .put (.resetRange (.resetRange (.resetRange (.resetRange h))))

theorem Keeps.loseUnit {s t : State} {key u3} (h : Keeps s t) : Keeps s (loseUnit t key u3) := .storeAt h

theorem Keeps.loseRegion {s t : State} {p} (h : Keeps s t) : Keeps s (loseRegion t p) :=
  .of_mk (.foldl' h (fun _ _ hu => .loseUnit hu))

theorem Keeps.dropContexts {s t : State} {p} (h : Keeps s t) : Keeps s (dropContexts t p) := .put (.of_mk h)

theorem Keeps.teardown_dropPass {s t : State} {p} (h : Keeps s t) : Keeps s (teardown.dropPass t p) := by
  unfold Machine.teardown.dropPass
  split
  · exact .ite (.oasIdle h) h
  · exact h

theorem Keeps.teardown {s t : State} {p records why} (h : Keeps s t) : Keeps s (teardown t p records why) :=
  .ite h (.tryFree (.put (.foldl' (.put (.resetPages (.dropContexts (.freeBlocks (.loseRegion (.releaseNative
    (.releasePins (.foldl' (.closeFlows (.teardown_dropPass (.cancelRequests (.endCommands (.put h)))))
    (fun _ _ hu => .leaveCore hu))))))))) (fun _ _ hv => .zeroizeFrame hv))))

theorem Keeps.removalNext {s t : State} (h : Keeps s t) : Keeps s (removalNext t) :=
  .ite h (.ite (.raise (.put (.portsDown (.of_mk (.foldl' h (fun _ _ hu => .teardown hu)))))) (.foldl' h
    (fun _ _ hv => .teardown hv)))

/-! ### Memory -/

theorem Keeps.interleaveWr {s t : State} {x} (h : Keeps s t) : Keeps s (interleaveWr t x) :=
  .ite h (.ite (.wrRecord h) (.put (.put (.put (.put (.of_mk (.put (.storeAll h))))))))

theorem KeepsRes.execMemInterleaveWrite {s t : State} {w} (h : Keeps s t) : KeepsRes s (execMemInterleaveWrite w t) :=
  .next (.hostWrite h (fun _ _ hu => .interleaveWr hu))

theorem Keeps.unback {s t : State} {f} (h : Keeps s t) : Keeps s (unback t f) := by
  unfold Machine.unback
  refine .of_mk ?_
  split
  · exact .put h
  · exact .put h
  · exact .put h
  · exact h

theorem Keeps.mapOut {s t : State} {c} (h : Keeps s t) : Keeps s (mapOut t c) := by
  unfold Machine.mapOut
  split
  · exact .raise (.put (.of_mk (.put (.put (.put (.of_mk (.foldl' h (fun _ _ hu => .unback hu))))))))

theorem Keeps.forceSet {s t : State} {c} (h : Keeps s t) : Keeps s (forceSet t c) := by
  unfold Machine.forceSet
  split
  · refine .foldl' (.foldl' h (fun _ _ hu => .teardown hu)) (fun u x hv => ?_)
    split
    · exact hv
    · exact .zeroizeFrame hv

theorem Keeps.mapNext {s t : State} {fin} {refuse : State → State} (h : Keeps s t)
    (hrefuse : ∀ u, Keeps s u → Keeps s (refuse u)) : Keeps s (mapNext t fin refuse) := by
  unfold Machine.mapNext
  split
  · exact h
  · exact .ite h (.ite (.ite (.mapOut h) h) (.ite (.of_mk (.forceSet h)) (hrefuse _ (.put (.of_mk h)))))

theorem Keeps.mapoutWr {s t : State} {x} (h : Keeps s t) : Keeps s (mapoutWr t x) :=
  .ite (.storeAll h) (.ite (.wrRecord (.storeAll h)) (.ite (.put (.storeAll h)) (.mapNext (.put (.of_mk
    (.storeAll h))) (fun _ hu => .wrRecord hu))))

theorem KeepsRes.execMemMapoutStart {s t : State} {w} (h : Keeps s t) : KeepsRes s (execMemMapoutStart w t) :=
  .next (.hostWrite h (fun _ _ hu => .mapoutWr hu))

theorem Keeps.lateRefusal {s t : State} {c} (h : Keeps s t) : Keeps s (lateRefusal c t) := .raise h

theorem KeepsRes.execChannelMappedOut {s t : State} (h : Keeps s t) : KeepsRes s (execChannelMappedOut t) :=
  .next (.mapNext h (fun _ hu => .lateRefusal hu))

theorem Keeps.zeroizeWr {s t : State} {x} (h : Keeps s t) : Keeps s (zeroizeWr t x) :=
  .ite h (.put (.put (.put (.put (.of_mk h)))))

theorem KeepsRes.execMemZeroizeAll {s t : State} {w} (h : Keeps s t) : KeepsRes s (execMemZeroizeAll w t) :=
  .next (.hostWrite h (fun _ _ hu => .zeroizeWr hu))

theorem KeepsRes.execFrameZeroizeComplete {s t : State} {f bad} (h : Keeps s t) : KeepsRes s
    (execFrameZeroizeComplete f bad t) := by
  unfold Machine.execFrameZeroizeComplete
  refine .ite (.next h) ?_
  split
  next p _ =>
    extract_lets +onlyGivenNames u v w
    have hu : Keeps s u := ⟨h.1, fun c => ⟨drop_mem_wf _ _ (h.2 c).1, (h.2 c).2⟩⟩
    have hv : Keeps s v := by
      unfold v
      split
      · exact .setFrame hu
      · exact .raise (.setFrame hu)
    have hw : Keeps s w := .ite hv (.put hv)
    exact .next (.removalNext (.mapNext (.ite (.tryFree hw) hw) fun _ hu => .lateRefusal hu))
  · exact .next h

theorem Keeps.memReg {s t : State} {p e2 x} (h : Keeps s t) : Keeps s (memReg p e2 t x) := by
  unfold Machine.memReg
  split
  · exact .put (.capBucket (.storeBut h))
  · exact .ite (.put (.ite (.capBucket (.storeBut h)) (.setBucket (.capBucket (.storeBut h))))) (.wrRecord
      (.capBucket (.storeBut h)))
  · exact .capBucket (.storeBut h)

theorem KeepsRes.execMemRegEnableWrite {s t : State} {p e2 w} (h : Keeps s t) : KeepsRes s
    (execMemRegEnableWrite p e2 w t) :=
  .next (.hostWrite h (fun _ _ hu => .memReg hu))

theorem KeepsRes.execTokenRefill {s t : State} (h : Keeps s t) : KeepsRes s (execTokenRefill t) :=
  .next (.foldl' h (fun _ _ hu => .ite (.setBucket hu) hu))

theorem Keeps.accessStops {s t : State} {r at_ code detail} (h : Keeps s t) : Keeps s
    (accessStops t r at_ code detail) := by
  unfold Machine.accessStops
  split
  · exact .ite (.stopLaunch h) (.raise h)
  · exact .raise h

theorem Keeps.accessWith {s t : State} {r addr wr as ev} {act : State → State} (h : Keeps s t)
    (hact : ∀ u, Keeps s u → Keeps s (act u)) : Keeps s (accessWith t r addr wr as ev act) := by
  unfold Machine.accessWith
  refine .ite (.waitKeys h) ?_
  split
  next e =>
    exact hact _ (.of_fst e (.memFinds (.takeKeys h)))
  next e' =>
    exact .afterLoss (.accessStops (.of_fst e' (.memFinds (.takeKeys h))))

theorem KeepsRes.execFastTierAccess {s t : State} {r addr len data ev} (h : Keeps s t) : KeepsRes s
    (execFastTierAccess r addr len data ev t) := by
  unfold Machine.execFastTierAccess
  refine .ite (.next h) ?_
  split
  · exact .fault
  · exact .next (.accessStops h)
  · split
    · exact .next (.accessWith h (fun _ hu => .emit (.touchAll hu)))
    · exact .next (.accessWith h (fun _ hv => .storeAt (.touchAll hv)))

theorem KeepsRes.execAtomic {s t : State} {r addr wide op xs ev} (h : Keeps s t) : KeepsRes s
    (execAtomic r addr wide op xs ev t) := by
  unfold Machine.execAtomic
  refine .ite (.next h) ?_
  split
  · exact .fault
  · exact .next (.accessStops h)
  · exact .next (.accessWith h (fun _ hu => .emit (.bump (.storeAt (.touchAll hu)))))

theorem KeepsRes.evictLine {s t : State} {slice set retries lost} (h : Keeps s t) : KeepsRes s
    (evictLine slice set retries lost t) := by
  unfold Machine.evictLine
  split
  · exact .next h
  · refine .ite (.next h) (.ite (.next (.of_mk h)) (.ite (.next (.waitKeys h)) (.ite (.next (.of_mk (.bump
      (.takeKeys h)))) ?_)))
    split
    · split
      · exact .next (.becomeFaulted (.raise (.loseLine (.bump (.takeKeys h)))))
      · exact .next (.raise (.loseLine (.bump (.takeKeys h))))
    · split
      · exact .next (.becomeFaulted (.raise (.loseLine (.bump (.takeKeys h)))))
      · exact .next (.raise (.loseLine (.bump (.takeKeys h))))

theorem KeepsRes.execLineEviction {s t : State} {slice set x} (h : Keeps s t) : KeepsRes s
    (execLineEviction slice set x t) :=
  .evictLine h

theorem Keeps.partStatusWr {s t : State} {p x} (h : Keeps s t) : Keeps s (partStatusWr p t x) :=
  .ite (.storeAll h) (.of_mk (.storeAll h))

theorem KeepsRes.execMemPartStatusFaultedClear {s t : State} {p w} (h : Keeps s t) : KeepsRes s
    (execMemPartStatusFaultedClear p w t) :=
  .next (.hostWrite h (fun _ _ hu => .partStatusWr hu))

/-! ### Queue -/

theorem Keeps.queSel {s t : State} {x} (h : Keeps s t) : Keeps s (queSel t x) := .storeAll h

theorem KeepsRes.execQueSelWrite {s t : State} {w} (h : Keeps s t) : KeepsRes s (execQueSelWrite w t) :=
  .next (.hostWrite h (fun _ _ hu => .queSel hu))

theorem Keeps.queBase {s t : State} {x} (h : Keeps s t) : Keeps s (queBase t x) :=
  .ite (.ite (.wrRecord h) h) (.storeAll h)

theorem Keeps.openQueue {s t : State} {q} (h : Keeps s t) : Keeps s (openQueue t q) :=
  .queueFlags (.of_mk (.put (.put (.foldl' h (fun _ _ hu => .put hu)))))

theorem Keeps.queCfg {s t : State} {x} (h : Keeps s t) : Keeps s (queCfg t x) := by
  unfold Machine.queCfg
  split
  · exact .ite (.storeBut (.ite (.wrRecord h) h)) (.ite (.openQueue (.storeBut (.ite (.wrRecord h) h))) (.wrRecord
      (.storeBut (.ite (.wrRecord h) h))))
  · exact .queueFlags (.put (.storeBut (.ite (.wrRecord h) h)))
  · exact .storeBut (.ite (.wrRecord h) h)

theorem KeepsRes.execQueCfgWrite {s t : State} {w} (h : Keeps s t) : KeepsRes s (execQueCfgWrite w t) :=
  .next (.hostWrite h (fun _ _ hu => .queCfg hu))

theorem KeepsRes.execDoorbellWrite {s t : State} {off w} (h : Keeps s t) : KeepsRes s
    (execDoorbellWrite off w t) := by
  unfold Machine.execDoorbellWrite
  refine .ite (.next h) (.ite ?_ (.next (.raise h)))
  split
  · refine .next (.queueFlags ?_)
    split
    · refine .put ?_
      split
      · exact .put h
      · exact h
    · split
      · exact .put h
      · exact h

theorem KeepsRes.execInterruptAggregationTimeout {s t : State} {q} (h : Keeps s t) : KeepsRes s
    (execInterruptAggregationTimeout q t) :=
  .ite (.next (.sendMsix (.of_mk h))) (.next h)

theorem Keeps.blockVisit {s t : State} {b q} (h : Keeps s t) : Keeps s (blockVisit t b q) := by
  unfold Machine.blockVisit
  split
  · exact .of_mk h

theorem KeepsRes.execCommandAccept {s t : State} {q bytes} (h : Keeps s t) : KeepsRes s
    (execCommandAccept q bytes t) := by
  unfold Machine.execCommandAccept
  refine .ite ?_ (.next h)
  split
  · dsimp only
    exact .next (.failCmd (.setCmd (.draw (.bumpWrap (.put (.put (.blockVisit (.of_mk h))))))))
  · exact .next (.ite (.recordOrder (.queueFlags (.setCmd (.bumpWrap (.put (.put (.blockVisit (.of_mk h))))))))
      (.failCmd (.recordOrder (.queueFlags (.setCmd (.bumpWrap (.put (.put (.blockVisit (.of_mk h))))))))))

theorem Keeps.refuseCmd {s t : State} {p seq code detail} (h : Keeps s t) : Keeps s (refuseCmd t p seq code detail) :=
  .failCmd h

theorem KeepsRes.execHostNop {s t : State} {p seq} (h : Keeps s t) : KeepsRes s (execHostNop p seq t) :=
  .ite (.next (.completeCmd h)) (.next h)

theorem Keeps.pushPieces {s t : State} {p seq src dst srcSp dstSp base ps} (h : Keeps s t) : Keeps s
    (pushPieces t p seq src dst srcSp dstSp base ps) := by
  unfold Machine.pushPieces
  refine .foldl_fst h (fun x y hu => ?_)
  split
  · split
    · dsimp only
      split
      · exact .pushDescOn hu
      · exact hu

theorem Keeps.startCopy {s t : State} {p seq src dst len srcSp dstSp offs} (h : Keeps s t) : Keeps s
    (startCopy t p seq src dst len srcSp dstSp offs) := by
  unfold Machine.startCopy
  refine .ite (.refuseCmd h) ?_
  split
  · exact .refuseCmd h
  · exact .ite (.refuseCmd h) (.pushPieces (.setCmd h))

theorem KeepsRes.execCopyToDevice {s t : State} {p seq} (h : Keeps s t) : KeepsRes s (execCopyToDevice p seq t) :=
  .ite (.next (.ite (.refuseCmd h) (.startCopy h))) (.next h)

theorem KeepsRes.execCopyToHost {s t : State} {p seq} (h : Keeps s t) : KeepsRes s (execCopyToHost p seq t) :=
  .ite (.next (.startCopy h)) (.next h)

theorem KeepsRes.execCopyDevice {s t : State} {p seq} (h : Keeps s t) : KeepsRes s (execCopyDevice p seq t) :=
  .ite (.next (.ite (.refuseCmd h) (.startCopy h))) (.next h)

theorem Keeps.measure {s t : State} {p digest handle kind seq} (h : Keeps s t) : Keeps s
    (measure t p digest handle kind seq) :=
  .of_mk h

theorem Keeps.fillBanks {s t : State} {p h3 g} (h : Keeps s t) : Keeps s (fillBanks t p h3 g) := by
  unfold Machine.fillBanks
  refine .foldl' h (fun u x hu => ?_)
  split
  · exact .ite (.foldl' hu (fun _ _ hv => .ite hv (.put (.setBank hv)))) hu

theorem Keeps.settle {s t : State} {p h3 g} (h : Keeps s t) : Keeps s (settle t p h3 g).2 := by
  unfold Machine.settle
  refine .ite_snd h (.ite_snd (.setProg (.fillBanks (.dropCode h))) ?_)
  split
  next e =>
    exact .pWrite e (.setProg (.fillBanks (.dropCode h)))
  · exact .setProg (.fillBanks (.dropCode h))

theorem KeepsRes.execLoadModule {s t : State} {p seq image} (h : Keeps s t) : KeepsRes s
    (execLoadModule p seq image t) := by
  unfold Machine.execLoadModule
  refine .ite (.ite (.next (.refuseCmd h)) (.ite (.next (.refuseCmd h)) ?_)) (.next h)
  dsimp only
  exact .ite (.next (.failCmd (.measure h))) (.ite (.next (.refuseCmd (.measure h))) (.ite (.next (.refuseCmd
    (.measure h))) (.next (.unlessStalled (.measure h) (.completeCmd (.settle (.measure h)))))))

theorem Keeps.pinNative {s t : State} {p g} (h : Keeps s t) : Keeps s (pinNative t p g) :=
  .pinCounts (.foldl_fst h (fun _ _ hu => .of_mk hu))

theorem KeepsRes.execLoadNative {s t : State} {p seq image v} (h : Keeps s t) : KeepsRes s
    (execLoadNative p seq image v t) := by
  unfold Machine.execLoadNative
  refine .ite (.ite (.next (.refuseCmd h)) (.ite (.next (.refuseCmd h)) (.ite (.next (.refuseCmd (.measure h))) (.ite
    (.next (.refuseCmd (.measure h))) (.ite (.next (.refuseCmd (.measure h))) (.ite (.next (.refuseCmd (.measure h)))
    (.ite (.next (.refuseCmd (.measure h))) (.ite (.next (.refuseCmd (.measure h))) ?_)))))))) (.next h)
  split
  next e =>
    exact .ite (.next (.refuseCmd (.measure h))) (.next (.completeCmd (.of_snd e (.settle (.measure h)))))

theorem KeepsRes.execUnload {s t : State} {p seq} (h : Keeps s t) : KeepsRes s (execUnload p seq t) :=
  .ite (.ite (.next (.refuseCmd h)) (.ite (.next (.refuseCmd h)) (.next (.completeCmd (.setProg (.dropCode (.foldl'
    (.of_mk h) (fun _ _ hu => .of_mk hu)))))))) (.next h)

theorem KeepsRes.execLaunch {s t : State} {p seq} (h : Keeps s t) : KeepsRes s (execLaunch p seq t) :=
  .ite (.ite (.next (.refuseCmd h)) (.next (.setCmd h))) (.next h)

theorem Keeps.pinResident {s t : State} {p g} (h : Keeps s t) : Keeps s (pinResident t p g).2.2 := by
  refine .foldl_snd_snd h fun q r hq => ?_
  obtain ⟨o, n⟩ := r
  dsimp only
  split
  · exact hq
  · split
    · exact hq
    · exact .pinRange hq

theorem Keeps.startCores {s t : State} {p h3 g active} (h : Keeps s t) : Keeps s (startCores t p h3 g active) := by
  unfold Machine.startCores
  refine .foldl' (.foldl' h (fun u x hu => ?_)) (fun _ _ hv => .foldl' (.ite (.takeCores hv) hv)
    (fun _ _ hw => .wantCode (.setVu (.put (.put hw)))))
  split
  · exact .setVc hu

theorem Keeps.startShadows {s t : State} {p} (h : Keeps s t) : Keeps s (startShadows t p) := .of_mk h

theorem Keeps.beginLaunch {s t : State} {p seq g} (h : Keeps s t) : Keeps s (beginLaunch t p seq g) := by
  unfold Machine.beginLaunch
  dsimp only
  exact .tryCommit (.ite (.startShadows (.startCores (.setLaunch (.setCmd (.ite_snd (.drawKey h) h))))) (.startCores
    (.setLaunch (.setCmd (.ite_snd (.drawKey h) h)))))

theorem Keeps.pinAndBegin {s t : State} {p q g ev} (h : Keeps s t) : Keeps s (pinAndBegin t p q g ev) := by
  obtain ⟨F, hF⟩ := exists_eq (a' := @Machine.pinAndBegin)
  obtain ⟨pin, hp⟩ := exists_eq (a' := @Machine.pinResident)
  rw [← hF]
  delta Machine.pinAndBegin at hF
  obtain ⟨find, hr⟩ := exists_eq (a' := @Machine.readFinds)
  rw [← hp, ← hr] at hF
  have hr : ∀ u i, Keeps s u → Keeps s (find u p i ev).1 := fun _ _ hu => hr ▸ .readFinds hu
  have hp : ∀ u, Keeps s u → Keeps s (pin u p g).2.2 := fun _ hu => hp ▸ .pinResident hu
  subst hF
  beta_reduce
  extract_lets u drop
  have hu : Keeps s u := .ite (.pinNative h) h
  have hdrop : ∀ w, Keeps s w → Keeps s (drop w) := fun w hw => .releaseNative (.releasePins hw)
  split
  · split
    next v found more e =>
    have hv : Keeps s v := .of_fst e (hr _ _ hu)
    split
    · exact .afterLoss (.refuseCmd (hdrop _ hv))
    · exact .beginLaunch (hp _ hv)
  next e => exact .refuseCmd (hdrop _ (.of_snd_snd e (hp _ hu)))

theorem Keeps.startNow {s t : State} {p seq ev} (h : Keeps s t) : Keeps s (startNow t p seq ev) := by
  unfold Machine.startNow
  dsimp only
  exact .ite (.refuseCmd h) (.pinAndBegin (.ite (.raise (.ite_snd h (.ite_snd h (.ite_snd (.settle h) h))))
    (.ite_snd h (.ite_snd h (.ite_snd (.settle h) h)))))

theorem KeepsRes.execLaunchStart {s t : State} {x} (h : Keeps s t) : KeepsRes s (execLaunchStart x t) := by
  unfold Machine.execLaunchStart
  dsimp only
  split
  · exact .next h
  · exact .ite (.next h) (.next (.unlessStalled h (.startNow h)))

theorem Keeps.abortCmd {s t : State} {p seq t4} (h : Keeps s t) : Keeps s (abortCmd t p seq t4) := by
  unfold Machine.abortCmd
  dsimp only
  split
  · exact .ite (.abortLaunch (.setCmd h)) (.ite (.finishCmd (.finishCmd (.stopCopy h))) (.setCmd (.setCmd
      (.stopCopy h))))
  · exact .finishCmd (.finishCmd h)

theorem KeepsRes.execAbort {s t : State} {p seq} (h : Keeps s t) : KeepsRes s (execAbort p seq t) := by
  unfold Machine.execAbort
  refine .ite (.ite (.next (.refuseCmd h)) ?_) (.next h)
  split
  · split
    next e =>
      exact .next (.ite (.finishCmd (.of_snd e (.draw h))) (.finishCmd h))
  · exact .ite (.next (.refuseCmd h)) (.ite (.next (.setCmd h)) (.ite (.next (.setCmd h)) (.next (.abortCmd h))))

/-! ### Fabric -/

theorem Keeps.unmatched {s t : State} (h : Keeps s t) : Keeps s (unmatched t) := .bump h

theorem Keeps.frameMac {s t : State} {h2} (h : Keeps s t) : Keeps s (frameMac t h2).1 := by
  unfold Machine.frameMac
  refine .ite_fst h ?_
  split
  · exact .unmatched (.bumpWrap h)
  · exact .unmatched h
  · exact .ite_fst (.unmatched h) h

theorem Keeps.lookTargets {s t : State} {h2} (h : Keeps s t) : Keeps s (lookTargets t h2) := by
  unfold Machine.lookTargets
  refine .ite (.foldl' h (fun u x hu => ?_)) (.lookFlow h)
  split
  · exact .lookFlow (.readRecord hu)

theorem Keeps.receive {s t : State} {h2 ack group} {act : State → Nat → Nat → Nat → State} (h : Keeps s t)
    (hact : ∀ u x2 x3 x4, Keeps s u → Keeps s (act u x2 x3 x4)) : Keeps s (receive t h2 ack group act) := by
  unfold Machine.receive
  split
  next e =>
    exact .of_fst e (.frameMac h)
  next e' =>
    refine .ite (.ite (.unmatched (.lookTargets (.of_fst e' (.frameMac h)))) (.ite (.bump (.lookTargets (.of_fst e'
      (.frameMac h)))) (.foldl' (.lookTargets (.of_fst e' (.frameMac h))) (fun v x hu => ?_)))) ?_
    · split
      · exact .ite (.bump hu) (.ite (.unmatched hu) (hact _ _ _ _ hu))
    · split
      · exact .unmatched (.lookTargets (.of_fst e' (.frameMac h)))
      · exact .ite (.bump (.lookTargets (.of_fst e' (.frameMac h)))) (.ite (.unmatched (.lookTargets (.of_fst e'
          (.frameMac h)))) (hact _ _ _ _ (.lookTargets (.of_fst e' (.frameMac h)))))

theorem sendAck_eq (t : State) (p f k : Nat) : ∃ u pay, (∀ s, Keeps s t → Keeps s u) ∧ sendAck t p f k =
   if isMcast u p f then
    match groupOfMcast u p f with
    | some g => (emitFrame u p (listFlow u p g k) 1 4 0 0 (groupFld u p g 0 2) 0 0 0 pay).1
    | none => u
  else (emitFrame u p f 1 0 0 0 0 0 0 0 pay).1 := by
  refine ⟨_, _, ?_, rfl⟩
  exact fun s h => .pPut (.setFlow h)

theorem Keeps.sendAck {s t : State} {p f k} (h : Keeps s t) : Keeps s (sendAck t p f k) := by
  obtain ⟨u, pay, hu, e⟩ := sendAck_eq t p f k
  rw [e]
  have hu := hu s h
  clear e
  split
  · split
    · exact .emitFrame hu
    · exact hu
  · exact .emitFrame hu

theorem Keeps.acceptSeq {s t : State} {p f k psn} (h : Keeps s t) : Keeps s (acceptSeq t p f k psn).1 := by
  unfold Machine.acceptSeq
  refine .ite_fst (.setFlow h) ?_
  split
  · exact .ite (.sendAck (.setFlow h)) (.setFlow h)

theorem Keeps.payloadOf {s t : State} {p t3} (h : Keeps s t) : Keeps s (payloadOf t p t3).1 := by
  unfold Machine.payloadOf
  refine .ite_fst h ?_
  split
  · dsimp only
    split
    · exact .failColl h
    · exact .Coll_touchParts h
  · split
    next e =>
      exact .of_snd e (.draw h)

theorem Keeps.retransmit {s t : State} {p f psn} (h : Keeps s t) : Keeps s (retransmit t p f psn) := by
  unfold Machine.retransmit
  split
  · exact h
  · split
    next e =>
      exact .of_fst e (.payloadOf h)
    next e' =>
      split
      · split
        · dsimp only
          exact .setFlow (.pPut (.emitFrame (.of_fst e' (.payloadOf h))))
        · dsimp only
          exact .setFlow (.pPut (.emitFrame (.of_fst e' (.payloadOf h))))
      · split
        · dsimp only
          exact .setFlow (.pPut (.emitFrame (.of_fst e' (.payloadOf h))))
        · dsimp only
          exact .setFlow (.pPut (.emitFrame (.of_fst e' (.payloadOf h))))

theorem Keeps.failUsers {s t : State} {p f code} (h : Keeps s t) : Keeps s (failUsers t p f code) := by
  unfold Machine.failUsers
  refine .foldl' h (fun u x hu => ?_)
  split
  · exact .failColl hu
  · exact hu

theorem Keeps.failOne {s t : State} {p f code} (h : Keeps s t) : Keeps s (failOne t p f code) :=
  .failUsers (.raise (.setFlow (.pPut (.setFlowState h))))

theorem Keeps.failFlow {s t : State} {p f code} (h : Keeps s t) : Keeps s (failFlow t p f code) :=
  .removalNext (.foldl' (.failOne h) (fun _ _ hu => .failOne hu))

theorem Keeps.mismatch {s t : State} {x} (h : Keeps s t) : Keeps s (mismatch t x) := .failColl h

theorem Keeps.dataOn {s t : State} {x payload p f k} (h : Keeps s t) : Keeps s (dataOn x payload t p f k) := by
  unfold Machine.dataOn
  refine .ite (.unmatched h) ?_
  split
  next e => exact .of_fst e (.acceptSeq h)
  next u e =>
    have hu : Keeps s u := .of_fst e (.acceptSeq h)
    split
    · exact hu
    · split
      · exact hu
      · refine .ite (.mismatch hu) ?_
        extract_lets key v
        have hv : Keeps s v := .ite hu (.recordFabric hu)
        split
        next e' => exact .failColl (.putColl (.of_snd_fst e' (.landData hv)))
        next e' => exact .pumpColl (.putColl (.of_snd_fst e' (.landData hv)))

theorem KeepsRes.execData {s t : State} {h1 payload} (h : Keeps s t) : KeepsRes s (execData h1 payload t) :=
  .next (.receive h (fun _ _ _ _ hu => .dataOn hu))

theorem Keeps.reqOn {s t : State} {h1 p f} (h : Keeps s t) : Keeps s (reqOn h1 t p f) := by
  unfold Machine.reqOn
  split
  · exact h
  · split
    · exact h
    · exact .ite (.mismatch h) (.putColl h)

theorem KeepsRes.execReq {s t : State} {h1} (h : Keeps s t) : KeepsRes s (execReq h1 t) :=
  .next (.receive h (fun _ _ _ _ hu => .reqOn hu))

theorem Keeps.grantOn {s t : State} {h1 p f} (h : Keeps s t) : Keeps s (grantOn h1 t p f) := by
  unfold Machine.grantOn
  split
  · exact h
  · split
    · exact h
    · exact .ite (.mismatch h) (.pumpColl (.putColl h))

theorem KeepsRes.execGrant {s t : State} {h1} (h : Keeps s t) : KeepsRes s (execGrant h1 t) :=
  .next (.receive h (fun _ _ _ _ hu => .grantOn hu))

theorem KeepsRes.execCreditGrant {s t : State} {p} (h : Keeps s t) : KeepsRes s (execCreditGrant p t) := by
  unfold Machine.execCreditGrant
  split
  · exact .next h
  · exact .next (.sendGrant (.of_mk (.putColl h)))

theorem Keeps.holderUp {s t : State} {p} (h : Keeps s t) : Keeps s (holderUp t p) :=
  .foldl' h (fun _ _ hu => .ite (.setFlowState hu) hu)

theorem Keeps.ctrlAcked {s t : State} {p f t4} (h : Keeps s t) : Keeps s (ctrlAcked t p f t4) :=
  .ite (.setFlowState h) (.ite (.setFlowState h) h)

theorem Keeps.processAck {s t : State} {p f w cum map} (h : Keeps s t) : Keeps s (processAck t p f w cum map) :=
  .pumpAll (.removalNext (.holderUp (.sendHeld (.foldl' (.foldl' (.setFlow h) (fun _ _ hu => .retransmit hu))
    (fun _ _ hv => .ctrlAcked hv)))))

theorem Keeps.ackOn {s t : State} {x cum map p f} (h : Keeps s t) : Keeps s (ackOn x cum map t p f) := by
  obtain ⟨F, hF⟩ := exists_eq (a' := @Machine.ackOn)
  obtain ⟨group, hg⟩ := exists_eq (a' := @groupOfTag)
  obtain ⟨rank, hr⟩ := exists_eq (a' := @rankOfFlow)
  rw [← hF]
  delta Machine.ackOn at hF
  rw [← hg, ← hr] at hF
  subst hF
  beta_reduce
  refine .ite ?_ (.processAck h)
  split
  · split
    · exact .ite (.unmatched h) (.processAck h)
    · exact h
  · exact h

theorem KeepsRes.execAck {s t : State} {h1 cum map} (h : Keeps s t) : KeepsRes s (execAck h1 cum map t) :=
  .next (.receive h (fun _ _ _ _ hu => .ackOn hu))

theorem Keeps.repeatCredit {s t : State} {p f} (h : Keeps s t) : Keeps s (repeatCredit t p f) :=
  .foldl' h (fun _ _ hu => .foldl' (.foldl' hu (fun _ _ hv => .sendReq hv)) (fun _ _ hw => .sendGrant hw))

theorem KeepsRes.execAckTimer {s t : State} {p flow} (h : Keeps s t) : KeepsRes s (execAckTimer p flow t) :=
  .ite (.next (.repeatCredit (.foldl' h (fun _ _ hu => .sendAck hu)))) (.next h)

theorem KeepsRes.execRetransmitTimeout {s t : State} {p flow psn} (h : Keeps s t) : KeepsRes s
    (execRetransmitTimeout p flow psn t) := by
  unfold Machine.execRetransmitTimeout
  dsimp only
  split
  · exact .next h
  · exact .ite (.next h) (.ite (.next (.ite (.failFlow h) h)) (.next (.retransmit (.setFlow h))))

theorem KeepsRes.execPortRotationRejoin {s t : State} {p flow f} (h : Keeps s t) : KeepsRes s
    (execPortRotationRejoin p flow f t) :=
  .next (.ite (.setFlow h) h)

theorem Keeps.ctrlOn {s t : State} {hd act p f k} (h : Keeps s t) (hact : ∀ u p f, Keeps s u → Keeps s
    (act u p f)) : Keeps s (ctrlOn hd act t p f k) := by
  obtain ⟨mcast, hm⟩ := exists_eq (a' := @isMcast)
  obtain ⟨accept, ha⟩ := exists_eq (a' := @Machine.acceptSeq)
  obtain ⟨F, hF⟩ := exists_eq (a' := @Machine.ctrlOn)
  rw [← hF]
  delta Machine.ctrlOn at hF
  rw [← hm, ← ha] at hF
  have ha : ∀ n, Keeps s (accept t p f k n).1 := fun _ => ha ▸ .acceptSeq h
  subst hF
  beta_reduce
  split
  next u e => exact .of_fst e (ha _)
  next u e => exact .ite (.of_fst e (ha _)) (hact _ _ _ (.of_fst e (ha _)))

theorem Keeps.abortOn {s t : State} {tag inst p f} (h : Keeps s t) : Keeps s (abortOn tag inst t p f) := by
  unfold Machine.abortOn
  refine .ite (.unmatched h) ?_
  split
  · exact .failColl h
  · exact h

theorem KeepsRes.execCtrlAbort {s t : State} {h1 tag inst} (h : Keeps s t) : KeepsRes s
    (execCtrlAbort h1 tag inst t) :=
  .next (.receive h (fun _ _ _ _ hu => .ctrlOn hu (fun _ _ _ hv => .abortOn hv)))

theorem Keeps.detachOn {s t : State} {h1 tag inst p f} (h : Keeps s t) : Keeps s (detachOn h1 tag inst t p f) := by
  unfold Machine.detachOn
  refine .ite (.unmatched h) ?_
  split
  · split
    · exact .failColl h
    · exact h
  · exact h

theorem KeepsRes.execCtrlDetach {s t : State} {h1 tag inst} (h : Keeps s t) : KeepsRes s
    (execCtrlDetach h1 tag inst t) :=
  .next (.receive h (fun _ _ _ _ hu => .ctrlOn hu (fun _ _ _ hv => .detachOn hv)))

theorem Keeps.leaveOn {s t : State} {code p f} (h : Keeps s t) : Keeps s (leaveOn code t p f) :=
  .failFlow (.sendAck h)

theorem KeepsRes.execCtrlRemove {s t : State} {h1} (h : Keeps s t) : KeepsRes s (execCtrlRemove h1 t) :=
  .next (.receive h (fun _ _ _ _ hu => .ctrlOn hu (fun _ _ _ hv => .leaveOn hv)))

theorem KeepsRes.execCtrlClose {s t : State} {h1} (h : Keeps s t) : KeepsRes s (execCtrlClose h1 t) :=
  .next (.receive h (fun _ _ _ _ hu => .ctrlOn hu (fun _ _ _ hv => .leaveOn hv)))

theorem Keeps.giveKey {s t : State} {p m epoch key} (h : Keeps s t) : Keeps s (giveKey t p m epoch key) := .setFlow h

theorem Keeps.groupKeyOn {s t : State} {tag x p f} (h : Keeps s t) : Keeps s (groupKeyOn tag x t p f) := by
  unfold Machine.groupKeyOn
  refine .ite (.unmatched h) ?_
  split
  · exact .unmatched h
  · exact .ite (.unmatched h) (.ite h (.ite (.setFlowState (.giveKey h)) (.giveKey h)))

theorem KeepsRes.execGroupKey {s t : State} {h1 tag x} (h : Keeps s t) : KeepsRes s (execGroupKey h1 tag x t) :=
  .next (.receive h (fun _ _ _ _ hu => .ctrlOn hu (fun _ _ _ hv => .groupKeyOn hv)))

theorem KeepsRes.execGroupKeyDistribution {s t : State} {p group} (h : Keeps s t) : KeepsRes s
    (execGroupKeyDistribution p group t) := by
  unfold Machine.execGroupKeyDistribution
  refine .ite ?_ (.next h)
  split
  next e =>
    exact .next (.foldl' (.giveKey (.of_mk (.of_snd e (.draw h)))) (fun _ _ hu => .sendCtrl hu))

theorem Keeps.openFlow {s t : State} {p f} (h : Keeps s t) : Keeps s (openFlow t p f) :=
  .ite (.ite (.setFlowState (.giveKey (.setFlow (.setFlowState (.pPut (.pPut h)))))) (.setFlow (.setFlowState (.pPut
    (.pPut h))))) (.startShakes (.setFlow (.setFlowState (.pPut (.pPut h)))))

theorem Keeps.closeFlow {s t : State} {p f} (h : Keeps s t) : Keeps s (closeFlow t p f) :=
  .failUsers (.setFlowState (.sendCtrl h))

theorem Keeps.fabFlowCmd {s t : State} {x} (h : Keeps s t) : Keeps s (fabFlowCmd t x) :=
  .ite (.storeAll h) (.ite (.wrRecord (.put (.storeAll h))) (.ite (.wrRecord (.put (.storeAll h))) (.ite (.openFlow
    (.put (.storeAll h))) (.ite (.closeFlow (.put (.storeAll h))) (.wrRecord (.put (.storeAll h)))))))

theorem KeepsRes.execFlowOpen {s t : State} {p w} (h : Keeps s t) : KeepsRes s (execFlowOpen p w t) :=
  .next (.hostWrite h (fun _ _ hu => .fabFlowCmd hu))

theorem KeepsRes.execFlowClose {s t : State} {p w} (h : Keeps s t) : KeepsRes s (execFlowClose p w t) :=
  .next (.hostWrite h (fun _ _ hu => .fabFlowCmd hu))

theorem Keeps.drawFlowKeys {s t : State} {p f} (h : Keeps s t) : Keeps s (drawFlowKeys t p f) := by
  unfold Machine.drawFlowKeys
  split
  next e =>
    split
    next e' =>
      split
      next e'' =>
        split
        next e1 =>
          exact .setFlow (.of_snd e1 (.draw (.of_snd e'' (.draw (.of_snd e' (.draw (.of_snd e (.draw h))))))))

theorem Keeps.endShake {s t : State} {p f x} (h : Keeps s t) : Keeps s (endShake t p f x) :=
  .ite (.setFlowState (.drawFlowKeys (.sendMessages h))) (.failFlow (.sendMessages h))

theorem KeepsRes.execHandshake {s t : State} {p flow x} (h : Keeps s t) : KeepsRes s (execHandshake p flow x t) := by
  unfold Machine.execHandshake
  split
  next e =>
    exact .next (.of_fst e (.frameMac h))
  next e' =>
    exact .ite (.next (.unmatched (.lookTargets (.of_fst e' (.frameMac h))))) (.ite (.next (.endShake (.lookTargets
      (.of_fst e' (.frameMac h))))) (.next (.lookTargets (.of_fst e' (.frameMac h)))))

theorem KeepsRes.execHandshakeTimeout {s t : State} {p flow} (h : Keeps s t) : KeepsRes s
    (execHandshakeTimeout p flow t) :=
  .ite (.next (.failFlow h)) (.next h)

theorem KeepsRes.execFlowClosingTimeout {s t : State} {p flow} (h : Keeps s t) : KeepsRes s
    (execFlowClosingTimeout p flow t) :=
  .ite (.next (.removalNext (.setFlow (.setFlowState h)))) (.next h)

theorem Keeps.portDown {s t : State} {f} (h : Keeps s t) : Keeps s (portDown t f) :=
  .ite (.foldl' (.linkDown h) (fun _ _ hu => .foldl' hu (fun _ _ hv => .retransmit hv))) h

theorem KeepsRes.execFabricPortDown {s t : State} {f} (h : Keeps s t) : KeepsRes s (execFabricPortDown f t) :=
  .next (.portDown h)

theorem KeepsRes.execFabricPortUp {s t : State} {f} (h : Keeps s t) : KeepsRes s (execFabricPortUp f t) :=
  .ite (.next (.put (.put (.put (.put h))))) (.next h)

theorem KeepsRes.execNonXftFrameReceived {s t : State} {f pause} (h : Keeps s t) : KeepsRes s
    (execNonXftFrameReceived f pause t) :=
  .ite (.next h) (.next (.ite (.bump h) (.unmatched h)))

theorem Keeps.fabCtrl {s t : State} {x} (h : Keeps s t) : Keeps s (fabCtrl t x) := by
  unfold Machine.fabCtrl
  refine .ite ?_ ?_
  · split
    · split
      · exact .ite (.wrRecord (.wrRecord h)) (.portsDown (.put (.wrRecord h)))
      · exact .wrRecord h
    · split
      · exact .ite (.wrRecord h) (.portsDown (.put h))
      · exact h
  · split
    · exact .ite (.wrRecord (.storeBut h)) (.ite (.put (.storeBut h)) (.wrRecord (.storeBut h)))
    · exact .storeBut h

theorem KeepsRes.execFabCtrlWrite {s t : State} {w} (h : Keeps s t) : KeepsRes s (execFabCtrlWrite w t) :=
  .next (.hostWrite h (fun _ _ hu => .fabCtrl hu))

theorem Keeps.fabAddr {s t : State} {x} (h : Keeps s t) : Keeps s (fabAddr t x) := .ite (.wrRecord h) (.storeAll h)

theorem Keeps.fabAreaCtrl {s t : State} {x} (h : Keeps s t) : Keeps s (fabAreaCtrl t x) := by
  unfold Machine.fabAreaCtrl
  split
  · exact .ite (.put (.storeBut h)) (.wrRecord (.put (.storeBut h)))
  · exact .put (.storeBut h)
  · exact .storeBut h

theorem KeepsRes.execFabAreaCtrlEnable {s t : State} {p w} (h : Keeps s t) : KeepsRes s
    (execFabAreaCtrlEnable p w t) :=
  .next (.hostWrite h (fun _ _ hu => .fabAreaCtrl hu))

theorem Keeps.collFault {s t : State} {x code detail} (h : Keeps s t) : Keeps s (collFault t x code detail) :=
  .stopLaunch h

theorem Keeps.touchGroup {s t : State} {p g} (h : Keeps s t) : Keeps s (touchGroup t p g) :=
  .foldl' (.pTouch (.pTouch h)) (fun _ _ hu => .pTouch hu)

theorem Keeps.collStart {s t : State} {x f ts td so do_} (h : Keeps s t) : Keeps s
    (collStart t x f ts td so do_) := by
  unfold Machine.collStart
  split
  · dsimp only
    split
    · exact h
    · split
      · exact .instCount (.of_mk (.openParts (.setLaunch (.ite h (.pPut h)))))
      · exact .pumpColl (.putColl (.foldl_fst (.instCount (.of_mk (.openParts (.setLaunch (.ite h (.pPut h))))))
          (fun _ _ hu => .landData hu)))
  · dsimp only
    split
    · exact h
    · split
      · exact .setVc (.instCount (.of_mk (.openParts (.setLaunch (.ite h (.pPut h))))))
      · exact .pumpColl (.putColl (.foldl_fst (.setVc (.instCount (.of_mk (.openParts (.setLaunch (.ite h
          (.pPut h))))))) (fun _ _ hv => .landData hv)))

theorem KeepsRes.execColl {s t : State} {a1 pr f} (h : Keeps s t) : KeepsRes s (execColl a1 pr f t) := by
  unfold Machine.execColl
  refine .withCtx h (fun x => .ite h ?_)
  split
  · refine .ite (.collFault (.issued h)) ?_
    split
    · exact .collFault (.issued h)
    · refine .ite (.collFault (.issued h)) ?_
      dsimp only
      split
      · exact .collFault (.touchGroup (.issued h))
      · exact .ite (.collStart (.touchGroup (.issued h))) (.collFault (.touchGroup (.issued h)))
  · exact .seqFault (.issued h)

theorem Keeps.fillQueue {s t : State} {x q} (h : Keeps s t) : Keeps s (fillQueue t x q) :=
  .foldl' (.paceWrite h) (fun _ _ hu => .pushDescOn hu)

theorem Keeps.bindQueue {s t : State} {x q} (h : Keeps s t) : Keeps s (bindQueue t x q) :=
  .ite (.fillQueue (.instCount (.of_mk (.putColl h)))) (.instCount (.of_mk (.putColl h)))

theorem KeepsRes.execReceiveQueueBind {s t : State} (h : Keeps s t) : KeepsRes s (execReceiveQueueBind t) := by
  unfold Machine.execReceiveQueueBind
  split
  · exact .next (.bindQueue h)
  · exact .next h

theorem Keeps.endColl {s t : State} {x} (h : Keeps s t) : Keeps s (endColl t x) := by
  unfold Machine.endColl
  split
  · exact .addToken (.partDone (.ite (.setVc (.dropColl h)) (.dropColl h)))
  · exact .partDone (.ite (.setVc (.dropColl h)) (.dropColl h))

theorem KeepsRes.execInstanceComplete {s t : State} {p group inst} (h : Keeps s t) : KeepsRes s
    (execInstanceComplete p group inst t) := by
  unfold Machine.execInstanceComplete
  split
  · exact .next h
  · exact .ite (.next (.tryCommit (.endColl h))) (.next h)

theorem KeepsRes.execCollectiveWaitTimeout {s t : State} {p group inst} (h : Keeps s t) : KeepsRes s
    (execCollectiveWaitTimeout p group inst t) := by
  unfold Machine.execCollectiveWaitTimeout
  split
  · exact .ite (.next (.failColl h)) (.next h)
  · exact .next h

theorem Keeps.detachRx {s t : State} {x r rank} (h : Keeps s t) : Keeps s (detachRx t x r rank) :=
  .pumpColl (.raise (.putColl (.setFlow (.sendCtrl h))))

theorem KeepsRes.execReceiverDetach {s t : State} {p group inst rank} (h : Keeps s t) : KeepsRes s
    (execReceiverDetach p group inst rank t) := by
  unfold Machine.execReceiverDetach
  split
  · exact .next h
  · split
    · exact .next h
    · exact .ite (.next (.detachRx h)) (.next h)

/-! ### Health -/

theorem Keeps.hltFence {s t : State} {x} (h : Keeps s t) : Keeps s (hltFence t x) :=
  .ite (.storeAll h) (.ite (.wrRecord (.storeAll h)) (.ite (.wrRecord (.storeAll h)) (.judgeLive (.turnGrey
    (.storeAll h)))))

theorem KeepsRes.execHostFence {s t : State} {w} (h : Keeps s t) : KeepsRes s (execHostFence w t) :=
  .next (.hostWrite h (fun _ _ hu => .hltFence hu))

theorem Keeps.hltCtrl {s t : State} {x} (h : Keeps s t) : Keeps s (hltCtrl t x) := by
  unfold Machine.hltCtrl
  split
  · exact .ite (.wrRecord h) (.storeAll h)
  · exact h

theorem KeepsRes.execHltCtrlWrite {s t : State} {w} (h : Keeps s t) : KeepsRes s (execHltCtrlWrite w t) :=
  .next (.hostWrite h (fun _ _ hu => .hltCtrl hu))

theorem Keeps.hltSirocco {s t : State} {x} (h : Keeps s t) : Keeps s (hltSirocco t x) :=
  .ite (.wrRecord h) (.ite (.ite (.put (.ite (.of_mk (.storeAll h)) (.storeAll h))) (.siroccoBegin (.ite (.of_mk
    (.storeAll h)) (.storeAll h)))) (.ite (.of_mk (.storeAll h)) (.storeAll h)))

theorem KeepsRes.execSiroccoStart {s t : State} {p w} (h : Keeps s t) : KeepsRes s (execSiroccoStart p w t) :=
  .next (.hostWrite h (fun _ _ hu => .hltSirocco hu))

theorem KeepsRes.execSiroccoRunStart {s t : State} {p} (h : Keeps s t) : KeepsRes s (execSiroccoRunStart p t) :=
  .ite (.next (.siroccoBegin h)) (.next h)

theorem Keeps.oddOnes {s t : State} {cs} (h : Keeps s t) : Keeps s (oddOnes t cs) :=
  .ite (.foldl' (.foldl' h (fun _ _ hu => .turnAmber hu)) (fun _ _ hv => .turnGrey hv)) (.judgeLive (.foldl'
    (.foldl' h (fun _ _ hw => .turnAmber hw)) (fun _ _ hz => .turnGrey hz)))

theorem Keeps.siroccoEnd {s t : State} {p} (h : Keeps s t) : Keeps s (siroccoEnd t p) := .put (.of_mk (.bumpWrap h))

theorem Keeps.undecidedRec {s t : State} {p g} (h : Keeps s t) : Keeps s (undecidedRec t p g) := .raise h

theorem KeepsRes.execSiroccoJudge {s t : State} {p digests} (h : Keeps s t) : KeepsRes s
    (execSiroccoJudge p digests t) := by
  unfold Machine.execSiroccoJudge
  split
  · exact .next h
  · exact .ite (.next h) (.ite (.next (.oddOnes h)) (.ite (.next (.siroccoEnd (.foldl' (.oddOnes h)
      (fun _ _ hu => .undecidedRec hu)))) (.next (.of_mk (.foldl' (.oddOnes h) (fun _ _ hv => .undecidedRec hv))))))

theorem KeepsRes.execSiroccoRerun {s t : State} {p digests} (h : Keeps s t) : KeepsRes s
    (execSiroccoRerun p digests t) := by
  unfold Machine.execSiroccoRerun
  split
  · exact .next h
  · exact .ite (.next h) (.next (.ite (.oddOnes h) (.siroccoEnd (.oddOnes h))))

theorem Keeps.hltPair {s t : State} {x} (h : Keeps s t) : Keeps s (hltPair t x) :=
  .ite (.storeAll h) (.foldl' (.storeAll h) (fun _ _ hu => .ite (.setProg hu) hu))

theorem KeepsRes.execPairEnableWrite {s t : State} {p w} (h : Keeps s t) : KeepsRes s (execPairEnableWrite p w t) :=
  .next (.hostWrite h (fun _ _ hu => .hltPair hu))

theorem Keeps.putKey {s t : State} {p key} (h : Keeps s t) : Keeps s (putKey t p key) :=
  .put (.put (.put (.foldl' h (fun _ _ hu => .markWritten hu))))

theorem Keeps.takeInst {s t : State} {p} (h : Keeps s t) : Keeps s (takeInst t p).2 := .pPut h

theorem Keeps.mirageColl {s t : State} {p op unit} (h : Keeps s t) : Keeps s (mirageColl t p op unit) := by
  unfold Machine.mirageColl
  split
  next e =>
    exact .pumpColl (.of_mk (.of_snd e (.takeInst h)))

theorem Keeps.beginCheck {s t : State} {p m} (h : Keeps s t) : Keeps s (beginCheck t p m) := by
  obtain ⟨F, hF⟩ := exists_eq (a' := @Machine.beginCheck)
  obtain ⟨lead, hl⟩ := exists_eq (a' := @isLeader)
  obtain ⟨code, hc⟩ := exists_eq (a' := @Machine.exchangeCode)
  rw [← hF]
  delta Machine.beginCheck at hF
  rw [← hl, ← hc] at hF
  subst hF
  beta_reduce
  extract_lets
  split
  next key u e =>
    have hu : Keeps s u := .of_snd e (.ite_snd (.drawKey h) h)
    split
    next next v e =>
      have hv : Keeps s v := .of_snd e (.ite_snd (.drawKey hu) hu)
      extract_lets w
      have hw : Keeps s w := .put (.setMir hv)
      split
      · exact .mirageColl (.ite (.putKey hw) hw)
      · exact .mirageFail hw

theorem KeepsRes.execMirageCheckStart {s t : State} {p} (h : Keeps s t) : KeepsRes s (execMirageCheckStart p t) :=
  .next (.ite (.beginCheck h) h)

theorem Keeps.mirageDigests {s t : State} {p key skip} (h : Keeps s t) : Keeps s (mirageDigests t p key skip) :=
  .foldl' h (fun _ _ hu => .setMaster (.setMaster hu))

theorem Keeps.exclude {s t : State} {p rs} (h : Keeps s t) : Keeps s (exclude t p rs) := by
  unfold Machine.exclude
  refine .put (.foldl' h (fun u x hu => ?_))
  split
  · exact .put hu

theorem Keeps.verdict_halt {s t : State} {p} (h : Keeps s t) : Keeps s (verdict.halt p t) := .raise (.put h)

theorem Keeps.verdict {s t : State} {p m cs} (h : Keeps s t) : Keeps s (verdict t p m cs) := by
  unfold Machine.verdict
  dsimp only
  split
  · exact .ite (.put h) (.ite (.verdict_halt h) (.ite (.raise (.put (.put (.exclude h)))) (.raise (.put
      (.exclude h)))))
  · exact .verdict_halt h

theorem Keeps.digestFails {s t : State} {p i y} (h : Keeps s t) : Keeps s (digestFails t p i y) := by
  unfold Machine.digestFails
  dsimp only
  exact .mirageFail (.tellAbort (.takeInst (.raise (.setMaster (.setMaster h)))))

theorem Keeps.digestAndGather {s t : State} {p y bad} (h : Keeps s t) : Keeps s (digestAndGather t p y bad) := by
  unfold Machine.digestAndGather
  split
  · dsimp only
    split
    · exact .digestFails (.putKey h)
    · exact .mirageColl (.setMir (.mirageDigests (.putKey h)))
  · split
    · dsimp only
      split
      · exact .digestFails (.putKey h)
      · exact .mirageColl (.setMir (.mirageDigests (.putKey h)))

theorem Keeps.judgeCheck {s t : State} {p y} (h : Keeps s t) : Keeps s (judgeCheck t p y) :=
  .mirageEnd (.setMir (.ite (.put (.putKey (.verdict h))) (.verdict h)))

theorem KeepsRes.execMirageVerdict {s t : State} {p fail bad link} (h : Keeps s t) : KeepsRes s
    (execMirageVerdict p fail bad link t) := by
  unfold Machine.execMirageVerdict
  split
  · exact .next h
  · exact .ite (.next (.failColl h)) (.ite (.next h) (.next (.ite (.digestAndGather (.linkCount (.of_mk h)))
      (.judgeCheck (.linkCount (.of_mk h))))))

theorem Keeps.hltMirageCtrl {s t : State} {x} (h : Keeps s t) : Keeps s (hltMirageCtrl t x) := by
  unfold Machine.hltMirageCtrl
  split
  · exact .ite (.wrRecord (.put (.storeBut h))) (.ite (.wrRecord (.put (.storeBut h))) (.ite (.wrRecord (.put
      (.storeBut h))) (.ite (.storeBut h) (.setMir (.put (.storeBut h))))))
  · exact .put (.put (.dropCtl (.storeBut h)))
  · exact .storeBut h

theorem Keeps.hltMirageStatus {s t : State} {x} (h : Keeps s t) : Keeps s (hltMirageStatus t x) :=
  .ite (.put (.put (.foldl' (.storeAll h) (fun _ _ hu => .put hu)))) (.storeAll h)

theorem KeepsRes.execMirageClear {s t : State} {p w} (h : Keeps s t) : KeepsRes s (execMirageClear p w t) :=
  .next (.hostWrite h (fun _ _ hu => .hltMirageStatus hu))

theorem KeepsRes.execMirageHaltedClear {s t : State} {p w} (h : Keeps s t) : KeepsRes s
    (execMirageHaltedClear p w t) :=
  .next (.hostWrite h (fun _ _ hu => .hltMirageStatus hu))

theorem Keeps.hltDump {s t : State} {x} (h : Keeps s t) : Keeps s (hltDump t x) :=
  .ite h (.ite (.wrRecord h) (.ite h (.put (.of_mk h))))

theorem KeepsRes.execDiagnosticDump {s t : State} {w} (h : Keeps s t) : KeepsRes s (execDiagnosticDump w t) :=
  .next (.hostWrite h (fun _ _ hu => .hltDump hu))

theorem Keeps.hltErrCtrl {s t : State} {x} (h : Keeps s t) : Keeps s (hltErrCtrl t x) := by
  unfold Machine.hltErrCtrl
  split
  · exact .ite (.wrRecord (.put (.storeBut h))) (.ite (.storeBut h) (.put (.of_mk (.put (.put (.storeBut h))))))
  · exact .put (.storeBut h)
  · exact .storeBut h

theorem KeepsRes.execHltErrCtrlEnable {s t : State} {p w} (h : Keeps s t) : KeepsRes s (execHltErrCtrlEnable p w t) :=
  .next (.hostWrite h (fun _ _ hu => .hltErrCtrl hu))

/-! ### Reset -/

theorem Keeps.setSpdm {s t : State} {t2 x} (h : Keeps s t) : Keeps s (State.setSpdm t t2 x) := .of_mk h

theorem Keeps.linkLost {s t : State} {b} (h : Keeps s t) : Keeps s (linkLost t b) :=
  .ite h (.raise (.setSpdm (.of_mk (.put (.put (.resetRange (.foldl' h (fun _ _ hu => .teardown hu))))))))

/-- The power-up state with what is kept of the state before. -/
theorem Keeps.reset_with {s : State} {pending : List Instr} {out mem free sec pwr} (hp : pending = s.pending)
    (hm : Canonical s → Memory.wf mem = true) : Keeps s { State.reset with pending, out, free, mem, sec, pwr } :=
  ⟨hp, fun c => ⟨hm c, rfl, rfl⟩⟩

theorem Keeps.powerUp {s t : State} (h : Keeps s t) : Keeps s (powerUp t) := by
  refine .foldl' (l := keptFields) ?_ fun _ _ hv => .put hv
  have hl : Keeps s ((List.range 16).foldl Machine.loseRegion t) := .foldl' h fun _ _ hu => .loseRegion hu
  exact .reset_with h.1 fun c => drop_mem_wf _ (fun a => decide (a < slowBase)) (hl.2 c).1

theorem Keeps.moduleReset {s t : State} (h : Keeps s t) : Keeps s (moduleReset t) :=
  .put (.powerUp (.foldl' (.linkLost (.linkLost (.removeFrames h))) (fun _ _ hu => .teardown hu)))

theorem Keeps.markRemoving {s t : State} (h : Keeps s t) : Keeps s (markRemoving t) :=
  .foldl' h (fun _ _ hu => .foldl' hu (fun _ _ hv => .ite (.setFlow hv) hv))

theorem Keeps.beginRemoval {s t : State} (h : Keeps s t) : Keeps s (beginRemoval t) :=
  .ite h (.removalNext (.markRemoving (.removeFrames (.put (.of_mk h)))))

/-! ### Security -/

theorem Keeps.respond {s t : State} {b r code more} (h : Keeps s t) : Keeps s (respond t b r code more) :=
  .put (.put (.of_mk (.foldl' h (fun _ _ hu => .put hu))))

theorem Keeps.mbxRefuse {s t : State} {b r code p detail} (h : Keeps s t) : Keeps s (mbxRefuse t b r code p detail) :=
  .respond (.raise h)

theorem Keeps.goRefuse {s t : State} {x r code} (h : Keeps s t) : Keeps s (goRefuse t x r code) :=
  .respond (.wrRecord h)

theorem Keeps.mbxCtrl {s t : State} {x} (h : Keeps s t) : Keeps s (mbxCtrl t x) :=
  .ite h (.ite (.goRefuse (.put (.put h))) (.ite (.goRefuse (.put (.put h))) (.of_mk (.put (.put h)))))

theorem KeepsRes.serve {s t : State} {b op} {k : State → List Byte → State} (h : Keeps s t)
    (hk : ∀ u x2, Keeps s u → Keeps s (k u x2)) : KeepsRes s (serve t b op k) := by
  unfold Machine.serve
  split
  · exact .next h
  · exact .ite (.next h) (.ite (.next (.mbxRefuse h)) (.ite (.next (.mbxRefuse h)) (.ite (.next (.mbxRefuse h))
      (.next (hk _ _ h)))))

theorem KeepsRes.execSetHelper {s t : State} {port host seedOk} (h : Keeps s t) : KeepsRes s
    (execSetHelper port host seedOk t) := by
  unfold Machine.execSetHelper
  refine .serve h (fun u x hu => .ite hu ?_)
  split
  · exact .ite (.of_mk hu) (.mbxRefuse (.of_mk hu))
  · exact .mbxRefuse (.of_mk hu)

theorem KeepsRes.execIdentityDerivationComplete {s t : State} {digest} (h : Keeps s t) : KeepsRes s
    (execIdentityDerivationComplete digest t) := by
  unfold Machine.execIdentityDerivationComplete
  refine .ite ?_ (.next h)
  dsimp only
  split
  · exact .next (.respond (.put (.put (.foldl' (.of_mk h) (fun _ _ hu => .put hu)))))
  · exact .next (.put (.put (.foldl' (.of_mk h) (fun _ _ hv => .put hv))))

theorem Keeps.firmwareFails {s t : State} {b r code detail} (h : Keeps s t) : Keeps s
    (firmwareFails t b r code detail) :=
  .respond (.enterOchre (.raise (.put h)))

theorem KeepsRes.execLoadFirmware {s t : State} {port image v} (h : Keeps s t) : KeepsRes s
    (execLoadFirmware port image v t) := by
  unfold Machine.execLoadFirmware
  refine .serve h (fun u x hu => ?_)
  dsimp only
  exact .ite (.firmwareFails hu) (.ite (.firmwareFails hu) (.ite (.firmwareFails hu) (.respond (.of_mk (.put
    (.put hu))))))

theorem KeepsRes.execLoadCert {s t : State} {port chain isOurs} (h : Keeps s t) : KeepsRes s
    (execLoadCert port chain isOurs t) := by
  unfold Machine.execLoadCert
  refine .serve h (fun u x hu => ?_)
  split
  · exact .ite (.respond (.put (.of_mk hu))) (.mbxRefuse hu)
  · exact .mbxRefuse hu

theorem Keeps.createPart {s t : State} {p port cores base span tdisp} (h : Keeps s t) : Keeps s
    (createPart t p port cores base span tdisp) :=
  .of_mk (.of_mk (.foldl' (.put (.put (.put (.put (.put (.foldl' h (fun _ _ hu => .put hu))))))) (fun _ _ hv => .put
    (.put hv))))

theorem KeepsRes.execPartCreate {s t : State} {port} (h : Keeps s t) : KeepsRes s (execPartCreate port t) :=
  .serve h (fun _ _ hu => .ite (.mbxRefuse hu) (.ite (.mbxRefuse hu) (.respond (.createPart hu))))

theorem Keeps.assignFrames {s t : State} {p page frame n} (h : Keeps s t) : Keeps s (assignFrames t p page frame n) :=
  .ite (.foldl' h (fun _ _ hu => .of_mk (.setFrame hu))) (.put (.foldl' h (fun _ _ hv => .of_mk (.setFrame hv))))

theorem KeepsRes.execPartFrames {s t : State} {port} (h : Keeps s t) : KeepsRes s (execPartFrames port t) :=
  .serve h (fun _ _ hu => .ite (.mbxRefuse hu) (.ite (.mbxRefuse hu) (.ite (.mbxRefuse hu) (.respond
    (.assignFrames hu)))))

theorem Keeps.assignBlocks {s t : State} {p port blocks} (h : Keeps s t) : Keeps s (assignBlocks t p port blocks) :=
  .put (.foldl' h (fun _ _ hu => .put (.put (.put hu))))

theorem KeepsRes.execPartQblocks {s t : State} {port} (h : Keeps s t) : KeepsRes s (execPartQblocks port t) :=
  .serve h (fun _ _ hu => .ite (.mbxRefuse hu) (.ite (.mbxRefuse hu) (.respond (.assignBlocks hu))))

theorem Keeps.lockPart {s t : State} {p} (h : Keeps s t) : Keeps s (lockPart t p) := by
  unfold Machine.lockPart
  dsimp only
  exact .of_mk (.draw (.put (.put h)))

theorem KeepsRes.execPartLock {s t : State} {port} (h : Keeps s t) : KeepsRes s (execPartLock port t) :=
  .serve h (fun _ _ hu => .ite (.mbxRefuse hu) (.ite (.mbxRefuse hu) (.respond (.lockPart hu))))

theorem KeepsRes.execPartStart {s t : State} {port} (h : Keeps s t) : KeepsRes s (execPartStart port t) :=
  .serve h (fun _ _ hu => .ite (.mbxRefuse hu) (.respond (.put hu)))

theorem KeepsRes.execPartTeardown {s t : State} {port} (h : Keeps s t) : KeepsRes s (execPartTeardown port t) :=
  .serve h (fun _ _ hu => .ite (.respond (.teardown hu)) (.mbxRefuse hu))

theorem KeepsRes.execGetMlog {s t : State} {port} (h : Keeps s t) : KeepsRes s (execGetMlog port t) :=
  .serve h (fun _ _ hu => .ite (.mbxRefuse hu) (.respond (.toHost hu)))

theorem KeepsRes.execTestChallenge {s t : State} {port nonce} (h : Keeps s t) : KeepsRes s
    (execTestChallenge port nonce t) :=
  .serve h (fun _ _ hu => .ite (.mbxRefuse hu) (.respond (.emit (.of_mk hu))))

theorem Keeps.openTests {s t : State} {port} (h : Keeps s t) : Keeps s (openTests t port) := by
  unfold Machine.openTests
  extract_lets u v
  have hu : Keeps s u := .powerUp (.removeFrames h)
  exact .raise (.put ⟨hu.1, fun c => ⟨rfl, (hu.2 c).2⟩⟩)

theorem KeepsRes.execTestUnlock {s t : State} {port response v} (h : Keeps s t) : KeepsRes s
    (execTestUnlock port response v t) :=
  .serve h (fun _ _ hu => .ite (.openTests (.of_mk hu)) (.mbxRefuse (.of_mk (.of_mk hu))))

theorem KeepsRes.execTestAccessPortInstruction {s t : State} {i} (h : Keeps s t) : KeepsRes s
    (execTestAccessPortInstruction i t) := by
  unfold Machine.execTestAccessPortInstruction
  split
  · exact .ite .refused (.next h)
  · exact .next (.of_mk h)
  · exact .next (.emit (.of_mk h))
  · exact .next (.of_mk h)

theorem Keeps.spdmSay {s t : State} {t2 what fields} (h : Keeps s t) : Keeps s (spdmSay t t2 what fields) := .emit h

theorem KeepsRes.spdmReq {s t : State} {r} {k : State → State} (h : Keeps s t) (hk : ∀ u, Keeps s u → Keeps s
    (k u)) : KeepsRes s (spdmReq t r k) :=
  .ite (.next h) (.ite (.next (.spdmSay (.setSpdm h))) (.ite (.next (.spdmSay (.setSpdm (.setSpdm h)))) (.next (hk _
    (.setSpdm (.setSpdm h))))))

theorem Keeps.provisioned {s t : State} {t2 slot} {k : List Byte → State} (h : Keeps s t) (hk : ∀ x1, Keeps s
    (k x1)) : Keeps s (provisioned t t2 slot k) :=
  .ite (.spdmSay h) (hk _)

theorem Keeps.spdmSign {s t : State} {t2 what fields nonce} (h : Keeps s t) : Keeps s
    (spdmSign t t2 what fields nonce) :=
  .ite (.spdmSay (.setSpdm h)) (.spdmSay h)

theorem KeepsRes.execSpdmGetCertificate {s t : State} {r slot off len} (h : Keeps s t) : KeepsRes s
    (execSpdmGetCertificate r slot off len t) :=
  .spdmReq h (fun _ hu => .provisioned hu (fun _ => .spdmSay hu))

theorem KeepsRes.execSpdmChallenge {s t : State} {r slot nonce} (h : Keeps s t) : KeepsRes s
    (execSpdmChallenge r slot nonce t) :=
  .spdmReq h (fun _ hu => .provisioned hu (fun _ => .spdmSign hu))

theorem KeepsRes.execSpdmGetMeasurements {s t : State} {r index sign nonce} (h : Keeps s t) : KeepsRes s
    (execSpdmGetMeasurements r index sign nonce t) := by
  unfold Machine.execSpdmGetMeasurements
  refine .spdmReq h (fun u hu => ?_)
  split
  · split
    · dsimp only
      exact .spdmSign hu
    · dsimp only
      exact .spdmSay hu
  · split
    · split
      · dsimp only
        exact .spdmSign hu
      · dsimp only
        exact .spdmSay hu
    · split
      · dsimp only
        split
        · exact .spdmSay hu
        · exact .spdmSign hu
      · dsimp only
        split
        · exact .spdmSay hu
        · exact .spdmSay hu

theorem Keeps.sessionStep {s t : State} {t2 slot op share} (h : Keeps s t) : Keeps s
    (sessionStep t t2 slot op share) := by
  unfold Machine.sessionStep
  split
  · exact .provisioned h (fun _ => .ite (.spdmSign (.setSpdm h)) (.spdmSay h))
  · exact .ite (.spdmSay h) (.spdmSay h)
  · exact .ite (.spdmSay (.setSpdm h)) (.spdmSay h)
  · exact .ite (.spdmSay (.setSpdm h)) (.spdmSay h)

theorem KeepsRes.execSpdmKeyExchange {s t : State} {r slot op share} (h : Keeps s t) : KeepsRes s
    (execSpdmKeyExchange r slot op share t) :=
  .spdmReq h (fun _ hu => .sessionStep hu)

theorem KeepsRes.execSpdmSlhSignatureRequest {s t : State} {x} (h : Keeps s t) : KeepsRes s
    (execSpdmSlhSignatureRequest x t) :=
  .spdmReq h (fun _ hu => .ite (.spdmSay hu) (.ite (.spdmSay hu) (.spdmSay hu)))

theorem Keeps.refuseMsg {s t : State} {t2 what} (h : Keeps s t) : Keeps s (refuseMsg t t2 what) := .ite (.spdmSay h) h

theorem KeepsRes.execKeyProg {s t : State} {t1 p stream tx unsupported} (h : Keeps s t) : KeepsRes s
    (execKeyProg t1 p stream tx unsupported t) :=
  .ite (.next (.refuseMsg h)) (.next (.spdmSay (.setIde h)))

theorem KeepsRes.execKSetGo {s t : State} {t1 p tx} (h : Keeps s t) : KeepsRes s (execKSetGo t1 p tx t) :=
  .ite (.next (.refuseMsg h)) (.next (.spdmSay (.setIde h)))

theorem KeepsRes.execKSetStop {s t : State} {t1 p tx} (h : Keeps s t) : KeepsRes s (execKSetStop t1 p tx t) :=
  .ite (.next (.refuseMsg h)) (.next (.spdmSay (.setIde h)))

theorem Keeps.tdispRefuse {s t : State} {t2 p code what} (h : Keeps s t) : Keeps s (tdispRefuse t t2 p code what) :=
  .refuseMsg (.raise h)

theorem KeepsRes.execLockInterface {s t : State} {t1 p} (h : Keeps s t) : KeepsRes s (execLockInterface t1 p t) :=
  .ite (.next (.refuseMsg h)) (.ite (.next (.tdispRefuse h)) (.ite (.next (.tdispRefuse h)) (.next (.spdmSay
    (.lockPart h)))))

theorem KeepsRes.execStartInterface {s t : State} {t1 p} (h : Keeps s t) : KeepsRes s (execStartInterface t1 p t) :=
  .ite (.next (.refuseMsg h)) (.ite (.next (.tdispRefuse h)) (.next (.spdmSay (.put h))))

theorem KeepsRes.execStopInterface {s t : State} {t1 p} (h : Keeps s t) : KeepsRes s (execStopInterface t1 p t) :=
  .ite (.next (.refuseMsg h)) (.next (.spdmSay (.teardown h)))

theorem KeepsRes.execGetDeviceInterfaceReport {s t : State} {t1 p} (h : Keeps s t) : KeepsRes s
    (execGetDeviceInterfaceReport t1 p t) :=
  .ite (.next (.refuseMsg h)) (.next (.spdmSay h))

theorem KeepsRes.execGetDeviceInterfaceState {s t : State} {t1 p} (h : Keeps s t) : KeepsRes s
    (execGetDeviceInterfaceState t1 p t) :=
  .ite (.next (.refuseMsg h)) (.next (.spdmSay h))

theorem KeepsRes.execIdeIntegrityFailure {s t : State} {p} (h : Keeps s t) : KeepsRes s
    (execIdeIntegrityFailure p t) :=
  .ite (.next (.stopCar (.put h))) (.next h)

theorem KeepsRes.execUnprotectedAccess {s t : State} {p acc} (h : Keeps s t) : KeepsRes s
    (execUnprotectedAccess p acc t) :=
  .ite (.next (.ite (.raise h) (.emit (.raise h)))) (.next h)

/-! ### Power -/

theorem Keeps.setPerst {s t : State} {b v} (h : Keeps s t) : Keeps s (setPerst t b v) := .of_mk h

theorem KeepsRes.execHostLinkUp {s t : State} {port gen} (h : Keeps s t) : KeepsRes s (execHostLinkUp port gen t) :=
  .ite (.next (.put (.put (.put h)))) (.next h)

theorem KeepsRes.execHostLinkLost {s t : State} {port} (h : Keeps s t) : KeepsRes s (execHostLinkLost port t) :=
  .next (.removalNext (.linkLost h))

theorem KeepsRes.execPerstAssert {s t : State} {port} (h : Keeps s t) : KeepsRes s (execPerstAssert port t) :=
  .next (.put (.of_mk (.setSpdm (.removalNext (.linkLost (.setPerst h))))))

theorem KeepsRes.execPerstRelease {s t : State} {port} (h : Keeps s t) : KeepsRes s (execPerstRelease port t) :=
  .next (.setPerst h)

theorem KeepsRes.execLanePllLockLoss {s t : State} {lane} (h : Keeps s t) : KeepsRes s
    (execLanePllLockLoss lane t) := by
  unfold Machine.execLanePllLockLoss
  split
  · exact .next (.removalNext (.linkLost (.put h)))
  · exact .next (.portDown (.put (.put h)))

theorem Keeps.powerLost {s t : State} {b} (h : Keeps s t) : Keeps s (powerLost t b) :=
  .put (.put ⟨h.1, fun _ => ⟨rfl, rfl, rfl⟩⟩)

theorem KeepsRes.execPowerLoss {s t : State} {cause} (h : Keeps s t) : KeepsRes s (execPowerLoss cause t) :=
  .ite (.next (.powerLost h)) (.ite (.next (.of_mk h)) (.next h))

theorem KeepsRes.execPowerOn {s t : State} (h : Keeps s t) : KeepsRes s (execPowerOn t) :=
  .ite (.next h) (.next (.put ⟨h.1, fun _ => ⟨rfl, rfl, rfl⟩⟩))

theorem Keeps.execRootPllLock_romDone {s t : State} (h : Keeps s t) : Keeps s (execRootPllLock.romDone t) :=
  .put (.put (.put (.foldl' h (fun _ _ hu => .put hu))))

theorem KeepsRes.execRootPllLock {s t : State} {testsPass} (h : Keeps s t) : KeepsRes s
    (execRootPllLock testsPass t) :=
  .ite (.next h) (.next (.ite (.execRootPllLock_romDone (.put h)) (.put h)))

theorem KeepsRes.execVinOutOfRange {s t : State} (h : Keeps s t) : KeepsRes s (execVinOutOfRange t) :=
  .ite (.next (.raise (.put h))) (.next h)

theorem KeepsRes.execVinBackInRange {s t : State} (h : Keeps s t) : KeepsRes s (execVinBackInRange t) :=
  .next (.ite (.put h) h)

theorem KeepsRes.execCoolantInletHot {s t : State} {temp} (h : Keeps s t) : KeepsRes s (execCoolantInletHot temp t) :=
  .ite (.next (.ite (.put h) (.raise (.put (.put h))))) (.next h)

theorem KeepsRes.execCoolantInletNormal {s t : State} {temp} (h : Keeps s t) : KeepsRes s
    (execCoolantInletNormal temp t) :=
  .ite (.next (.put (.put h))) (.next h)

theorem Keeps.dropCommands {s t : State} (h : Keeps s t) : Keeps s (dropCommands t) := .of_mk (.portsDown (.of_mk h))

theorem KeepsRes.execRootClockLost {s t : State} (h : Keeps s t) : KeepsRes s (execRootClockLost t) :=
  .ite (.next (.of_mk (.put (.put (.put (.dropCommands (.foldl' (.linkLost (.linkLost h))
    (fun _ _ hu => .teardown hu)))))))) (.next h)

theorem KeepsRes.execRootPllRelock {s t : State} (h : Keeps s t) : KeepsRes s (execRootPllRelock t) :=
  .ite (.next (.powerUp h)) (.next h)

theorem KeepsRes.execFullZeroizationComplete {s t : State} {bad} (h : Keeps s t) : KeepsRes s
    (execFullZeroizationComplete bad t) :=
  .ite (.next (.ite (.raise (.put (.foldl' (.of_mk h) (fun _ _ hu => .raise hu)))) (.foldl' (.of_mk h)
    (fun _ _ hv => .raise hv)))) (.next h)

theorem KeepsRes.execModuleResetPin {s t : State} (h : Keeps s t) : KeepsRes s (execModuleResetPin t) :=
  .next (.ite (.moduleReset h) h)

theorem Keeps.pwrReset {s t : State} {x} (h : Keeps s t) : Keeps s (pwrReset t x) :=
  .ite h (.ite (.wrRecord h) (.moduleReset h))

theorem KeepsRes.execPwrResetModule {s t : State} {w} (h : Keeps s t) : KeepsRes s (execPwrResetModule w t) :=
  .next (.hostWrite h (fun _ _ hu => .pwrReset hu))

theorem Keeps.pwrRemove {s t : State} {x} (h : Keeps s t) : Keeps s (pwrRemove t x) :=
  .ite h (.ite (.wrRecord h) (.beginRemoval h))

theorem KeepsRes.execPwrRemovePrepare {s t : State} {w} (h : Keeps s t) : KeepsRes s (execPwrRemovePrepare w t) :=
  .next (.hostWrite h (fun _ _ hu => .pwrRemove hu))

theorem KeepsRes.execRemoveReq {s t : State} (h : Keeps s t) : KeepsRes s (execRemoveReq t) :=
  .next (.ite (.beginRemoval h) h)

theorem KeepsRes.execMateSenseLost {s t : State} (h : Keeps s t) : KeepsRes s (execMateSenseLost t) :=
  .ite (.ite (.next (.raise (.removeFrames (.put h)))) (.next (.removalNext (.put (.of_mk (.foldl' (.raise
    (.removeFrames (.put h))) (fun _ _ hu => .setFlow hu))))))) (.next h)

theorem KeepsRes.execAclkStepChange {s t : State} {c} (h : Keeps s t) : KeepsRes s (execAclkStepChange c t) :=
  .next (.ite (.takeStep h) h)

theorem Keeps.endHold {s t : State} {cs} (h : Keeps s t) : Keeps s (endHold t cs) := .foldl' h (fun _ _ hu => .put hu)

theorem Keeps.holdIssue {s t : State} {cs} (h : Keeps s t) : Keeps s (holdIssue t cs) :=
  .foldl' h (fun _ _ hu => .put hu)

theorem KeepsRes.execCaravanStepChange {s t : State} {c} (h : Keeps s t) : KeepsRes s (execCaravanStepChange c t) :=
  .next (.ite h (.ite (.endHold h) (.ite (.takeStep (.endHold h)) (.holdIssue h))))

theorem Keeps.setHeld {s t : State} {k v} (h : Keeps s t) : Keeps s (setHeld t k v) := .of_mk h

theorem Keeps.showDie {s t : State} {e2} (h : Keeps s t) : Keeps s (showDie t e2) := .put h

theorem Keeps.showCoupling {s t : State} (h : Keeps s t) : Keeps s (showCoupling t) :=
  .foldl' h (fun _ _ hu => .put hu)

theorem Keeps.trip {s t : State} (h : Keeps s t) : Keeps s (trip t) :=
  .ite (.raise (.foldl' (.bump (.put h)) (fun _ _ hu => .ite (.put (.of_mk (.ite (.stopCar hu) hu))) (.ite
    (.stopCar hu) hu)))) (.enterOchre (.raise (.foldl' (.bump (.put h)) (fun _ _ hv => .ite (.put (.of_mk (.ite
    (.stopCar hv) hv))) (.ite (.stopCar hv) hv)))))

theorem Keeps.judgeHeat {s t : State} (h : Keeps s t) : Keeps s (judgeHeat t) :=
  .ite (.powerLost h) (.ite (.ite h (.ite (.put h) (.foldl' (.put h) (fun _ _ hu => .takeStep hu)))) (.ite
    (.trip h) h))

theorem Keeps.readDie {s t : State} {e2 temp} (h : Keeps s t) : Keeps s (readDie t e2 temp) :=
  .ite (.raise (.showDie (.setHeld (.put h)))) (.showDie (.setHeld (.put h)))

theorem Keeps.readOther {s t : State} {temps} (h : Keeps s t) : Keeps s (readOther t temps) := by
  unfold Machine.readOther
  refine .foldl' h (fun u x hu => ?_)
  split
  · exact .put hu
  · exact hu

theorem KeepsRes.execDieSensorRead {s t : State} {temps} (h : Keeps s t) : KeepsRes s (execDieSensorRead temps t) :=
  .ite (.next (.judgeHeat (.readOther (.foldl' h (fun _ _ hu => .readDie hu))))) (.next h)

theorem Keeps.readStack {s t : State} {k temp} (h : Keeps s t) : Keeps s (readStack t k temp) :=
  .ite (.raise (.bump (.ite (.bump (.setHeld (.put h))) (.setHeld (.put h))))) (.ite (.bump (.setHeld (.put h)))
    (.setHeld (.put h)))

theorem KeepsRes.execStackSensorRead {s t : State} {temps} (h : Keeps s t) : KeepsRes s
    (execStackSensorRead temps t) :=
  .ite (.next (.judgeHeat (.showCoupling (.foldl' h (fun _ _ hu => .readStack hu))))) (.next h)

theorem Keeps.releaseLevel {s t : State} {k level temp ths} (h : Keeps s t) : Keeps s
    (releaseLevel t k level temp ths) := by
  unfold Machine.releaseLevel
  split
  · exact h
  · split
    · exact .ite (.setHeld h) h
    · exact h

theorem KeepsRes.execDieLevelRelease {s t : State} {e1 level} (h : Keeps s t) : KeepsRes s
    (execDieLevelRelease e1 level t) :=
  .next (.ite (.showDie (.releaseLevel h)) h)

theorem KeepsRes.execCouplingLevelRelease {s t : State} {st level} (h : Keeps s t) : KeepsRes s
    (execCouplingLevelRelease st level t) :=
  .next (.ite (.showCoupling (.releaseLevel h)) h)

theorem Keeps.requestStep {s t : State} {n} (h : Keeps s t) : Keeps s (requestStep t n) :=
  .ite (.raise (.put h)) (.put h)

theorem KeepsRes.execPowerControlTick {s t : State} {vin iin pin icore} (h : Keeps s t) : KeepsRes s
    (execPowerControlTick vin iin pin icore t) :=
  .ite (.ite (.next (.put (.put (.put (.put h))))) (.ite (.next (.requestStep (.put (.put (.put (.put h)))))) (.ite
    (.next (.requestStep (.put (.put (.put (.put h)))))) (.next (.put (.put (.put (.put h)))))))) (.next h)

theorem KeepsRes.execCoreCurrentLimit {s t : State} (h : Keeps s t) : KeepsRes s (execCoreCurrentLimit t) :=
  .ite (.next (.raise (.requestStep (.put h)))) (.next h)

theorem KeepsRes.execCoreCurrentLimitRelease {s t : State} (h : Keeps s t) : KeepsRes s
    (execCoreCurrentLimitRelease t) :=
  .next (.ite (.put h) h)

theorem Keeps.pwrLimit {s t : State} {x} (h : Keeps s t) : Keeps s (pwrLimit t x) := by
  unfold Machine.pwrLimit
  split
  · exact .ite (.storeAll h) (.wrRecord h)
  · exact h

theorem KeepsRes.execPwrLimitWrite {s t : State} {w} (h : Keeps s t) : KeepsRes s (execPwrLimitWrite w t) :=
  .next (.hostWrite h (fun _ _ hu => .pwrLimit hu))

theorem Keeps.mctpSay {s t : State} {what fields} (h : Keeps s t) : Keeps s (mctpSay t what fields) := .emit h

theorem Keeps.mctpControl {s t : State} {code body} (h : Keeps s t) : Keeps s (mctpControl t code body) :=
  .ite (.ite (.mctpSay (.of_mk h)) (.mctpSay h)) (.ite (.mctpSay h) (.ite (.mctpSay h) (.ite (.mctpSay h) (.ite
    (.mctpSay h) (.mctpSay h)))))

theorem KeepsRes.execMctpControlMessage {s t : State} {x code body} (h : Keeps s t) : KeepsRes s
    (execMctpControlMessage x code body t) := by
  unfold Machine.execMctpControlMessage
  refine .ite (.next h) ?_
  split
  · exact .next (.of_mk h)
  · exact .ite (.next h) (.ite (.next (.mctpControl h)) (.ite (.next h) (.ite (.next (.ite h (.mctpSay h))) (.next
      (.mctpSay h)))))

theorem KeepsRes.execGetTelemetry {s t : State} (h : Keeps s t) : KeepsRes s (execGetTelemetry t) :=
  .next (.ite (.mctpSay h) h)

theorem KeepsRes.execGetLog {s t : State} {slot count} (h : Keeps s t) : KeepsRes s (execGetLog slot count t) :=
  .ite (.next h) (.ite (.next (.mctpSay h)) (.next (.mctpSay h)))

theorem KeepsRes.execSetPowerLimit {s t : State} {watts} (h : Keeps s t) : KeepsRes s (execSetPowerLimit watts t) :=
  .ite (.next h) (.ite (.next (.mctpSay (.put h))) (.next (.mctpSay (.raise h))))

theorem KeepsRes.execPrepareRemoval {s t : State} (h : Keeps s t) : KeepsRes s (execPrepareRemoval t) :=
  .next (.ite h (.ite (.mctpSay h) (.mctpSay (.beginRemoval h))))

theorem KeepsRes.execMctpModuleReset {s t : State} (h : Keeps s t) : KeepsRes s (execMctpModuleReset t) :=
  .next (.ite (.mctpSay (.moduleReset h)) h)

theorem KeepsRes.execGetEvent {s t : State} (h : Keeps s t) : KeepsRes s (execGetEvent t) := by
  unfold Machine.execGetEvent
  refine .ite (.next h) ?_
  split
  · exact .next (.mctpSay (.of_mk h))
  · exact .next (.mctpSay h)

/-! ### Dump -/

theorem Keeps.freeBytes {s t : State} {n} (h : Keeps s t) : Keeps s (freeBytes t n).2 := .of_mk h

theorem Keeps.dumpBytes {s t : State} {b} (h : Keeps s t) : Keeps s (dumpBytes t b).2 := by
  unfold Machine.dumpBytes
  split
  next e =>
    split
    next e' =>
      split
      next e'' =>
        split
        next e1 =>
          split
          next e2 =>
            exact .of_snd e2 (.freeBytes (.of_snd e1 (.freeBytes (.of_snd e'' (.freeBytes (.of_snd e' (.freeBytes
              (.of_snd e (.freeBytes h)))))))))

theorem KeepsRes.execDiagnosticDumpComplete {s t : State} {ok} (h : Keeps s t) : KeepsRes s
    (execDiagnosticDumpComplete ok t) := by
  unfold Machine.execDiagnosticDumpComplete
  split
  · exact .next h
  · refine .ite ?_ (.next (.raise (.put (.of_mk h))))
    split
    next e =>
      exact .next (.put (.emit (.of_snd e (.dumpBytes (.of_mk h)))))

/-! ### RegWrite -/

theorem Keeps.regRule {s t : State} {x} (h : Keeps s t) : Keeps s (regRule t x) := by
  unfold Machine.regRule
  split
  · exact .synCtrl h
  · exact .synStep h
  · exact .synVersionCtrl h
  · exact .synSeedKey h
  · exact .synRippleCtrl h
  · exact .synReplayCtrl h
  · exact .oasCtrl h
  · exact .oasQueueWr h
  · exact .oasXferWr h
  · exact .oasKey h
  · exact .interleaveWr h
  · exact .mapoutWr h
  · exact .zeroizeWr h
  · exact .memReg h
  · exact .partStatusWr h
  · exact .chCtrl h
  · exact .dqCtrl h
  · exact .queSel h
  · exact .queBase h
  · exact .queBase h
  · exact .queCfg h
  · exact .fabCtrl h
  · exact .fabAddr h
  · exact .fabAddr h
  · exact .fabAddr h
  · exact .fabAddr h
  · exact .fabAreaCtrl h
  · exact .fabFlowCmd h
  · exact .hltCtrl h
  · exact .hltFence h
  · exact .hltDump h
  · exact .hltSirocco h
  · exact .hltPair h
  · exact .hltMirageCtrl h
  · exact .hltMirageStatus h
  · exact .hltErrCtrl h
  · exact .mbxCtrl h
  · exact .pwrLimit h
  · exact .pwrRemove h
  · exact .pwrReset h
  · exact .storeAll h

theorem Keeps.msixWrite {s t : State} {b off v} (h : Keeps s t) : Keeps s (msixWrite t b off v) :=
  .ite (.ite (.sendMsix (.of_mk (.of_mk h))) (.of_mk h)) h

theorem Keeps.bar4Write {s t : State} {off w} (h : Keeps s t) : Keeps s (bar4Write t off w) := by
  unfold Machine.bar4Write
  split
  · exact .msixWrite h
  · exact .msixWrite h
  · exact .msixWrite (.msixWrite h)

theorem KeepsRes.execRegisterWrite {s t : State} {at_ w} (h : Keeps s t) : KeepsRes s (execRegisterWrite at_ w t) :=
  .next (.ite (.hostWrite h (fun _ _ hu => .regRule hu)) (.ite (.bar4Write h) h))

theorem KeepsRes.execRegisterAccessInvalid {s t : State} {acc} (h : Keeps s t) : KeepsRes s
    (execRegisterAccessInvalid acc t) :=
  .ite (.next h) (.ite (.next (.ite h (.emit h))) (.next (.ite (.raise h) (.emit (.raise h)))))
theorem keepsRes_exec (c : Instr) (s : State) : KeepsRes s (exec c s) := by
  have h := keeps_refl s
  cases c with
  | nop => exact .execNop h
  | endI => exact .execEndI h
  | loop => exact .execLoop h
  | endloop => exact .execEndloop h
  | stream => exact .execStream h
  | load => exact .execLoad h
  | store => exact .execStore h
  | prefetch => exact .execPrefetch h
  | tableSetup => exact .execTableSetup h
  | codebookSet => exact .execCodebookSet h
  | opb => exact .execOpb h
  | drain => exact .execDrain h
  | vop => exact .execVop h
  | reduce => exact .execReduce h
  | indexStream => exact .execIndexStream h
  | gather => exact .execGather h
  | scatterAdd => exact .execScatterAdd h
  | segmentReduce => exact .execSegmentReduce h
  | anchorRead => exact .execAnchorRead h
  | quantCodes => exact .execQuantCodes h
  | signal => exact .execSignal h
  | wait => exact .execWait h
  | barrier => exact .execBarrier h
  | mbBegin => exact .execMbBegin h
  | mbEnd => exact .execMbEnd h
  | stepEnd => exact .execStepEnd h
  | coll => exact .execColl h
  | caravan => exact .execCaravan h
  | update => exact .execUpdate h
  | hostNop => exact .execHostNop h
  | copyToDevice => exact .execCopyToDevice h
  | copyToHost => exact .execCopyToHost h
  | copyDevice => exact .execCopyDevice h
  | loadModule => exact .execLoadModule h
  | loadNative => exact .execLoadNative h
  | unload => exact .execUnload h
  | launch => exact .execLaunch h
  | abort => exact .execAbort h
  | launchStart => exact .execLaunchStart h
  | commandAccept => exact .execCommandAccept h
  | interruptAggregationTimeout => exact .execInterruptAggregationTimeout h
  | doorbellWrite => exact .execDoorbellWrite h
  | queSelWrite => exact .execQueSelWrite h
  | queCfgWrite => exact .execQueCfgWrite h
  | setHelper => exact .execSetHelper h
  | identityDerivationComplete => exact .execIdentityDerivationComplete h
  | loadFirmware => exact .execLoadFirmware h
  | loadCert => exact .execLoadCert h
  | partCreate => exact .execPartCreate h
  | partFrames => exact .execPartFrames h
  | partQblocks => exact .execPartQblocks h
  | partLock => exact .execPartLock h
  | partStart => exact .execPartStart h
  | partTeardown => exact .execPartTeardown h
  | getMlog => exact .execGetMlog h
  | testChallenge => exact .execTestChallenge h
  | testUnlock => exact .execTestUnlock h
  | frameZeroizeComplete => exact .execFrameZeroizeComplete h
  | lockInterface => exact .execLockInterface h
  | startInterface => exact .execStartInterface h
  | stopInterface => exact .execStopInterface h
  | getDeviceInterfaceReport => exact .execGetDeviceInterfaceReport h
  | getDeviceInterfaceState => exact .execGetDeviceInterfaceState h
  | keyProg => exact .execKeyProg h
  | kSetGo => exact .execKSetGo h
  | kSetStop => exact .execKSetStop h
  | ideIntegrityFailure => exact .execIdeIntegrityFailure h
  | unprotectedAccess => exact .execUnprotectedAccess h
  | spdmGetCertificate => exact .execSpdmGetCertificate h
  | spdmChallenge => exact .execSpdmChallenge h
  | spdmGetMeasurements => exact .execSpdmGetMeasurements h
  | spdmKeyExchange => exact .execSpdmKeyExchange h
  | spdmSlhSignatureRequest => exact .execSpdmSlhSignatureRequest h
  | mctpControlMessage => exact .execMctpControlMessage h
  | getTelemetry => exact .execGetTelemetry h
  | getLog => exact .execGetLog h
  | setPowerLimit => exact .execSetPowerLimit h
  | prepareRemoval => exact .execPrepareRemoval h
  | mctpModuleReset => exact .execMctpModuleReset h
  | getEvent => exact .execGetEvent h
  | registerWrite => exact .execRegisterWrite h
  | registerAccessInvalid => exact .execRegisterAccessInvalid h
  | memInterleaveWrite => exact .execMemInterleaveWrite h
  | memMapoutStart => exact .execMemMapoutStart h
  | channelMappedOut => exact .execChannelMappedOut h
  | memZeroizeAll => exact .execMemZeroizeAll h
  | memRegEnableWrite => exact .execMemRegEnableWrite h
  | tokenRefill => exact .execTokenRefill h
  | fastTierAccess => exact .execFastTierAccess h
  | atomic => exact .execAtomic h
  | lineEviction => exact .execLineEviction h
  | memPartStatusFaultedClear => exact .execMemPartStatusFaultedClear h
  | stackSensorRead => exact .execStackSensorRead h
  | couplingLevelRelease => exact .execCouplingLevelRelease h
  | dieSensorRead => exact .execDieSensorRead h
  | dieLevelRelease => exact .execDieLevelRelease h
  | powerControlTick => exact .execPowerControlTick h
  | coreCurrentLimit => exact .execCoreCurrentLimit h
  | coreCurrentLimitRelease => exact .execCoreCurrentLimitRelease h
  | aclkStepChange => exact .execAclkStepChange h
  | caravanStepChange => exact .execCaravanStepChange h
  | pwrLimitWrite => exact .execPwrLimitWrite h
  | pwrRemovePrepare => exact .execPwrRemovePrepare h
  | pwrResetModule => exact .execPwrResetModule h
  | powerOn => exact .execPowerOn h
  | rootPllLock => exact .execRootPllLock h
  | powerLoss => exact .execPowerLoss h
  | vinOutOfRange => exact .execVinOutOfRange h
  | coolantInletHot => exact .execCoolantInletHot h
  | moduleResetPin => exact .execModuleResetPin h
  | perstAssert => exact .execPerstAssert h
  | perstRelease => exact .execPerstRelease h
  | hostLinkLost => exact .execHostLinkLost h
  | rootClockLost => exact .execRootClockLost h
  | rootPllRelock => exact .execRootPllRelock h
  | lanePllLockLoss => exact .execLanePllLockLoss h
  | removeReq => exact .execRemoveReq h
  | mateSenseLost => exact .execMateSenseLost h
  | stepSyncInEdge => exact .execStepSyncInEdge h
  | boundaryReady => exact .execBoundaryReady h
  | boundaryEarliestReached => exact .execBoundaryEarliestReached h
  | boundaryLatestReached => exact .execBoundaryLatestReached h
  | lateDropExpiry => exact .execLateDropExpiry h
  | scaleRecordUpdate => exact .execScaleRecordUpdate h
  | microBatchTableWaitTimeout => exact .execMicroBatchTableWaitTimeout h
  | versionWaitTimeout => exact .execVersionWaitTimeout h
  | synCtrlWrite => exact .execSynCtrlWrite h
  | synStepWrite => exact .execSynStepWrite h
  | closeAll => exact .execCloseAll h
  | synVersionEnable => exact .execSynVersionEnable h
  | synSeedKeyWrite => exact .execSynSeedKeyWrite h
  | synRippleEnable => exact .execSynRippleEnable h
  | replayStart => exact .execReplayStart h
  | replayAbort => exact .execReplayAbort h
  | passIssue => exact .execPassIssue h
  | passComplete => exact .execPassComplete h
  | drainIssue => exact .execDrainIssue h
  | outputUnitComplete => exact .execOutputUnitComplete h
  | drainComplete => exact .execDrainComplete h
  | operandWaitTimeout => exact .execOperandWaitTimeout h
  | vectorIssue => exact .execVectorIssue h
  | vectorComplete => exact .execVectorComplete h
  | vectorWaitTimeout => exact .execVectorWaitTimeout h
  | indexFifoFill => exact .execIndexFifoFill h
  | tokenWaitTimeout => exact .execTokenWaitTimeout h
  | bankLoad => exact .execBankLoad h
  | bankSwitch => exact .execBankSwitch h
  | caravanInstanceStart => exact .execCaravanInstanceStart h
  | fetchPartStart => exact .execFetchPartStart h
  | handOverGranuleLand => exact .execHandOverGranuleLand h
  | caravanInstanceEnd => exact .execCaravanInstanceEnd h
  | descriptorLoad => exact .execDescriptorLoad h
  | burstGrant => exact .execBurstGrant h
  | burstLand => exact .execBurstLand h
  | transferComplete => exact .execTransferComplete h
  | paceResume => exact .execPaceResume h
  | dmaChDisable => exact .execDmaChDisable h
  | dmaChHaltedClear => exact .execDmaChHaltedClear h
  | dqStop => exact .execDqStop h
  | dqStopped => exact .execDqStopped h
  | dqResume => exact .execDqResume h
  | oasCtrlEnable => exact .execOasCtrlEnable h
  | updateRequestStart => exact .execUpdateRequestStart h
  | workingCopyWriteStart => exact .execWorkingCopyWriteStart h
  | updateCommit => exact .execUpdateCommit h
  | oasQueueCancel => exact .execOasQueueCancel h
  | oasInit => exact .execOasInit h
  | oasRead => exact .execOasRead h
  | oasDigest => exact .execOasDigest h
  | initQuant => exact .execInitQuant h
  | oasTransferComplete => exact .execOasTransferComplete h
  | oasDigestKeyWrite => exact .execOasDigestKeyWrite h
  | oasisLinkModuleRetired => exact .execOasisLinkModuleRetired h
  | fabCtrlWrite => exact .execFabCtrlWrite h
  | fabricPortDown => exact .execFabricPortDown h
  | fabricPortUp => exact .execFabricPortUp h
  | fabAreaCtrlEnable => exact .execFabAreaCtrlEnable h
  | flowOpen => exact .execFlowOpen h
  | flowClose => exact .execFlowClose h
  | handshake => exact .execHandshake h
  | handshakeTimeout => exact .execHandshakeTimeout h
  | data => exact .execData h
  | ack => exact .execAck h
  | req => exact .execReq h
  | grant => exact .execGrant h
  | creditGrant => exact .execCreditGrant h
  | ctrlAbort => exact .execCtrlAbort h
  | ctrlDetach => exact .execCtrlDetach h
  | ctrlRemove => exact .execCtrlRemove h
  | ctrlClose => exact .execCtrlClose h
  | groupKey => exact .execGroupKey h
  | groupKeyDistribution => exact .execGroupKeyDistribution h
  | retransmitTimeout => exact .execRetransmitTimeout h
  | ackTimer => exact .execAckTimer h
  | portRotationRejoin => exact .execPortRotationRejoin h
  | receiveQueueBind => exact .execReceiveQueueBind h
  | instanceComplete => exact .execInstanceComplete h
  | collectiveWaitTimeout => exact .execCollectiveWaitTimeout h
  | receiverDetach => exact .execReceiverDetach h
  | hostFence => exact .execHostFence h
  | hltCtrlWrite => exact .execHltCtrlWrite h
  | siroccoStart => exact .execSiroccoStart h
  | siroccoRunStart => exact .execSiroccoRunStart h
  | siroccoJudge => exact .execSiroccoJudge h
  | siroccoRerun => exact .execSiroccoRerun h
  | pairEnableWrite => exact .execPairEnableWrite h
  | mirageCheckStart => exact .execMirageCheckStart h
  | mirageVerdict => exact .execMirageVerdict h
  | mirageClear => exact .execMirageClear h
  | mirageHaltedClear => exact .execMirageHaltedClear h
  | diagnosticDump => exact .execDiagnosticDump h
  | hltErrCtrlEnable => exact .execHltErrCtrlEnable h
  | oasisQueueFull => exact .execOasisQueueFull h
  | hostLinkUp => exact .execHostLinkUp h
  | flowClosingTimeout => exact .execFlowClosingTimeout h
  | vinBackInRange => exact .execVinBackInRange h
  | coolantInletNormal => exact .execCoolantInletNormal h
  | oasisDieInternalFault => exact .execOasisDieInternalFault h
  | fullZeroizationComplete => exact .execFullZeroizationComplete h
  | bankLoadComplete => exact .execBankLoadComplete h
  | diagnosticDumpComplete => exact .execDiagnosticDumpComplete h
  | testAccessPortInstruction => exact .execTestAccessPortInstruction h
  | nonXftFrameReceived => exact .execNonXftFrameReceived h

/-- Settles O2: each command changes the state by operations that leave the queue as it is. -/
theorem execLeavesTheQueue : Obligations.ExecLeavesTheQueue := fun c s t h => (keepsRes_exec c s t h).1

/-- Settles O3: each command, and an idle step, changes the state by operations that keep the canonical forms. -/
theorem stepKeepsCanonical : Obligations.StepKeepsCanonical := by
  intro s t hs h
  unfold step at h
  split at h
  · cases h
    exact (Keeps.put (Keeps.of_mk (keeps_refl s))).2 hs
  next c r _ => exact (keepsRes_exec c { s with pending := r } t h).2 hs

end Sys2Proof.Machine

namespace Sys2Proof.Machine

/-! ## Loop nests -/

/-- The next iteration of a nest in range is in range and has the next index. -/
theorem nextIter_some {counts ctrs next : List Nat} (h : List.Forall₂ (· > ·) counts ctrs)
    (hn : nextIter counts ctrs = some next) :
    List.Forall₂ (· > ·) counts next ∧ nestIndex counts next = nestIndex counts ctrs + 1 := by
  induction h generalizing next with
  | nil => cases hn
  | @cons n i ns is hi hs ih =>
    rw [nextIter] at hn
    split at hn
    next hlt =>
      cases hn
      exact ⟨.cons hlt hs, by simp only [nestIndex]; omega⟩
    next hge =>
      obtain ⟨rest, hr, rfl⟩ := Option.map_eq_some_iff.mp hn
      obtain ⟨hrange, hidx⟩ := ih hr
      have hlast : n = i + 1 := by omega
      refine ⟨.cons (by omega) hrange, ?_⟩
      simp only [nestIndex, hidx, hlast, Nat.mul_add]
      omega

/-- A nest without a next iteration stands in its last one. -/
theorem nextIter_none {counts ctrs : List Nat} (h : List.Forall₂ (· > ·) counts ctrs) (hn : nextIter counts ctrs = none) :
    nestIndex counts ctrs + 1 = counts.prod := by
  induction h with
  | nil => rfl
  | @cons n i ns is hi hs ih =>
    rw [nextIter] at hn
    split at hn
    · cases hn
    · have hrest := ih (Option.map_eq_none_iff.mp hn)
      have hlast : n = i + 1 := by omega
      rw [List.prod_cons, ← hrest, nestIndex, hlast]
      ring

/-- Settles O7, by induction over the levels of the nest: a level that can count on does, one that cannot restarts at 0 and hands
the count to the next. -/
theorem loopNestRunsEveryIteration : Obligations.LoopNestRunsEveryIteration :=
  fun _ _ h => ⟨fun _ hn => nextIter_some h hn, nextIter_none h⟩


end Sys2Proof.Machine

namespace Sys2Proof.Machine

/-! ## A partition's write with an interleave register beyond its width

`Obligations.PartitionWritesStayInside` ranges over every register file. WAYS has two bits; where the register file holds 20 there,
the map-out bits of 2^22 channels cover the page of partition 0, and the bit of channel 4,131,200 is the count of its wait cycles.
The write waits for a token, counts the wait, and so takes the frame that it writes out of the backed range: it does not read
back. -/

/-- The channels of a set with WAYS = 20. -/
def wideWays : Nat := 4 * 2 ^ 20
/-- The channel whose map-out bit stands at the wait cycles of partition 0. -/
def waitChan : Nat := 4131200
/-- The channels that are mapped out: all but channel 0 and `waitChan`. -/
def wideOut : List Nat := (List.range wideWays).filter fun c => c ≠ 0 ∧ c ≠ waitChan
def wideRegs : SMap Nat :=
  (Reg.MEM_INTERLEAVE_VALID.id, 1) :: (Reg.MEM_INTERLEAVE_WAYS.id, 20) :: wideOut.map fun c => ((Reg.MEM_MAPPED_OUT_OUT c).id, 1)
/-- Partition 0 owns frame 384, the first above one channel, at its page 0. -/
def wideState : State :=
  { State.reset with regs := wideRegs, frames := [(384, .owned 0)], pageMap := [(1, ⟨384, true⟩)] }

theorem outId_injective {c d : Nat} (h : (Reg.MEM_MAPPED_OUT_OUT c).id = (Reg.MEM_MAPPED_OUT_OUT d).id) : c = d := by
  simp only [Reg.MEM_MAPPED_OUT_OUT, Fld.id] at h
  omega

/-- A map that holds 1 at the keys of a list. -/
theorem get_map_one (f : Nat → Nat) (l : List Nat) (k : Nat) :
    SMap.get 0 (l.map fun c => (f c, 1)) k = if k ∈ l.map f then 1 else 0 := by
  induction l with
  | nil => rfl
  | cons c l ih =>
    rw [List.map_cons, List.map_cons, SMap.get, ih]
    by_cases h : k = f c
    · simp [h]
    · simp [h]

theorem get_wideRegs_of_above (k : Nat) (h : Reg.MEM_INTERLEAVE_VALID.id < k) :
    SMap.get 0 wideRegs k = if k ∈ wideOut.map (fun c => (Reg.MEM_MAPPED_OUT_OUT c).id) then 1 else 0 := by
  have hv : k ≠ Reg.MEM_INTERLEAVE_VALID.id := by omega
  have hw : k ≠ Reg.MEM_INTERLEAVE_WAYS.id := by
    have : Reg.MEM_INTERLEAVE_WAYS.id < Reg.MEM_INTERLEAVE_VALID.id := by decide
    omega
  rw [wideRegs, SMap.get, if_neg hv, SMap.get, if_neg hw]
  exact get_map_one _ _ k

theorem validId_lt_outId (c : Nat) : Reg.MEM_INTERLEAVE_VALID.id < (Reg.MEM_MAPPED_OUT_OUT c).id := by
  simp only [Reg.MEM_MAPPED_OUT_OUT, Reg.MEM_INTERLEAVE_VALID, Fld.id]
  omega

/-- The register at the map-out bit of channel c. -/
theorem get_wideRegs_out (c : Nat) :
    SMap.get 0 wideRegs (Reg.MEM_MAPPED_OUT_OUT c).id = if c < wideWays ∧ c ≠ 0 ∧ c ≠ waitChan then 1 else 0 := by
  rw [get_wideRegs_of_above _ (validId_lt_outId c)]
  have hmem : (Reg.MEM_MAPPED_OUT_OUT c).id ∈ wideOut.map (fun c => (Reg.MEM_MAPPED_OUT_OUT c).id) ↔
      c < wideWays ∧ c ≠ 0 ∧ c ≠ waitChan := by
    rw [List.mem_map]
    constructor
    · rintro ⟨d, hd, he⟩
      rw [outId_injective he] at hd
      simpa [wideOut] using hd
    · exact fun h => ⟨c, by simpa [wideOut] using h, rfl⟩
  simp only [hmem]

/-- A field of partition 0 that stands at the map-out bit of a channel. -/
theorem wideState_get_of_out {f : Fld} (c : Nat) (hid : f.id = (Reg.MEM_MAPPED_OUT_OUT c).id) (hr : f.rst = 0) :
    wideState.get f = if c < wideWays ∧ c ≠ 0 ∧ c ≠ waitChan then 1 else 0 := by
  rw [State.get, hid, hr, Nat.xor_zero]
  exact get_wideRegs_out c

theorem wideState_pages : wideState.get (Reg.MEM_PART_MAP_PAGES 0) = 1 := by
  rw [wideState_get_of_out 4131072 (by decide) rfl]; decide
theorem wideState_pmBase : wideState.get (Reg.MEM_PART_MAP_PM_BASE 0) = 1 := by
  rw [wideState_get_of_out 4131104 (by decide) rfl]; decide
theorem wideState_enable : wideState.get (Reg.MEM_REG_ENABLE 0 0) = 1 := by
  rw [wideState_get_of_out 4130608 (by decide) rfl]; decide
theorem wideState_rate : wideState.get (Reg.MEM_REG_RATE 0 0) = 1 := by
  rw [wideState_get_of_out 4130560 (by decide) rfl]; decide
theorem wideState_wait : wideState.get (Reg.MEM_PART_WAIT_CYCLES 0) = 0 := by
  rw [wideState_get_of_out waitChan (by decide) rfl]; decide
theorem wideState_valid : wideState.get Reg.MEM_INTERLEAVE_VALID = 1 := rfl
theorem wideState_ways : waysOf wideState = wideWays := rfl
/-- Frame 384 begins one channel above the base of its set: it is backed where two channels live. -/
theorem backedAddr_frame384 {s : State} (hw : waysOf s = wideWays) :
    backedAddr s (384 * frameBytes) = decide (1 < (liveChans s 0).length) := by
  have hbase : setBase s (384 * frameBytes) = 0 := by rw [setBase, hw]; decide
  have hoff : slotOff s (384 * frameBytes) = chanBytes := by rw [slotOff, hw]; decide
  have hin : decide (384 * frameBytes < fastEnd) = true := by decide
  rw [backedAddr, hbase, hoff, hin, Bool.true_and, chanBytes]
  exact decide_eq_decide.mpr (by omega)

/-- Channels that live are those of the set whose map-out bit is 0. -/
theorem mem_liveChans_zero {s : State} {c : Nat} :
    c ∈ liveChans s 0 ↔ c < waysOf s ∧ s.get (Reg.MEM_MAPPED_OUT_OUT c) = 0 := by
  simp [liveChans, State.on]

theorem liveChans_zero_nodup (s : State) : (liveChans s 0).Nodup := by
  refine List.Nodup.filter _ (List.Nodup.map (fun a b h => ?_) List.nodup_range)
  simpa using h

/-- Channel 0 and `waitChan` live before the write. -/
theorem wideState_two_live : 1 < (liveChans wideState 0).length := by
  have hsub : [0, waitChan] ⊆ liveChans wideState 0 := by
    intro c hc
    have hc : c = 0 ∨ c = waitChan := by simpa using hc
    refine mem_liveChans_zero.mpr ⟨?_, ?_⟩
    · rcases hc with rfl | rfl <;> decide
    · rw [wideState_get_of_out c rfl rfl]
      rcases hc with rfl | rfl <;> decide
  exact (List.subperm_of_subset (by decide) hsub).length_le

theorem wideState_frame384 : frameState wideState 384 = some (.owned 0) := by
  have hb : backedAddr wideState (384 * frameBytes) = true := by
    rw [backedAddr_frame384 wideState_ways]
    exact decide_eq_true wideState_two_live
  rw [frameState, hb]
  rfl

/-- The address of the partition's first byte. -/
def wideAddr : Nat := 384 * frameBytes

theorem wideState_xlate : xlate wideState 0 0 = some wideAddr := by
  rw [xlate, wideState_pages, wideState_pmBase]
  have he : SMap.get (⟨0, false⟩ : PEntry) wideState.pageMap (1 + 0 / frameBytes) = ⟨384, true⟩ := rfl
  simp only [he, wideState_frame384] <;> rfl

theorem wideState_bucketKey : bucketKey wideState wideAddr = [0] := by
  have ho : ownerOf wideState wideAddr = some 0 := by
    have hd : wideAddr / frameBytes = 384 := by decide
    rw [ownerOf, hd, wideState_frame384]
  have he : wideAddr / ergBytes = 0 := by decide
  rw [bucketKey, ho, he]
  simp [State.on, wideState_enable]

/-- The write of one byte takes one token of partition 0. -/
theorem wideState_tokenKeys : tokenKeys wideState true 0 [wideAddr] = [0] := by
  have hv : ∀ ln, victimOf wideState ln = none := fun _ => rfl
  have hc : (SMap.get CLine.empty wideState.cache (wideAddr / 64)).cached = false := rfl
  have hf : (true && wholeLine wideAddr []) = false := by decide
  have ha : wideAddr < fastEnd := by decide
  have hl : wideAddr / 64 + 1 ≠ 0 := by omega
  rw [tokenKeys, if_neg hl, touchKeys, hc, hf, hv, wideState_bucketKey]
  simp [ha, tokenKeys]

/-- A token that is missing, and comes with the next refill, is waited for. -/
theorem payTokens_one_refill {s : State} {k : Nat} (hs : shortOf s [k] k = 1) (hr : bucketRate s k = 1) :
    (payTokens s [k]).regs = (s.bumpWrap (Reg.MEM_PART_WAIT_CYCLES (k / 8)) 64).regs := by
  have hn : refillsOf s [k] k = 1 := by rw [refillsOf, hs, hr]
  have hd : [k].dedup.filter (fun j => shortOf s [k] j != 0) = [k] := by simp [hs]
  unfold payTokens
  rw [hd]
  simp [hr, hn, State.bumpWrap, State.put, State.get]

/-- There is no token: partition 0 waits for one refill. -/
theorem wideState_payTokens : (payTokens wideState [0]).regs =
    (wideState.bumpWrap (Reg.MEM_PART_WAIT_CYCLES 0) 64).regs := payTokens_one_refill rfl wideState_rate

/-- A value that is not the After power-up value reads as written, whatever the register file. -/
theorem get_put_same_of_ne (s : State) (f : Fld) (v : Nat) (h : v % 2 ^ f.w ^^^ f.rst ≠ 0) : (s.put f v).get f = v % 2 ^ f.w := by
  rw [State.get, State.put, SMap.get_set_new _ _ _ _ h, Nat.xor_assoc, Nat.xor_self, Nat.xor_zero]

/-- The state after the write of a byte at offset 0. -/
def wideAfter : State := storeAt (access wideState true [wideAddr]) [wideAddr] [1]

theorem wideAfter_regs : wideAfter.regs = (wideState.bumpWrap (Reg.MEM_PART_WAIT_CYCLES 0) 64).regs := by
  rw [wideAfter, storeAt_regs, access, touchAll_regs, wideState_tokenKeys, wideState_payTokens]

theorem wideAfter_get (f : Fld) : wideAfter.get f = (wideState.bumpWrap (Reg.MEM_PART_WAIT_CYCLES 0) 64).get f := by
  rw [State.get, wideAfter_regs, State.get]

/-- After it only channel 0 lives. -/
theorem wideAfter_one_live : ¬ 1 < (liveChans wideAfter 0).length := by
  have hways : waysOf wideAfter = wideWays := by
    have hid : Reg.MEM_INTERLEAVE_WAYS.id ≠ (Reg.MEM_PART_WAIT_CYCLES 0).id := by decide
    rw [waysOf, wideAfter_get, State.bumpWrap, get_put_other _ _ _ _ hid]
    exact wideState_ways
  have hsub : liveChans wideAfter 0 ⊆ [0] := by
    intro c hc
    obtain ⟨hlt, hoff⟩ := mem_liveChans_zero.mp hc
    rw [hways] at hlt
    rw [wideAfter_get, State.bumpWrap] at hoff
    by_cases hw : c = waitChan
    · subst hw
      rw [wideState_wait] at hoff
      have hid : (Reg.MEM_MAPPED_OUT_OUT waitChan).id = (Reg.MEM_PART_WAIT_CYCLES 0).id := by decide
      have hget : ∀ u : State, u.get (Reg.MEM_MAPPED_OUT_OUT waitChan) = u.get (Reg.MEM_PART_WAIT_CYCLES 0) := fun u => by
        rw [State.get, hid]
        rfl
      have hval : (0 + 64) % 2 ^ (Reg.MEM_PART_WAIT_CYCLES 0).w ^^^ (Reg.MEM_PART_WAIT_CYCLES 0).rst ≠ 0 := by decide
      rw [hget, get_put_same_of_ne _ _ _ hval] at hoff
      exact absurd hoff (by decide)
    · have hid : (Reg.MEM_MAPPED_OUT_OUT c).id ≠ (Reg.MEM_PART_WAIT_CYCLES 0).id :=
        fun h => hw (outId_injective h)
      rw [get_put_other _ _ _ _ hid, wideState_get_of_out c rfl rfl] at hoff
      by_contra hne
      rw [if_pos ⟨hlt, by simpa using hne, hw⟩] at hoff
      exact absurd hoff (by decide)
  have hle := (List.subperm_of_subset (liveChans_zero_nodup wideAfter) hsub).length_le
  simpa using hle

theorem frameState_of_unbacked {s : State} {f : Nat} (h : backedAddr s (f * frameBytes) = false) : frameState s f = none := by
  rw [frameState, h, Bool.and_false]
  rfl

theorem pRead_one_of_unbacked {s : State} {fr : Nat}
    (hp : (SMap.get (⟨0, false⟩ : PEntry) s.pageMap (s.get (Reg.MEM_PART_MAP_PM_BASE 0))).frame = fr)
    (hf : frameState s fr = none) : pRead s 0 0 1 = none := by
  subst hp
  have hx : xlate s 0 0 = none := by simp [xlate, hf]
  simp only [pRead, xlateAll, hx]

theorem pWrite_one {s : State} {a : Nat} (hx : xlate s 0 0 = some a) (b : Byte) :
    pWrite s 0 0 [b] = some (storeAt (access s true [a]) [a] [b]) := by
  simp only [pWrite, List.length_singleton, xlateAll, hx]

/-- What was written does not read back. -/
theorem wideAfter_pRead : pRead wideAfter 0 0 1 = none := by
  have hways : waysOf wideAfter = wideWays := by
    have hid : Reg.MEM_INTERLEAVE_WAYS.id ≠ (Reg.MEM_PART_WAIT_CYCLES 0).id := by decide
    rw [waysOf, wideAfter_get, State.bumpWrap, get_put_other _ _ _ _ hid]
    exact wideState_ways
  have hpm : wideAfter.get (Reg.MEM_PART_MAP_PM_BASE 0) = 1 := by
    have hid : (Reg.MEM_PART_MAP_PM_BASE 0).id ≠ (Reg.MEM_PART_WAIT_CYCLES 0).id := by decide
    rw [wideAfter_get, State.bumpWrap, get_put_other _ _ _ _ hid, wideState_pmBase]
  have hmap : wideAfter.pageMap = [(1, ⟨384, true⟩)] := by
    rw [wideAfter, storeAt_pageMap, access_pageMap]
    rfl
  have hf : frameState wideAfter 384 = none :=
    frameState_of_unbacked ((backedAddr_frame384 hways).trans (decide_eq_false wideAfter_one_live))
  refine pRead_one_of_unbacked (fr := 384) ?_ hf
  rw [hpm, hmap]
  rfl

/-- Refutes O40: with WAYS = 20 in the register file, where the field has two bits, the write of one byte waits for a token, and
the wait maps a channel out; what was written does not read back. -/
theorem not_partitionWritesStayInside : ¬ Obligations.PartitionWritesStayInside := by
  intro h
  obtain ⟨-, -, -, -, hread⟩ := h wideState wideAfter 0 0 [1] (pWrite_one wideState_xlate 1) rfl
  have hback := hread fun i j _ hi hj _ _ => by
    rw [List.length_singleton] at hi hj
    omega
  rw [List.length_singleton, wideAfter_pRead] at hback
  cases hback

end Sys2Proof.Machine

namespace Sys2Proof.Machine

/-! ## The verdict of a Mirage check -/

/-- Where every contribution agrees, the step is recorded. -/
theorem verdict_of_agree {s : State} {p m v : Nat} {cs : List (Nat × Nat)} (hne : cs ≠ []) (hv : ∀ c ∈ cs, c.2 = v) :
    verdict s p m cs = s.put (Reg.HLT_MIRAGE_STATUS_LAST_STEP p) m := by
  have hall : ∀ c ∈ cs, (c.2 == v) = true := fun c hc => beq_iff_eq.mpr (hv c hc)
  have hnone : ∀ c ∈ cs, ¬ (c.2 != v) = true := fun c hc => by simp [hv c hc]
  have hpos : 0 < cs.length := List.length_pos_iff.mpr hne
  have hfind : (cs.map (·.2)).find? (fun w => cs.length < 2 * (cs.filter fun c => c.2 == w).length) = some v := by
    obtain ⟨c, cs, rfl⟩ := List.exists_cons_of_ne_nil hne
    have hc : c.2 = v := hv c List.mem_cons_self
    rw [List.map_cons, hc, List.find?_cons_of_pos]
    rw [List.filter_eq_self.mpr hall, decide_eq_true_eq]
    omega
  simp only [verdict, hfind]
  simp [List.filter_eq_nil_iff.mpr hnone]

/-- Where no value has more than half, the member halts. -/
theorem verdict_of_no_majority {s : State} {p m : Nat} {cs : List (Nat × Nat)}
    (h : ∀ v, ¬ cs.length < 2 * (cs.filter fun c => c.2 == v).length) :
    verdict s p m cs = raise (s.put (Reg.HLT_MIRAGE_STATUS_HALTED p) 1) hltLast { code := 0x0A31, cls := 2, part := p } := by
  have hfind : (cs.map (·.2)).find? (fun w => cs.length < 2 * (cs.filter fun c => c.2 == w).length) = none :=
    List.find?_eq_none.mpr fun v _ hv => h v (of_decide_eq_true hv)
  simp only [verdict, hfind] <;> rfl

/-- What a verdict leaves as it was: memory, the commands, the launches and the queue. -/
def SameWork (s t : State) : Prop := t.mem = s.mem ∧ t.cmds = s.cmds ∧ t.launches = s.launches ∧ t.pending = s.pending

theorem sameWork_put {s t : State} {f : Fld} {v : Nat} (h : SameWork s t) : SameWork s (t.put f v) := h
theorem sameWork_raise {s t : State} {last : List Fld} {r : Rec} (h : SameWork s t) : SameWork s (raise t last r) := by
  simpa [SameWork] using h

theorem sameWork_exclude {s t : State} {p : Nat} {rs : List Nat} (h : SameWork s t) : SameWork s (exclude t p rs) := by
  refine sameWork_put ?_
  generalize (exclOf t p ++ rs).zipIdx = l
  induction l generalizing t with
  | nil => exact h
  | cons x l ih => exact ih (sameWork_put h)

theorem sameWork_verdict (s : State) (p m : Nat) (cs : List (Nat × Nat)) : SameWork s (verdict s p m cs) := by
  have h : SameWork s s := ⟨rfl, rfl, rfl, rfl⟩
  have hhalt : SameWork s (verdict.halt p s) := sameWork_raise (sameWork_put h)
  unfold verdict
  extract_lets n last
  split
  · dsimp only
    split
    · exact sameWork_put h
    split
    · exact hhalt
    split
    · exact sameWork_raise (sameWork_put (sameWork_put (sameWork_exclude h)))
    · exact sameWork_raise (sameWork_put (sameWork_exclude h))
  · exact hhalt

/-- Settles O43, by what the search for a value with more than half of the contributions finds. -/
theorem mirageVerdicts : Obligations.MirageVerdicts := fun s p m cs =>
  ⟨fun _ hne hv => verdict_of_agree hne hv, verdict_of_no_majority, fun _ hu => hu ▸ sameWork_verdict s p m cs⟩

end Sys2Proof.Machine

namespace Sys2Proof.Machine

/-! ## The step of a group of cores -/

/-- A fold of writes of one value leaves the fields that it does not name alone. -/
theorem foldl_put_other (s : State) (v : Nat) (fs : List Fld) : OtherFields s (fs.foldl (fun s f => s.put f v) s) fs := by
  induction fs generalizing s with
  | nil => exact otherFields_refl s []
  | cons f fs ih => exact otherFields_trans s (s.put f v) _ [f] fs (otherFields_put s f v) (ih (s.put f v))

/-- Each field that it names reads as written. -/
theorem get_foldl_put {s : State} {v : Nat} {fs : List Fld} {f : Fld} (hw : SMap.wf 0 s.regs = true) (hf : f ∈ fs)
    (hid : ∀ g ∈ fs, g.id = f.id → g = f) : (fs.foldl (fun s f => s.put f v) s).get f = v % 2 ^ f.w := by
  induction fs generalizing s with
  | nil => cases hf
  | cons g fs ih =>
    have hid' := fun h hh => hid h (List.mem_cons_of_mem g hh)
    rw [List.foldl_cons]
    by_cases hin : f ∈ fs
    · exact ih (wf_put s g v hw) hin hid'
    · have hg : f = g := (List.mem_cons.mp hf).resolve_right hin
      subst hg
      have hout : f.id ∉ fs.map Fld.id := fun hm => by
        obtain ⟨g, hg, he⟩ := List.mem_map.mp hm
        exact hin (hid' g hg he ▸ hg)
      rw [foldl_put_other (s.put f v) v fs f hout, get_put_same s f v hw]

/-- The greatest of a list: it is the bound or one of the list, and nothing is greater. -/
theorem foldl_max_spec (l : List Nat) (b : Nat) :
    (l.foldl max b = b ∨ l.foldl max b ∈ l) ∧ b ≤ l.foldl max b ∧ ∀ n ∈ l, n ≤ l.foldl max b := by
  induction l generalizing b with
  | nil => simp
  | cons a l ih =>
    obtain ⟨hmem, hb, hle⟩ := ih (max b a)
    refine ⟨?_, by rw [List.foldl_cons]; omega, ?_⟩
    · rw [List.foldl_cons, List.mem_cons]
      rcases hmem with he | hm
      · omega
      · exact .inr (.inr hm)
    · intro n hn
      rw [List.foldl_cons]
      rcases List.mem_cons.mp hn with rfl | hn
      · omega
      · exact hle n hn

/-- The greatest of a list that is not empty is one of it. -/
theorem foldl_max_zero_mem {l : List Nat} (hne : l ≠ []) : l.foldl max 0 ∈ l := by
  obtain ⟨h0 | hm, -, hle⟩ := foldl_max_spec l 0
  · obtain ⟨a, l, rfl⟩ := List.exists_cons_of_ne_nil hne
    have ha := hle a List.mem_cons_self
    rw [h0, List.mem_cons]
    omega
  · exact hm

theorem takeStep_eq (s : State) (cs : List Nat) : takeStep s cs =
    (cs.map Reg.CLK_ACLK_STEP_STEP).foldl (fun u f => u.put f ((cs.map (requested s)).foldl max 0)) s := by
  rw [List.foldl_map]
  rfl

theorem stepId_injective {c d : Nat} (h : (Reg.CLK_ACLK_STEP_STEP c).id = (Reg.CLK_ACLK_STEP_STEP d).id) : c = d := by
  simp only [Reg.CLK_ACLK_STEP_STEP, Fld.id] at h
  omega

/-- A list of register writes leaves memory alone. -/
theorem foldl_put_mem (s : State) (v : Nat) (fs : List Fld) : (fs.foldl (fun s f => s.put f v) s).mem = s.mem := by
  induction fs generalizing s with
  | nil => rfl
  | cons f fs ih => exact ih (s.put f v)

/-- Settles O59: the step written is the greatest of the steps requested, and it fits its two bits. -/
theorem slowestStepOfTheGroup : Obligations.SlowestStepOfTheGroup := by
  intro s cs hw _ h3
  rw [takeStep_eq]
  refine ⟨fun c hc => ?_, foldl_put_other s _ _, foldl_put_mem s _ _⟩
  obtain ⟨d, hd, hmax⟩ := List.mem_map.mp (foldl_max_zero_mem (l := cs.map (requested s)) (by simp [List.ne_nil_of_mem hc]))
  have hget := get_foldl_put (v := (cs.map (requested s)).foldl max 0) hw (List.mem_map_of_mem (f := Reg.CLK_ACLK_STEP_STEP) hc)
    (by
      intro g hg he
      obtain ⟨d, -, rfl⟩ := List.mem_map.mp hg
      rw [stepId_injective he])
  have hfits : requested s d < 2 ^ (Reg.CLK_ACLK_STEP_STEP c).w := Nat.lt_succ_of_le (h3 d hd)
  rw [hget, ← hmax, Nat.mod_eq_of_lt hfits]
  refine ⟨fun e he => ?_, d, hd, rfl⟩
  rw [hmax]
  exact (foldl_max_spec _ 0).2.2 _ (List.mem_map_of_mem he)

end Sys2Proof.Machine

namespace Sys2Proof.Machine

/-! ## The end of a frame's zeroization -/

theorem mapNext_of_none {s : State} {fin : Bool} {refuse : State → State} (h : s.mapout = none) : mapNext s fin refuse = s := by
  rw [mapNext, h]

theorem removalNext_of_not_removing {s : State} (h : s.pwr.removing = false) : removalNext s = s := by
  rw [removalNext, h]
  rfl

/-- A frame set changes the table of frames and the counts of frames. -/
theorem setFrame_frame (s : State) (f : Nat) (st : FState) :
    { setFrame s f st with
      regs := s.regs
      frames := s.frames } = s := by
  unfold setFrame
  generalize SMap.get s.frameBase s.frames f = old
  cases old <;> cases st <;> rfl

theorem setFrame_frames (s : State) (f : Nat) (st : FState) :
    (setFrame s f st).frames = SMap.set s.frameBase s.frames f st := by
  unfold setFrame
  generalize SMap.get s.frameBase s.frames f = old
  cases old <;> cases st <;> rfl

/-- What a record leaves alone. -/
theorem raise_fields (s : State) (last : List Fld) (r : Rec) : (raise s last r).mem = s.mem ∧
    (raise s last r).mapout = s.mapout ∧ (raise s last r).pwr = s.pwr ∧ (raise s last r).frameBase = s.frameBase ∧
    (raise s last r).frames = s.frames := by
  have hr := raise_frame s last r
  exact ⟨(congrArg State.mem hr :), (congrArg State.mapout hr :), (congrArg State.pwr hr :), (congrArg State.frameBase hr :),
    (congrArg State.frames hr :)⟩

/-- What is left of a frame once zeros are written in it and read back. -/
def zeroized (s : State) (f : Nat) (bad : Option Nat) : State :=
  let u := { s with mem := SMap.drop (fun a => a / frameBytes == f) s.mem }
  match bad with
  | none => setFrame u f .free
  | some ch => raise (setFrame u f .quarantined) [] { code := 0x0730, cls := 3, detail := [f, ch] }

/-- Nothing but memory, the table of frames and what counts and records show it changes. -/
theorem zeroized_frame (s : State) (f : Nat) (bad : Option Nat) :
    (zeroized s f bad).mem = SMap.drop (fun a => a / frameBytes == f) s.mem ∧ (zeroized s f bad).mapout = s.mapout ∧
      (zeroized s f bad).pwr = s.pwr ∧ (zeroized s f bad).frameBase = s.frameBase ∧
      (zeroized s f bad).frames = SMap.set s.frameBase s.frames f (if bad = none then .free else .quarantined) := by
  have hset : ∀ st, let u := { s with mem := SMap.drop (fun a => a / frameBytes == f) s.mem }
      (setFrame u f st).mem = u.mem ∧ (setFrame u f st).mapout = s.mapout ∧ (setFrame u f st).pwr = s.pwr ∧
        (setFrame u f st).frameBase = s.frameBase ∧ (setFrame u f st).frames = SMap.set s.frameBase s.frames f st := by
    intro st u
    have hf := setFrame_frame u f st
    exact ⟨(congrArg State.mem hf :), (congrArg State.mapout hf :), (congrArg State.pwr hf :), (congrArg State.frameBase hf :),
      setFrame_frames u f st⟩
  cases bad with
  | none => exact hset .free
  | some ch =>
    obtain ⟨hm, ho, hp, hb, hf⟩ := hset .quarantined
    obtain ⟨hm', ho', hp', hb', hf'⟩ := raise_fields (setFrame { s with mem := SMap.drop (fun a => a / frameBytes == f) s.mem } f
      .quarantined) [] { code := 0x0730, cls := 3, detail := [f, ch] }
    exact ⟨hm'.trans hm, ho'.trans ho, hp'.trans hp, hb'.trans hb, hf'.trans hf⟩

/-- Where no map-out and no removal waits for it, a frame of no partition ends its zeroization so. -/
theorem execFrameZeroizeComplete_eq {s : State} {f : Nat} {bad : Option Nat} (hf : frameState s f = some (.zeroizing noPart))
    (ho : s.mapout = none) (hc : clocked s = true) (hr : s.pwr.removing = false) :
    execFrameZeroizeComplete f bad s = .next (if zeroizeLeft (zeroized s f bad) then zeroized s f bad
      else (zeroized s f bad).put Reg.MEM_ZEROIZE_ALL 0) := by
  obtain ⟨-, hout, hpwr, -, -⟩ := zeroized_frame s f bad
  have hend : ∀ t : State, t.mapout = s.mapout → t.pwr = s.pwr →
      removalNext (mapNext t false (lateRefusal ((t.mapout.map (·.1)).getD 0))) = t := fun t h h' => by
    rw [mapNext_of_none (h.trans ho), removalNext_of_not_removing (h' ▸ hr)]
  have hlast := hend (if zeroizeLeft (zeroized s f bad) then zeroized s f bad
    else (zeroized s f bad).put Reg.MEM_ZEROIZE_ALL 0) (by split <;> exact hout) (by split <;> exact hpwr)
  refine Eq.trans ?_ (congrArg Host.Outcome.next hlast)
  simp only [execFrameZeroizeComplete, hc, hf] <;> rfl

/-- Settles O37: the bytes of the frame are dropped, and the frame is set FREE, or quarantined. -/
theorem frameZeroization : Obligations.FrameZeroization := by
  intro s f bad hf ho hc hr hw
  obtain ⟨hmem, -, -, hbase, hframes⟩ := zeroized_frame s f bad
  refine ⟨_, execFrameZeroizeComplete_eq (bad := bad) hf ho hc hr, ?_⟩
  have hput : ∀ b : Bool, ∀ t : State, (if b then t else t.put Reg.MEM_ZEROIZE_ALL 0).mem = t.mem ∧
      (if b then t else t.put Reg.MEM_ZEROIZE_ALL 0).frameBase = t.frameBase ∧
      (if b then t else t.put Reg.MEM_ZEROIZE_ALL 0).frames = t.frames := by
    intro b t
    cases b <;> exact ⟨rfl, rfl, rfl⟩
  obtain ⟨hm, hb, hfr⟩ := hput (zeroizeLeft (zeroized s f bad)) (zeroized s f bad)
  refine ⟨fun a ha => ?_, fun a ha => ?_, ?_⟩
  · rw [hm, hmem, SMap.get_drop, if_pos (beq_iff_eq.mpr ha)]
  · rw [hm, hmem, SMap.get_drop, if_neg (by simpa using ha)]
  · rw [hb, hfr, hbase, hframes, SMap.get_set_same _ _ _ _ hw]

end Sys2Proof.Machine

namespace Sys2Proof.Machine

/-! ## The words of a Tynte instruction -/

/-- A field of an instruction word: its value, its low bit and its width. -/
abbrev WordField := Nat × Nat × Nat

/-- The word that a list of fields packs into. -/
def packFields (fs : List WordField) : Nat := pack (fs.map fun f => (f.1, f.2.1))

/-- Bit i lies in the range of low bit lo and width n. -/
def inRange (i lo n : Nat) : Prop := lo ≤ i ∧ i < lo + n

/-- The values fit their widths, and no two fields share a bit. -/
def FieldsFit (fs : List WordField) : Prop :=
  (∀ f ∈ fs, f.1 < 2 ^ f.2.2)
    ∧ fs.Pairwise fun f g => f.2.1 + f.2.2 ≤ g.2.1 ∨ g.2.1 + g.2.2 ≤ f.2.1

theorem packFields_cons (f : WordField) (fs : List WordField) :
    packFields (f :: fs) = f.1 * 2 ^ f.2.1 + packFields fs := rfl

theorem testBit_bitsOf (w lo n i : Nat) :
    (bitsOf w lo n).testBit i = (decide (i < n) && w.testBit (lo + i)) := by
  rw [bitsOf, Nat.testBit_mod_two_pow, Nat.testBit_div_two_pow, Nat.add_comm]

/-- A value of n bits has no bit from n on. -/
theorem lt_of_testBit_of_lt {v n i : Nat} (h : v < 2 ^ n) (hb : v.testBit i = true) : i < n := by
  by_contra hn
  have := Nat.testBit_lt_two_pow (lt_of_lt_of_le h (Nat.pow_le_pow_right (by decide) (Nat.le_of_not_lt hn)))
  rw [this] at hb
  cases hb

/-- A bit of a value moved up by lo, of a value that fits n bits. -/
theorem testBit_mul_two_pow_fit {v n : Nat} (h : v < 2 ^ n) (lo i : Nat) :
    (v * 2 ^ lo).testBit i = true ↔ inRange i lo n ∧ v.testBit (i - lo) = true := by
  rw [Nat.testBit_mul_two_pow]
  constructor
  · intro hb
    obtain ⟨hle, hv⟩ : lo ≤ i ∧ v.testBit (i - lo) = true := by simpa using hb
    have := lt_of_testBit_of_lt h hv
    exact ⟨⟨hle, by omega⟩, hv⟩
  · rintro ⟨⟨hle, _⟩, hv⟩
    simp [hle, hv]

/-- Numbers that share no bit add as they join. -/
theorem add_eq_or_of_and_eq_zero {a b : Nat} (h : a &&& b = 0) : a + b = a ||| b := by
  have hw : a + b < 2 ^ (a + b) := Nat.lt_two_pow_self
  have hbv := BitVec.add_eq_or_of_and_eq_zero (BitVec.ofNat (a + b) a) (BitVec.ofNat (a + b) b)
    (by rw [← BitVec.ofNat_and, h])
  have := congrArg BitVec.toNat hbv
  rw [← BitVec.ofNat_add, ← BitVec.ofNat_or, BitVec.toNat_ofNat, BitVec.toNat_ofNat, Nat.mod_eq_of_lt hw,
    Nat.mod_eq_of_lt (Nat.or_lt_two_pow (by omega) (by omega))] at this
  exact this

/-- A bit of a packed word is the bit of the field whose range holds it. -/
theorem testBit_packFields {fs : List WordField} (h : FieldsFit fs) (i : Nat) :
    (packFields fs).testBit i = true
      ↔ ∃ f ∈ fs, inRange i f.2.1 f.2.2 ∧ f.1.testBit (i - f.2.1) = true := by
  induction fs generalizing i with
  | nil => simp [packFields, pack]
  | cons f fs ih =>
    obtain ⟨hfit, hdis⟩ := h
    obtain ⟨hf, hdis⟩ := List.pairwise_cons.mp hdis
    have ih := ih ⟨fun g hg => hfit g (List.mem_cons_of_mem _ hg), hdis⟩
    have hfv := hfit f List.mem_cons_self
    have hand : f.1 * 2 ^ f.2.1 &&& packFields fs = 0 := by
      apply Nat.eq_of_testBit_eq
      intro j
      rw [Nat.testBit_and, Nat.zero_testBit, Bool.and_eq_false_iff]
      by_contra hc
      push Not at hc
      obtain ⟨h1, h2⟩ := hc
      obtain ⟨hr, _⟩ := (testBit_mul_two_pow_fit hfv _ _).mp (by simpa using h1)
      obtain ⟨g, hg, hr', _⟩ := (ih j).mp (by simpa using h2)
      have := hf g hg
      unfold inRange at hr hr'
      omega
    rw [packFields_cons, add_eq_or_of_and_eq_zero hand, Nat.testBit_or, Bool.or_eq_true,
      testBit_mul_two_pow_fit hfv, ih]
    simp

/-- A field of a packed word is read back. -/
theorem bitsOf_packFields {fs : List WordField} (h : FieldsFit fs) {f : WordField} (hf : f ∈ fs) :
    bitsOf (packFields fs) f.2.1 f.2.2 = f.1 := by
  obtain ⟨hfit, hdis⟩ := h
  apply Nat.eq_of_testBit_eq
  intro i
  rw [Bool.eq_iff_iff, testBit_bitsOf, Bool.and_eq_true, decide_eq_true_iff, testBit_packFields ⟨hfit, hdis⟩]
  constructor
  · rintro ⟨hi, g, hg, hr, hb⟩
    have hfg : f = g := by
      by_contra hne
      have : Std.Symm fun f g : WordField => f.2.1 + f.2.2 ≤ g.2.1 ∨ g.2.1 + g.2.2 ≤ f.2.1 := ⟨fun _ _ h => h.symm⟩
      have := hdis.forall hf hg hne
      unfold inRange at hr
      omega
    subst hfg
    simpa using hb
  · intro hb
    have hi := lt_of_testBit_of_lt (hfit f hf) hb
    exact ⟨hi, f, hf, ⟨by omega, by omega⟩, by simpa using hb⟩

/-- Taking a range out of a word leaves bits of the word that lie outside the range. -/
theorem testBit_of_sub_bitsOf {x lo n i : Nat} (h : (x - bitsOf x lo n * 2 ^ lo).testBit i = true) :
    x.testBit i = true ∧ ¬ inRange i lo n := by
  have hsplit : x - bitsOf x lo n * 2 ^ lo = 2 ^ (lo + n) * (x / 2 ^ (lo + n)) + x % 2 ^ lo := by
    have h1 := Nat.div_add_mod x (2 ^ lo)
    have h2 := Nat.div_add_mod (x / 2 ^ lo) (2 ^ n)
    rw [Nat.div_div_eq_div_mul, ← Nat.pow_add] at h2
    have h3 : x = 2 ^ (lo + n) * (x / 2 ^ (lo + n)) + bitsOf x lo n * 2 ^ lo + x % 2 ^ lo := by
      calc x = 2 ^ lo * (2 ^ n * (x / 2 ^ (lo + n)) + x / 2 ^ lo % 2 ^ n) + x % 2 ^ lo := by rw [h2, h1]
        _ = _ := by rw [bitsOf, Nat.pow_add]; ring
    omega
  have hlt : x % 2 ^ lo < 2 ^ (lo + n) :=
    lt_of_lt_of_le (Nat.mod_lt _ (by positivity)) (Nat.pow_le_pow_right (by decide) (by omega))
  rw [hsplit, Nat.testBit_two_pow_mul_add _ hlt] at h
  unfold inRange
  split at h
  · rw [Nat.testBit_mod_two_pow] at h
    obtain ⟨hi, hx⟩ : i < lo ∧ x.testBit i = true := by simpa using h
    exact ⟨hx, by omega⟩
  · rw [Nat.testBit_div_two_pow] at h
    exact ⟨by rwa [Nat.sub_add_cancel (by omega)] at h, by omega⟩

/-- A word whose bits all lie in the ranges that an instruction uses has no reserved bit set. -/
theorem restZero_of_testBit {x : Nat} {used : List (Nat × Nat)}
    (h : ∀ i, x.testBit i = true → ∃ r ∈ used, inRange i r.1 r.2) : restZero x used = true := by
  unfold restZero
  induction used generalizing x with
  | nil =>
    have : x = 0 := Nat.eq_of_testBit_eq fun i => by
      rw [Nat.zero_testBit, Bool.eq_false_iff]
      intro hb
      obtain ⟨r, hr, _⟩ := h i hb
      cases hr
    simp [this]
  | cons r used ih =>
    refine ih fun i hb => ?_
    obtain ⟨hx, hout⟩ := testBit_of_sub_bitsOf hb
    obtain ⟨q, hq, hin⟩ := h i hx
    rcases List.mem_cons.mp hq with rfl | hq
    · exact absurd hin hout
    · exact ⟨q, hq, hin⟩

/-- Each field lies in a range that is used, or its value does. -/
def InRanges (fs : List WordField) (used : List (Nat × Nat)) : Prop :=
  ∀ f ∈ fs, ∃ r ∈ used, r.1 ≤ f.2.1 ∧ (f.2.1 + f.2.2 ≤ r.1 + r.2 ∨ f.1 < 2 ^ (r.1 + r.2 - f.2.1))

/-- A packed word whose fields lie in the ranges used has no reserved bit set. -/
theorem restZero_packFields {fs : List WordField} (h : FieldsFit fs) {used : List (Nat × Nat)}
    (hu : InRanges fs used) : restZero (packFields fs) used = true := by
  refine restZero_of_testBit fun i hb => ?_
  obtain ⟨f, hf, hin, hbit⟩ := (testBit_packFields h i).mp hb
  obtain ⟨r, hr, h1, h2⟩ := hu f hf
  obtain ⟨hlo, hhi⟩ := hin
  refine ⟨r, hr, by omega, ?_⟩
  rcases h2 with h2 | h2
  · omega
  · have := lt_of_testBit_of_lt h2 hbit
    omega

/-- The fields of the words that carry an instruction: its opcode, the fields of word 0 above bit 15, and those of each
word after it, with the widths of R152 to R168. -/
def wordFields (t : Tynte) : Nat × List WordField × List (List WordField) :=
  let n := BitVec.toNat (w := 32)
  let o := Bool.toNat
  match t with
  | .nop => (0x00, [], [])
  | .endI => (0x01, [], [])
  | .loop f => (0x02, [(f.nlev, 16, 2)],
      [[(f.count0, 0, 16), (f.count1, 16, 16), (f.count2, 32, 16), (f.count3, 48, 16)]])
  | .endloop => (0x03, [], [])
  | .stream f => (0x04, [(f.s, 16, 2), (o f.initParam, 18, 1)],
      [[(n f.init, 0, 32), (n f.inc0, 32, 32)], [(n f.inc1, 0, 32), (n f.inc2, 32, 32)], [(n f.inc3, 0, 32)]])
  | .load f => (0x10, [(o f.rows, 39, 1), (f.desc, 27, 12), (f.gran, 16, 11)], [[(f.off, 0, 32)], [(f.count, 0, 32)]])
  | .store f => (0x11, [(o f.rel, 40, 1), (o f.rows, 39, 1), (f.desc, 27, 12), (f.gran, 16, 11)],
      [[(f.off, 0, 32)], [(f.count, 0, 32)]])
  | .prefetch f => (0x12, [(f.desc, 16, 12), (o f.pin, 28, 1)], [[(f.off, 0, 32), (f.count, 32, 32)]])
  | .tableSetup f => (0x20, [(f.accShift, 40, 5), (f.adesc, 28, 12), (f.wdesc, 16, 12)], [[(f.sdesc, 0, 12)]])
  | .codebookSet f => (0x21, [(f.desc, 16, 12)], [[(f.constOff, 0, 32)]])
  | .opb f => (0x30, [(f.bdesc, 45, 12), (f.adesc, 33, 12), (f.holdT, 26, 7), (o f.acc, 25, 1), (f.slot, 23, 2),
        (o f.tile, 22, 1), (f.width, 19, 3), (f.path, 16, 3)],
      [[(f.arow, 0, 32), (f.bcol, 32, 32)], [(f.kb0, 0, 16), (f.blocks, 16, 6)], [(f.high, 0, 32)]])
  | .drain f => (0x31, [(f.xbase, 36, 11), (f.outDesc, 24, 12), (o f.tile, 23, 1), (f.dest, 21, 2), (o f.stats, 20, 1),
        (f.format, 18, 2), (f.slot, 16, 2)],
      [[(f.orow, 0, 32), (f.ocol, 32, 32)], [(f.high, 0, 32)]])
  | .vop f => (0x40, [(o f.rel, 30, 1), (o f.dStream, 29, 1), (o f.sStream, 28, 1), (f.fout, 26, 2), (f.fin, 24, 2),
        (f.op, 16, 8)],
      [[(f.src1, 0, 11), (f.src2, 11, 11), (f.src3, 22, 11), (f.dst, 33, 11)],
        [(f.vectors, 0, 16), (f.sdesc, 16, 12), (n f.imm, 32, 32)]])
  | .reduce f => (0x50, [(o f.min, 57, 1), (f.fin, 55, 2), (o f.rel, 54, 1), (f.dst, 43, 11), (f.src, 32, 11),
        (o f.dStream, 31, 1), (o f.sStream, 30, 1), (f.k, 23, 7), (f.mode, 21, 2), (o f.corr, 20, 1), (f.op, 16, 4)],
      [[(f.count, 0, 32), (f.pos0, 32, 32)], [(f.rows, 0, 32), (f.xdesc, 32, 12), (f.xidx, 44, 20)]])
  | .indexStream f => (0x60, [(f.idesc, 16, 12)], [[(f.first, 0, 32), (f.count, 32, 32)]])
  | .gather f => (0x61, [(f.dst, 28, 11), (f.tdesc, 16, 12)], [[(f.count, 0, 32)]])
  | .scatterAdd f => (0x62, [(o f.rel, 49, 1), (ofInt 9 f.anchor, 40, 9), (o f.anchored, 39, 1), (f.src, 28, 11),
        (f.tdesc, 16, 12)],
      [[(f.count, 0, 32)]])
  | .segmentReduce f => (0x63, [(f.fin, 55, 2), (o f.rel, 54, 1), (o f.part, 53, 1), (f.op, 50, 3), (f.dst, 39, 11),
        (f.src, 28, 11), (f.xdesc, 16, 12)],
      [[(f.first, 0, 32), (f.last, 32, 32)], [(f.rows, 0, 32), (f.rowlen, 32, 11)]])
  | .anchorRead f => (0x64, [(ofInt 9 f.anchor, 39, 9), (f.dst, 28, 11), (f.tdesc, 16, 12)],
      [[(f.row0, 0, 32), (f.rows, 32, 32)]])
  | .quantCodes f => (0x70, [(f.src, 16, 12), (f.dst, 28, 12)], [[(f.kb0, 0, 32), (f.blocks, 32, 32)]])
  | .signal k => (0x80, [(k, 16, 8)], [])
  | .wait k v => (0x81, [(k, 16, 8), (v, 24, 32)], [])
  | .barrier => (0x82, [], [])
  | .mbBegin m k => (0x83, [], [[(k, 0, 32), (m, 32, 32)]])
  | .mbEnd m k => (0x84, [], [[(k, 0, 32), (m, 32, 32)]])
  | .stepEnd k => (0x85, [], [[(k, 0, 32)]])
  | .coll f => (0x90, [(f.group, 44, 16), (f.ddesc, 32, 12), (f.sdesc, 20, 12), (f.op, 16, 4)],
      [[(f.soff, 0, 32), (f.doff, 32, 32)], [(f.length, 0, 32), (f.token, 32, 8), (o f.sigEn, 40, 1)]])
  | .caravan f => (0xA0, [(f.cdef, 16, 12)], [[(f.tiles, 0, 32), (f.param, 32, 32)]])
  | .update f => (0xB0, [(f.vdesc, 28, 12), (f.wdesc, 16, 12)], [[(f.step, 0, 32), (f.sched, 32, 32)]])

/-- The ranges that an instruction uses of word 0 above bit 15 and of each word after it. -/
def wordRanges (t : Tynte) : List (Nat × Nat) × List (Nat × Nat) × List (Nat × Nat) × List (Nat × Nat) :=
  let all := [(0, 64)]
  match t with
  | .nop | .endI | .endloop | .barrier => ([], [], [], [])
  | .loop _ => ([(16, 2)], all, [], [])
  | .stream f => ([(16, 3)], if f.initParam then [(0, 2), (32, 32)] else all, all, [(0, 32)])
  | .load _ => ([(16, 24)], [(0, 32)], [(0, 32)], [])
  | .store _ => ([(16, 25)], [(0, 32)], [(0, 32)], [])
  | .prefetch _ => ([(16, 13)], all, [], [])
  | .tableSetup _ => ([(16, 29)], [(0, 12)], [], [])
  | .codebookSet _ => ([(16, 12)], [(0, 32)], [], [])
  | .opb _ => ([(16, 41)], all, [(0, 22)], [(0, 32)])
  | .drain _ => ([(16, 31)], all, [(0, 32)], [])
  | .vop _ => ([(16, 15)], [(0, 44)], [(0, 28), (32, 32)], [])
  | .reduce _ => ([(16, 42)], all, all, [])
  | .indexStream _ => ([(16, 12)], all, [], [])
  | .gather _ => ([(16, 23)], [(0, 32)], [], [])
  | .scatterAdd _ => ([(16, 34)], [(0, 32)], [], [])
  | .segmentReduce _ => ([(16, 41)], all, [(0, 43)], [])
  | .anchorRead _ => ([(16, 32)], all, [], [])
  | .quantCodes _ => ([(16, 24)], all, [], [])
  | .signal _ => ([(16, 8)], [], [], [])
  | .wait _ _ => ([(16, 40)], [], [], [])
  | .mbBegin _ _ | .mbEnd _ _ => ([], all, [], [])
  | .stepEnd _ => ([], [(0, 32)], [], [])
  | .coll _ => ([(16, 44)], all, [(0, 41)], [])
  | .caravan _ => ([(16, 12)], all, [], [])
  | .update _ => ([(16, 24)], all, [], [])

/-- The fields of word 0 below bit 16: opcode, LEN and the predicate (R147). -/
def headFields (op n : Nat) (p : Pred) : List WordField :=
  [(op, 0, 8), (n, 8, 2), (p.pen.toNat, 10, 1), (p.plev, 11, 2), (p.pcond, 13, 3)]

theorem pack_singleton (v : Nat) : pack [(v, 0)] = v := by simp [pack]

theorem layout_eq_wordFields (t : Tynte) :
    layout t = ((wordFields t).1, (wordFields t).2.1.map (fun f => (f.1, f.2.1)), (wordFields t).2.2.map packFields) := by
  cases t <;> simp only [layout, wordFields, packFields, List.map_cons, List.map_nil, pack_singleton]

/-- The words of an instruction, as packed fields. -/
theorem encodeTynte_eq (t : Tynte) (p : Pred) :
    encodeTynte t p
      = packFields (headFields (wordFields t).1 (wordFields t).2.2.length p ++ (wordFields t).2.1)
        :: (wordFields t).2.2.map packFields := by
  simp [encodeTynte, layout_eq_wordFields, headFields, packFields]

theorem wordFields_length_lt (t : Tynte) : (wordFields t).2.2.length < 4 := by
  cases t <;> simp [wordFields]

theorem wordFields_opcode_lt (t : Tynte) : (wordFields t).1 < 256 := by
  cases t <;> simp [wordFields]

theorem wordsOf_wordFields (t : Tynte) : wordsOf (wordFields t).1 = (wordFields t).2.2.length + 1 := by
  cases t <;> rfl

theorem ofInt_nine_lt (x : Int) : ofInt 9 x < 512 := by
  unfold ofInt
  omega

theorem sext_ofInt_nine {x : Int} (h : anchorWf x = true) : sext 9 (ofInt 9 x) = x := by
  obtain ⟨h1, h2⟩ : -256 ≤ x ∧ x < 256 := by simpa [anchorWf] using h
  have hlt := ofInt_nine_lt x
  have hx : (ofInt 9 x : Int) = x % 512 := Int.toNat_of_nonneg (by omega)
  unfold sext
  rw [show ofInt 9 x % 2 ^ 9 = ofInt 9 x from Nat.mod_eq_of_lt hlt]
  split <;> omega

/-- A 32-bit value fits a field of 32 bits. -/
theorem wordValue_lt (x : BitVec 32) : x.toNat < 4294967296 := x.isLt

theorem fieldsFit_nil : FieldsFit [] := ⟨by simp, .nil⟩

theorem fieldsFit_cons {f : WordField} {fs : List WordField} :
    FieldsFit (f :: fs)
      ↔ f.1 < 2 ^ f.2.2 ∧ (∀ g ∈ fs, f.2.1 + f.2.2 ≤ g.2.1 ∨ g.2.1 + g.2.2 ≤ f.2.1) ∧ FieldsFit fs := by
  simp only [FieldsFit, List.forall_mem_cons, List.pairwise_cons]
  tauto

/-- The fields of word 0 above bit 15 fit in a well-formed instruction, and lie above bit 15. -/
theorem wordFields_head_fit {t : Tynte} (h : t.wf = true) :
    FieldsFit (wordFields t).2.1 ∧ ∀ f ∈ (wordFields t).2.1, 16 ≤ f.2.1 := by
  cases t <;>
    simp_all [wordFields, fieldsFit_cons, fieldsFit_nil, Tynte.wf, inBits, LoopF.wf, StreamF.wf, MoveF.wf,
      PrefetchF.wf, TableF.wf, CodebookF.wf, OpbF.wf, DrainF.wf, VopF.wf, ReduceF.wf, IndexF.wf, GatherF.wf,
      ScatterF.wf, SegF.wf, AnchorF.wf, QuantF.wf, CollF.wf, CaravanF.wf, UpdateF.wf, ofInt_nine_lt, Bool.toNat_le]

/-- Every word of a well-formed instruction packs fields that fit. -/
theorem wordFields_fit {t : Tynte} (h : t.wf = true) : ∀ fs ∈ (wordFields t).2.2, FieldsFit fs := by
  cases t <;>
    simp_all [wordFields, fieldsFit_cons, fieldsFit_nil, wordValue_lt, Tynte.wf, inBits, LoopF.wf, StreamF.wf,
      MoveF.wf, PrefetchF.wf, TableF.wf, CodebookF.wf, OpbF.wf, DrainF.wf, VopF.wf, ReduceF.wf, IndexF.wf, GatherF.wf,
      ScatterF.wf, SegF.wf, AnchorF.wf, QuantF.wf, CollF.wf, CaravanF.wf, UpdateF.wf, Bool.toNat_le]

/-- A word whose low bits are opcode, LEN and predicate packs fields that fit. -/
theorem headFields_fit {op n : Nat} {p : Pred} {fs : List WordField} (hop : op < 256) (hn : n < 4) (hp : p.wf = true)
    (hfs : FieldsFit fs) (hlow : ∀ f ∈ fs, 16 ≤ f.2.1) : FieldsFit (headFields op n p ++ fs) := by
  obtain ⟨⟨hc, hl⟩, _⟩ := by simpa [Pred.wf, inBits] using hp
  have hpen := Bool.toNat_le p.pen
  have hdis : ∀ lo w, lo + w ≤ 16 → ∀ g ∈ fs, lo + w ≤ g.2.1 ∨ g.2.1 + g.2.2 ≤ lo :=
    fun lo w h g hg => .inl (h.trans (hlow g hg))
  simp only [headFields, List.cons_append, List.nil_append, fieldsFit_cons, List.forall_mem_cons]
  refine ⟨by omega, ⟨by omega, by omega, by omega, by omega, hdis _ _ (by omega)⟩, by omega,
    ⟨by omega, by omega, by omega, hdis _ _ (by omega)⟩, by omega, ⟨by omega, by omega, hdis _ _ (by omega)⟩, by omega,
    ⟨by omega, hdis _ _ (by omega)⟩, by omega, hdis _ _ (by omega), hfs⟩

theorem wordFields_inRanges {t : Tynte} (h : t.wf = true) :
    InRanges (wordFields t).2.1 (wordRanges t).1
      ∧ InRanges ((wordFields t).2.2.getD 0 []) (wordRanges t).2.1
      ∧ InRanges ((wordFields t).2.2.getD 1 []) (wordRanges t).2.2.1
      ∧ InRanges ((wordFields t).2.2.getD 2 []) (wordRanges t).2.2.2 := by
  cases t
  case stream f =>
    obtain ⟨_, hinit⟩ : f.s < 4 ∧ (f.initParam = false ∨ f.init.toNat < 4) := by
      simpa [Tynte.wf, StreamF.wf, inBits] using h
    cases hp : f.initParam
    · simp [InRanges, wordFields, wordRanges, hp]
    · have hinit : f.init.toNat < 4 := by simpa [hp] using hinit
      simp [InRanges, wordFields, wordRanges, hp, hinit]
  all_goals simp [InRanges, wordFields, wordRanges]

/-- A word carries fields: each is what the bits of its range say. -/
def Carries (w : Nat) (fs : List WordField) : Prop := ∀ f ∈ fs, bitsOf w f.2.1 f.2.2 = f.1

/-- Words that carry the fields of a well-formed instruction hold that instruction. -/
theorem fieldsOf_of_carries {t : Tynte} (h : t.wf = true) {w0 w1 w2 w3 : Nat} (hop : w0 % 256 = (wordFields t).1)
    (h0 : Carries w0 (wordFields t).2.1) (h1 : Carries w1 ((wordFields t).2.2.getD 0 []))
    (h2 : Carries w2 ((wordFields t).2.2.getD 1 [])) (h3 : Carries w3 ((wordFields t).2.2.getD 2 [])) :
    fieldsOf w0 w1 w2 w3 = some (t, wordRanges t) := by
  cases t
  case load f =>
    obtain ⟨_, hrel⟩ : f.wf = true ∧ f.rel = false := by simpa [Tynte.wf] using h
    cases f
    simp_all [wordFields, Carries, fieldsOf, wordRanges]
  case scatterAdd f =>
    have hanchor : anchorWf f.anchor = true := by simp_all [Tynte.wf, ScatterF.wf]
    simp_all [wordFields, Carries, fieldsOf, wordRanges, sext_ofInt_nine]
  case anchorRead f =>
    have hanchor : anchorWf f.anchor = true := by simp_all [Tynte.wf, AnchorF.wf]
    simp_all [wordFields, Carries, fieldsOf, wordRanges, sext_ofInt_nine]
  all_goals simp_all [wordFields, Carries, fieldsOf, wordRanges]

/-- A packed word carries its fields. -/
theorem carries_packFields {fs gs : List WordField} (h : FieldsFit fs) (hgs : gs ⊆ fs) : Carries (packFields fs) gs :=
  fun _ hf => bitsOf_packFields h (hgs hf)

/-- Opcode, LEN and predicate are read back from word 0. -/
theorem headFields_read {w op n : Nat} {p : Pred} (h : Carries w (headFields op n p)) :
    w % 256 = op ∧ bitsOf w 8 2 = n ∧ predOf w = p := by
  simp only [headFields, Carries, List.forall_mem_cons] at h
  obtain ⟨hop, hn, hpen, hlev, hcond, _⟩ := h
  refine ⟨by simpa [bitsOf] using hop, hn, ?_⟩
  rw [predOf, hpen, hlev, hcond]
  simp

/-- A word of the rest of an instruction, whatever follows the instruction. -/
theorem getD_map_packFields {ws : List (List WordField)} {i : Nat} (hi : i < ws.length) (rest : List Nat) :
    (ws.map packFields ++ rest).getD i 0 = packFields (ws.getD i []) := by
  simp [List.getD_eq_getElem?_getD, List.getElem?_append_left, hi]

theorem carries_getD {ws : List (List WordField)} (h : ∀ fs ∈ ws, FieldsFit fs) (rest : List Nat) (i : Nat) :
    Carries ((ws.map packFields ++ rest).getD i 0) (ws.getD i []) := by
  by_cases hi : i < ws.length
  · rw [getD_map_packFields hi]
    refine carries_packFields (h _ ?_) (List.Subset.refl _)
    rw [List.getD_eq_getElem _ _ hi]
    exact List.getElem_mem hi
  · rw [List.getD_eq_default ws [] (Nat.le_of_not_lt hi)]
    simp [Carries]

theorem restZero_getD {ws : List (List WordField)} (h : ∀ fs ∈ ws, FieldsFit fs) {i : Nat} {used : List (Nat × Nat)}
    (hu : InRanges (ws.getD i []) used) (hi : i < ws.length) (rest : List Nat) :
    restZero ((ws.map packFields ++ rest).getD i 0) used = true := by
  rw [getD_map_packFields hi]
  refine restZero_packFields (h _ ?_) hu
  rw [List.getD_eq_getElem _ _ hi]
  exact List.getElem_mem hi

/-- What the decoder answers where no check of R147 and R148 fails. -/
theorem decodeTynte_of_checks {w0 n : Nat} {r : List Nat} {t : Tynte} {p : Pred} {u0 u1 u2 u3 : List (Nat × Nat)}
    (hn : wordsOf (w0 % 256) = n + 1) (hlen : bitsOf w0 8 2 = n) (hr : n ≤ r.length) (hp : predOf w0 = p)
    (hwf : p.wf = true)
    (hf : fieldsOf w0 (r.getD 0 0) (r.getD 1 0) (r.getD 2 0) = some (t, u0, u1, u2, u3))
    (h0 : restZero w0 ((0, 16) :: u0) = true) (h1 : 0 < n → restZero (r.getD 0 0) u1 = true)
    (h2 : 1 < n → restZero (r.getD 1 0) u2 = true) (h3 : 2 < n → restZero (r.getD 2 0) u3 = true) :
    decodeTynte (w0 :: r) = some (t, p, n + 1) := by
  have hpred : (!p.pen && (p.pcond != 0 || p.plev != 0)) = false := by
    obtain ⟨_, hpen⟩ := by simpa [Pred.wf] using hwf
    cases h : p.pen <;> simp_all
  have hrest : (restZero w0 ((0, 16) :: u0) && (n + 1 < 2 || restZero (r.getD 0 0) u1)
      && (n + 1 < 3 || restZero (r.getD 1 0) u2) && (n + 1 < 4 || restZero (r.getD 2 0) u3)) = true := by
    simp only [h0, Bool.true_and, Bool.and_eq_true, Bool.or_eq_true, decide_eq_true_iff]
    refine ⟨⟨?_, ?_⟩, ?_⟩
    · exact (Nat.lt_or_ge 0 n).symm.imp (fun h => by omega) h1
    · exact (Nat.lt_or_ge 1 n).symm.imp (fun h => by omega) h2
    · exact (Nat.lt_or_ge 2 n).symm.imp (fun h => by omega) h3
  have hwords : ¬ (decide (n + 1 = 0) || bitsOf w0 8 2 + 1 != n + 1 || decide (r.length + 1 < n + 1)) = true := by
    simp [hlen, hr]
  simp only [decodeTynte, hn, hp, hpred, hf, hrest, if_true, if_neg hwords, Bool.false_eq_true, if_false]

/-- The ranges of word 0 with those of opcode, LEN and predicate. -/
theorem inRanges_word0 {op n : Nat} {p : Pred} {fs : List WordField} {used : List (Nat × Nat)} (h : InRanges fs used) :
    InRanges (headFields op n p ++ fs) ((0, 16) :: used) := by
  intro f hf
  rcases List.mem_append.mp hf with hf | hf
  · refine ⟨(0, 16), List.mem_cons_self, Nat.zero_le _, .inl ?_⟩
    have hhead : ∀ g ∈ headFields op n p, g.2.1 + g.2.2 ≤ 0 + 16 := by
      simp [headFields, -List.mem_cons, List.forall_mem_cons]
    exact hhead f hf
  · obtain ⟨r, hr, hin⟩ := h f hf
    exact ⟨r, List.mem_cons_of_mem _ hr, hin⟩

/-- Settles O14: fields that share no bit are read back from the word that they are packed into, and a word whose fields
lie in the ranges of its opcode has no reserved bit set. -/
theorem tynteRoundTrip : Obligations.TynteRoundTrip := by
  unfold Obligations.TynteRoundTrip
  intro t p rest ht hp
  obtain ⟨hfs, hlow⟩ := wordFields_head_fit ht
  have hfit := wordFields_fit ht
  obtain ⟨hu0, hu1, hu2, hu3⟩ := wordFields_inRanges ht
  have hfit0 := headFields_fit (wordFields_opcode_lt t) (wordFields_length_lt t) hp hfs hlow
  have hrest0 := restZero_packFields hfit0 (inRanges_word0 hu0)
  obtain ⟨hop, hn, hpred⟩ := headFields_read (carries_packFields hfit0 (List.subset_append_left _ _))
  have hcarry := carries_packFields hfit0 (List.subset_append_right _ _)
  rw [encodeTynte_eq, List.cons_append, List.length_cons, List.length_map]
  refine decodeTynte_of_checks (by rw [hop, wordsOf_wordFields]) hn (by simp) hpred hp ?_ hrest0
    (fun h => restZero_getD hfit hu1 h rest) (fun h => restZero_getD hfit hu2 h rest)
    (fun h => restZero_getD hfit hu3 h rest)
  exact fieldsOf_of_carries ht hop hcarry (carries_getD hfit rest 0) (carries_getD hfit rest 1) (carries_getD hfit rest 2)

end Sys2Proof.Machine

namespace Sys2Proof.Machine

/-! ## A step, the state after reset, and the words of R147 to R168 -/

theorem step_of_pending_nil {s : State} (h : s.pending = []) : step s = .next (idle s) := by
  simp only [step, h]

/-- Settles O1: the two clauses are the two cases of `step`. -/
theorem stepRunsTheFront : Obligations.StepRunsTheFront := by
  unfold Obligations.StepRunsTheFront
  refine ⟨fun s c => ?_, fun s h => step_of_pending_nil h⟩
  rfl

/-- Settles O13, by running the decoder on the words. -/
theorem tynteWords : Obligations.TynteWords := by
  unfold Obligations.TynteWords
  decide

/-- Settles O4: the register file of the reset state is empty, so each field reads its value after power-up. -/
theorem resetState : Obligations.ResetState := by
  unfold Obligations.ResetState
  refine ⟨⟨rfl, rfl, rfl⟩, fun f => ⟨get_reset f, rfl⟩, rfl, rfl, rfl, rfl, ?_, fun p => ?_, rfl⟩
  · exact get_reset _
  · exact get_reset _

/-! ## Instructions that a virtual core may execute -/

/-- An instruction that may stand in a stage body changes no state where its predicate is false (R149). -/
theorem withBody_skips {s : State} {a : At} {fetch : Bool} {pr : Pred} (t : Tynte) (k : Ctx → State)
    (h : ∀ x, tynteCtx s a fetch = some x → predHolds x.vc pr = false) : withBody s a pr fetch t k = .next s :=
  withCtx_skips _ h

/-- Settles O5: every predicated instruction runs under `withCtx`, in the part of a body that it names. -/
theorem skippedInstructionChangesNothing : Obligations.SkippedInstructionChangesNothing := by
  unfold Obligations.SkippedInstructionChangesNothing
  intro s a pr h
  have hctx : ∀ fetch (k : Ctx → State), withCtx s a pr fetch k = .next s := fun fetch k => withCtx_skips k (h fetch)
  have hbody : ∀ fetch t (k : Ctx → State), withBody s a pr fetch t k = .next s :=
    fun fetch t k => withBody_skips t k (h fetch)
  refine ⟨hctx _ _, fun f => hbody _ _ _, fun f => hbody _ _ _, fun f ev => hctx _ _, fun f => hctx _ _, fun f => hctx _ _,
    fun f => hctx _ _, fun f => hbody _ _ _, fun f => hbody _ _ _, fun f => hbody _ _ _, fun f => hctx _ _,
    fun f => hbody _ _ _, fun f => hbody _ _ _, fun f => hbody _ _ _, fun f => hbody _ _ _, fun f => hctx _ _,
    fun k => hctx _ _, fun k v => hctx _ _, fun m t => hctx _ _, fun m t => hctx _ _, fun t => hctx _ _, fun f => hctx _ _,
    fun f => hctx _ _, fun f => hctx _ _⟩

/-! ## Control instructions -/

/-- An instruction with no predicate takes its effect in its context. -/
theorem withCtx_always {s : State} {a : At} {fetch : Bool} {x : Ctx} (k : Ctx → State) (h : tynteCtx s a fetch = some x) :
    withCtx s a always fetch k = .next (k x) :=
  withCtx_issues k ⟨h, rfl⟩

/-- Settles O6. -/
theorem controlInstructions : Obligations.ControlInstructions := by
  unfold Obligations.ControlInstructions
  refine ⟨fun s a x h => ⟨fun hf => ⟨fun f hl => ?_, fun l i hl hi => ?_, fun l hl hi => ?_⟩,
    fun hf => ⟨fun f hl => ?_, fun l i hl hi => ?_, fun l hl hi => ?_⟩⟩, fun s a x h => ⟨fun pr hp => ?_, fun f hi => ?_,
    fun f l hi hl => ?_, fun pr f u ts hp hgo hb => ?_⟩⟩
  · exact (withCtx_always _ h).trans (by simp [Ctx.raw, VC.nest, VC.setNest, doneOnce, doneNow, hf, hl])
  · exact (withCtx_always _ h).trans (by simp [Ctx.raw, VC.nest, VC.setNest, doneOnce, doneNow, hf, hl, hi])
  · exact (withCtx_always _ h).trans (by simp [Ctx.raw, VC.nest, VC.setNest, doneOnce, doneNow, hf, hl, hi])
  · exact (withCtx_always _ h).trans (by simp [Ctx.raw, VC.nest, VC.setNest, doneOnce, hf, hl])
  · exact (withCtx_always _ h).trans (by simp [Ctx.raw, VC.nest, VC.setNest, doneOnce, hf, hl, hi])
  · exact (withCtx_always _ h).trans (by simp [Ctx.raw, VC.nest, VC.setNest, doneOnce, hf, hl, hi])
  · exact withCtx_issues _ ⟨h, hp⟩
  · exact (withCtx_always _ h).trans (by simp [Ctx.raw, doneNow, hi])
  · exact (withCtx_always _ h).trans (by simp [Ctx.raw, doneNow, hi, hl])
  · exact (withCtx_issues _ ⟨h, hp⟩).trans (by simp [Ctx.raw, doneNow, hgo, withBound, hb])

/-- Settles O8. -/
theorem orderInstructions : Obligations.OrderInstructions := by
  unfold Obligations.OrderInstructions
  refine ⟨fun s a x h => ⟨fun pr k hp hq => ?_, fun pr k n hp hn => ?_, fun pr k n hp hn hc => ?_, fun hq hc => ?_⟩,
    fun s a x h => ⟨fun l hq hl hc hs => ?_, fun d i k hc hf => ?_, fun d i k hc hf hg hl => ?_⟩,
    fun s a p hp hc => ⟨fun t n hh hlim => ?_, fun m t hh hlim ho => ?_, fun hh hlim hd => ?_⟩⟩
  · exact (withCtx_issues _ ⟨h, hp⟩).trans (by simp [Ctx.raw, doneNow, hq])
  · exact (withCtx_issues _ ⟨h, hp⟩).trans (by simp [doneNow, hn])
  · exact (withCtx_issues _ ⟨h, hp⟩).trans (by simp [Ctx.raw, Nat.not_le.mpr hn, hc])
  · exact ⟨_, rfl, (withCtx_always _ h).trans (by simp [Ctx.raw, hq, hc, tryPhase] <;> rfl)⟩
  · exact ⟨_, rfl, (withCtx_always _ h).trans (by simp [Ctx.raw, hq, hc, hl, hs, tryPhase])⟩
  · exact (withCtx_always _ h).trans (by simp [hc, hf])
  · exact ⟨_, rfl, (withCtx_always _ h).trans (by simp [hc, hf, hg, hl, carFetchEnd])⟩
  · change execTokenWaitTimeout a s = _
    simp [execTokenWaitTimeout, hp, hh, hlim, hc]
  · change execMicroBatchTableWaitTimeout a s = _
    simp [execMicroBatchTableWaitTimeout, hp, hh, hlim, hc, Nat.not_lt.mpr ho]
  · change execOasisQueueFull a s = _
    simp [execOasisQueueFull, hp, hh, hlim, hc, Nat.not_lt.mpr hd]

end Sys2Proof.Machine

namespace Sys2Proof.Machine

/-! ## Host queues: selection and configuration -/

theorem queueFlags_otherFields (s : State) (q : Nat) :
    OtherFields s (queueFlags s q) [Reg.QUE_STATUS_CQ_FULL q, Reg.QUE_STATUS_IDLE q] := by
  unfold queueFlags
  exact otherFields_trans _ _ _ [_] [_] (otherFields_put _ _ _) (otherFields_put _ _ _)

/-- The fields that a queue takes when it goes into service, before its flags are set. -/
def openedQueue (s : State) (q : Nat) : State :=
  (((((s.put (Reg.QUE_STATE_SQ_HEAD q) 0).put (Reg.QUE_STATE_SQ_TAIL q) 0).put (Reg.QUE_STATE_CQ_HEAD q) 0).put
    (Reg.QUE_STATE_CQ_TAIL q) 0).put (Reg.QUE_STATUS_PHASE q) 1).put (Reg.QUE_CFG_ENABLE q) 1

theorem openQueue_eq (s : State) (q : Nat) :
    openQueue s q = queueFlags { openedQueue s q with unsig := SMap.set 0 s.unsig q 0 } q := rfl

theorem openedQueue_otherFields (s : State) (q : Nat) :
    OtherFields s (openedQueue s q) [Reg.QUE_STATE_SQ_HEAD q, Reg.QUE_STATE_SQ_TAIL q, Reg.QUE_STATE_CQ_HEAD q,
      Reg.QUE_STATE_CQ_TAIL q, Reg.QUE_STATUS_PHASE q, Reg.QUE_CFG_ENABLE q] := by
  unfold openedQueue
  intro g hg
  simp only [List.map_cons, List.map_nil, List.mem_cons, List.not_mem_nil, or_false, not_or] at hg
  obtain ⟨h1, h2, h3, h4, h5, h6⟩ := hg
  rw [get_put_other _ _ _ _ h6, get_put_other _ _ _ _ h5, get_put_other _ _ _ _ h4, get_put_other _ _ _ _ h3,
    get_put_other _ _ _ _ h2, get_put_other _ _ _ _ h1]

/-- A field that a queue's flags do not hold reads as before they were set. -/
theorem get_openQueue (s : State) (q : Nat) (g : Fld) (h1 : g.id ≠ (Reg.QUE_STATUS_CQ_FULL q).id)
    (h2 : g.id ≠ (Reg.QUE_STATUS_IDLE q).id) : (openQueue s q).get g = (openedQueue s q).get g :=
  queueFlags_otherFields _ q g (by simp [h1, h2])

/-- A queue that goes into service has empty rings, PHASE 1 and ENABLE 1 (R315). -/
theorem openQueue_reads (s : State) (q : Nat) (h : SMap.wf 0 s.regs = true) :
    Reads (openQueue s q) (Reg.QUE_STATE_SQ_HEAD q) 0 ∧ Reads (openQueue s q) (Reg.QUE_STATE_SQ_TAIL q) 0
      ∧ Reads (openQueue s q) (Reg.QUE_STATE_CQ_HEAD q) 0 ∧ Reads (openQueue s q) (Reg.QUE_STATE_CQ_TAIL q) 0
      ∧ Reads (openQueue s q) (Reg.QUE_STATUS_PHASE q) 1 ∧ Reads (openQueue s q) (Reg.QUE_CFG_ENABLE q) 1 := by
  simp (disch := first
    | (simp only [Fld.id, Reg.QUE_STATE_SQ_HEAD, Reg.QUE_STATE_SQ_TAIL, Reg.QUE_STATE_CQ_HEAD, Reg.QUE_STATE_CQ_TAIL,
        Reg.QUE_STATUS_PHASE, Reg.QUE_CFG_ENABLE, Reg.QUE_STATUS_CQ_FULL, Reg.QUE_STATUS_IDLE, ne_eq]; omega)
    | (repeat first | exact h | apply wf_put)) only [Reads, get_openQueue, openedQueue, get_put_same, get_put_other]
  exact ⟨rfl, rfl, rfl, rfl, rfl, rfl⟩

/-- A queue that leaves service has ENABLE 0, and nothing else of it changes but its flags (R315). -/
theorem closedQueue_reads (s : State) (q : Nat) (h : SMap.wf 0 s.regs = true) :
    Reads (queueFlags (s.put (Reg.QUE_CFG_ENABLE q) 0) q) (Reg.QUE_CFG_ENABLE q) 0 := by
  rw [Reads, queueFlags_otherFields _ q, get_put_same _ _ _ h]
  · rfl
  · simp only [List.map_cons, List.map_nil, List.mem_cons, List.not_mem_nil, or_false, not_or, Fld.id, Reg.QUE_CFG_ENABLE,
      Reg.QUE_STATUS_CQ_FULL, Reg.QUE_STATUS_IDLE]
    omega

theorem otherFields_mono {s t : State} {fs gs : List Fld} (h : OtherFields s t fs) (hs : fs ⊆ gs) : OtherFields s t gs :=
  fun g hg => h g fun hm => hg (List.map_subset _ hs hm)

theorem openQueue_mem (s : State) (q : Nat) : (openQueue s q).mem = s.mem := by
  simp [openQueue_eq, openedQueue, queueFlags]

theorem openQueue_out (s : State) (q : Nat) : (openQueue s q).out = s.out := by
  simp [openQueue_eq, openedQueue, queueFlags]

/-- Settles O18: each write is judged and goes to its register's rule, whose branches are the clauses. -/
theorem queueConfiguration : Obligations.QueueConfiguration := by
  unfold Obligations.QueueConfiguration
  refine ⟨fun s w => ⟨fun u x hj => ?_, fun u x hj hoff hv => ⟨fun hok => ?_, fun hok => ?_⟩, fun u x hj hoff hv => ?_,
    fun u x y hj hon hy => ⟨fun hv => ?_, fun hv => ?_, fun hv => ?_⟩, fun u x hj hoff hv => ?_, fun u hj => ?_,
    fun u hj => ?_⟩, fun s q h hq => ?_⟩
  · exact congrArg _ (hostWrite_some queSel hj)
  · obtain ⟨rfl, _⟩ := judge_some hj
    refine congrArg Host.Outcome.next ((hostWrite_some queCfg hj).trans ?_)
    simp [queCfg, State.on, hoff, hv, hok]
  · obtain ⟨rfl, _⟩ := judge_some hj
    refine congrArg Host.Outcome.next ((hostWrite_some queCfg hj).trans ?_)
    simp [queCfg, State.on, hoff, hv, hok]
  · refine congrArg Host.Outcome.next ((hostWrite_some queCfg hj).trans ?_)
    simp [queCfg, State.on, hoff, hv]
  · obtain ⟨rfl, _⟩ := judge_some hj
    have hon : u.on (Reg.QUE_CFG_ENABLE (keyQueue x.key)) = true := by simp [State.on, hon]
    refine congrArg Host.Outcome.next ((hostWrite_some queCfg hj).trans ?_)
    simp only [queCfg, hon, Bool.true_and, if_true, hv, hy]
  · obtain ⟨rfl, _⟩ := judge_some hj
    have hon : u.on (Reg.QUE_CFG_ENABLE (keyQueue x.key)) = true := by simp [State.on, hon]
    refine congrArg Host.Outcome.next ((hostWrite_some queCfg hj).trans ?_)
    simp only [queCfg, hon, Bool.true_and, if_true, hv, hy]
  · obtain ⟨rfl, _⟩ := judge_some hj
    have hon : u.on (Reg.QUE_CFG_ENABLE (keyQueue x.key)) = true := by simp [State.on, hon]
    refine congrArg Host.Outcome.next ((hostWrite_some queCfg hj).trans ?_)
    simp only [queCfg, hon, Bool.true_and, if_true, hv, hy]
  · refine congrArg Host.Outcome.next ((hostWrite_some queCfg hj).trans ?_)
    simp [queCfg, State.on, hoff, hv]
  · exact congrArg _ (hostWrite_none queSel hj)
  · exact congrArg _ (hostWrite_none queCfg hj)
  · obtain ⟨h1, h2, h3, h4, h5, h6⟩ := openQueue_reads s q h
    refine ⟨h1, h2, h3, h4, h5, h6, ?_, openQueue_mem s q, openQueue_out s q, _, rfl, closedQueue_reads s q h, ?_,
      by simp [queueFlags], by simp [queueFlags]⟩
    · exact otherFields_trans _ _ _ [_, _, _, _, _, _] [_, _] (openedQueue_otherFields s q) (queueFlags_otherFields _ q)
    · exact otherFields_trans _ _ _ [_] [_, _] (otherFields_put _ _ _) (queueFlags_otherFields _ q)

end Sys2Proof.Machine

namespace Sys2Proof.Machine

/-! ## Doorbells and aggregated interrupts -/

theorem bitsOf_sixteen_lt (v lo : Nat) : bitsOf v lo 16 < 65536 := Nat.mod_lt _ (by decide)

/-- What a doorbell that is taken leaves of its queue's fields (R316). -/
def rung (s : State) (q : Nat) (t h : Option Nat) : State :=
  let s := match t with
    | some t => s.put (Reg.QUE_STATE_SQ_TAIL q) t
    | none => s
  match h with
  | some h => s.put (Reg.QUE_STATE_CQ_HEAD q) h
  | none => s

theorem sqTail_ne_cqHead (q : Nat) : (Reg.QUE_STATE_SQ_TAIL q).id ≠ (Reg.QUE_STATE_CQ_HEAD q).id := by
  simp only [Fld.id, Reg.QUE_STATE_SQ_TAIL, Reg.QUE_STATE_CQ_HEAD]
  omega

/-- The halves of a doorbell write are numbers of 16 bits. -/
theorem doorbellHalves_lt (w : HostWr) :
    (∀ t ∈ (doorbellHalves w).1, t < 2 ^ 16) ∧ ∀ h ∈ (doorbellHalves w).2, h < 2 ^ 16 := by
  unfold doorbellHalves
  cases w.size <;> simp [bitsOf_sixteen_lt]

theorem rung_spec (s : State) (q : Nat) (t h : Option Nat) (hwf : SMap.wf 0 s.regs = true) (ht : ∀ n ∈ t, n < 2 ^ 16)
    (hh : ∀ n ∈ h, n < 2 ^ 16) :
    (rung s q t h).mem = s.mem ∧ (rung s q t h).out = s.out
      ∧ Reads (rung s q t h) (Reg.QUE_STATE_SQ_TAIL q) (t.getD (s.get (Reg.QUE_STATE_SQ_TAIL q)))
      ∧ Reads (rung s q t h) (Reg.QUE_STATE_CQ_HEAD q) (h.getD (s.get (Reg.QUE_STATE_CQ_HEAD q)))
      ∧ OtherFields s (rung s q t h) [Reg.QUE_STATE_SQ_TAIL q, Reg.QUE_STATE_CQ_HEAD q] := by
  have hne := sqTail_ne_cqHead q
  have same : ∀ (u : State) (f : Fld) (n : Nat), SMap.wf 0 u.regs = true → f.w = 16 → n < 2 ^ 16 → (u.put f n).get f = n := by
    intro u f n hu hw hn
    rw [get_put_same u f n hu, hw, Nat.mod_eq_of_lt hn]
  refine ⟨by cases t <;> cases h <;> rfl, by cases t <;> cases h <;> rfl, ?_, ?_, fun g hg => ?_⟩
  · cases t <;> cases h <;> simp_all [rung, Reads, get_put_other]
    · exact same _ _ _ hwf rfl ht
    · exact same _ _ _ hwf rfl ht
  · cases t <;> cases h <;> simp_all [rung, Reads, get_put_other, Ne.symm hne]
    · exact same _ _ _ hwf rfl hh
    · exact same _ _ _ (wf_put _ _ _ hwf) rfl hh
  · simp only [List.map_cons, List.map_nil, List.mem_cons, List.not_mem_nil, or_false, not_or] at hg
    obtain ⟨h1, h2⟩ := hg
    cases t <;> cases h <;> simp_all [rung, get_put_other]

/-- Settles O19. -/
theorem doorbellsAndInterrupts : Obligations.DoorbellsAndInterrupts := by
  unfold Obligations.DoorbellsAndInterrupts
  refine fun s => ⟨fun q w hst hok hwf => ?_, fun q w hst hok => ?_, fun q hen hagg hun => ?_, fun b v => rfl⟩
  · have hq : ¬ 65536 ≤ q.val := Nat.not_le.mpr q.isLt
    obtain ⟨ht, hh⟩ := doorbellHalves_lt w
    obtain ⟨hm, ho, hr1, hr2, hof⟩ := rung_spec s q _ _ hwf ht hh
    have hfl := queueFlags_otherFields (rung s q (doorbellHalves w).1 (doorbellHalves w).2) q
    refine ⟨queueFlags (rung s q (doorbellHalves w).1 (doorbellHalves w).2) q, ?_, by simpa [queueFlags] using hm,
      by simpa [queueFlags] using ho, ?_, ?_, ?_⟩
    · change execDoorbellWrite (8 * q) w s = _
      simp [execDoorbellWrite, hst, hok, hq, rung] <;> rfl
    · rw [Reads, hfl _ (by simp [Fld.id, Reg.QUE_STATE_SQ_TAIL, Reg.QUE_STATUS_CQ_FULL, Reg.QUE_STATUS_IDLE]; omega)]
      exact hr1
    · rw [Reads, hfl _ (by simp [Fld.id, Reg.QUE_STATE_CQ_HEAD, Reg.QUE_STATUS_CQ_FULL, Reg.QUE_STATUS_IDLE]; omega)]
      exact hr2
    · exact otherFields_trans _ _ _ [_, _] [_, _] hof hfl
  · have hq : ¬ 65536 ≤ q.val := Nat.not_le.mpr q.isLt
    change execDoorbellWrite (8 * q) w s = _
    simp [execDoorbellWrite, hst, hok, hq]
  · change execInterruptAggregationTimeout q s = _
    simp [execInterruptAggregationTimeout, State.on, hen, hagg, hun]

end Sys2Proof.Machine

namespace Sys2Proof.Machine

/-! ## Commands of host queues -/

theorem get_blockVisit (s : State) (b : Port) (q : Nat) (m : SMap Nat) (f : Fld) :
    (blockVisit { s with seqs := m } b q).get f = s.get f := rfl

theorem inflight_ne_sqHead (q : Nat) : (Reg.QUE_STATUS_INFLIGHT q).id ≠ (Reg.QUE_STATE_SQ_HEAD q).id := by
  simp only [Fld.id, Reg.QUE_STATUS_INFLIGHT, Reg.QUE_STATE_SQ_HEAD]
  omega

/-- The first of two tests of a filtered search. -/
theorem blockQueue_eq_find {s : State} {b : Port} {q n r : Nat} (hv : SMap.get (65535, 4) s.visits b.num = (q, n))
    (hno : 4 ≤ n ∨ queueOf s b q = false ∨ canAccept s q = false)
    (hr : (enabledQueues s).find? (fun k => queueOf s b k && canAccept s k && q < k) = some r) :
    blockQueue s b = some r := by
  have hstay : ¬ (decide (n < 4) && (queueOf s b q && canAccept s q)) = true := by
    rcases hno with hno | hno | hno
    · simp [Nat.not_lt.mpr hno]
    · simp [hno]
    · simp [hno]
  simp only [blockQueue, hv, hstay, List.find?_filter]
  simp [hr]

/-- Settles O20: the branches of the acceptance are the clauses. -/
theorem commandAcceptance : Obligations.CommandAcceptance := by
  unfold Obligations.CommandAcceptance
  refine ⟨fun s q hc hb bytes => ?_, fun s b q n hv => ⟨fun hn hq hc => ?_, fun r hno hr => ?_⟩,
    fun s q p seq b v hc hp hseq hb hbq hv => ⟨fun raw hraw => ⟨_, rfl, ?_⟩, ?_⟩⟩
  · change execCommandAccept q bytes s = _
    simp [execCommandAccept, hb]
  · simp [blockQueue, hv, hn, hq, hc]
  · exact blockQueue_eq_find hv hno hr
  · change execCommandAccept q (some raw) s = _
    subst hp hseq hb hv
    simp [execCommandAccept, hc, hbq, ← hraw, get_blockVisit, get_put_other _ _ _ _ (inflight_ne_sqHead q)] <;> rfl
  · change execCommandAccept q none s = _
    subst hp hseq hb hv
    simp [execCommandAccept, hc, hbq, State.draw, get_blockVisit, get_put_other _ _ _ _ (inflight_ne_sqHead q)]


/-- Settles O21. -/
theorem hostCommands : Obligations.HostCommands := by
  unfold Obligations.HostCommands
  refine fun s p seq raw hraw => ⟨fun h => ?_, fun h ho => ?_, fun h => ?_, fun h ho => ?_, fun n hn h ho hu => ⟨_, _, rfl, rfl, ?_⟩,
    fun q t hph hop hq ha hqp ht h20 hab hf => ?_, fun q hph hop hq ha hqp ht => ⟨fun hl => ?_, fun hl => ?_⟩, fun ho h => ?_,
    fun ho h => ?_, fun ho h => ?_⟩
  · change execHostNop p seq s = _
    simp [execHostNop, h]
  · change execCopyToDevice p seq s = _
    simp [execCopyToDevice, h, ho, hraw]
  · change execCopyToHost p seq s = _
    simp [execCopyToHost, h, hraw]
  · change execCopyDevice p seq s = _
    simp [execCopyDevice, h, ho, hraw]
  · change execUnload p seq s = _
    subst hn hraw
    simp [execUnload, h, ho, hu]
  · change execAbort p seq s = _
    subst hq hraw
    simp [execAbort, hph, hop, ha, hqp, ht, h20, hab, hf, State.on]
  · change execAbort p seq s = _
    subst hq hraw
    simp [execAbort, hph, hop, ha, hqp, ht, hl, State.on]
  · refine ⟨if (s.draw).1 % 2 = 0 then 1 else 2, by split <;> simp, ?_⟩
    change execAbort p seq s = _
    subst hq hraw
    simp [execAbort, hph, hop, ha, hqp, ht, hl, State.on, State.draw]
  · change execCopyToDevice p seq s = _
    simp [execCopyToDevice, h, ho]
  · change execCopyDevice p seq s = _
    simp [execCopyDevice, h, ho]
  · change execUnload p seq s = _
    simp [execUnload, h, ho]

/-- A launch whose lines are pinned and read without fault begins (R285, R289). -/
theorem pinAndBegin_of_ok {u v w : State} {p seq : Nat} {g : Prog} {ev : MemEvent} {det : List Nat}
    (hv : v = if g.isNative then pinNative u p g else u) (hpin : (pinResident v p g).1 = 0)
    (hw : readFinds v p (lineByte (residentLines g)) ev = (w, 0, det)) :
    pinAndBegin u p seq g ev = beginLaunch (pinResident w p g).2.2 p seq g := by
  obtain ⟨more, r, hr⟩ : ∃ more r, pinResident v p g = (0, more, r) := ⟨_, _, Prod.ext hpin rfl⟩
  simp only [pinAndBegin, ← hv, hr, hw] <;> rfl

/-- A launch that is not refused has its program placed where R178 asks for it, and takes its pins (R133). -/
theorem startNow_of_ok {s t u : State} {p seq h : Nat} {ev : MemEvent} (hh : h = fieldOf (s.cmd p seq).raw 8 1)
    (hr : launchRefusal s p seq = 0) (hsc : (s.prog p h).isNative = true → scacheCode s p (s.prog p h) = 0)
    (ht : (if (s.prog p h).marked then settle s p h (s.prog p h) else (0, s)) = (0, t))
    (hu : u = if (s.prog p h).marked then
      raise t [] { code := 0x0340, cls := 0, part := p, seq := seq, detail := [h, (t.prog p h).live] } else t) :
    startNow s p seq ev = pinAndBegin u p seq (u.prog p h) ev := by
  subst hh
  have hn : ¬ ((s.prog p (fieldOf (s.cmd p seq).raw 8 1)).isNative
      && scacheCode s p (s.prog p (fieldOf (s.cmd p seq).raw 8 1)) != 0) = true := by simpa using hsc
  simp only [startNow, hr, if_neg hn, ht, hu] <;> rfl

/-- Settles O22. -/
theorem loadsAndLaunches : Obligations.LoadsAndLaunches := by
  unfold Obligations.LoadsAndLaunches
  refine fun s p seq raw im h size hraw hh hsize him => ⟨fun m g t n hs hr hm hg hc ht hst => ?_,
    fun v m g t hs hr hm hg hhd hsig hmin hd hv hsc ht => ?_, fun hs hr => ?_,
    fun t g u v w ev det hturn hph hl hsir hps hr hsc ht hu hg hv hpin hw hst => ?_⟩
  · change execLoadModule p seq (some im) s = _
    subst hraw hh hsize
    simp only [execLoadModule, hs, if_true, Option.getD_some, hr]
    simp [him, ← hm, ← hg, hc, ht, unlessStalled, hst]
  · change execLoadNative p seq (some im) v s = _
    subst hraw hh hsize
    simp only [execLoadNative, hs, if_true, Option.getD_some, hr]
    simp [him, ← hm, ← hg, hhd, hsig, Nat.not_lt.mpr hmin, hd, hv, hsc, ht]
  · change execLaunch p seq s = _
    simp [execLaunch, hs, hr]
  · change execLaunchStart ⟨p, ev⟩ s = _
    subst hraw hh
    simp only [execLaunchStart, hturn, hph, hl, hsir, hps, startNow_of_ok rfl hr hsc ht hu, ← hg,
      pinAndBegin_of_ok hv hpin hw, unlessStalled, if_neg hst] <;> rfl

end Sys2Proof.Machine

namespace Sys2Proof.Machine

/-! ## The completion record of a command -/

/-- The completion record of a command sent to host memory, and its identifier kept (R321). -/
def recordSent (s : State) (p seq outcome code result detail : Nat) : State :=
  let c := s.cmd p seq
  let q := c.queue
  let tail := s.get (Reg.QUE_STATE_CQ_TAIL q)
  { toHost s c.port p (s.get (Reg.QUE_CQ_BASE_ADDR q) * 64 + tail * 32)
      (completionBytes c seq code outcome result (s.get (Reg.QUE_STATUS_PHASE q)) (s.get (Reg.QUE_STATE_SQ_HEAD q)) detail) with
    recent := SMap.set [] s.recent q ((c.cid :: SMap.get [] s.recent q).take (2 ^ s.get (Reg.QUE_CFG_CQ_LOG q))) }

/-- The fields of a queue that a completion record moves on, before the queue's flags are set (R321). -/
def recorded (s : State) (q outcome code : Nat) : State :=
  let tail := s.get (Reg.QUE_STATE_CQ_TAIL q)
  let size := 2 ^ s.get (Reg.QUE_CFG_CQ_LOG q)
  let phase := s.get (Reg.QUE_STATUS_PHASE q)
  let s := s.put (Reg.QUE_STATE_CQ_TAIL q) ((tail + 1) % size)
  let s := if tail + 1 = size then s.put (Reg.QUE_STATUS_PHASE q) (1 - phase) else s
  let s := s.put (Reg.QUE_STATUS_INFLIGHT q) (s.get (Reg.QUE_STATUS_INFLIGHT q) - 1)
  if outcome = failed then s.put (Reg.QUE_STATUS_LAST_CODE q) code else s

theorem finishCmd_eq (s : State) (p seq outcome code result detail : Nat) (hlt : (s.cmd p seq).queue < 65536) :
    finishCmd s p seq outcome code result detail = signalRecord (queueFlags
      ((recorded (recordSent s p seq outcome code result detail) (s.cmd p seq).queue outcome code).setCmd p seq Cmd.empty)
      (s.cmd p seq).queue) (s.cmd p seq).queue (s.cmd p seq).port := by
  have hrep : ¬ (s.cmd p seq).queue = replayQueue := Nat.ne_of_lt hlt
  simp only [finishCmd, if_neg hrep] <;> rfl

/-- A completion record changes nothing but fields of its queue. -/
theorem recorded_regs (s : State) (q outcome code : Nat) :
    { recorded s q outcome code with regs := s.regs } = s := by
  simp only [recorded]
  split <;> split <;> rfl

/-- How the fields of a queue stand after a completion record (R321). -/
theorem recorded_spec (s : State) (q outcome code : Nat) (h : SMap.wf 0 s.regs = true) :
    Reads (recorded s q outcome code) (Reg.QUE_STATE_CQ_TAIL q)
        ((s.get (Reg.QUE_STATE_CQ_TAIL q) + 1) % 2 ^ s.get (Reg.QUE_CFG_CQ_LOG q) % 2 ^ 16)
      ∧ Reads (recorded s q outcome code) (Reg.QUE_STATUS_INFLIGHT q) ((s.get (Reg.QUE_STATUS_INFLIGHT q) - 1) % 2 ^ 17)
      ∧ Reads (recorded s q outcome code) (Reg.QUE_STATUS_PHASE q)
        (if s.get (Reg.QUE_STATE_CQ_TAIL q) + 1 = 2 ^ s.get (Reg.QUE_CFG_CQ_LOG q)
          then (1 - s.get (Reg.QUE_STATUS_PHASE q)) % 2 else s.get (Reg.QUE_STATUS_PHASE q)) := by
  simp only [recorded]
  split <;> split <;>
  simp (disch := first
    | (simp only [Fld.id, Reg.QUE_STATE_CQ_TAIL, Reg.QUE_STATUS_INFLIGHT, Reg.QUE_STATUS_PHASE, Reg.QUE_STATUS_LAST_CODE,
        ne_eq]; omega)
    | (repeat first | exact h | apply wf_put)) only [Reads, get_put_same, get_put_other] <;>
  refine ⟨rfl, rfl, ?_⟩ <;> simp [Reg.QUE_STATUS_PHASE]

theorem recorded_otherFields (s : State) (q outcome code : Nat) :
    OtherFields s (recorded s q outcome code) [Reg.QUE_STATE_CQ_TAIL q, Reg.QUE_STATUS_INFLIGHT q, Reg.QUE_STATUS_PHASE q,
      Reg.QUE_STATUS_LAST_CODE q] := by
  intro g hg
  simp only [List.map_cons, List.map_nil, List.mem_cons, List.not_mem_nil, or_false, not_or] at hg
  obtain ⟨h1, h2, h3, h4⟩ := hg
  simp only [recorded]
  split <;> split <;> simp only [get_put_other _ _ _ _ h1, get_put_other _ _ _ _ h2, get_put_other _ _ _ _ h3,
    get_put_other _ _ _ _ h4]

/-- A record of a queue that raises no interrupts is not signalled. -/
theorem signalRecord_of_off {s : State} {q : Nat} {b : Port} (h : s.get (Reg.QUE_CFG_INT_EN q) = 0) :
    signalRecord s q b = s := by
  simp [signalRecord, State.on, h]

/-- Settles O23: the record is sent, the fields of the queue move on, and only its flags follow. -/
theorem completionRecord : Obligations.CompletionRecord := by
  unfold Obligations.CompletionRecord
  intro s p seq outcome code result detail q hwf hq hlt hint
  subst hq
  obtain ⟨u, hu⟩ : ∃ u, u = recordSent s p seq outcome code result detail := ⟨_, rfl⟩
  obtain ⟨v, hv⟩ : ∃ v, v = recorded u (s.cmd p seq).queue outcome code := ⟨_, rfl⟩
  have huv : { v with regs := u.regs } = u := hv ▸ recorded_regs u _ outcome code
  obtain ⟨htail, hfly, hphase⟩ := hv ▸ recorded_spec u (s.cmd p seq).queue outcome code (by rw [hu]; exact hwf)
  have hof : OtherFields u v _ := hv ▸ recorded_otherFields u (s.cmd p seq).queue outcome code
  have hfl := queueFlags_otherFields (v.setCmd p seq Cmd.empty) (s.cmd p seq).queue
  have hoff : OtherFields s (queueFlags (v.setCmd p seq Cmd.empty) (s.cmd p seq).queue) _ :=
    otherFields_trans _ _ _ _ _ (by rw [hu] at hof; exact hof) hfl
  have hsig := (hoff (Reg.QUE_CFG_INT_EN (s.cmd p seq).queue) (by
    simp [Fld.id, Reg.QUE_CFG_INT_EN, Reg.QUE_STATE_CQ_TAIL, Reg.QUE_STATUS_INFLIGHT, Reg.QUE_STATUS_PHASE,
      Reg.QUE_STATUS_LAST_CODE, Reg.QUE_STATUS_CQ_FULL, Reg.QUE_STATUS_IDLE]
    omega)).trans hint
  refine ⟨queueFlags (v.setCmd p seq Cmd.empty) (s.cmd p seq).queue, ?_, ?_, ?_, ?_, ?_, ?_, ?_, hoff⟩
  · rw [finishCmd_eq s p seq outcome code result detail hlt, ← hu, ← hv, signalRecord_of_off hsig]
  · have hout : v.out = u.out := (congrArg State.out huv :)
    simp only [queueFlags, State.put_out, State.setCmd_out, hout]
    rw [hu]
    rfl
  · have hmem : v.mem = u.mem := (congrArg State.mem huv :)
    simp only [queueFlags, State.put_mem, State.setCmd_mem, hmem]
    rw [hu]
    rfl
  · have hcmds : v.cmds = u.cmds := (congrArg State.cmds huv :)
    simp only [queueFlags, State.put_cmds, State.setCmd, hcmds]
    rw [hu]
    rfl
  · rw [Reads, hfl _ (by simp [Fld.id, Reg.QUE_STATE_CQ_TAIL, Reg.QUE_STATUS_CQ_FULL, Reg.QUE_STATUS_IDLE]; omega)]
    rw [hu] at htail
    exact htail
  · rw [Reads, hfl _ (by simp [Fld.id, Reg.QUE_STATUS_INFLIGHT, Reg.QUE_STATUS_CQ_FULL, Reg.QUE_STATUS_IDLE])]
    rw [hu] at hfly
    exact hfly
  · rw [Reads, hfl _ (by simp [Fld.id, Reg.QUE_STATUS_PHASE, Reg.QUE_STATUS_CQ_FULL, Reg.QUE_STATUS_IDLE])]
    rw [hu] at hphase
    exact hphase

end Sys2Proof.Machine

namespace Sys2Proof.Machine

/-! ## Step boundaries -/

/-- The training flow reads back what was stored there, where a boundary waits in it. -/
theorem tr_setTr_of_pending (s : State) (p : Nat) (t : TrainCtx) (h : t.pending ≠ []) : (s.setTr p t).tr p = t :=
  SMap.get_set_new _ _ _ _ fun ht => h (by rw [ht]; rfl)

theorem readyFirst_ne_nil {bs : List Pending} (h : bs ≠ []) : readyFirst bs ≠ [] := by
  cases bs with
  | nil => exact absurd rfl h
  | cons b r =>
    unfold readyFirst
    split <;> simp

theorem ite_eq_zero_swap {α : Type} (n : Nat) (a b : α) : (if n = 0 then a else b) = if (n != 0) = true then b else a := by
  by_cases h : n = 0 <;> simp [h]

/-- Settles O24: the branches of the boundary's commands are the clauses. -/
theorem stepBoundary : Obligations.StepBoundary := by
  unfold Obligations.StepBoundary
  refine fun s p b rest => ⟨fun u hany hu => ?_, fun u hnil hreach hu => ?_, rfl, fun huse hdrop hlatch hp => ?_, fun huse => ?_,
    fun huse hor => ?_, fun hp hr hl => ?_, fun hp hr hl => ?_, fun hp hr hl => ⟨_, rfl, ?_⟩, rfl⟩
  · change execBoundaryReady p s = _
    have hne : readyFirst (s.tr p).pending ≠ [] := readyFirst_ne_nil fun h => by simp [h] at hany
    have htr : (u.tr p).pending = readyFirst (s.tr p).pending := by rw [hu, tr_setTr_of_pending _ _ _ hne]
    simp only [execBoundaryReady, hany, if_true, ← hu, htr, List.isEmpty_eq_false_iff.mpr hne, ite_eq_zero_swap]
    rw [hu]
    rfl
  · change execBoundaryReady p s = _
    have htr : (u.tr p).pending = [⟨true, [], true, false⟩] := by rw [hu, tr_setTr_of_pending _ _ _ (by simp)]
    simp only [execBoundaryReady, hnil, hreach, if_true, List.any_nil, Bool.false_eq_true, if_false, List.nil_append, ← hu,
      htr, ite_eq_zero_swap]
    rw [hu]
    rfl
  · simp [syncEdge, State.on, huse, hdrop, hlatch, hp]
  · simp [syncEdge, State.on, huse]
  · rcases hor with h | h <;> simp [syncEdge, State.on, huse, h]
  · change execBoundaryEarliestReached p s = _
    simp [execBoundaryEarliestReached, hp, hr, State.on, hl]
  · change execBoundaryEarliestReached p s = _
    simp [execBoundaryEarliestReached, hp, hr, State.on, hl]
  · change execBoundaryLatestReached p s = _
    simp [execBoundaryLatestReached, hp, hr, State.on, hl]

/-! ## Training registers -/

/-- A write that is let through goes to the register's own rule, as the write that was judged. -/
theorem next_hostWrite {s u : State} {off : Nat} {w : HostWr} {x : Wr} {act : State → Wr → State} {t : State}
    (h : judge s off w = (u, some x)) (ha : x.w = w → act u x = t) : (.next (hostWrite s off w act) : Res) = .next t := by
  rw [hostWrite_some act h, ha (judge_some h).1]

theorem synVersionCtrl_closeAll {u v : State} {x : Wr} (h17 : x.val 17 = some 1)
    (hv : v = match x.val 16 with
      | some 1 => clearBindings ((storeBut u x [16, 17]).put (Reg.SYN_VERSION_CTRL_ENABLE x.part) 1) x.part
      | some _ => (storeBut u x [16, 17]).put (Reg.SYN_VERSION_CTRL_ENABLE x.part) 0
      | none => storeBut u x [16, 17]) :
    synVersionCtrl u x = if launchBusy v x.part then wrRecord v [] 0x0515 x [] else closeAll v x.part := by
  have h17 : x.one 17 = true := by simp [Wr.one, h17]
  simp only [synVersionCtrl, h17, if_true, hv] <;> rfl

/-- A replay that may start restores the recorded step, key and counter (R244). -/
theorem replayStart_of_ok {s : State} {p : Nat} {x : Wr} {r : StepRec} {u v : State} (hno : (s.tr p).replay = none)
    (hw : s.isWritten (Reg.SYN_REPLAY_CTRL_STEP p) = true)
    (hu : u = ((((s.put (Reg.SYN_REPLAY_RESULT_SEQ p) 0).put (Reg.SYN_REPLAY_RESULT_VCORE p) 0xFF).put
      (Reg.SYN_REPLAY_CORES_TILE p) 0).put (Reg.SYN_REPLAY_CORES_REC_CORE p) 0xFF).put (Reg.SYN_REPLAY_CORES_NOW_CORE p) 0xFF)
    (hbusy : launchBusy u p = false) (hmb : openMbs u p = [])
    (hfind : ((u.tr p).closed.find? fun r => r.step == s.get (Reg.SYN_REPLAY_CTRL_STEP p) && r.complete) = some r)
    (hver : (r.versions.all fun (_, _, i, _, tag) => [0, 1].any fun k => slotState u p i k != 0 && slotTag u p i k == tag)
      = true)
    (hv : pWrite u p (scaleAddr u p 0) r.scales = some v) :
    replayStart s p x = startReplayed ((((v.setTr p { v.tr p with counter := (r.counter + 1) % 2 ^ 128 }).put
      (Reg.SYN_SEED_KEY_KEY p) r.key).put (Reg.SYN_STEP_STEP p) (s.get (Reg.SYN_REPLAY_CTRL_STEP p))).put
      (Reg.SYN_REPLAY_RESULT_STATE p) 1) p ⟨r, u.get (Reg.SYN_STEP_STEP p), 0, [], false⟩ := by
  have hwu : u.isWritten (Reg.SYN_REPLAY_CTRL_STEP p) = true := by rw [hu]; exact hw
  have hver : (r.versions.any fun (_, _, i, _, tag) =>
      !([0, 1].any fun k => slotState u p i k != 0 && slotTag u p i k == tag)) = false := by
    rw [← Bool.not_eq_true', List.not_any_eq_all_not]
    simpa using hver
  simp only [replayStart, hno, Option.isSome_none, Bool.false_eq_true, if_false, ← hu, hwu, hbusy, hmb, hfind, hver, hv] <;> rfl

/-- Settles O25. -/
theorem trainingRegisterWrites : Obligations.TrainingRegisterWrites := by
  unfold Obligations.TrainingRegisterWrites
  refine ⟨fun s p w u x => ⟨fun hj hv hok => next_hostWrite hj fun hw => ?_, fun hj hl hr => next_hostWrite hj fun hw => ?_,
    fun hj hl => next_hostWrite hj fun hw => ?_, fun v hj h17 hv => ⟨fun hb => next_hostWrite hj fun hw => ?_,
      fun hb => next_hostWrite hj fun hw => ?_⟩, fun hj h16 h17 => next_hostWrite hj fun hw => ?_,
    fun hj h0 => next_hostWrite hj fun hw => ?_, fun hj h0 hwr => next_hostWrite hj fun hw => ?_,
    fun hj h0 h1 => next_hostWrite hj fun hw => ?_, fun r hj h0 h1 hr => next_hostWrite hj fun hw => ?_⟩,
    fun s p x r u v hno hw hu hbusy hmb hfind hver hv => ⟨_, rfl, replayStart_of_ok hno hw hu hbusy hmb hfind hver hv⟩⟩
  · simp [synCtrl, enableBit, hv, hok]
  · simp [synStep, hl, hr]
  · simp [synStep, Option.isSome_iff_ne_none.mpr hl]
  · rw [synVersionCtrl_closeAll h17 hv, hb]
    rfl
  · rw [synVersionCtrl_closeAll h17 hv, hb]
    rfl
  · simp [synVersionCtrl, h16, h17, Wr.one]
  · simp [synSeedKey, Option.isSome_iff_ne_none.mpr h0]
  · simp [synRippleCtrl, enableBit, h0, hwr]
  · simp [synReplayCtrl, h0, h1, Wr.one]
  · simp [synReplayCtrl, h0, h1, Wr.one, hr]

/-! ## Scale records and weight versions -/

/-- Settles O26. -/
theorem scalesAndVersions : Obligations.ScalesAndVersions := by
  unfold Obligations.ScalesAndVersions
  refine fun s => ⟨fun p i t ev v k z hen hi ht hf hu hr hz hst => ?_, fun p i t ev hu => ?_, fun a p d t hp hb hc hto hm => ?_,
    fun x hx hph hto hrefs => ?_⟩
  · change execScaleRecordUpdate p i t ev s = _
    simp [execScaleRecordUpdate, State.on, hen, Nat.not_le.mpr hi, Nat.not_le.mpr ht, Nat.not_lt.mpr hf, hu, hr, ← hz, unlessStalled, hst]
  · change execScaleRecordUpdate p i t ev s = _
    simp [execScaleRecordUpdate, hu]
  · change execVersionWaitTimeout (some a) s = _
    simp [execVersionWaitTimeout, hp, hb, hc, hto, hm]
  · change execVersionWaitTimeout none s = _
    simp [execVersionWaitTimeout, hx, hph, hto, hrefs]

end Sys2Proof.Machine

namespace Sys2Proof.Machine

/-! ## Passes of the outer-product engine -/

theorem coreBase_injective {c d : Nat} (h : coreBase c = coreBase d) : c = d := by
  unfold coreBase at h
  omega

/-- What a pass that issues sets of one of its cores (R73). -/
def fillCore (x : Pass) (u : Nat) (s : State) (dk : Nat × Nat) : State :=
  let (d, k) := dk
  let s := s.put (Reg.ENG_STATUS_SLOT_STATE d x.slot) 1
  let s := { s with slots := SMap.set SlotInfo.empty s.slots (d * 4 + x.slot) ⟨!intAcc x.path, u⟩ }
  let s := (s.put (Reg.ENG_STATUS_GANGED d) x.gang.toNat).put (Reg.ENG_STATUS_GANG_ROLE d) (if x.gang then k else 0)
  let s := (s.put (Reg.ENG_STATUS_FILL_BUSY d) 1).put (Reg.ENG_STATUS_FILL_WAIT d) 0
  s.put (Reg.ENG_STATUS_HOLD d) (x.holdT != 0).toNat

theorem startPass_eq (s : State) (c : Nat) (x : Pass) (rest : List EngItem) (z : Int) (u : Nat) :
    startPass s c x rest z u = (passCores c x).zipIdx.foldl (fillCore x u) (s.setEng c
      { s.eng c with queue := rest, filling := some x, book := bookBytes s x.part x, zero := z,
                     fillPar := s.get (Reg.SYN_STEP_STEP x.part) % 2 }) := rfl

theorem fillCore_regs (x : Pass) (u : Nat) (s : State) (d k : Nat) :
    (fillCore x u s (d, k)).regs = ((((((s.put (Reg.ENG_STATUS_SLOT_STATE d x.slot) 1).put (Reg.ENG_STATUS_GANGED d) x.gang.toNat).put
      (Reg.ENG_STATUS_GANG_ROLE d) (if x.gang then k else 0)).put (Reg.ENG_STATUS_FILL_BUSY d) 1).put
      (Reg.ENG_STATUS_FILL_WAIT d) 0).put (Reg.ENG_STATUS_HOLD d) (x.holdT != 0).toNat).regs := rfl

theorem fillCore_wf (x : Pass) (u : Nat) {s : State} (dk : Nat × Nat) (h : SMap.wf 0 s.regs = true) :
    SMap.wf 0 (fillCore x u s dk).regs = true := by
  obtain ⟨d, k⟩ := dk
  rw [fillCore_regs]
  repeat first | exact h | apply wf_put

theorem get_congr_regs {s t : State} (h : s.regs = t.regs) (f : Fld) : s.get f = t.get f := by
  simp only [State.get, h]

/-- The slot of the core is Filling. -/
theorem slotSt_fillCore_same (x : Pass) (u : Nat) {s : State} (d k : Nat) (h : SMap.wf 0 s.regs = true) (hx : x.slot < 4) :
    slotSt (fillCore x u s (d, k)) d x.slot = 1 := by
  rw [slotSt, get_congr_regs (fillCore_regs x u s d k)]
  simp (disch := first
    | (simp only [Fld.id, Reg.ENG_STATUS_SLOT_STATE, Reg.ENG_STATUS_GANGED, Reg.ENG_STATUS_GANG_ROLE, Reg.ENG_STATUS_FILL_BUSY,
        Reg.ENG_STATUS_FILL_WAIT, Reg.ENG_STATUS_HOLD, ne_eq]; omega)
    | (repeat first | exact h | apply wf_put)) only [get_put_same, get_put_other] <;> rfl

/-- The slots of another core stand as before. -/
theorem slotSt_fillCore_other (x : Pass) (u : Nat) (s : State) {d e : Nat} (k : Nat) (hx : x.slot < 4) (hde : d ≠ e) :
    slotSt (fillCore x u s (d, k)) e x.slot = slotSt s e x.slot := by
  have hb : coreBase d ≠ coreBase e := fun h => hde (coreBase_injective h)
  rw [slotSt, get_congr_regs (fillCore_regs x u s d k)]
  simp (disch := (simp only [Fld.id, Reg.ENG_STATUS_SLOT_STATE, Reg.ENG_STATUS_GANGED, Reg.ENG_STATUS_GANG_ROLE,
      Reg.ENG_STATUS_FILL_BUSY, Reg.ENG_STATUS_FILL_WAIT, Reg.ENG_STATUS_HOLD, ne_eq]; omega)) only [get_put_other] <;> rfl

/-- The slot stays Filling while further cores are set. -/
theorem slotSt_foldl_fillCore (x : Pass) (u : Nat) (l : List (Nat × Nat)) {s : State} {d : Nat} (h : SMap.wf 0 s.regs = true)
    (hx : x.slot < 4) (hd : (∃ k, (d, k) ∈ l) ∨ slotSt s d x.slot = 1) :
    slotSt (l.foldl (fillCore x u) s) d x.slot = 1 := by
  induction l generalizing s with
  | nil => simpa using hd
  | cons y l ih =>
    obtain ⟨e, k⟩ := y
    refine ih (fillCore_wf x u _ h) ?_
    by_cases hed : e = d
    · subst hed
      exact .inr (slotSt_fillCore_same x u e k h hx)
    · rw [slotSt_fillCore_other x u s k hx hed]
      refine hd.imp_left ?_
      rintro ⟨k', hk⟩
      rcases List.mem_cons.mp hk with hk | hk
      · exact absurd (Prod.ext_iff.mp hk).1.symm hed
      · exact ⟨k', hk⟩

/-- On each core of a pass that issues its slot is Filling (R79). -/
theorem slotSt_startPass {s : State} {c : Nat} {x : Pass} (rest : List EngItem) (z : Int) (u : Nat) {d : Nat}
    (hd : d ∈ passCores c x) (h : SMap.wf 0 s.regs = true) (hx : x.slot < 4) :
    slotSt (startPass s c x rest z u) d x.slot = 1 := by
  rw [startPass_eq]
  refine slotSt_foldl_fillCore x u _ h hx (.inl ?_)
  obtain ⟨n, hn⟩ := List.mem_iff_getElem?.mp hd
  exact ⟨n, List.mem_zipIdx_iff_getElem?.mpr hn⟩

/-- Error checks that find nothing change nothing (R96). -/
theorem sramEvents_ok (s : State) (p v : Nat) (last : Nat → List Fld) {evs : List (Nat × SramEvent)}
    (h : ∀ e ∈ evs, e.2 = .ok) : sramEvents s p v last evs = (s, false) := by
  induction evs with
  | nil => rfl
  | cons e evs ih =>
    obtain ⟨c, ev⟩ := e
    obtain ⟨rfl, hrest⟩ := List.forall_mem_cons.mp h
    simp only [sramEvents, sramEvent]
    exact ih hrest

/-- A pass has no tag fault where none of its cores finds one (R60). -/
theorem passFault_eq_none {s : State} {c : Nat} {x : Pass}
    (h : ∀ dk ∈ (passCores c x).zipIdx, tagFault s (lanesOf c x dk.2).colCore dk.1 x = none) : passFault s c x = none := by
  have hnil : ((passCores c x).zipIdx.filterMap fun (d, k) =>
      (tagFault s (lanesOf c x k).colCore d x).map fun f => (d, f)) = [] := by
    rw [List.filterMap_eq_nil_iff]
    intro dk hdk
    simp [h dk hdk]
  rw [passFault, hnil]
  rfl

/-- Nothing holds a pass back whose port, slots, queues, operands, records and tokens are there (R73). -/
theorem passWaits_eq_false {s : State} {c : Nat} {x : Pass} {r : State × Nat × List Nat} {ev : MemEvent}
    (hgo : stageGo s x.part x.vcore c = true) (hfresh : freshAll s x.part [x.aScale, x.wScale] = true)
    (hfill : (s.eng c).filling = none) (hwait : ((passCores c x).any fun d => coreWaits s c d x) = false)
    (hpres : passPresent s c x = true) (hread : recordReads s x.part (passReads s x) ev = some r) :
    passWaits s c x = false := by
  have htake : mayTake s (recordKeys s x.part (passReads s x)) = true := by
    by_contra hno
    simp [recordReads, hno] at hread
  simp [passWaits, hgo, hfresh, hfill, hwait, hpres, htake]

/-- Settles O27. -/
theorem enginePasses : Obligations.EnginePasses := by
  unfold Obligations.EnginePasses
  refine ⟨fun s t c x rest book z u ev det hnext hgo hlim hgang hctx hcode hfresh hfill hslot hq hbad hwait hpres hskew hread =>
    ⟨?_, fun d hd hwf hs => slotSt_startPass rest z u hd hwf hs⟩, fun s c x rest hq hs => ?_,
    fun s c x hfill => ⟨fun htag evs hok => ?_, fun d q want dt st hf => ?_⟩⟩
  · change issuePass c ev s = _
    have hw := passWaits_eq_false hgo hfresh hfill hwait hpres hread
    have h1 : ((passCores c x).any fun d => !s.isWritten (Reg.ENG_ISSUE_TIMEOUT_LIMIT d)) = false := by
      simpa using hlim
    have h2 : (x.gang && !gangOk s c) = false := by simpa using hgang
    have h3 : ((passCores c x).any fun d => d != c.val && !(s.eng d).queue.isEmpty) = false := by
      simpa using hq
    have h4 : (((passCores c x).map fun d => passSlot s d x u (((s.eng c).filling.map (·.slot)) == some x.slot)).find?
        fun k => k > 1) = none := by
      simp only [hfill, List.find?_eq_none, List.mem_map]
      rintro _ ⟨d, hd, rfl⟩
      have := hslot d hd
      simp_all
    simp only [issuePass, hnext, hctx, h1, h2, hbad, hcode, hfresh, h3, h4, hw, hskew, hread] <;> rfl
  · simp only [nextPass, hq]
    rw [pickItem_head]
    · rfl
    · exact hs
  · change execPassComplete c evs s = _
    have hfound : ∀ e ∈ (evs.filterMap fun y => ((passCores c x)[y.1.val]?).map fun d => (d, y.2)), e.2 = .ok := by
      simp only [List.mem_filterMap, Option.map_eq_some_iff]
      rintro _ ⟨y, hy, d, _, rfl⟩
      exact hok y hy
    simp [execPassComplete, hfill, sramEvents_ok s _ _ _ hfound, passFault_eq_none htag]
  · change execPassComplete c [] s = _
    simp [execPassComplete, hfill, sramEvents, hf]

end Sys2Proof.Machine

namespace Sys2Proof.Machine

/-! ## Drains of the outer-product engine -/

/-- Tokens are there where the records of an instruction are read (R282). -/
theorem mayTake_of_recordReads {s : State} {p : Nat} {xs : List Nat} {ev : MemEvent} {r : State × Nat × List Nat}
    (h : recordReads s p xs ev = some r) : mayTake s (recordKeys s p xs) = true := by
  by_contra hno
  simp [recordReads, hno] at h

/-- Nothing holds a drain back whose slot, port, destination, turn, scale record, stage and tokens are there (R84). -/
theorem drainWaits_eq_false {s : State} {c : Nat} {x : Drain} (hslot : slotSt s c x.slot = 2)
    (hfree : (s.eng c).draining = none) (hroom : drainRoom s c x = true) (hturn : quarterTurn s c x = true)
    (hfresh : x.format = 0 → freshAll s x.part [x.outScale] = true) (hgo : stageGo s x.part x.vcore c = true)
    (htake : mayTake s (recordKeys s x.part (drainReads s x)) = true) : drainWaits s c x = false := by
  have hf : (decide (x.format = 0) && !freshAll s x.part [x.outScale]) = false := by simpa using hfresh
  simp [drainWaits, hslot, hfree, hroom, hturn, hf, hgo, htake]

theorem issueDrain_of_ready {s t : State} {c : Core} {x : Drain} {rest : List EngItem} {info : SlotInfo} {o : Nat × Nat × Int}
    {ev : MemEvent} {det : List Nat}
    (hnext : nextDrain s c = some (x, rest)) (hgo : stageGo s x.part x.vcore c = true)
    (hlim : s.isWritten (Reg.ENG_ISSUE_TIMEOUT_LIMIT c) = true) (hform : x.format ≤ 3)
    (hint : x.format = 0 → x.outScale ≠ none ∧ freshAll s x.part [x.outScale] = true
      ∧ scalesCode s x.part ((x.outScale.map fun i => [i]).getD []) = 0
      ∧ (info.fp = true ∨ ratioOf (f32div info.unit o.1) ≠ none))
    (hslot : slotSt s c x.slot = 2) (hfree : (s.eng c).draining = none) (hroom : drainRoom s c x = true)
    (hturn : quarterTurn s c x = true) (hinfo : info = SMap.get SlotInfo.empty s.slots (c * 4 + x.slot))
    (ho : o = (x.outScale.map (scaleLatch s x.part)).getD (one32, one32, 0))
    (hread : recordReads s x.part (drainReads s x) ev = some (t, 0, det)) :
    issueDrain c ev s = .next (carEnter (startDrain t c x rest (s.eng c) (info.unit, o.1, o.2.1, o.2.2)) x.part x.vcore) := by
  have hw := drainWaits_eq_false hslot hfree hroom hturn (fun h => (hint h).2.1) hgo (mayTake_of_recordReads hread)
  have h1 : (decide (3 < x.format) || (decide (x.format = 0) && x.outScale.isNone)) = false := by
    simp only [Bool.or_eq_false_iff, decide_eq_false_iff_not, Bool.and_eq_false_imp, decide_eq_true_iff]
    exact ⟨by omega, fun h => by simpa [Option.isSome_iff_ne_none] using (hint h).1⟩
  have h2 : (if x.format = 0 then scalesCode s x.part ((x.outScale.map fun i => [i]).getD []) else 0) = 0 := by
    split
    · next h => exact (hint h).2.2.1
    · rfl
  have h3 : (decide (x.format = 0) && !info.fp && (ratioOf (f32div info.unit o.1)).isNone) = false := by
    by_cases h : x.format = 0
    · obtain ⟨_, _, _, hr⟩ := hint h
      rcases hr with hr | hr
      · simp [hr]
      · simp [Option.isNone_eq_false_iff.mpr (Option.isSome_iff_ne_none.mpr hr)]
    · simp [h]
  simp only [issueDrain, hnext, hlim, h1, hslot, hw, h2, ← hinfo, ← ho, h3, hread] <;> rfl

theorem sramEvents_map_ok (s : State) (p v : Nat) (last : Nat → List Fld) (c : Nat) {evs : List SramEvent}
    (h : ∀ e ∈ evs, e = .ok) : sramEvents s p v last (evs.map fun ev => (c, ev)) = (s, false) := by
  refine sramEvents_ok s p v last fun e he => ?_
  obtain ⟨ev, hev, rfl⟩ := List.mem_map.mp he
  exact h ev hev

/-- Settles O28. -/
theorem engineDrains : Obligations.EngineDrains := by
  unfold Obligations.EngineDrains
  refine ⟨fun s c x => ⟨fun rest info o ev t det hnext hgo hlim hform hint hslot hfree hroom hturn hinfo ho hread => ?_,
    fun rows cells bytes u v w y hdr hun hrows hcells hbytes hu hv hw hy hst => ?_,
    fun tile evs hdr hun hok htile => ⟨fun r u v z hpair hrel hv hz hst => ?_, fun r hpair => ?_⟩⟩,
    fun s c => ⟨fun x k d b r hfill hd => ?_, fun x t r hdr => ?_, fun x lead hwait hown hlead hlim => ?_,
    fun x lead hwait hdr hlim => ?_⟩⟩
  · exact issueDrain_of_ready hnext hgo hlim hform hint hslot hfree hroom hturn hinfo ho hread
  · change execOutputUnitComplete c s = _
    subst hrows hcells hbytes hu
    have hout : outputUnit c s = .next (carPumpAll (w.setEng c y) x.part) := by
      simp only [outputUnit, hdr, if_neg (Nat.not_le.mpr hun), unitData]
      split
      · next v' hv' =>
        have hvv : v' = v := Option.some.inj (hv'.symm.trans hv)
        rw [hvv, hy, hw]
      · next hv' => exact absurd (hv'.symm.trans hv) (by simp)
    simp [execOutputUnitComplete, hout, unlessStalled, hst]
  · change execDrainComplete c evs s = _
    have hun := Nat.not_lt.mpr hun
    simp only [execDrainComplete, hdr, sramEvents_map_ok s _ _ _ c hok, if_neg hun, ← htile, hpair, hrel, ← hv, drainOver, ← hz,
      unlessStalled, if_neg hst] <;> rfl
  · change execDrainComplete c evs s = _
    have hun := Nat.not_lt.mpr hun
    simp only [execDrainComplete, hdr, sramEvents_map_ok s _ _ _ c hok, if_neg hun, ← htile, hpair] <;> rfl
  · change execPassComplete c [(k, .stgUncorrectable b r)] s = _
    simp [execPassComplete, hfill, hd, sramEvents, sramEvent]
  · change execDrainComplete c [.accUncorrectable t r] s = _
    simp [execDrainComplete, hdr, sramEvents, sramEvent]
  · change execOperandWaitTimeout c s = _
    have hfree : (if lead = c.val then (s.eng c).filling.isNone else s.get (Reg.ENG_STATUS_FILL_BUSY c) == 0) = true := by
      split
      · next h => simp [hown h]
      · next h => simp [hlead h]
    simp only [execOperandWaitTimeout, hwait, if_neg hlim, hfree] <;> rfl
  · change execOperandWaitTimeout c s = _
    simp [execOperandWaitTimeout, hwait, hlim, hdr] <;> rfl

end Sys2Proof.Machine

namespace Sys2Proof.Machine

/-! ## The vector unit and the gather/scatter unit -/

theorem jobWaits_eq_false {s : State} {c : Nat} {j : VJob} {ev : MemEvent} {r : State × Nat × List Nat}
    (hready : jobReady s c j = true) (hfresh : jobFresh s j.part j.inst = true)
    (hread : recordReads s j.part (jobReads s j.part j.vcore j.inst) ev = some r) : jobWaits s c j = false := by
  simp [jobWaits, hready, hfresh, mayTake_of_recordReads hread]

/-- A unit is idle where nothing runs on it. -/
theorem unit_idle {e : VecCtx} {gs : Bool} (h : (if gs then e.gsRun else e.run) = none) :
    (if gs then e.gsRun.isSome else e.run.isSome) = false := by
  cases gs <;> simp_all

/-- What a completion does where its checks and its reads find nothing. -/
theorem completeJob_of_found {s t : State} {c : Core} {gs : Bool} {j : VJob} {evs : List SramEvent} {ev : MemEvent}
    (hrun : (if gs then (s.vu c).gsRun else (s.vu c).run) = some j) (hok : ∀ e ∈ evs, e = .ok)
    (hfind : completionFinds s c j ev = (t, false)) :
    completeJob c gs evs ev s = if gs then .next (gsRunOn t c j) else
      match (match jobTile t c j with
        | some bs => pairTile t j.part j.vcore c bs
        | none => (t, true)) with
      | (v, false) => .next v
      | (v, true) =>
        let o := vecOut v c j (v.vu c).latch
        if o.code != 0 then .next (vecFault v c j o.code o.detail) else .next (jobDone (endJob o c j (v.vu c).latch) c j) := by
  simp only [completeJob, hrun, sramEvents_map_ok s _ _ _ c hok, hfind] <;> rfl

/-- Entries that all lie in their tensor. -/
theorem filterMap_of_eq_map_some {xs : List (Option Nat)} {as : List Nat} (h : xs = as.map some) :
    xs.any Option.isNone = false ∧ xs.filterMap id = as := by
  subst h
  simp

/-- Settles O29. -/
theorem vectorUnits : Obligations.VectorUnits := by
  unfold Obligations.VectorUnits
  refine fun s c j => ⟨fun gs rest t u ev det hnext hrun hlim hcode hready hfresh hread hu => ?_, fun gs rest hq hs => ?_,
    fun gs rest hnext hrun hlim hfresh hcode ev => ?_, fun o t v ev evs hrun hok hfind hpair ho hoc hst => ?_,
    fun t ev evs hrun hok hfind hst => ?_, fun hwait hrun hlim => ?_,
    fun q rest t n as bytes xs v w wait ev det hf ht hn hpos has href hb htake hread hxs hw hwait => ⟨fun hlt => ?_, fun heq => ?_⟩⟩
  · change issueJob c gs ev s = _
    simp only [issueJob, hnext, unit_idle hrun, hlim, hfresh, hcode, jobWaits_eq_false hready hfresh hread, hread, hu] <;> rfl
  · rw [nextJob, hq, pickItem_head]
    · rfl
    · exact hs
  · change issueJob c gs ev s = _
    simp [issueJob, hnext, unit_idle hrun, hlim, hfresh, hcode]
  · change execVectorComplete c false ⟨evs, ev⟩ s = _
    have hc : completeJob c false evs ev s = .next (jobDone (endJob o c j (v.vu c).latch) c j) := by
      rw [completeJob_of_found (by simpa using hrun) hok hfind]
      simp only [Bool.false_eq_true, if_false]
      split
      · next v' hv' => cases hv'.symm.trans hpair
      · next v' hv' =>
        obtain rfl : v' = v := congrArg Prod.fst (hv'.symm.trans hpair)
        simp [← ho, hoc]
    simp [execVectorComplete, hc, unlessStalled, hst]
  · change execVectorComplete c true ⟨evs, ev⟩ s = _
    have hc := completeJob_of_found (gs := true) (by simpa using hrun) hok hfind
    simp [execVectorComplete, hc, unlessStalled, hst]
  · change execVectorWaitTimeout c false s = _
    simp [execVectorWaitTimeout, hlim, hwait, hrun]
  · change fillFifo c ev s = _
    obtain ⟨h1, h2⟩ := filterMap_of_eq_map_some has
    have hleft : q.left - n ≠ 0 := by omega
    simp only [fillFifo, hf, ht, ← hn, h1, h2, href, ← hb, htake, hread, ← hxs, ← hw, hleft]
    simp [hwait]
  · change fillFifo c ev s = _
    obtain ⟨h1, h2⟩ := filterMap_of_eq_map_some has
    have hleft : q.left - n = 0 := by omega
    simp only [fillFifo, hf, ht, ← hn, h1, h2, href, ← hb, htake, hread, ← hxs, ← hw, hleft]
    simp [hwait]

end Sys2Proof.Machine

namespace Sys2Proof.Machine

/-! ## Instances of a caravan -/

/-- What the landing of the oldest granule does by its tag, where nothing older is still on its way (R204). -/
theorem handOver_of_noOlder {s u : State} {p : Part} {d k tag : Nat} {i j : CarInst} {data : List Byte} {n : Option Nat}
    {order : Nat} {rest : List Transit} {f : Option Nat}
    (hu : u = match n with
      | some n => clearPresent s (i.stage (k - 1)).core 2 n 1
      | none => s) (hi : s.car p d = some i) (ht : (i.stage k).transit = ⟨tag, data, n, order⟩ :: rest)
    (hm : meshOlder s order (i.stage (k - 1)).core (i.stage k).core = false) (hj : j = i.mapStage k fun x => { x with transit := rest }) :
    execHandOverGranuleLand p d k f s =
      (let want := expectedTag i.tiles (stInBytes (s.prog p i.handle) d k) (i.stage k).rxTile (i.stage k).rxBytes
       if (if want ≥ 32768 then f.getD tag < 32768 else (f.getD tag != want) = true) then
         .next (stopCar (u.setCar p d (some j)) [Reg.CAR_STATUS_LAST_CODE (i.stage k).core] p
           { code := 0x0420, core := (i.stage k).core, vcore := (i.stage k).vcore,
             detail := carDetail d j k (i.stage k).core (i.stage k).rxTile want (f.getD tag) } (some d))
       else if want ≥ 32768 then .next (u.setCar p d (some (j.mapStage k fun x => { x with ended := true })))
       else .next (carPump (landGranule u p d j k data) p d)) := by
  simp only [execHandOverGranuleLand, hi, ht, hm, hu, hj] <;> rfl

/-- Settles O30. -/
theorem caravanInstances : Obligations.CaravanInstances := by
  unfold Obligations.CaravanInstances
  refine fun s p d i hi => ⟨fun l g st hl hg hst hready hs hwr hact => ⟨_, _, _, rfl, rfl, rfl, ?_⟩,
    fun k hk hf ht hw => ⟨_, _, rfl, rfl, ?_⟩, fun k x rest ht hm f => ?_,
    fun k tag data n order rest u j ht hm hu hj want hwant => ⟨fun h1 h2 => ?_, fun h1 h2 => ?_, fun f hf => ?_⟩, fun ho => ?_⟩
  · change execCaravanInstanceStart p d s = _
    subst hg hs
    have hall : ((participants (s.prog p l.handle) d).all fun v => (s.vc p v).hold == .caravan d && (s.vc p v).quiet) = true := by
      simpa using hready
    have hfree : (((freshStages s p (s.prog p l.handle) i d).map (·.core)).dedup.all fun c =>
        s.get (Reg.CAR_STATUS_ACTIVE c) == 0) = true := by
      simpa using hact
    have hlim : (((freshStages s p (s.prog p l.handle) i d).map (·.core)).dedup.find? fun c =>
        !s.isWritten (Reg.ENG_ISSUE_TIMEOUT_LIMIT c)) = none := by
      simpa using hwr
    simp only [execCaravanInstanceStart, hi, hl, hst, hall, hfree, hlim] <;> rfl
  · change execFetchPartStart p d k s = _
    have hwin : (i.stage k).fetched < 4 ∨ (i.stage k).fetched < (i.stage k).entered + 4 := by omega
    simp [execFetchPartStart, hi, hk, hf, ht, hwin]
  · change execHandOverGranuleLand p d k f s = _
    simp [execHandOverGranuleLand, hi, ht, hm]
  · change execHandOverGranuleLand p d k none s = _
    rw [handOver_of_noOlder hu hi ht hm hj]
    subst hwant
    simp [h1, Nat.not_le.mpr h2]
  · change execHandOverGranuleLand p d k none s = _
    rw [handOver_of_noOlder hu hi ht hm hj]
    subst hwant
    simp [h1, h2]
  · change execHandOverGranuleLand p d k (some f) s = _
    rw [handOver_of_noOlder hu hi ht hm hj, ← hwant]
    have hbad : if want ≥ 32768 then f < 32768 else (f != want) = true := by
      simp only [bne_iff_ne]
      exact hf
    exact if_pos hbad
  · change execCaravanInstanceEnd p d s = _
    simp [execCaravanInstanceEnd, hi, ho]

/-! ## Instruction memory banks -/

/-- A virtual core executes from the active bank of its core alone (R212, R213). -/
theorem bank_contains_of_tynteCtx {s : State} {a : At} {fetch : Bool} {x : Ctx} {l : Launch}
    (hx : tynteCtx s a fetch = some x) (hl : s.launch x.p = some l) :
    (s.bank a.core).code.contains (savedKey x.p l.handle x.v) = true := by
  unfold tynteCtx at hx
  split at hx
  · cases hx
  · next p hp =>
    split at hx
    · cases hx
    · next l' hl' =>
      dsimp only at hx
      split at hx
      · cases hx
      · next hno =>
        have hcode : (s.bank a.core).code.contains (savedKey p l'.handle a.vcore) = true := by
          simp only [Bool.or_eq_true, not_or, Bool.not_eq_true'] at hno
          simpa using hno.2
        have hpv : x.p = p ∧ x.v = a.vcore.val := by
          repeat' split at hx
          all_goals cases hx
          all_goals exact ⟨rfl, rfl⟩
        rw [hpv.1] at hl
        rw [hpv.1, hpv.2, Option.some.inj (hl.symm.trans hl')]
        exact hcode

/-- Settles O31. -/
theorem instructionMemoryBanks : Obligations.InstructionMemoryBanks := by
  unfold Obligations.InstructionMemoryBanks
  refine ⟨fun s a fetch x l hx hl => ?_, fun s c b hb => ⟨fun bank v h => ?_, fun bank v p k h hp hk => ?_,
    fun v hv => ⟨_, rfl, ?_⟩, fun k hat hr hn => ?_, fun k hat hr hn => ?_, fun hat hr hl => ?_, fun hat => ?_⟩⟩
  · exact bank_contains_of_tynteCtx hx hl
  · change execBankLoad c bank v s = _
    simp [execBankLoad, hb, h]
  · change execBankLoad c bank v s = _
    simp [execBankLoad, hb, h, loadBank, hk, hp]
  · change execBankLoadComplete c s = _
    simp [execBankLoadComplete, hb, hv]
  · change execBankSwitch c s = _
    simp [execBankSwitch, hb, hat, hr, hn]
  · change execBankSwitch c s = _
    simp [execBankSwitch, hb, hat, hr, hn]
  · change execBankSwitch c s = _
    obtain ⟨k, hk⟩ := Option.ne_none_iff_exists'.mp hl
    simp [execBankSwitch, hb, hat, hr, hk]
  · change execBankSwitch c s = _
    simp [execBankSwitch, hat]

end Sys2Proof.Machine

namespace Sys2Proof.Machine

/-! ## Transfers of a DMA engine -/

/-- Settles O32. -/
theorem transfers : Obligations.Transfers := by
  unfold Obligations.Transfers
  refine fun s c n x => ⟨fun e q bytes hc hq => ?_, fun e q hc hq => ?_, fun credit ready u v hc hr hu hg ha hv => ?_,
    fun f rest host ev m i u v w y data det hc ha ho ht hfl hcode hstop hm hfind hdata hv hstore hy => ?_,
    fun host ev ha hor => ?_, fun u hc ha hst hfl hlen hstop hu => ⟨fun hv => ?_, fun hv hsp hrel => ?_, fun v w hv hsp hdp hv' hw => ?_⟩,
    fun level k u hc hk hu hst hen hlow => ?_⟩
  · change execDescriptorLoad e q (some bytes) s = _
    simp [execDescriptorLoad, hq, hc]
  · change execDescriptorLoad e q none s = _
    simp [execDescriptorLoad, hq, hc]
  · change execBurstGrant c credit s = _
    simp only [execBurstGrant, hc, ← hr, ← hu, hg, ha, ← hv]
    rfl
  · change execBurstLand c n host ev s = _
    have hv' : v = if (decide (x.desc.srcSp = 0) || decide (x.desc.srcSp = 3)) = true
        then touchAll u false 0 (burstReads u x x.landed f.size) else u := by simpa using hv
    have hx : ({ x with flight := rest, landed := x.landed + f.size, bytes := x.bytes + f.size } : Xfer)
        = { x with flight := rest, landed := x.landed + f.size, bytes := x.bytes + f.size, stopped := false, code := 0 } := by
      rw [← hstop, ← hcode]
    rw [hx] at hy
    simp only [execBurstLand, hc, ha, ho, ht, hfl, ← hm, hfind, hdata, ← hv', hstore, hcode, hstop]
    simp [hy, and_assoc]
  · change execBurstLand c n host ev s = _
    rcases hor with h | h <;> simp [execBurstLand, ha, h]
  · change execTransferComplete c n s = _
    simp [execTransferComplete, ha, hc, hst, hfl, hlen, hstop, ← hu, hv]
  · change execTransferComplete c n s = _
    simp [execTransferComplete, ha, hc, hst, hfl, hlen, hstop, ← hu, hv, hsp, hrel]
  · change execTransferComplete c n s = _
    simp [execTransferComplete, ha, hc, hst, hfl, hlen, hstop, ← hu, hv, hsp, hdp, ← hv', ← hw]
  · change execPaceResume c n level s = _
    have hget : ∀ g, u.get g = s.get g := fun g => by rw [hu]; rfl
    have hchan : (s.chan c n).active = (u.chan c n).active := by rw [hu]; rfl
    have hst : chState u c n = 2 := (hget _).trans hst
    have hen : u.on (Reg.DMA_CH_PACE_ENABLE c n) = true := by simpa [State.on, hget] using hen
    have hlow : levelOf u c n < u.get (Reg.DMA_CH_PACE_LOW c n) * 16 := by rwa [hget]
    simp [execPaceResume, hc, ← hk, ← hu, hst, hen, hlow, hchan]

/-! ## Stops of a DMA engine -/

/-- Settles O33. -/
theorem dmaStops : Obligations.DmaStops := by
  unfold Obligations.DmaStops
  refine fun s w u x => ⟨fun c n hj h0 hoff => next_hostWrite hj fun hw => ?_,
    fun c n y hj h0 h1 hh hoff ha => next_hostWrite hj fun hw => ?_,
    fun e n hn hj hb ho hp => ⟨fun h0 h1 hst => ?_, fun h0 h1 => ?_⟩, fun e n hc hn hs hl => ?_, fun e n hn hl => ?_⟩
  · simp [chCtrl, Wr.one, h0, State.on, hoff]
  · have hone0 : x.one 0 = false := by simp [Wr.one, h0]
    have hone1 : x.one 1 = true := by simp [Wr.one, h1]
    have hoff : u.on (Reg.DMA_CH_CTRL_DISABLE c n) = false := by simp [State.on, hoff]
    have hon : u.on (Reg.DMA_CH_CTRL_HALTED c n) = true := by simp [State.on, hh]
    simp [chCtrl, hone0, hone1, hoff, hon, ha]
  · change execDqStop e n w s = _
    rw [execDqStop, if_pos hn]
    refine next_hostWrite hj fun hw => ?_
    simp [dqCtrl, Wr.one, h0, h1, State.on, hb, ho, hp, hst]
  · change execDqResume e n w s = _
    rw [execDqResume, if_pos hn]
    refine next_hostWrite hj fun hw => ?_
    simp [dqCtrl, Wr.one, h0, h1, State.on, hb, ho, hp]
  · change execDqStopped e n s = _
    simp [execDqStopped, hc, hn, hs, hl, State.on]
  · change execDqStopped e n s = _
    simp [execDqStopped, hl]

/-! ## The pass of an update -/

theorem unlessStalled_eq {s t : State} (h : ¬ s.stalls < t.stalls) : unlessStalled s t = t := if_neg h

theorem unlessStalled_self (s : State) : unlessStalled s s = s := if_neg (Nat.lt_irrefl _)

theorem raise_stalls (s : State) (last : List Fld) (r : Rec) : (raise s last r).stalls = s.stalls :=
  (congrArg State.stalls (raise_frame s last r) :)

/-- The next request is taken in hand where no check of R257 refuses it. -/
theorem execUpdateRequestStart_of_ok {s u : State} {p : Nat} {r : OasReq} {rest : List OasReq} {i k : Nat}
    (ha : s.oasActive = none) (hn : oasNext s = some p)
    (hq : oasQueue s p = r :: rest) (hr : s.get Reg.OAS_STATUS_READY ≠ 0) (hm : masterFld s p r.record 6 1 = 0)
    (hu : u = readRecords (setOasQueue { s with oasTurn := p } p rest) p r.record r.wt.base) (hmem : memberCode u p = 0)
    (hval : masterValid u p r.record = true) (hcb : codebookOf (nextCb u p r.record) ≠ none)
    (hf : masterFld u p r.record 6 1 ≠ 2)
    (hst : r.step = masterFld u p r.record 8 4) (hver : versionOf u p r.wt.base = some i)
    (hslot : targetSlot u p i r.step = some k) :
    execUpdateRequestStart s = .next (takeRequest u p r i k) := by
  have hwait : (!s.on Reg.OAS_STATUS_READY || decide (masterFld s p r.record 6 1 = 1)) = false := by
    simp [State.on, hr, hm]
  have hmem : ¬ (memberCode u p != 0) = true := by simp [hmem]
  have hcb : ¬ (!masterValid u p r.record || (codebookOf (nextCb u p r.record)).isNone) = true := by simp [hval, hcb]
  have hst' : ¬ (r.step != masterFld u p r.record 8 4) = true := by simp [← hst]
  unfold execUpdateRequestStart
  split
  · next p' ha' hn' =>
    obtain rfl : p' = p := Option.some.inj (hn'.symm.trans hn)
    split
    · next hq' => cases hq'.symm.trans hq
    · next r' rest' hq' =>
      obtain ⟨rfl, rfl⟩ := List.cons.inj (hq'.symm.trans hq)
      rw [hwait, if_neg Bool.false_ne_true]
      extract_lets +onlyGivenNames v
      obtain rfl : v = u := hu.symm
      rw [if_neg hmem, if_neg hcb, if_neg hf, if_neg hst']
      obtain ⟨T, hT⟩ := exists_eq (a' := @targetSlot)
      rw [← hT] at hslot
      rw [← hT, hver]
      dsimp only
      rw [hslot]
  · next hno => exact absurd hn (hno p ha)

/-- The pass runs once nothing refers to the target slot and its votes are read without fault (R233, R261). -/
theorem writeCopy_of_ok {s u v : State} {x : OasAct} {i retries crcs : Nat} {ev : MemEvent} {votes det : List Nat}
    (ha : s.oasActive = some x) (hver : versionOf s x.req.part x.req.wt.base = some i) (hph : x.phase = 1)
    (hsl : versionField s x.req.part i (16 + 2 * (x.slot % 2)) 2 = 0)
    (hrun : s.get (Reg.HLT_MIRAGE_STATUS_RUNNING x.req.part) = 0)
    (hu : u = linkCount (beginPass s x i) retries crcs) (hvotes : votes = allVotes u { x with phase := 2 })
    (href : partRefusal u x.req.part votes = none) (hread : readFinds u x.req.part (voteByte votes) ev = (v, 0, det)) :
    writeCopy false ev retries crcs s
      = runPass (votes.foldl (fun s o => pTouch s x.req.part o 2) v) { x with phase := 2 } := by
  have hgo : (x.phase != 1 || versionField s x.req.part i (16 + 2 * (x.slot % 2)) 2 != 0
      || s.on (Reg.HLT_MIRAGE_STATUS_RUNNING x.req.part)) = false := by simp [hph, hsl, State.on, hrun]
  obtain ⟨P, hP⟩ := exists_eq (a' := @partRefusal)
  obtain ⟨R, hR⟩ := exists_eq (a' := @readFinds)
  obtain ⟨V, hV⟩ := exists_eq (a' := @versionOf)
  rw [← hP] at href
  rw [← hR] at hread
  rw [← hV] at hver
  unfold writeCopy
  rw [← hP, ← hR, ← hV, ha]
  dsimp only
  rw [hver]
  dsimp only
  rw [hgo, if_neg Bool.false_ne_true, ← hu, ← hvotes, if_neg Bool.false_ne_true, href]
  dsimp only
  rw [hread]
  exact if_neg (show ¬ ((0 : Nat) != 0) = true by decide)

/-- Settles O34. -/
theorem updatePass : Obligations.UpdatePass := by
  unfold Obligations.UpdatePass
  refine fun s => ⟨fun p r rest u i k ha hn hq hr hm hu hmem hval hcb hf hst hver hslot => ?_,
    fun x i ev retries crcs u v z votes det ha hver hph hsl hrun hu hvotes href hread hz hst => ?_,
    fun x i ha hver hor bad y => ?_, fun x ha hph hrun => ?_, fun x ha hph hrun hun hst => ?_, fun x ha hph hrun hun hst => ?_⟩
  · exact execUpdateRequestStart_of_ok ha hn hq hr hm hu hmem hval hcb hf hst hver hslot
  · change execWorkingCopyWriteStart false ⟨ev, retries, crcs⟩ s = _
    have hw := writeCopy_of_ok ha hver hph hsl hrun hu hvotes href hread
    rw [execWorkingCopyWriteStart, hw, ← hz, unlessStalled_eq hst]
  · change execWorkingCopyWriteStart bad y s = _
    have hw : writeCopy bad y.ev y.retries y.crcs s = s := by
      rcases hor with h | h <;> simp [writeCopy, ha, hver, State.on, h]
    simp only [execWorkingCopyWriteStart, hw, unlessStalled_self]
  · change execUpdateCommit s = _
    simp [execUpdateCommit, ha, State.on, hrun]
  · change execUpdateCommit s = _
    simp [execUpdateCommit, ha, State.on, hph, hrun, hun, unlessStalled_eq hst]
  · change execUpdateCommit s = _
    have hst := unlessStalled_eq (s := s) (t := raise (commitPass s x) [Reg.OAS_STATUS_LAST_CODE]
      { code := 0x0620, cls := 0, part := x.req.part, seq := x.req.seq, detail := [x.unused] }) (by rwa [raise_stalls])
    simp [execUpdateCommit, ha, State.on, hph, hrun, hun, hst]

end Sys2Proof.Machine

namespace Sys2Proof.Machine

/-! ## The oasis registers and transfers -/

/-- What a transfer of OAS_XFER needs to go under way (R255). -/
theorem xferStart_of_ok {v : State} {p : Nat} {x : Wr} {i op : Nat} (hi : i = v.get (Reg.OAS_XFER_RECORD p))
    (hop : op = v.get (Reg.OAS_XFER_OP p))
    (hset : allWritten v [Reg.OAS_XFER_FOFF p, Reg.OAS_XFER_RECORD p, Reg.OAS_XFER_OP p] = true)
    (hen : v.get (Reg.OAS_CTRL_ENABLE p) ≠ 0) (hslot : op = 3 → v.isWritten (Reg.OAS_XFER_SLOT p) = true)
    (hres : restricted v = false) (hnone : xferOf v p = none) (hrun : v.get (Reg.HLT_MIRAGE_STATUS_RUNNING p) = 0)
    (hready : v.get Reg.OAS_STATUS_READY ≠ 0) (hval : masterValid v p i = true) (hfree : masterFld v p i 6 1 ≠ 1)
    (hq : ∀ r ∈ oasQueue v p, r.record ≠ i) (hact : ∀ a, v.oasActive = some a → ¬ (a.req.part = p ∧ a.record = i))
    (hcb : op = 0 ∨ op = 3 → codebookOf (nextCb v p i) ≠ none)
    (hver : op = 3 → versionOf v p (masterFld v p i 0 5) ≠ none) (hkey : op = 2 → v.get (Reg.OAS_DIGEST_CTRL_KEY_VALID p) ≠ 0)
    (htab : allWritten v [Reg.OAS_MASTER_TABLE_BASE p, Reg.OAS_CTRL_RECORDS p] = true) :
    xferStart v p x = xferBegin (readRecords v p i (masterFld v p i 0 5)) p := by
  have hknown : (allWritten v [Reg.OAS_XFER_RECORD p, Reg.OAS_MASTER_TABLE_BASE p, Reg.OAS_CTRL_RECORDS p] && masterValid v p i)
      = true := by
    simp only [allWritten, List.all_cons, List.all_nil, Bool.and_true, Bool.and_eq_true] at hset htab ⊢
    exact ⟨⟨hset.2.1, htab⟩, hval⟩
  have hqueued : ((oasQueue v p).any (fun r => r.record == i)
      || v.oasActive.any fun a => a.req.part == p && a.record == i) = false := by
    simp only [Bool.or_eq_false_iff, List.any_eq_false, beq_iff_eq]
    refine ⟨hq, ?_⟩
    cases ha : v.oasActive with
    | none => rfl
    | some a => simpa using hact a ha
  have h1 : (!allWritten v [Reg.OAS_XFER_FOFF p, Reg.OAS_XFER_RECORD p, Reg.OAS_XFER_OP p] || !v.on (Reg.OAS_CTRL_ENABLE p)
      || (decide (op = 3) && !v.isWritten (Reg.OAS_XFER_SLOT p))) = false := by
    simpa [hset, State.on, hen] using hslot
  have h2 : ((xferOf v p).isSome || v.on (Reg.HLT_MIRAGE_STATUS_RUNNING p) || !v.on Reg.OAS_STATUS_READY) = false := by
    simp [hnone, State.on, hrun, hready]
  have h3 : ((decide (op = 0) || decide (op = 3)) && (codebookOf (nextCb v p i)).isNone) = false := by
    simpa [Option.isSome_iff_ne_none] using hcb
  have h4 : (decide (op = 3) && (versionOf v p (masterFld v p i 0 5)).isNone) = false := by
    simpa [Option.isSome_iff_ne_none] using hver
  have h5 : (decide (op = 2) && !v.on (Reg.OAS_DIGEST_CTRL_KEY_VALID p)) = false := by
    simpa [State.on] using hkey
  simp only [xferStart, ← hi, ← hop, h1, hknown, hres, h2, hqueued, hfree, h3, h4, h5] <;> rfl

theorem oasXferWr_start {u v : State} {x : Wr} (hv : v = storeAll u x) (h0 : x.val 0 = some 1) (hu : restricted u = false) :
    oasXferWr u x = xferStart v x.part x := by
  simp [oasXferWr, hu, Wr.one, h0, hv]

theorem get_linkCount (s : State) (retries crcs : Nat) (f : Fld) (h1 : f.id ≠ Reg.OAS_LINK_ERR_RETRIES.id)
    (h2 : f.id ≠ Reg.OAS_LINK_ERR_CRC_ERRORS.id) : (linkCount s retries crcs).get f = s.get f := by
  simp only [linkCount, State.bump]
  rw [get_put_other _ _ _ _ h2, get_put_other _ _ _ _ h1]

theorem linkModule_ids : ∀ m : Fin 4, (Reg.OAS_LINK_STATUS_MOD m).id ≠ Reg.OAS_LINK_ERR_RETRIES.id
    ∧ (Reg.OAS_LINK_STATUS_MOD m).id ≠ Reg.OAS_LINK_ERR_CRC_ERRORS.id
    ∧ Reg.OAS_LINK_STATUS_UP_COUNT.id ≠ (Reg.OAS_LINK_STATUS_MOD m).id := by
  decide

/-- A module of the oasis link retires (R269). -/
theorem retireModule_of_up {s w u : State} {m : Fin 4} {retries crcs : Nat} (hc : clocked s = true)
    (hup : bitsOf (s.get (Reg.OAS_LINK_STATUS_MOD m)) 1 1 ≠ 1) (hw : w = linkCount s retries crcs)
    (hu : u = raise ((w.put (Reg.OAS_LINK_STATUS_MOD m) 2).put
      Reg.OAS_LINK_STATUS_UP_COUNT (s.get Reg.OAS_LINK_STATUS_UP_COUNT - bitsOf (s.get (Reg.OAS_LINK_STATUS_MOD m)) 0 1))
      [Reg.OAS_STATUS_LAST_CODE] { code := 0x0640, cls := 3, unit := m.val, detail := [m.val] }) :
    retireModule m retries crcs s = .next (if (List.range 4).all fun k => bitsOf (u.get (Reg.OAS_LINK_STATUS_MOD k)) 1 1 == 1
      then oasLost (raise u [Reg.OAS_STATUS_LAST_CODE] { code := 0x0641, cls := 3 }) 0x0641 else u) := by
  obtain ⟨hretries, hcrcs, hcount⟩ := linkModule_ids m
  have hmod : w.get (Reg.OAS_LINK_STATUS_MOD m) = s.get (Reg.OAS_LINK_STATUS_MOD m) := by
    rw [hw]
    exact get_linkCount _ _ _ _ hretries hcrcs
  have hcount : (w.put (Reg.OAS_LINK_STATUS_MOD m) 2).get Reg.OAS_LINK_STATUS_UP_COUNT
      = s.get Reg.OAS_LINK_STATUS_UP_COUNT := by
    rw [get_put_other _ _ _ _ hcount, hw]
    exact get_linkCount _ _ _ _ (by decide) (by decide)
  have hgo : (!clocked s || decide (bitsOf (s.get (Reg.OAS_LINK_STATUS_MOD m)) 1 1 = 1)) = false := by simp [hc, hup]
  simp only [retireModule, hgo, ← hw, hmod, hcount, ← hu, Bool.false_eq_true, if_false]
  split <;> rfl

/-- The masters at FOFF are taken, where they can be read without fault (R255). The functions whose results are matched on
stand as variables, so that the kernel does not run them. -/
theorem endTransfer_of_init {s u v : State} {p : Part} {t : OasXfer} (bad : List Nat) {ev : MemEvent} {retries crcs was n : Nat}
    {det : List Nat} (ht : xferOf s p = some t) (hwas : was = if masterFld s p t.record 6 1 = 2 then 2 else 0)
    (hn : n = masterBytes s p t.record) (hu : u = linkCount s retries crcs) (hop : t.op ≠ 2) (h1 : t.op ≠ 1)
    (href : partRefusal u p ((List.range n).map (t.foff + ·)) = none)
    (hread : readFinds u p (span t.foff n) ev = (v, 0, det)) :
    endTransfer p bad ev retries crcs s = xferInit (pTouch v p t.foff n) p t was ((pRead v p t.foff n).getD []) := by
  obtain ⟨P, hP⟩ := exists_eq (a' := @partRefusal)
  obtain ⟨R, hR⟩ := exists_eq (a' := @readFinds)
  rw [← hP] at href
  rw [← hR] at hread
  unfold endTransfer
  rw [← hP, ← hR, ht]
  dsimp only
  rw [← hwas, ← hn, ← hu, if_neg hop, href]
  dsimp only
  rw [if_neg h1, hread]
  exact if_neg (show ¬ ((0 : Nat) != 0) = true by decide)

/-- Settles O35. -/
theorem oasisTransfers : Obligations.OasisTransfers := by
  unfold Obligations.OasisTransfers
  refine ⟨fun s p w u x => ⟨fun hj h16 hset => ⟨fun hok => next_hostWrite hj fun hw => ?_, fun hok => next_hostWrite hj fun hw => ?_⟩,
    fun hj h16 => next_hostWrite hj fun hw => ?_, fun n hj hv hen => next_hostWrite hj fun hw => ?_,
    fun v i op hj h0 hv hi hop hset hen hslot hru hrv hnone hrun hready hval hfree hq hact hcb hver hkey htab => ⟨_, rfl, ?_⟩⟩,
    fun s => ⟨fun p t bad ev retries crcs u v z was n det ht hwas hn hu => ⟨fun hop hz hst => ?_, fun hop href =>
      ⟨fun h1 hz hst => ?_, fun h1 hread hz hst => ?_⟩⟩, fun m retries crcs hc hup => ⟨_, _, rfl, rfl, ?_⟩,
      fun m retries crcs hdown => ?_, fun hc => ?_⟩⟩
  · simp [oasCtrl, enableBit, h16, hset, hok]
  · simp [oasCtrl, enableBit, h16, hset, hok]
  · simp [oasQueueWr, Wr.one, h16]
  · simp [oasKey, hv, State.on, hen]
  · have hx : oasXferWr u x = _ := (oasXferWr_start hv h0 hru).trans
      (xferStart_of_ok hi hop hset hen hslot hrv hnone hrun hready hval hfree hq hact hcb hver hkey htab)
    have hn := next_hostWrite (act := oasXferWr) hj fun _ => hx
    exact ⟨hn, hn, hn, hn⟩
  · change execOasTransferComplete p [] ⟨ev, retries, crcs⟩ s = _
    have he : endTransfer p [] ev retries crcs s = z := by
      simp [endTransfer, ht, hop, hz, hu, hn, hwas]
    rw [execOasTransferComplete, he, unlessStalled_eq hst]
  · change execOasTransferComplete p bad ⟨ev, retries, crcs⟩ s = _
    have he : endTransfer p bad ev retries crcs s = z := by
      simp [endTransfer, ht, ← hn, ← hu, ← hwas, href, h1, hz]
    rw [execOasTransferComplete, he, unlessStalled_eq hst]
  · change execOasTransferComplete p bad ⟨ev, retries, crcs⟩ s = _
    have he := (endTransfer_of_init bad ht hwas hn hu hop h1 href hread).trans hz.symm
    rw [execOasTransferComplete, he, unlessStalled_eq hst]
  · exact retireModule_of_up hc hup rfl rfl
  · change retireModule m retries crcs s = _
    simp [retireModule, hdown]
  · change execOasisDieInternalFault s = _
    simp [execOasisDieInternalFault, hc]

/-! ## The interleave, map-outs and the zeroization of memory -/

/-- Settles O36. -/
theorem interleaveAndMapOut : Obligations.InterleaveAndMapOut := by
  unfold Obligations.InterleaveAndMapOut
  refine fun s w u x => ⟨fun n v hj hv hfree hn hv' => next_hostWrite hj fun hw => ?_,
    fun hj hv hfree => next_hostWrite hj fun hw => ?_,
    fun c v hj h16 hv hno hwr hval hc => ⟨fun hout => next_hostWrite hj fun hw => ?_, fun hout => next_hostWrite hj fun hw => ?_⟩,
    fun c force hmap hset => ?_, fun n keep v hj h32 hval hkeep hn hv => ⟨_, rfl, next_hostWrite hj fun hw => ?_⟩⟩
  · simp [interleaveWr, hv, hfree, ← hn, ← hv']
  · simp [interleaveWr, hv, hfree]
  · simp [mapoutWr, Wr.one, h16, ← hv, hno, hwr, State.on, hval, ← hc, hout]
  · simp [mapoutWr, Wr.one, h16, ← hv, hno, hwr, State.on, hval, ← hc, hout]
  · change execChannelMappedOut s = _
    simp only [execChannelMappedOut, mapNext, hmap, Bool.true_or, if_true]
    exact congrArg Host.Outcome.next (if_neg ((Bool.eq_false_iff).mp hset))
  · have hgo : (!x.one 32 || !u.on Reg.MEM_INTERLEAVE_VALID) = false := by simp [Wr.one, h32, State.on, hval]
    simp only [zeroizeWr, hgo, Bool.false_eq_true, if_false]
    rw [hv, hn, hkeep] <;> rfl

end Sys2Proof.Machine

namespace Sys2Proof.Machine

/-! ## Token buckets and the shared cache (O38) -/

/-- What 64 c-cycles leave in bucket k = partition × 8 + erg (R282). -/
def refilled (s : State) (k : Nat) : Nat :=
  if s.on (Reg.MEM_REG_ENABLE (k / 8) (k % 8)) then
    min (bucketDepth s (k / 8) (k % 8)) (SMap.get 0 s.tokens k + s.get (Reg.MEM_REG_RATE (k / 8) (k % 8)))
  else SMap.get 0 s.tokens k

/-- One round of TOKEN_REFILL, on bucket k. -/
def refillAt (s : State) (k : Nat) : State :=
  if s.on (Reg.MEM_REG_ENABLE (k / 8) (k % 8)) then
    setBucket s (k / 8) (k % 8)
      (min (bucketDepth s (k / 8) (k % 8)) (bucket s (k / 8) (k % 8) + s.get (Reg.MEM_REG_RATE (k / 8) (k % 8))))
  else s

theorem execTokenRefill_eq (s : State) : execTokenRefill s = .next ((List.range 128).foldl refillAt s) := rfl

@[simp] theorem refillAt_mem (s : State) (k : Nat) : (refillAt s k).mem = s.mem := by
  unfold refillAt; split <;> rfl

@[simp] theorem refillAt_regs (s : State) (k : Nat) : (refillAt s k).regs = s.regs := by
  unfold refillAt; split <;> rfl

theorem refillAt_tokens_wf (s : State) (k : Nat) (h : SMap.wf 0 s.tokens = true) : SMap.wf 0 (refillAt s k).tokens = true := by
  unfold refillAt
  split
  · exact SMap.wf_set 0 _ _ _ h
  · exact h

theorem get_refillAt_same (s : State) (k : Nat) (h : SMap.wf 0 s.tokens = true) :
    SMap.get 0 (refillAt s k).tokens k = refilled s k := by
  have hk : k / 8 * 8 + k % 8 = k := by omega
  unfold refillAt refilled
  split
  · simp only [setBucket, bucket, hk]
    exact SMap.get_set_same 0 _ _ _ h
  · rfl

theorem get_refillAt_other (s : State) {j k : Nat} (h : j ≠ k) :
    SMap.get 0 (refillAt s k).tokens j = SMap.get 0 s.tokens j := by
  have hk : k / 8 * 8 + k % 8 = k := by omega
  unfold refillAt
  split
  · simp only [setBucket, hk]
    exact SMap.get_set_other 0 _ _ _ _ h
  · rfl

theorem refilled_congr {s t : State} {k : Nat} (hr : t.regs = s.regs) (ht : SMap.get 0 t.tokens k = SMap.get 0 s.tokens k) :
    refilled t k = refilled s k := by
  have hget : ∀ f, t.get f = s.get f := fun f => by simp only [State.get, hr]
  have hon : ∀ f, t.on f = s.on f := fun f => by simp only [State.on, hget]
  unfold refilled bucketDepth
  rw [hon, hget, hget, ht]

theorem foldl_refillAt_frame (s : State) (l : List Nat) :
    (l.foldl refillAt s).mem = s.mem ∧ (l.foldl refillAt s).regs = s.regs := by
  induction l generalizing s with
  | nil => exact ⟨rfl, rfl⟩
  | cons k l ih => simpa using ih (refillAt s k)

theorem get_foldl_refillAt (s : State) (n : Nat) (h : SMap.wf 0 s.tokens = true) :
    SMap.wf 0 ((List.range n).foldl refillAt s).tokens = true ∧
    ∀ j, SMap.get 0 ((List.range n).foldl refillAt s).tokens j = if j < n then refilled s j else SMap.get 0 s.tokens j := by
  induction n with
  | zero => simpa using h
  | succ n ih =>
    obtain ⟨hwf, hget⟩ := ih
    rw [List.range_succ, List.foldl_append]
    refine ⟨refillAt_tokens_wf _ _ hwf, fun j => ?_⟩
    by_cases hj : j = n
    · subst hj
      have hsame := hget j
      rw [if_neg (Nat.lt_irrefl j)] at hsame
      rw [if_pos (Nat.lt_succ_self j)]
      exact (get_refillAt_same _ _ hwf).trans (refilled_congr (foldl_refillAt_frame s _).2 hsame)
    · refine ((get_refillAt_other _ hj).trans (hget j)).trans ?_
      simp only [show j < n + 1 ↔ j < n by omega]

theorem bucket_tokenRefill (s : State) (q : Part) (h : Erg) (hwf : SMap.wf 0 s.tokens = true) :
    bucket ((List.range 128).foldl refillAt s) q h = if s.get (Reg.MEM_REG_ENABLE q h) = 0 then bucket s q h
      else min (bucketDepth s q h) (bucket s q h + s.get (Reg.MEM_REG_RATE q h)) := by
  have hq : (q.val * 8 + h.val) / 8 = q.val := by omega
  have hh : (q.val * 8 + h.val) % 8 = h.val := by omega
  have hlt : q.val * 8 + h.val < 128 := by omega
  simp only [bucket, (get_foldl_refillAt s 128 hwf).2, if_pos hlt, refilled, hq, hh, State.on]
  by_cases he : s.get (Reg.MEM_REG_ENABLE q h) = 0 <;> simp [he]

/-- Settles O38: the clauses of the bucket registers, of TOKEN_REFILL (by `bucket_tokenRefill`) and of LINE_EVICTION. -/
theorem bucketsAndCache : Obligations.BucketsAndCache := by
  unfold Obligations.BucketsAndCache
  refine ⟨fun s p e w u x => ⟨fun hj h48 hall hoff => ⟨_, rfl, next_hostWrite hj fun hw => ?_⟩,
      fun hj h48 => next_hostWrite hj fun hw => ?_,
      ⟨_, execTokenRefill_eq s, (foldl_refillAt_frame s _).1, (foldl_refillAt_frame s _).2, fun q h => bucket_tokenRefill s q h⟩,
      fun hj => next_hostWrite hj fun hw => ?_⟩,
    fun s e set ln hclk hlru => ⟨fun retries lost hroom => ?_, fun retries lost hfull hclean => ?_,
      fun retries lost ks hfull hdirty hks => ⟨fun hdry => ?_, fun htake => ⟨_, rfl, ?_⟩, fun p htake hown => ⟨_, rfl, ?_⟩⟩⟩⟩
  · have hall' : allWritten (capBucket (storeBut u x [48]) p e) [Reg.MEM_REG_RATE p e, Reg.MEM_REG_BURST p e] = true := hall
    have hoff' : (capBucket (storeBut u x [48]) p e).on (Reg.MEM_REG_ENABLE p e) = false := by
      simpa [State.on, State.get, capBucket, setBucket] using hoff
    simp [memReg, h48, hall', hoff']
  · simp [memReg, h48]
  · by_cases hf : (storeAll u x).get (Reg.MEM_PART_STATUS_FAULTED p) = 0 <;> simp [partStatusWr, State.on, hf]
  · change evictLine e set retries lost s = _
    simp [evictLine, hlru, hclk, hroom]
  · change evictLine e set retries lost s = _
    simp [evictLine, hlru, hclk, Nat.not_lt.mpr hfull, hclean]
  · change evictLine e set retries lost s = _
    simp [evictLine, hlru, hclk, Nat.not_lt.mpr hfull, hdirty, ← hks, hdry]
  · change evictLine e set retries false s = _
    simp [evictLine, hlru, hclk, Nat.not_lt.mpr hfull, hdirty, ← hks, htake]
  · change evictLine e set retries true s = _
    simp [evictLine, hlru, hclk, Nat.not_lt.mpr hfull, hdirty, ← hks, htake, hown]

end Sys2Proof.Machine

namespace Sys2Proof.Machine

/-! ## Accesses to the fast tier (O39) -/

theorem accessWith_dry {s : State} {r : Requester} {addr : Nat} {wr : Bool} {as : List Nat} {ev : MemEvent} {act : State → State}
    (h : mayTake s (tokenKeys s wr 0 as) = false) : accessWith s r addr wr as ev act = waitKeys s (tokenKeys s wr 0 as) := by
  simp [accessWith, h]

theorem accessWith_sound {s v : State} {r : Requester} {addr i : Nat} {wr : Bool} {as : List Nat} {ev : MemEvent}
    {act : State → State} (h : mayTake s (tokenKeys s wr 0 as) = true)
    (hf : memFinds (takeKeys s (tokenKeys s wr 0 as)) (among as) ev = (v, 0, i)) :
    accessWith s r addr wr as ev act = act v := by
  simp only [accessWith, h, hf, Bool.not_true, Bool.false_eq_true, if_false]

/-- What an atomic leaves where its line's bytes come out of memory v: `olds` the elements read, `new` their results. -/
def atomicDone (wide : Bool) (op : AtomicOp) (v : State) (as olds : List Nat) (new : List (Nat × Bool)) : State :=
  ((storeAt (touchAll v true 0 as) as (new.flatMap fun y => leBytes (atomicSize wide op) y.1)).bump
    (Reg.CCH_ATOMIC_SAT_COUNT (sliceOfAddr (as.headD 0))) (new.filter (·.2)).length).emit
      (.readData (olds.flatMap (leBytes (atomicSize wide op))))

theorem atomicDone_frame (wide : Bool) (op : AtomicOp) (v : State) (a : Nat) (as olds : List Nat) (new : List (Nat × Bool)) :
    (atomicDone wide op v (a :: as) olds new).mem
        = SMap.setAll 0 v.mem ((a :: as).zip (new.flatMap fun y => leBytes (atomicSize wide op) y.1)) ∧
      (atomicDone wide op v (a :: as) olds new).out = .readData (olds.flatMap (leBytes (atomicSize wide op))) :: v.out ∧
      OtherFields v (atomicDone wide op v (a :: as) olds new) [Reg.CCH_ATOMIC_SAT_COUNT (sliceOfAddr a)] := by
  refine ⟨?_, ?_, fun f hf => ?_⟩
  · simp only [atomicDone, State.emit, State.bump, State.put, storeAt, touchAll_mem]
  · simp only [atomicDone, State.emit, State.bump, State.put, storeAt, touchAll_out]
  · exact (otherFields_put _ _ _ f hf).trans (get_congr_regs (touchAll_regs v true 0 (a :: as)) f)

/-- Settles O39: each access comes to its addresses (`accessWith_sound`), waits for tokens (`accessWith_dry`) or ends as
its place says. -/
theorem fastTierAccesses : Obligations.FastTierAccesses := by
  unfold Obligations.FastTierAccesses
  refine fun s r addr a as => ⟨fun n v ev ks i hclk hat hks htake hfind => ?_,
    fun n v bs ev ks i hclk hat hks htake hfind => ?_,
    fun wide op xs ev v ks i hclk hal hin hat hks htake hfind => ?_,
    fun n data ev hclk hno => ?_, fun n data ev code det hclk href => ?_, fun n ev ks hclk hat hks hdry => ?_⟩
  · subst hks
    refine ⟨(touchAll v false 0 (a :: as)).emit (.readData ((a :: as).map fun b => SMap.get 0 v.mem b)), ?_, ?_, ?_⟩
    · change execFastTierAccess r addr n none ev s = _
      simp only [execFastTierAccess, hclk, hat, accessWith_sound htake hfind, Bool.not_true, Bool.false_eq_true, if_false]
    · simp [State.emit]
    · simp [State.emit]
  · subst hks
    refine ⟨storeAt (touchAll v true 0 (a :: as)) (a :: as) bs, ?_, ?_, ?_, fun b hb => ?_⟩
    · change execFastTierAccess r addr n (some bs) ev s = _
      simp only [execFastTierAccess, hclk, hat, accessWith_sound htake hfind, Bool.not_true, Bool.false_eq_true, if_false]
    · simp [storeAt]
    · simp [storeAt]
    · have hout : b ∉ ((a :: as).zip bs).map Prod.fst := fun h => by
        obtain ⟨⟨y, z⟩, hy, rfl⟩ := List.mem_map.mp h
        exact hb (List.of_mem_zip hy).1
      simp only [storeAt, touchAll_mem]
      exact SMap.get_setAll_other 0 _ _ _ hout
  · subst hks
    have hgo : (!clocked s || addr % atomicSize wide op != 0 || decide (64 < addr % 64 + atomicSize wide op * xs.length)) = false := by
      simp [hclk, hal, hin]
    refine ⟨atomicDone wide op v (a :: as) _ _, _, _, rfl, rfl, ?_, atomicDone_frame wide op v a as _ _⟩
    change execAtomic r addr wide op xs ev s = _
    simp only [execAtomic, hgo, hat, accessWith_sound htake hfind, Bool.false_eq_true, if_false] <;> rfl
  · change execFastTierAccess r addr n data ev s = _
    simp [execFastTierAccess, hclk, hno]
  · change execFastTierAccess r addr n data ev s = _
    simp [execFastTierAccess, hclk, href]
  · subst hks
    change execFastTierAccess r addr n none ev s = _
    simp only [execFastTierAccess, hclk, hat, accessWith_dry hdry, Bool.not_true, Bool.false_eq_true, if_false]

end Sys2Proof.Machine

namespace Sys2Proof.Machine

/-! ## Core health: fences, the dump, Sirocco and paired mode (O41) -/

theorem freeBytes_length (s : State) (n : Nat) : (freeBytes s n).1.length = n := by simp [freeBytes]

theorem leBytes_length (n v : Nat) : (leBytes n v).length = n := by
  induction n generalizing v with
  | zero => rfl
  | succ n ih => simp [leBytes, ih]

theorem padTo_take_length (n : Nat) (bs : List Byte) : ((padTo n bs).take n).length = n := by
  simp only [padTo, List.length_take, List.length_append, List.length_replicate]
  omega

theorem dumpBlock_length (signed a b c d : List Byte) :
    (dumpBlock signed a b c d).length = 112 + a.length + b.length + c.length + d.length := by
  simp only [dumpBlock, List.length_append, leBytes_length, List.length_cons, List.length_nil, List.length_replicate]
  omega

theorem dumpBytes_length (s : State) (b : Port) : (dumpBytes s b).1.length = 0x100000 := by
  simp only [dumpBytes, List.length_append, dumpBlock_length, freeBytes_length, padTo_take_length]

theorem get_dumpBytes (s : State) (b : Port) (f : Fld) : (dumpBytes s b).2.get f = s.get f := rfl

theorem majorityOf_same {l : List (Option (Nat × Nat))} {d : Nat × Nat} (hne : l ≠ []) (h : ∀ x ∈ l, x = some d) :
    majorityOf l = some d := by
  have hl : l = List.replicate l.length (some d) := List.eq_replicate_of_mem h
  have hpos : 0 < l.length := List.length_pos_of_ne_nil hne
  obtain ⟨n, hn⟩ : ∃ n, l.length = n + 1 := ⟨l.length - 1, by omega⟩
  rw [hl, hn]
  simp [majorityOf, List.replicate_succ]

/-- Where every core of every group agrees, SIROCCO_JUDGE finds nothing odd and nothing undecided. -/
theorem execSiroccoJudge_of_agreement {s : State} {p : Part} {x : SirCtx} {ds : List (Nat × Option (Nat × Nat))} {d : Nat × Nat}
    (hx : SMap.get none s.sirocco p = some x) (hr : x.rerun = false) (ho : ochre s = false)
    (h : ∀ g ∈ judged s { x with digests := SMap.setAll none [] ds }, ∀ e ∈ g, e.2 = some d) :
    execSiroccoJudge p ds s = .next (siroccoEnd s p) := by
  obtain ⟨gs, hgs⟩ : ∃ gs, gs = (judged s { x with digests := SMap.setAll none [] ds }).filter fun g => !g.isEmpty := ⟨_, rfl⟩
  have hall : ∀ g ∈ gs, ∀ e ∈ g, e.2 = some d := fun g hg => h g (List.mem_of_mem_filter (hgs ▸ hg))
  have hmaj : ∀ g ∈ gs, majorityOf (g.map (·.2)) = some d := fun g hg => by
    have hg' := hg
    rw [hgs] at hg'
    have hne := (List.mem_filter.mp hg').2
    refine majorityOf_same (fun hnil => by simp [List.map_eq_nil_iff.mp hnil] at hne) fun y hy => ?_
    obtain ⟨e, he, rfl⟩ := List.mem_map.mp hy
    exact hall g hg e he
  have hopen : (gs.filter fun g => (majorityOf (g.map (·.2))).isNone) = [] := by
    refine List.filter_eq_nil_iff.mpr fun g hg => ?_
    simp [hmaj g hg]
  unfold execSiroccoJudge
  rw [hx]
  dsimp only
  rw [if_neg (show ¬ x.rerun = true by simp [hr]), ← hgs, hopen]
  generalize hodd : List.flatMap _ gs = odd
  have hnil : odd = [] := by
    refine hodd.symm.trans (List.flatMap_eq_nil_iff.mpr fun g hg => ?_)
    simp only [hmaj g hg, List.map_eq_nil_iff, List.filter_eq_nil_iff]
    intro e he
    simp [hall g hg e he]
  have hsame : oddOnes s [] = s := by simp [oddOnes]
  rw [hnil, hsame, if_neg (show ¬ ochre s = true by simp [ho])]
  simp

/-- Settles O41: each register write and each event with its effect. -/
theorem healthCommands : Obligations.HealthCommands := by
  unfold Obligations.HealthCommands
  refine ⟨fun s w u x => ⟨fun v c hj h8 hv hwr hc => ⟨fun hup hport => next_hostWrite hj fun hw => ?_,
        fun hgrey => next_hostWrite hj fun hw => ?_⟩,
      fun n hj h0 => ⟨fun h1 h128 hlive => next_hostWrite hj fun hw => ?_, fun hlive => next_hostWrite hj fun hw => ?_⟩,
      fun hj h0 hwr hno => next_hostWrite hj fun hw => ?_,
      fun b hb => ⟨fun v bs hd => ⟨?_, ?_⟩, ?_⟩,
      fun p v hj h0 hv hall h4 h16 hoff => ⟨_, rfl, next_hostWrite hj fun hw => ?_⟩⟩,
    fun s p => ⟨fun w u x v hj h0 hv hkey hst => next_hostWrite hj fun hw => ?_, fun hst hl ha => ?_,
      fun x ds d hx hr ho h => execSiroccoJudge_of_agreement hx hr ho h,
      fun x ds a b v odd hx hr htake ha hb hodd => ?_,
      fun w u x hj => ⟨fun hsame => next_hostWrite hj fun hw => ?_, fun hdiff => next_hostWrite hj fun hw => ?_⟩⟩⟩
  · cases hp : partOfCore v c with
    | none => simp [hltFence, Wr.one, h8, ← hv, ← hc, hwr, hp, hup]
    | some p => simp [hltFence, Wr.one, h8, ← hv, ← hc, hwr, hp, hup, hport p hp]
  · simp [hltFence, Wr.one, h8, ← hv, ← hc, hwr, hgrey]
  · have hgo : (decide (n < 1) || decide (128 < n) || decide (u.get Reg.HLT_STATUS_LIVE_COUNT < n)) = false := by
      simp; omega
    simp only [hltCtrl, h0, hgo, Bool.false_eq_true, if_false]
  · simp [hltCtrl, h0, hlive]
  · simp [hltDump, Wr.one, h0, hwr, hno]
  · exact (congrArg (·.1.length) hd).symm.trans (dumpBytes_length _ _)
  · change execDiagnosticDumpComplete true s = _
    have haddr : v.get Reg.HLT_DUMP_ADDR_ADDR = s.get Reg.HLT_DUMP_ADDR_ADDR :=
      (congrArg (fun y => y.2.get Reg.HLT_DUMP_ADDR_ADDR) hd).symm.trans (get_dumpBytes _ _ _)
    simp only [execDiagnosticDumpComplete, hb, hd, haddr, if_true]
  · change execDiagnosticDumpComplete false s = _
    simp only [execDiagnosticDumpComplete, hb, Bool.false_eq_true, if_false]
  · have hgo : (!allWritten v [Reg.HLT_ERR_CTRL_VECTOR x.part, Reg.HLT_ERR_CTRL_LOG x.part, Reg.HLT_ERR_RING_ADDR x.part]
        || decide (v.get (Reg.HLT_ERR_CTRL_LOG x.part) < 4) || decide (16 < v.get (Reg.HLT_ERR_CTRL_LOG x.part))) = false := by
      simp [hall]; omega
    simp only [hltErrCtrl, h0, ← hv, hgo, State.on, hoff, Bool.false_eq_true, if_false, bne_self_eq_false]
  · simp only [hltSirocco, Wr.one, h0, hkey, ← hv, hst]
    cases hl : v.launch x.part <;> cases ha : aclocksStand v <;> simp
  · change execSiroccoRunStart p s = _
    simp [execSiroccoRunStart, hst, hl, ha]
  · change execSiroccoRerun p ds s = _
    simp [execSiroccoRerun, hx, hr, htake, ha, hb, ← hodd]
  · simp [hltPair, hsame]
  · simp [hltPair, hdiff]

end Sys2Proof.Machine

namespace Sys2Proof.Machine

/-! ## Error records (O55) -/

/-- The fields that an entry of the module log changes: its slot, NEXT and TOTAL. -/
def logFields (i : Nat) : List Fld :=
  (List.range 8).map (Reg.HLT_LOG_RECORD i) ++ [Reg.HLT_LOG_STATUS_NEXT, Reg.HLT_LOG_STATUS_TOTAL]

/-- A record in the module log, before the ring of its partition. -/
def logEntered (s : State) (r : Rec) : State :=
  let i := s.get Reg.HLT_LOG_STATUS_NEXT % 512
  let s := ((putLog s i 0 (recWords s.timeUs r)).put Reg.HLT_LOG_STATUS_NEXT ((i + 1) % 512)).bumpWrap Reg.HLT_LOG_STATUS_TOTAL 1
  { s with unread := if r.cls = 3 then s.unread ++ [recWords s.timeUs r] else s.unread }

theorem recWords_length (time : Nat) (r : Rec) : (recWords time r).length = 8 := by
  simp only [recWords, List.length_append, List.length_cons, List.length_nil, List.length_replicate, List.length_map, List.length_take]
  omega

theorem recWords_lt (time : Nat) (r : Rec) : ∀ n ∈ recWords time r, n < 2 ^ 64 := by
  intro n hn
  simp only [recWords, List.mem_append, List.mem_cons, List.mem_map, List.mem_replicate, List.not_mem_nil, or_false] at hn
  rcases hn with ((rfl | rfl) | ⟨d, -, rfl⟩) | ⟨-, rfl⟩
  · have h1 : (if hwOf r then 2 else 0) ≤ 2 := by split <;> omega
    have h2 : (if (r.trunc || decide (6 < r.detail.length)) = true then 4 else 0) ≤ 4 := by split <;> omega
    omega
  · omega
  · omega
  · omega

theorem putLog_timeUs (s : State) (i w : Nat) (ws : List Nat) : (putLog s i w ws).timeUs = s.timeUs :=
  (congrArg State.timeUs (putLog_frame s i w ws) :)

theorem logRec_eq (s : State) (r : Rec) : logRec s r =
    if r.part < 16 then ringRecord (logEntered s r) r.part (recWords s.timeUs r) else logEntered s r := by
  unfold logRec logEntered
  dsimp only [State.bumpWrap, State.put]
  rw [putLog_timeUs]
  by_cases h : r.cls = 3 <;> simp only [h, if_true, if_false]

theorem get_putLog_other {s : State} {i w : Nat} {ws : List Nat} {f : Fld}
    (h : ∀ k < ws.length, f.id ≠ (Reg.HLT_LOG_RECORD i (w + k)).id) : (putLog s i w ws).get f = s.get f := by
  induction ws generalizing s w with
  | nil => rfl
  | cons v r ih =>
    refine (ih fun k hk => ?_).trans (get_put_other _ _ _ _ (h 0 (Nat.zero_lt_succ _)))
    have := h (k + 1) (Nat.succ_lt_succ hk)
    rwa [show w + (k + 1) = w + 1 + k by omega] at this

theorem wf_putLog {s : State} {i w : Nat} {ws : List Nat} (h : SMap.wf 0 s.regs = true) :
    SMap.wf 0 (putLog s i w ws).regs = true := by
  induction ws generalizing s w with
  | nil => exact h
  | cons v r ih => exact ih (wf_put _ _ _ h)

theorem get_putLog {s : State} {i w k : Nat} {ws : List Nat} (h : SMap.wf 0 s.regs = true) (hk : k < ws.length) :
    (putLog s i w ws).get (Reg.HLT_LOG_RECORD i (w + k)) = ws.getD k 0 % 2 ^ 64 := by
  induction ws generalizing s w k with
  | nil => exact absurd hk (Nat.not_lt_zero k)
  | cons v r ih =>
    cases k with
    | zero =>
      refine (get_putLog_other (s := s.put (Reg.HLT_LOG_RECORD i w) v) (w := w + 1) fun k _ => ?_).trans (get_put_same _ _ _ h)
      simp only [Fld.id, Reg.HLT_LOG_RECORD, ne_eq]
      omega
    | succ k =>
      have := ih (w := w + 1) (wf_put s (Reg.HLT_LOG_RECORD i w) v h) (Nat.lt_of_succ_lt_succ hk)
      rwa [show w + 1 + k = w + (k + 1) by omega] at this

theorem get_logEntered (s : State) (r : Rec) (f : Fld) (h : f.id ∉ (logFields (s.get Reg.HLT_LOG_STATUS_NEXT % 512)).map Fld.id) :
    (logEntered s r).get f = s.get f := by
  simp only [logFields, List.map_append, List.map_cons, List.map_nil, List.mem_append, List.mem_cons, List.not_mem_nil,
    or_false, not_or, List.map_map, List.mem_map, List.mem_range, Function.comp, not_exists, not_and] at h
  obtain ⟨hrec, hnext, htotal⟩ := h
  refine (get_put_other _ _ _ _ htotal).trans ((get_put_other _ _ _ _ hnext).trans (get_putLog_other fun k hk => ?_))
  rw [recWords_length] at hk
  rw [Nat.zero_add]
  exact fun he => hrec k hk he.symm

theorem logEntered_frame (s : State) (r : Rec) :
    (logEntered s r).out = s.out ∧ (logEntered s r).errWrap = s.errWrap ∧ (logEntered s r).msixTable = s.msixTable ∧
      (logEntered s r).msixPend = s.msixPend ∧ ∀ p, (logEntered s r).ide p = s.ide p := by
  have h := putLog_frame s (s.get Reg.HLT_LOG_STATUS_NEXT % 512) 0 (recWords s.timeUs r)
  exact ⟨(congrArg State.out h :), (congrArg State.errWrap h :), (congrArg State.msixTable h :), (congrArg State.msixPend h :),
    fun p => (congrArg (fun t : State => t.ide p) h :)⟩

theorem wf_logEntered {s : State} (r : Rec) (h : SMap.wf 0 s.regs = true) : SMap.wf 0 (logEntered s r).regs = true :=
  wf_put _ _ _ (wf_put _ _ _ (wf_putLog h))

/-- No field of a partition's page is one that the module log changes. -/
theorem logFields_below {f : Fld} {i : Nat} (hi : i < 512) (h : 0x80000 ≤ f.key) : f.id ∉ (logFields i).map Fld.id := by
  simp only [logFields, List.map_append, List.map_cons, List.map_nil, List.mem_append, List.mem_cons, List.not_mem_nil,
    or_false, not_or, List.map_map, List.mem_map, List.mem_range, Function.comp, not_exists, not_and,
    Fld.id, Reg.HLT_LOG_RECORD, Reg.HLT_LOG_STATUS_NEXT, Reg.HLT_LOG_STATUS_TOTAL]
  refine ⟨fun k hk => ?_, ?_, ?_⟩ <;> omega

theorem get_logEntered_page (s : State) (r : Rec) (f : Fld) (h : 0x80000 ≤ f.key) : (logEntered s r).get f = s.get f :=
  get_logEntered s r f (logFields_below (Nat.mod_lt _ (by decide)) h)

/-- The ring of partition p is enabled and takes the record: what it becomes before its vector is sent. -/
def ringWritten (s : State) (p : Nat) (ws : List Nat) : State :=
  let size := 2 ^ s.get (Reg.HLT_ERR_CTRL_LOG p)
  let tail := s.get (Reg.HLT_ERR_PTR_TAIL p)
  let u := (toHost s (portOf s p) p (s.get (Reg.HLT_ERR_RING_ADDR p) * 64 + tail * 64)
    ((ws.headD 0 + (if SMap.get false s.errWrap p then 0 else 2 ^ 24)) :: ws.tail |>.flatMap (leBytes 8))).put
      (Reg.HLT_ERR_PTR_TAIL p) ((tail + 1) % size)
  { u with errWrap := if tail + 1 = size then SMap.set false s.errWrap p (!SMap.get false s.errWrap p) else s.errWrap }

theorem ite_errWrap (s : State) (c : Prop) [Decidable c] (w : SMap Bool) :
    (if c then { s with errWrap := w } else s) = { s with errWrap := if c then w else s.errWrap } := by
  split <;> rfl

theorem ringRecord_off {s : State} {p : Nat} (ws : List Nat) (h : s.get (Reg.HLT_ERR_CTRL_ENABLE p) = 0) : ringRecord s p ws = s := by
  simp [ringRecord, State.on, h]

theorem ringRecord_full {s : State} {p : Nat} (ws : List Nat) (h : s.get (Reg.HLT_ERR_CTRL_ENABLE p) ≠ 0)
    (hf : (s.get (Reg.HLT_ERR_PTR_TAIL p) + 1) % 2 ^ s.get (Reg.HLT_ERR_CTRL_LOG p)
      = s.get (Reg.HLT_ERR_PTR_HEAD p) % 2 ^ s.get (Reg.HLT_ERR_CTRL_LOG p)) :
    ringRecord s p ws = s.bump (Reg.HLT_ERR_PTR_DROPPED p) 1 := by
  simp [ringRecord, State.on, h, hf]

theorem ringRecord_room {s : State} {p : Nat} (ws : List Nat) (h : s.get (Reg.HLT_ERR_CTRL_ENABLE p) ≠ 0)
    (hf : (s.get (Reg.HLT_ERR_PTR_TAIL p) + 1) % 2 ^ s.get (Reg.HLT_ERR_CTRL_LOG p)
      ≠ s.get (Reg.HLT_ERR_PTR_HEAD p) % 2 ^ s.get (Reg.HLT_ERR_CTRL_LOG p)) :
    ringRecord s p ws = if (ringWritten s p ws).on (Reg.HLT_ERR_CTRL_INT_EN p)
      then sendMsix (ringWritten s p ws) (portOf (ringWritten s p ws) p) ((ringWritten s p ws).get (Reg.HLT_ERR_CTRL_VECTOR p))
      else ringWritten s p ws := by
  have hon : s.on (Reg.HLT_ERR_CTRL_ENABLE p) = true := by simp [State.on, h]
  unfold ringRecord
  dsimp only
  rw [if_pos hon, if_neg hf, ite_errWrap]
  rfl

theorem get_ringWritten (s : State) (p : Nat) (ws : List Nat) (f : Fld) (h : f.id ≠ (Reg.HLT_ERR_PTR_TAIL p).id) :
    (ringWritten s p ws).get f = s.get f :=
  get_put_other _ (Reg.HLT_ERR_PTR_TAIL p) f _ h

theorem get_sendMsix (s : State) (b : Port) (v : Nat) (f : Fld) : (sendMsix s b v).get f = s.get f := by
  unfold sendMsix
  split <;> rfl

/-- A ring changes its own TAIL and DROPPED alone. -/
theorem get_ringRecord (s : State) (p : Nat) (ws : List Nat) (f : Fld) (ht : f.id ≠ (Reg.HLT_ERR_PTR_TAIL p).id)
    (hd : f.id ≠ (Reg.HLT_ERR_PTR_DROPPED p).id) : (ringRecord s p ws).get f = s.get f := by
  by_cases h : s.get (Reg.HLT_ERR_CTRL_ENABLE p) = 0
  · rw [ringRecord_off ws h]
  · by_cases hf : (s.get (Reg.HLT_ERR_PTR_TAIL p) + 1) % 2 ^ s.get (Reg.HLT_ERR_CTRL_LOG p)
        = s.get (Reg.HLT_ERR_PTR_HEAD p) % 2 ^ s.get (Reg.HLT_ERR_CTRL_LOG p)
    · rw [ringRecord_full ws h hf]
      exact get_put_other _ _ _ _ hd
    · rw [ringRecord_room ws h hf]
      split
      · exact (get_sendMsix _ _ _ _).trans (get_ringWritten s p ws f ht)
      · exact get_ringWritten s p ws f ht

theorem logRec_otherFields (s : State) (r : Rec) : OtherFields s (logRec s r)
    ((List.range 8).map (Reg.HLT_LOG_RECORD (s.get Reg.HLT_LOG_STATUS_NEXT % 512)) ++ [Reg.HLT_LOG_STATUS_NEXT, Reg.HLT_LOG_STATUS_TOTAL]
      ++ if r.part < 16 then [Reg.HLT_ERR_PTR_TAIL r.part, Reg.HLT_ERR_PTR_DROPPED r.part] else []) := by
  intro f hf
  rw [List.map_append, List.mem_append, not_or] at hf
  obtain ⟨hlog, hring⟩ := hf
  rw [logRec_eq]
  split
  next hp =>
    simp only [hp, if_true, List.map_cons, List.map_nil, List.mem_cons, List.not_mem_nil, or_false, not_or] at hring
    exact (get_ringRecord _ _ _ _ hring.1 hring.2).trans (get_logEntered s r f hlog)
  next => exact get_logEntered s r f hlog

theorem logRec_out_of_off {s : State} {r : Rec} (h : ¬ (r.part < 16 ∧ s.get (Reg.HLT_ERR_CTRL_ENABLE r.part) ≠ 0)) :
    (logRec s r).out = s.out := by
  rw [logRec_eq]
  split
  next hp =>
    have hoff : (logEntered s r).get (Reg.HLT_ERR_CTRL_ENABLE r.part) = 0 := by
      rw [get_logEntered_page s r _ (by simp only [Reg.HLT_ERR_CTRL_ENABLE]; omega)]
      exact Classical.byContradiction fun hon => h ⟨hp, hon⟩
    rw [ringRecord_off _ hoff]
    exact (logEntered_frame s r).1
  next => exact (logEntered_frame s r).1

/-- The fields of a record's slot, which the ring leaves alone. -/
theorem get_logRec_record {s : State} (r : Rec) (w : Fin 8) (h : SMap.wf 0 s.regs = true) :
    (logRec s r).get (Reg.HLT_LOG_RECORD (s.get Reg.HLT_LOG_STATUS_NEXT % 512) w) = (recWords s.timeUs r).getD w 0 := by
  have hi : s.get Reg.HLT_LOG_STATUS_NEXT % 512 < 512 := Nat.mod_lt _ (by decide)
  have hentered : (logEntered s r).get (Reg.HLT_LOG_RECORD (s.get Reg.HLT_LOG_STATUS_NEXT % 512) w) = (recWords s.timeUs r).getD w 0 := by
    have hlen : w.val < (recWords s.timeUs r).length := by rw [recWords_length]; exact w.isLt
    have hlt : (recWords s.timeUs r).getD w 0 < 2 ^ 64 := by
      rw [List.getD_eq_getElem _ _ hlen]
      exact recWords_lt _ _ _ (List.getElem_mem hlen)
    refine (get_put_other _ _ _ _ ?_).trans ((get_put_other _ _ _ _ ?_).trans ?_)
    · simp only [Fld.id, Reg.HLT_LOG_RECORD, Reg.HLT_LOG_STATUS_TOTAL]; omega
    · simp only [Fld.id, Reg.HLT_LOG_RECORD, Reg.HLT_LOG_STATUS_NEXT]; omega
    · have := get_putLog (i := s.get Reg.HLT_LOG_STATUS_NEXT % 512) (w := 0) h hlen
      rw [Nat.zero_add, Nat.mod_eq_of_lt hlt] at this
      exact this
  rw [logRec_eq]
  split
  · refine (get_ringRecord _ _ _ _ ?_ ?_).trans hentered
    · simp only [Fld.id, Reg.HLT_LOG_RECORD, Reg.HLT_ERR_PTR_TAIL]; omega
    · simp only [Fld.id, Reg.HLT_LOG_RECORD, Reg.HLT_ERR_PTR_DROPPED]; omega
  · exact hentered

theorem get_logRec_next {s : State} (r : Rec) (h : SMap.wf 0 s.regs = true) :
    (logRec s r).get Reg.HLT_LOG_STATUS_NEXT = (s.get Reg.HLT_LOG_STATUS_NEXT % 512 + 1) % 512 := by
  have hentered : (logEntered s r).get Reg.HLT_LOG_STATUS_NEXT = (s.get Reg.HLT_LOG_STATUS_NEXT % 512 + 1) % 512 := by
    refine (get_put_other _ _ _ _ (by decide)).trans ((get_put_same _ _ _ (wf_putLog h)).trans ?_)
    exact Nat.mod_mod _ _
  rw [logRec_eq]
  split
  · refine (get_ringRecord _ _ _ _ ?_ ?_).trans hentered
    · simp only [Fld.id, Reg.HLT_LOG_STATUS_NEXT, Reg.HLT_ERR_PTR_TAIL]; omega
    · simp only [Fld.id, Reg.HLT_LOG_STATUS_NEXT, Reg.HLT_ERR_PTR_DROPPED]; omega
  · exact hentered

theorem sendMsix_masked {s : State} {b : Port} {v : Nat} (h : msixWord s b v 3 % 2 = 1) :
    (sendMsix s b v).out = s.out ∧ (sendMsix s b v).msixPend = SMap.set false s.msixPend (2048 * b.num + v) true := by
  simp [sendMsix, h]

theorem sendMsix_open {s : State} {b : Port} {v : Nat} (h : msixWord s b v 3 % 2 = 0) :
    (sendMsix s b v).out = .msix b v (msixWord s b v 0 + 2 ^ 32 * msixWord s b v 1) (msixWord s b v 2) :: s.out ∧
      (sendMsix s b v).msixPend = s.msixPend := by
  simp [sendMsix, h, State.emit]

theorem sendMsix_errWrap (s : State) (b : Port) (v : Nat) : (sendMsix s b v).errWrap = s.errWrap :=
  (congrArg State.errWrap (sendMsix_frame s b v) :)

/-- A saturating counter reads its sum, or its maximum (R433). -/
theorem get_bump (s : State) (f : Fld) (n : Nat) (h : SMap.wf 0 s.regs = true) :
    (s.bump f n).get f = min (s.get f + n) (2 ^ f.w - 1) := by
  refine (get_put_same _ _ _ h).trans (Nat.mod_eq_of_lt ?_)
  have := Nat.two_pow_pos f.w
  omega

theorem portOf_congr {s t : State} {p : Nat} (h : t.get (Reg.SEC_PART_STATUS_PORT p) = s.get (Reg.SEC_PART_STATUS_PORT p)) :
    portOf t p = portOf s p := by
  rw [portOf, portOf, h]

/-- A record that the ring takes: the write to host memory, the vector, and where the ring stands then. -/
theorem ringRecord_sends {s : State} {p : Nat} {ws : List Nat} {word : Nat → Nat} (hwf : SMap.wf 0 s.regs = true)
    (hword : ∀ k, word k = msixWord s (portOf s p) (s.get (Reg.HLT_ERR_CTRL_VECTOR p)) k)
    (h : s.get (Reg.HLT_ERR_CTRL_ENABLE p) ≠ 0)
    (hf : (s.get (Reg.HLT_ERR_PTR_TAIL p) + 1) % 2 ^ s.get (Reg.HLT_ERR_CTRL_LOG p)
      ≠ s.get (Reg.HLT_ERR_PTR_HEAD p) % 2 ^ s.get (Reg.HLT_ERR_CTRL_LOG p)) :
    (ringRecord s p ws).out = (if s.get (Reg.HLT_ERR_CTRL_INT_EN p) ≠ 0 ∧ word 3 % 2 = 0
        then [.msix (portOf s p) (s.get (Reg.HLT_ERR_CTRL_VECTOR p)) (word 0 + 2 ^ 32 * word 1) (word 2)] else [])
      ++ .hostWrite (portOf s p) (streamOf s p) (s.get (Reg.HLT_ERR_RING_ADDR p) * 64 + s.get (Reg.HLT_ERR_PTR_TAIL p) * 64)
        ((ws.headD 0 + (if SMap.get false s.errWrap p then 0 else 2 ^ 24)) :: ws.tail |>.flatMap (leBytes 8)) :: s.out
    ∧ (ringRecord s p ws).get (Reg.HLT_ERR_PTR_TAIL p)
      = (s.get (Reg.HLT_ERR_PTR_TAIL p) + 1) % 2 ^ s.get (Reg.HLT_ERR_CTRL_LOG p) % 2 ^ (Reg.HLT_ERR_PTR_TAIL p).w
    ∧ (ringRecord s p ws).get (Reg.HLT_ERR_PTR_DROPPED p) = s.get (Reg.HLT_ERR_PTR_DROPPED p)
    ∧ (ringRecord s p ws).msixPend = (if s.get (Reg.HLT_ERR_CTRL_INT_EN p) ≠ 0 ∧ word 3 % 2 = 1
      then SMap.set false s.msixPend (2048 * (portOf s p).num + s.get (Reg.HLT_ERR_CTRL_VECTOR p)) true else s.msixPend)
    ∧ (ringRecord s p ws).errWrap = if s.get (Reg.HLT_ERR_PTR_TAIL p) + 1 = 2 ^ s.get (Reg.HLT_ERR_CTRL_LOG p)
      then SMap.set false s.errWrap p (!SMap.get false s.errWrap p) else s.errWrap := by
  have hint : (ringWritten s p ws).get (Reg.HLT_ERR_CTRL_INT_EN p) = s.get (Reg.HLT_ERR_CTRL_INT_EN p) :=
    get_ringWritten _ _ _ _ (by simp only [Fld.id, Reg.HLT_ERR_CTRL_INT_EN, Reg.HLT_ERR_PTR_TAIL]; omega)
  have hvec : (ringWritten s p ws).get (Reg.HLT_ERR_CTRL_VECTOR p) = s.get (Reg.HLT_ERR_CTRL_VECTOR p) :=
    get_ringWritten _ _ _ _ (by simp only [Fld.id, Reg.HLT_ERR_CTRL_VECTOR, Reg.HLT_ERR_PTR_TAIL]; omega)
  have hdrop : (ringWritten s p ws).get (Reg.HLT_ERR_PTR_DROPPED p) = s.get (Reg.HLT_ERR_PTR_DROPPED p) :=
    get_ringWritten _ _ _ _ (by simp only [Fld.id, Reg.HLT_ERR_PTR_DROPPED, Reg.HLT_ERR_PTR_TAIL]; omega)
  have htail : (ringWritten s p ws).get (Reg.HLT_ERR_PTR_TAIL p)
      = (s.get (Reg.HLT_ERR_PTR_TAIL p) + 1) % 2 ^ s.get (Reg.HLT_ERR_CTRL_LOG p) % 2 ^ (Reg.HLT_ERR_PTR_TAIL p).w :=
    get_put_same _ (Reg.HLT_ERR_PTR_TAIL p) _ hwf
  have hport : portOf (ringWritten s p ws) p = portOf s p := portOf_congr
    (get_ringWritten _ _ _ _ (by simp only [Fld.id, Reg.SEC_PART_STATUS_PORT, Reg.HLT_ERR_PTR_TAIL]; omega))
  have hword' : ∀ k, msixWord (ringWritten s p ws) (portOf s p) (s.get (Reg.HLT_ERR_CTRL_VECTOR p)) k = word k := fun k => (hword k).symm
  rw [ringRecord_room ws h hf, State.on, hint, hport, hvec]
  by_cases hi : s.get (Reg.HLT_ERR_CTRL_INT_EN p) = 0
  · simp only [hi, bne_self_eq_false, Bool.false_eq_true, if_false, ne_eq, not_true_eq_false, false_and, List.nil_append, htail, hdrop]
    exact ⟨rfl, trivial, trivial, rfl, rfl⟩
  · have hon : (s.get (Reg.HLT_ERR_CTRL_INT_EN p) != 0) = true := by simp [hi]
    simp only [hon, if_true, ne_eq, hi, not_false_eq_true, true_and, get_sendMsix, sendMsix_errWrap, htail, hdrop]
    rcases Nat.mod_two_eq_zero_or_one (word 3) with h3 | h3
    · obtain ⟨hout, hpend⟩ := sendMsix_open ((congrArg (· % 2) (hword' 3)).trans h3)
      rw [hout, hpend, hword', hword', hword']
      simp only [h3, if_true, Nat.zero_ne_one, if_false]
      exact ⟨rfl, rfl, rfl⟩
    · obtain ⟨hout, hpend⟩ := sendMsix_masked ((congrArg (· % 2) (hword' 3)).trans h3)
      rw [hout, hpend]
      simp only [h3, if_true, Nat.one_ne_zero, if_false]
      exact ⟨rfl, rfl, rfl⟩

theorem streamOf_congr {s t : State} {p : Nat} (h : t.get (Reg.SEC_PART_STATUS_TDISP p) = s.get (Reg.SEC_PART_STATUS_TDISP p))
    (hi : t.ide p = s.ide p) : streamOf t p = streamOf s p := by
  rw [streamOf, streamOf, State.on, State.on, h, hi]

/-- Settles O55: the module log by `logRec_otherFields` and the reads of its slot, the ring by `ringRecord_full` and
`ringRecord_sends` at the state in which the log has the record. -/
theorem errorRecords : Obligations.ErrorRecords := by
  unfold Obligations.ErrorRecords
  rintro s r i t hwf rfl rfl
  refine ⟨fun w => get_logRec_record r w hwf, get_logRec_next r hwf, logRec_otherFields s r,
    (congrArg State.mem (logRec_frame s r) :), logRec_out_of_off, ?_⟩
  rintro size tail word hword hp hon rfl rfl
  obtain ⟨hout, hwrap, htable, hpend, hide⟩ := logEntered_frame s r
  have hget := get_logEntered_page s r
  have hrec : logRec s r = ringRecord (logEntered s r) r.part (recWords s.timeUs r) := by rw [logRec_eq, if_pos hp]
  have hen := hget (Reg.HLT_ERR_CTRL_ENABLE r.part) (by simp only [Reg.HLT_ERR_CTRL_ENABLE]; omega)
  have htail := hget (Reg.HLT_ERR_PTR_TAIL r.part) (by simp only [Reg.HLT_ERR_PTR_TAIL]; omega)
  have hhead := hget (Reg.HLT_ERR_PTR_HEAD r.part) (by simp only [Reg.HLT_ERR_PTR_HEAD]; omega)
  have hdrop := hget (Reg.HLT_ERR_PTR_DROPPED r.part) (by simp only [Reg.HLT_ERR_PTR_DROPPED]; omega)
  have hlog := hget (Reg.HLT_ERR_CTRL_LOG r.part) (by simp only [Reg.HLT_ERR_CTRL_LOG]; omega)
  have hint := hget (Reg.HLT_ERR_CTRL_INT_EN r.part) (by simp only [Reg.HLT_ERR_CTRL_INT_EN]; omega)
  have hvec := hget (Reg.HLT_ERR_CTRL_VECTOR r.part) (by simp only [Reg.HLT_ERR_CTRL_VECTOR]; omega)
  have haddr := hget (Reg.HLT_ERR_RING_ADDR r.part) (by simp only [Reg.HLT_ERR_RING_ADDR]; omega)
  have hport : portOf (logEntered s r) r.part = portOf s r.part :=
    portOf_congr (hget _ (by simp only [Reg.SEC_PART_STATUS_PORT]; omega))
  have hstream : streamOf (logEntered s r) r.part = streamOf s r.part :=
    streamOf_congr (hget _ (by simp only [Reg.SEC_PART_STATUS_TDISP]; omega)) (hide _)
  rw [hrec]
  refine ⟨fun hfull => ?_, fun hroom => ?_⟩
  · rw [← hlog, ← htail, ← hhead] at hfull
    rw [ringRecord_full _ (hen ▸ hon) hfull]
    refine ⟨hout, ?_, ?_⟩
    · refine (get_put_other _ _ _ _ ?_).trans htail
      simp only [Fld.id, Reg.HLT_ERR_PTR_DROPPED, Reg.HLT_ERR_PTR_TAIL]; omega
    · rw [← hdrop]
      exact get_bump _ _ _ (wf_logEntered r hwf)
  · rw [← hlog, ← htail, ← hhead] at hroom
    have hword' : ∀ k, word k = msixWord (logEntered s r) (portOf (logEntered s r) r.part)
        ((logEntered s r).get (Reg.HLT_ERR_CTRL_VECTOR r.part)) k := fun k => by
      rw [hport, hvec, msixWord, htable]
      exact hword k
    have h := ringRecord_sends (ws := recWords s.timeUs r) (wf_logEntered r hwf) hword' (hen ▸ hon) hroom
    rw [hout, hport, hstream, haddr, htail, hlog, hint, hvec, hdrop, hpend, hwrap] at h
    exact h

end Sys2Proof.Machine

namespace Sys2Proof.Machine

/-! ## The Mirage check (O42) -/

theorem get_putAll_other {s : State} {fs : List Fld} {v : Nat} {f : Fld} (h : f.id ∉ fs.map Fld.id) :
    (s.putAll fs v).get f = s.get f := by
  induction fs generalizing s with
  | nil => rfl
  | cons g fs ih =>
    rw [List.map_cons, List.mem_cons, not_or] at h
    exact (ih h.2).trans (get_put_other _ _ _ _ h.1)

/-- A record leaves the fields of a partition's page alone, but for those of its ring and LAST_CODE. -/
theorem get_raise_page {s : State} {last : List Fld} {r : Rec} {f : Fld} (hk : 0x80000 ≤ f.key) (hl : f.id ∉ last.map Fld.id)
    (ht : f.id ≠ (Reg.HLT_ERR_PTR_TAIL r.part).id) (hd : f.id ≠ (Reg.HLT_ERR_PTR_DROPPED r.part).id) :
    (raise s last r).get f = s.get f := by
  refine (get_putAll_other hl).trans ?_
  rw [logRec_eq]
  split
  · exact (get_ringRecord _ _ _ _ ht hd).trans (get_logEntered_page s r f hk)
  · exact get_logEntered_page s r f hk

/-- INLINE is not one of the fields that a verdict writes. -/
theorem get_exclude_inline (s : State) (p : Nat) (rs : List Nat) :
    (exclude s p rs).get (Reg.HLT_MIRAGE_CTRL_INLINE p) = s.get (Reg.HLT_MIRAGE_CTRL_INLINE p) := by
  refine (get_put_other _ _ _ _ (by simp only [Fld.id, Reg.HLT_MIRAGE_CTRL_INLINE, Reg.HLT_MIRAGE_STATUS_EXCLUDED]; omega)).trans ?_
  generalize (exclOf s p ++ rs).zipIdx = l
  induction l generalizing s with
  | nil => rfl
  | cons x l ih =>
    refine (ih _).trans (get_put_other _ _ _ _ ?_)
    simp only [Fld.id, Reg.HLT_MIRAGE_CTRL_INLINE, Reg.HLT_MIRAGE_EXCL_RANK]
    omega

theorem get_verdict_inline (s : State) (p m : Nat) (cs : List (Nat × Nat)) :
    (verdict s p m cs).get (Reg.HLT_MIRAGE_CTRL_INLINE p) = s.get (Reg.HLT_MIRAGE_CTRL_INLINE p) := by
  have hraise : ∀ (t : State) (r : Rec), (raise t hltLast r).get (Reg.HLT_MIRAGE_CTRL_INLINE p) = t.get (Reg.HLT_MIRAGE_CTRL_INLINE p) := by
    intro t r
    refine get_raise_page (by simp only [Reg.HLT_MIRAGE_CTRL_INLINE]; omega) ?_ ?_ ?_
    · simp only [hltLast, List.map_cons, List.map_nil, List.mem_singleton, Fld.id, Reg.HLT_MIRAGE_CTRL_INLINE, Reg.HLT_STATUS_LAST_CODE]
      omega
    · simp only [Fld.id, Reg.HLT_MIRAGE_CTRL_INLINE, Reg.HLT_ERR_PTR_TAIL]; omega
    · simp only [Fld.id, Reg.HLT_MIRAGE_CTRL_INLINE, Reg.HLT_ERR_PTR_DROPPED]; omega
  have hstep : ∀ t : State, (t.put (Reg.HLT_MIRAGE_STATUS_LAST_STEP p) m).get (Reg.HLT_MIRAGE_CTRL_INLINE p)
      = t.get (Reg.HLT_MIRAGE_CTRL_INLINE p) := fun t => get_put_other _ _ _ _ (by
    simp only [Fld.id, Reg.HLT_MIRAGE_CTRL_INLINE, Reg.HLT_MIRAGE_STATUS_LAST_STEP]; omega)
  have hhalt : (verdict.halt p s).get (Reg.HLT_MIRAGE_CTRL_INLINE p) = s.get (Reg.HLT_MIRAGE_CTRL_INLINE p) :=
    (hraise _ _).trans (get_put_other _ _ _ _ (by
      simp only [Fld.id, Reg.HLT_MIRAGE_CTRL_INLINE, Reg.HLT_MIRAGE_STATUS_HALTED]; omega))
  unfold verdict
  extract_lets n last
  split
  · dsimp only
    split
    · exact hstep s
    split
    · exact hhalt
    split
    · refine (hraise _ _).trans ((get_put_other _ _ _ _ ?_).trans ((hstep _).trans (get_exclude_inline s p _)))
      simp only [Fld.id, Reg.HLT_MIRAGE_CTRL_INLINE, Reg.HLT_MIRAGE_STATUS_EXPELLED]; omega
    · exact (hraise _ _).trans ((hstep _).trans (get_exclude_inline s p _))
  · exact hhalt

theorem checkColl_ctl {s : State} {p : Nat} {y : Coll} (h : checkColl s p = some y) : y.part = p ∧ y.ctl.isSome = true := by
  have := List.find?_some h
  simpa using this

/-- The state in which the check goes on: its collective has left, and the oasis link's faults are counted. -/
def heardOut (s : State) (p : Nat) (link : Nat × Nat) : State :=
  linkCount { s with colls := s.colls.filter fun x => !(x.part == p && x.ctl.isSome) } link.1 link.2

theorem execMirageVerdict_of_done {s : State} {p : Part} {y : Coll} {bad : List (Nat × Nat)} {link : Nat × Nat}
    (hy : checkColl s p = some y) (hd : collDone s y = true) :
    execMirageVerdict p 0 bad link s = .next (if (s.mir p).stage = 1 then digestAndGather (heardOut s p link) p y bad
      else judgeCheck (heardOut s p link) p y) := by
  simp only [execMirageVerdict, hy, hd, bne_self_eq_false, Bool.not_true, Bool.false_eq_true, if_false] <;> rfl

theorem heardOut_inline (s : State) (p : Nat) (link : Nat × Nat) :
    (heardOut s p link).get (Reg.HLT_MIRAGE_CTRL_INLINE p) = s.get (Reg.HLT_MIRAGE_CTRL_INLINE p) := by
  refine (get_linkCount _ _ _ _ ?_ ?_).trans rfl
  · simp only [Fld.id, Reg.HLT_MIRAGE_CTRL_INLINE, Reg.OAS_LINK_ERR_RETRIES]; omega
  · simp only [Fld.id, Reg.HLT_MIRAGE_CTRL_INLINE, Reg.OAS_LINK_ERR_CRC_ERRORS]; omega

/-- The keys of a check that begins, and the state in which its exchange is judged (R367 step 1). -/
def checkBegun (draw : State → Nat → Nat × State) (lead : Bool) (s : State) (p m : Nat) : Nat × Nat × State :=
  let x := s.mir p
  let inl := s.on (Reg.HLT_MIRAGE_CTRL_INLINE p)
  let (key, s) := if lead && !(inl && x.digested) then draw s p else (x.next, s)
  let (next, s) := if lead && inl then draw s p else (0, s)
  (key, next, (s.setMir p { x with m := m, key := key, next := next, stage := 1 }).put (Reg.HLT_MIRAGE_STATUS_RUNNING p) 1)

/-- A check whose exchange nothing keeps away. The functions that are matched on stand as variables, so that the kernel does
not run them. -/
theorem beginCheck_of_free {s u : State} {p m key next : Nat} {lead : Bool} (hl : isLeader s p = lead)
    (hb : checkBegun drawKey lead s p m = (key, next, u)) (hcode : exchangeCode u p = 0) : beginCheck s p m =
      mirageColl (if lead then putKey u p key else u) p 5 (if lead then keyUnit key m next else padTo 64 []) := by
  obtain ⟨F, hF⟩ := exists_eq (a' := @beginCheck)
  rw [← hF]
  delta beginCheck at hF
  obtain ⟨P, hP⟩ := exists_eq (a' := @exchangeCode)
  obtain ⟨D, hD⟩ := exists_eq (a' := @drawKey)
  obtain ⟨L, hL⟩ := exists_eq (a' := @isLeader)
  rw [← hP] at hcode hF
  rw [← hD] at hb hF
  rw [← hL] at hl hF
  have hk : (checkBegun D lead s p m).1 = key := by rw [hb]
  have hn : (checkBegun D lead s p m).2.1 = next := by rw [hb]
  have hu : (checkBegun D lead s p m).2.2 = u := by rw [hb]
  unfold checkBegun at hk hn hu
  rw [hF]
  dsimp only at hk hn hu ⊢
  rw [hl, hu, hk, hn]
  split
  · rfl
  · exact absurd hcode (by assumption)

theorem checkBegun_of_follower (draw : State → Nat → Nat × State) (s : State) (p m : Nat) :
    checkBegun draw false s p m = ((s.mir p).next, 0, (s.setMir p { s.mir p with m := m, key := (s.mir p).next, next := 0, stage := 1 }).put
      (Reg.HLT_MIRAGE_STATUS_RUNNING p) 1) := by
  simp only [checkBegun, Bool.false_and, Bool.false_eq_true, if_false]

theorem checkBegun_of_leader {draw : State → Nat → Nat × State} {s v : State} {p key : Nat} (m : Nat)
    (hinl : s.get (Reg.HLT_MIRAGE_CTRL_INLINE p) = 0) (hdraw : draw s p = (key, v)) :
    checkBegun draw true s p m = (key, 0, (v.setMir p { s.mir p with m := m, key := key, next := 0, stage := 1 }).put
      (Reg.HLT_MIRAGE_STATUS_RUNNING p) 1) := by
  have hoff : s.on (Reg.HLT_MIRAGE_CTRL_INLINE p) = false := by rw [State.on, hinl]; rfl
  simp only [checkBegun, hoff, hdraw, Bool.false_and, Bool.and_false, Bool.not_false, Bool.and_true, if_true,
    Bool.false_eq_true, if_false]

/-- Two states that give partitions the same view of memory: registers, frames, page maps and bytes. -/
structure SameView (s t : State) : Prop where
  regs : t.regs = s.regs
  frames : t.frames = s.frames
  frameBase : t.frameBase = s.frameBase
  pageMap : t.pageMap = s.pageMap
  mem : t.mem = s.mem

section SameView
variable {s t : State} (h : SameView s t)
include h

theorem get_sameView (f : Fld) : t.get f = s.get f := get_congr_regs h.regs f

theorem on_sameView (f : Fld) : t.on f = s.on f := by rw [State.on, State.on, get_sameView h]

theorem backedAddr_sameView (a : Nat) : backedAddr t a = backedAddr s a := by
  have hw : waysOf t = waysOf s := by rw [waysOf, waysOf, get_sameView h]
  have hl : ∀ b, liveChans t b = liveChans s b := fun b => by simp only [liveChans, hw, on_sameView h]
  have hs : slotOff t a = slotOff s a := by rw [slotOff, slotOff, hw]
  have hb : setBase t a = setBase s a := by rw [setBase, setBase, hw]
  rw [backedAddr, backedAddr, hl, hs, hb]

theorem frameState_sameView (f : Nat) : frameState t f = frameState s f := by
  rw [frameState, frameState, on_sameView h, backedAddr_sameView h, h.frames, h.frameBase]

theorem xlate_sameView (p x : Nat) : xlate t p x = xlate s p x := by
  simp only [xlate, get_sameView h, h.pageMap, frameState_sameView h]

theorem xlateAll_sameView (p x n : Nat) : xlateAll t p x n = xlateAll s p x n := by
  induction n generalizing x with
  | zero => rfl
  | succ n ih => rw [xlateAll, xlateAll, xlate_sameView h, ih]

theorem pRead_sameView (p x n : Nat) : pRead t p x n = pRead s p x n := by
  rw [pRead, pRead, xlateAll_sameView h, h.mem]

theorem pNat_sameView (p x n : Nat) : pNat t p x n = pNat s p x n := by
  rw [pNat, pNat, pRead_sameView h]

theorem masterFld_sameView (p i o n : Nat) : masterFld t p i o n = masterFld s p i o n := by
  rw [masterFld, masterFld, masterAddr, masterAddr, get_sameView h, pNat_sameView h]

theorem groupFld_sameView (p g o n : Nat) : groupFld t p g o n = groupFld s p g o n := by
  rw [groupFld, groupFld, groupAddr, groupAddr, fabBase, fabBase, get_sameView h, pNat_sameView h]

theorem validRecords_sameView (p : Nat) : validRecords t p = validRecords s p := by
  rw [validRecords, validRecords, get_sameView h]
  simp only [masterFld_sameView h]

theorem partDigest_sameView (p key : Nat) : partDigest t p key = partDigest s p key := by
  rw [partDigest, partDigest, validRecords_sameView h]
  simp only [masterFld_sameView h]

theorem ownRank_sameView (p : Nat) : ownRank t p = ownRank s p := by
  rw [ownRank, ownRank, voteGroup, voteGroup, get_sameView h, groupFld_sameView h]

end SameView

theorem sameView_setMir (v : State) (p : Nat) (x : MirCtx) : SameView v (v.setMir p x) := ⟨rfl, rfl, rfl, rfl, rfl⟩

/-- The leader's unit has come, and every master that the check digests could be read (R367 steps 2 to 4). What is
matched on stands as a variable, as in `beginCheck_of_free`. -/
theorem digestAndGather_of_readable {u : State} {p key next : Nat} {y : Coll} (hoff : u.on (Reg.HLT_MIRAGE_CTRL_INLINE p) = false)
    (hkey : (key, next) = if y.me = 0 then ((u.mir p).key, (u.mir p).next) else (fieldOf (y.heard 0) 0 16, fieldOf (y.heard 0) 20 16)) :
    digestAndGather u p y [] = mirageColl
      ((mirageDigests (putKey u p key) p key false).setMir p { u.mir p with key := key, next := next, stage := 2 }) p 3
      (contribution (partDigest (mirageDigests (putKey u p key) p key false) p key) (u.mir p).m
        (ownRank (mirageDigests (putKey u p key) p key false) p)) := by
  have hfind : ∀ (l : List Nat) (g : Nat → Nat × Nat → Bool), (l.find? fun i => [].any (g i)) = none :=
    fun l g => List.find?_eq_none.mpr fun i _ => by simp
  obtain ⟨F, hF⟩ := exists_eq (a' := @digestAndGather)
  rw [← hF]
  delta digestAndGather at hF
  obtain ⟨T, hT⟩ := exists_eq (a' := @toDigest)
  rw [← hT] at hF
  rw [hF]
  dsimp only
  rw [← hkey, hoff]
  dsimp only
  rw [hfind]
  dsimp only
  rw [Bool.false_and, partDigest_sameView (sameView_setMir _ _ _), ownRank_sameView (sameView_setMir _ _ _)]

/-- Settles O42: the check's start, its way through its stages (`execMirageVerdict_of_done`), and what the host clears. -/
theorem mirageCheck : Obligations.MirageCheck := by
  unfold Obligations.MirageCheck
  refine fun s p => ⟨fun rs m hen hrun hexp hoch hrs hne hidle hact hm hevery htried =>
      ⟨?_, fun u hlead hu hcode => ?_, fun key u v hlead hinl hdraw hu hcode => ?_⟩,
    fun y fail bad link hy hfail => ?_, fun y bad link hy hdone => ?_,
    fun y retries crcs u hy hdone hu hinl => ⟨fun key next v hst hkey hv => ?_, fun bad cs v hst hcs hv => ?_⟩,
    fun w u x hj h4 => ⟨_, rfl, next_hostWrite hj fun hw => ?_⟩, fun w u x hj h4 => next_hostWrite hj fun hw => ?_⟩
  · have hlow : lowestStep s p = m := by rw [hm, hrs]; rfl
    have hact' : (s.oasActive.any fun a => a.req.part == p.val) = false := by
      cases ha : s.oasActive with
      | none => rfl
      | some a => simpa using hact a ha
    have hdue : checkDue s p m = true := by
      simp only [checkDue, State.on, hrun, hexp, hoch, ← hrs, hact', hevery]
      simpa [hen, hne, htried] using hidle
    change execMirageCheckStart p s = _
    simp only [execMirageCheckStart, hlow, hdue, if_true]
  · exact (beginCheck_of_free hlead (checkBegun_of_follower drawKey s p m) (hu ▸ hcode)).trans (by rw [← hu]; rfl)
  · exact (beginCheck_of_free hlead (checkBegun_of_leader m hinl hdraw) (hu ▸ hcode)).trans (by rw [← hu]; rfl)
  · obtain ⟨hpart, hctl⟩ := checkColl_ctl hy
    change execMirageVerdict p fail bad link s = _
    have hf : (fail != 0) = true := by simp [hfail]
    simp only [execMirageVerdict, hy, hf, failColl, hctl, if_true, mirageFail]
  · change execMirageVerdict p 0 bad link s = _
    simp only [execMirageVerdict, hy, hdone, bne_self_eq_false, Bool.false_eq_true, if_false, Bool.not_false, if_true]
  · change execMirageVerdict p 0 [] (retries, crcs) s = _
    have hu' : u = heardOut s p (retries, crcs) := hu
    have hoff : (heardOut s p (retries, crcs)).on (Reg.HLT_MIRAGE_CTRL_INLINE p) = false := by
      simp only [State.on, heardOut_inline, hinl, bne_self_eq_false]
    have hmir : (heardOut s p (retries, crcs)).mir p = s.mir p := rfl
    rw [execMirageVerdict_of_done hy hdone, if_pos hst, digestAndGather_of_readable hoff (hkey.trans (by rw [hmir])) , hmir, ← hu', ← hv]
  · change execMirageVerdict p 0 bad (retries, crcs) s = _
    have hu' : u = heardOut s p (retries, crcs) := hu
    have hoff : v.on (Reg.HLT_MIRAGE_CTRL_INLINE p) = false := by
      rw [hv, hu', State.on, get_verdict_inline, heardOut_inline, hinl]; rfl
    rw [execMirageVerdict_of_done hy hdone, if_neg (by omega), ← hu']
    have hmir : u.mir p = s.mir p := by rw [hu']; rfl
    simp only [judgeCheck, hmir, ← hcs, ← hv, hoff, Bool.false_eq_true, if_false]
  · simp only [hltMirageStatus, Wr.one, h4] <;> rfl
  · have h : x.one 4 = false := by simpa [Wr.one] using h4
    simp only [hltMirageStatus, h, Bool.false_eq_true, if_false]

end Sys2Proof.Machine

namespace Sys2Proof.Machine

/-! ## Frames received (O44) -/

theorem frameMac_whole {s : State} {h : FrameHdr} (hw : Whole s h) : frameMac s h = (s, true) := by
  obtain ⟨hup, hok, hver, hty⟩ := hw
  simp [frameMac, State.on, hup, hok, hver, hty]

theorem receive_of_dead {s t : State} {h : FrameHdr} {ack group : Bool} {act : State → Nat → Nat → Nat → State}
    (hm : frameMac s h = (t, false)) : receive s h ack group act = t := by
  simp only [receive, hm]

section Unicast
variable {s u : State} {h : FrameHdr} {ack group : Bool} {act : State → Nat → Nat → Nat → State}

theorem receive_of_no_target (hw : Whole s h) (hd : h.dst ≠ 0xFFFFF) (hu : u = lookTargets s h) (ht : target u h ack = none) :
    receive s h ack group act = unmatched u := by
  simp only [receive, frameMac_whole hw, if_neg hd, ← hu, ht]

theorem receive_of_target {p f : Nat} (hw : Whole s h) (hd : h.dst ≠ 0xFFFFF) (hu : u = lookTargets s h)
    (ht : target u h ack = some (p, f)) :
    receive s h ack group act = if !h.authOk || flowState u p f = 1 then u.bump Reg.FAB_COUNTS_AUTH_FAILED 1
      else if group && fromExcluded u p f h.groupTag then unmatched u else act u p f 0 := by
  simp only [receive, frameMac_whole hw, if_neg hd, ← hu, ht]

theorem receive_of_no_mcast (hw : Whole s h) (hd : h.dst = 0xFFFFF) (hu : u = lookTargets s h) (ht : mcastTargets u h = []) :
    receive s h ack group act = unmatched u := by
  simp only [receive, frameMac_whole hw, if_pos hd, ← hu, ht, List.isEmpty_nil, if_true]

theorem receive_of_mcast {p f g : Nat} (hw : Whole s h) (hd : h.dst = 0xFFFFF) (hu : u = lookTargets s h)
    (ht : mcastTargets u h = [(p, f, g)]) (hauth : h.authOk = true) (hst : flowState u p f = 2)
    (hex : excluded u p g h.srcRank = false) : receive s h ack group act = act u p f h.srcRank := by
  simp only [receive, frameMac_whole hw, if_pos hd, ← hu, ht, List.isEmpty_cons, hauth, List.foldl_cons, List.foldl_nil, hst, hex,
    bne_self_eq_false, Bool.not_true, Bool.false_eq_true, if_false]

end Unicast

/-- A frame that reaches its flow acts on it. -/
theorem receive_of_arrives {s u : State} {h : FrameHdr} {ack group : Bool} {act : State → Nat → Nat → Nat → State} {p f : Nat}
    (ha : Arrives s u h ack p f) (hg : group = true → fromExcluded u p f h.groupTag = false) :
    receive s h ack group act = act u p f 0 := by
  obtain ⟨hw, hd, hu, ht, hauth, hst⟩ := ha
  rw [receive_of_target hw hd hu ht, hauth]
  have hno : (group && fromExcluded u p f h.groupTag) = false := by
    cases group with
    | false => rfl
    | true => exact hg rfl
  simp only [hst, hno, Bool.not_true, Bool.false_or, decide_false, Bool.false_eq_true, if_false]

/-- Settles O44: each way of a frame through the MAC and to its flow. -/
theorem framesReceived : Obligations.FramesReceived := by
  unfold Obligations.FramesReceived
  refine fun s h ack group act => ⟨fun p f u ha hg => receive_of_arrives ha hg, fun hdown => receive_of_dead ?_,
    fun n hup hfec => receive_of_dead ?_, fun hup hfcs => receive_of_dead ?_, fun hup hok hbad => receive_of_dead ?_,
    fun u hw hd hu => ⟨fun ht => receive_of_no_target hw hd hu ht, fun p f ht hauth => ?_⟩,
    fun u hw hd hu => ⟨fun ht => receive_of_no_mcast hw hd hu ht,
      fun p f g ht hauth hst hex => receive_of_mcast hw hd hu ht hauth hst hex⟩⟩
  · simp [frameMac, State.on, hdown]
  · simp [frameMac, State.on, hup, hfec]
  · simp [frameMac, State.on, hup, hfcs]
  · rcases hbad with hb | hb <;> simp [frameMac, State.on, hup, hok, hb]
  · rw [receive_of_target hw hd hu ht, hauth]
    rfl

end Sys2Proof.Machine

namespace Sys2Proof.Machine

/-! ## Collective instances from outside, and the fabric ports (O47) -/

/-- Fabric port f with both lane PLLs locked and its link up (R329). -/
def linkedUp (s : State) (f : Nat) : State :=
  (((s.put (Reg.CLK_STATUS_FAB_LANE_LOCK f 0) 1).put (Reg.CLK_STATUS_FAB_LANE_LOCK f 1) 1).put
    (Reg.FAB_PORT_STATUS_LANES_LOCKED f) 1).put (Reg.FAB_PORT_STATUS_LINK_UP f) 1

theorem linkedUp_link {s : State} (f : Nat) (h : SMap.wf 0 s.regs = true) :
    Reads (linkedUp s f) (Reg.FAB_PORT_STATUS_LINK_UP f) 1 :=
  get_put_same _ _ _ (wf_put _ _ _ (wf_put _ _ _ (wf_put _ _ _ h)))

theorem linkedUp_otherFields (s : State) (f : Nat) : OtherFields s (linkedUp s f) [Reg.FAB_PORT_STATUS_LINK_UP f,
    Reg.FAB_PORT_STATUS_LANES_LOCKED f, Reg.CLK_STATUS_FAB_LANE_LOCK f 0, Reg.CLK_STATUS_FAB_LANE_LOCK f 1] := by
  intro g hg
  simp only [List.map_cons, List.map_nil, List.mem_cons, List.not_mem_nil, or_false, not_or] at hg
  obtain ⟨hlink, hlanes, h0, h1⟩ := hg
  exact (get_put_other _ _ _ _ hlink).trans ((get_put_other _ _ _ _ hlanes).trans
    ((get_put_other _ _ _ _ h1).trans (get_put_other _ _ _ _ h0)))

/-- Settles O47: each event of a collective, of a fabric port and of the fabric's registers. -/
theorem collectivesAndPorts : Obligations.CollectivesAndPorts := by
  unfold Obligations.CollectivesAndPorts
  refine ⟨fun s p x => ⟨fun f k n u hg hu => ?_, fun q hx hq => ?_, fun g i hx hd hc => ?_, fun g i hx hon => ?_, fun g i hx hoff => ?_,
      fun g i rank r hx hr hleft hheld hother => ?_⟩,
    fun s f => ⟨fun hdown => ?_, fun hup => ⟨_, rfl, ?_⟩, fun hclk hen hoch hrem hwf => ⟨linkedUp s f, ?_, linkedUp_link f hwf, linkedUp_otherFields s f⟩, fun hup => ⟨?_, ?_⟩,
      fun w u x v hj h0 hoff hv => ⟨fun hst hcode => next_hostWrite hj fun hw => ?_, fun hst => next_hostWrite hj fun hw => ?_⟩,
      fun p w u x v hj h31 hv hcode => next_hostWrite hj fun hw => ?_⟩⟩
  · change execCreditGrant p s = _
    simp only [execCreditGrant, hg, ← hu, sendGrant]
  · change execReceiveQueueBind s = _
    simp only [execReceiveQueueBind, hx, hq]
  · change execInstanceComplete p g i s = _
    simp only [execInstanceComplete, hx, hd, hc, Option.isNone_none, Bool.and_self, if_true]
  · change execCollectiveWaitTimeout p g i s = _
    simp [execCollectiveWaitTimeout, hx, State.on, hon]
  · change execCollectiveWaitTimeout p g i s = _
    simp [execCollectiveWaitTimeout, hx, State.on, hoff]
  · change execReceiverDetach p g i rank s = _
    have hany : (x.attached.any fun q => !holdsBack x q) = true := by simpa using hother
    simp [execReceiverDetach, hx, hr, hleft, hheld, hany]
  · change execFabricPortDown f s = _
    simp [execFabricPortDown, portDown, State.on, hdown]
  · change execFabricPortDown f s = _
    have hon : s.on (Reg.FAB_PORT_STATUS_LINK_UP f) = true := by simp [State.on, hup]
    simp only [execFabricPortDown, portDown, linkDown, hon, if_true]
  · change execFabricPortUp f s = _
    have hgo : (clocked s && s.on Reg.FAB_CTRL_ENABLE && !ochre s && s.get Reg.PWR_REMOVE_STATE != 2) = true := by
      simp [hclk, State.on, hen, hoch, hrem]
    simp only [execFabricPortUp, hgo, if_true, linkedUp]
  · change execNonXftFrameReceived f true s = _
    simp [execNonXftFrameReceived, State.on, hup]
  · change execNonXftFrameReceived f false s = _
    simp [execNonXftFrameReceived, State.on, hup, unmatched]
  · simp [fabCtrl, State.on, hoff, ← hv, h0, Nat.not_lt.mpr hst, hcode]
  · simp [fabCtrl, State.on, hoff, ← hv, h0, hst]
  · simp [fabAreaCtrl, h31, ← hv, hcode]

end Sys2Proof.Machine

namespace Sys2Proof.Machine

/-! ## Identity, firmware and test access by mailbox (O48) -/

/-- A request that no check refuses is served (R396). -/
theorem serve_of_serves {s : State} {b : Port} {op : Nat} {r : List Byte} (h : Serves s b op r) (k : State → List Byte → State) :
    serve s b op k = .next (k s r) := by
  obtain ⟨⟨rest, ho⟩, hop, hatt, hid, hoch, hst, hport⟩ := h
  have h1 : (decide (4 ≤ s.sec.attempts) && !s.on Reg.SEC_STATUS_IDENTITY || decide (op = 0x01) && s.sec.noIdentity) = false := by
    have ha : (decide (4 ≤ s.sec.attempts) && !s.on Reg.SEC_STATUS_IDENTITY) = false := by
      rcases hatt with h | h
      · simp [Nat.not_le.mpr h]
      · simp [State.on, h]
    have hb : (decide (op = 0x01) && s.sec.noIdentity) = false := by
      by_cases h : op = 0x01
      · simp [hid h]
      · simp [h]
    rw [ha, hb]; rfl
  have h2 : (ochre s && ochreRefuses op || !mbxStageOk s op) = false := by
    cases ho : ochre s with
    | false => simp [hst]
    | true => simp [hoch ho, hst]
  have h3 : ∀ p, p = (if (decide (0x10 ≤ op) && decide (op ≤ 0x16)) = true then fieldOf r 8 1 else 0xFF) →
      (decide (p < 16) && owned s p && portOf s p != b) = false := by
    rintro p rfl
    by_cases hr : 0x10 ≤ op ∧ op ≤ 0x16
    · simp only [hr.1, hr.2, decide_true, Bool.and_true, if_true]
      by_cases hp : fieldOf r 8 1 < 16
      · cases hw : owned s (fieldOf r 8 1) with
        | false => simp
        | true => simp [hport hr.1 hr.2 hp hw]
      · simp [hp]
    · have hr' : (decide (0x10 ≤ op) && decide (op ≤ 0x16)) = false := by simpa using hr
      simp [hr']
  simp only [serve, ho, hop, bne_self_eq_false, Bool.or_false, Bool.false_eq_true, if_false, h1, h2, h3 _ rfl]

/-- Neither half verifies where neither signature does. -/
theorem blockHalves_of_bad {bs : List Byte} {o : Nat} {signed : List Byte} {slots : Bool} {f g : Nat → BitVec 384} {v : SigVerdict}
    (hr : v.rsa = false) (hs : v.slh = false) : blockHalves bs o signed slots f g v = (false, false) := by
  simp only [blockHalves, hr, hs, Bool.and_false]

/-- A block one of whose signatures does not verify is not accepted. -/
theorem blockHalves_ne {bs : List Byte} {o : Nat} {signed : List Byte} {slots : Bool} {f g : Nat → BitVec 384} {v : SigVerdict}
    (h : v.rsa = false ∨ v.slh = false) : (blockHalves bs o signed slots f g v == (true, true)) = false := by
  rcases h with h | h <;> simp [blockHalves, h]

/-- Settles O48: each command once it is served (`serve_of_serves`), and the identity that completes one. -/
theorem identityAndFirmware : Obligations.IdentityAndFirmware := by
  unfold Obligations.IdentityAndFirmware
  refine fun s b r => ⟨fun h hs hder hok => ?_, fun rest d u hder ho hu => ?_,
    fun im v hs hok hhalves hsvn => ⟨_, rfl, ?_⟩, fun im v hs hok hrsa hslh hsvn => ?_,
    fun c hs hst hlen => ⟨_, rfl, ?_⟩, fun nonce n u hs hfails hn hu => ?_,
    fun bs v hs hlen hnonce hdig hhalves => ?_, fun response v hs hbad => ?_⟩
  · change execSetHelper b (some h) true s = _
    rw [execSetHelper, serve_of_serves hs]
    simp [hder, hok]
  · change execIdentityDerivationComplete d s = _
    have hord : u.sec.order = (b, r) :: rest := by rw [hu]; exact ho
    have hord' : ((u.put Reg.SEC_STATUS_IDENTITY 1).put Reg.SEC_STATUS_STAGE 2).sec.order = (b, r) :: rest := hord
    simp only [execIdentityDerivationComplete, hder, if_true, ← hu, hord']
  · change execLoadFirmware b (some im) v s = _
    rw [execLoadFirmware, serve_of_serves hs]
    simp only [Option.getD_some, hok, hhalves, if_neg (Nat.not_lt.mpr hsvn), Bool.not_true, Bool.and_self, Bool.false_eq_true, if_false,
      loadedFirmware]
  · change execLoadFirmware b (some im) v s = _
    rw [execLoadFirmware, serve_of_serves hs]
    simp only [Option.getD_some, hok, vendorHalves, blockHalves_of_bad hrsa hslh, if_neg (Nat.not_lt.mpr hsvn), Bool.not_true,
      Bool.false_eq_true, if_false, Bool.and_self, Bool.not_false, if_true] <;> rfl
  · change execLoadCert b (some c) true s = _
    rw [execLoadCert, serve_of_serves hs]
    simp [hlen]
  · change execTestChallenge b nonce s = _
    rw [execTestChallenge, serve_of_serves hs]
    simp [Nat.not_le.mpr hfails, ← hn, ← hu]
  · change execTestUnlock b (some bs) v s = _
    rw [execTestUnlock, serve_of_serves hs]
    simp [hlen, hnonce, hdig, hhalves]
  · change execTestUnlock b response v s = _
    rw [execTestUnlock, serve_of_serves hs]
    simp only [testHalves, blockHalves_ne hbad, Bool.and_false, Bool.false_eq_true, if_false]

end Sys2Proof.Machine

namespace Sys2Proof.Machine

/-! ## The partition lifecycle by mailbox (O49) -/

/-- A request about a partition that the other port owns is refused (R430, R397). -/
theorem serve_of_other_port {s : State} {b : Port} {op : Nat} {r : List Byte} {rest : List (Port × List Byte)} {p : Nat}
    (ho : s.sec.order = (b, r) :: rest) (hop : fieldOf r 0 1 = op) (hlo : 0x10 ≤ op) (hhi : op ≤ 0x16) (hp : p = fieldOf r 8 1)
    (h16 : p < 16) (hown : owned s p = true) (hport : portOf s p ≠ b) (hatt : s.sec.attempts < 4) (hoch : ochre s = false)
    (hst : stage s = 3) (k : State → List Byte → State) : serve s b op k = .next (mbxRefuse s b r 0x0B32 p []) := by
  have hne : op ≠ 0x01 := by omega
  have hstage : mbxStageOk s op = true := by
    clear hop
    interval_cases op <;> simp [mbxStageOk, hst]
  simp only [serve, ho, hop, bne_self_eq_false, Bool.false_eq_true, if_false, hlo, hhi, decide_true, Bool.and_true,
    if_true, ← hp, Nat.not_le.mpr hatt, decide_false, Bool.false_and, hne, Bool.or_self, hoch, hstage, Bool.not_true, h16, hown]
  simp [hport]

/-- Settles O49: each command once it is served, and the refusal of the other port's (`serve_of_other_port`). -/
theorem partitionLifecycle : Obligations.PartitionLifecycle := by
  unfold Obligations.PartitionLifecycle
  refine ⟨fun s b r p hp => ⟨fun cores hs hcores hst hrem h1 hspan hfree hup => ?_,
      fun page frame n hs hpage hframe hn hst hval hin hmem hall => ?_, fun blocks hs hblocks hst hin hfree => ?_,
      fun hs hst htdi hlock => ?_, fun hs hst htdi => ?_, fun hs hown => ?_, fun hs hst => ?_, fun hs hst => ?_, fun hs hst => ?_⟩,
    fun s b r rest p ho hp h16 hown hport hatt hoch hst => ⟨fun hop => ?_, fun hop => ?_, fun hop => ?_, fun hop => ?_, fun hop => ?_⟩⟩
  · change execPartCreate b s = _
    have hbusy : (cores.any fun c => coreState s c == 2 || (partOfCore s c).isSome) = false := by
      simpa [List.any_eq_false] using hup
    rw [execPartCreate, serve_of_serves hs]
    have hgo : (decide (fieldOf r 36 4 < 1) || decide (98304 < fieldOf r 36 4) || decide (98304 < fieldOf r 32 4 + fieldOf r 36 4)
        || !spanFree s p (fieldOf r 32 4) (fieldOf r 36 4)
        || cores.any fun c => coreState s c == 2 || (partOfCore s c).isSome) = false := by
      rw [hbusy, hfree]
      simp
      omega
    simp only [← hp, ← hcores, hst, hrem, hgo, bne_self_eq_false, Bool.or_self, Bool.false_eq_true, if_false]
  · change execPartFrames b s = _
    have hfree : ((List.range n).any fun i => frameState s (frame + i) != some .free
        || (SMap.get (⟨0, false⟩ : PEntry) s.pageMap (s.get (Reg.MEM_PART_MAP_PM_BASE p) + page + i)).valid) = false := by
      refine List.any_eq_false.mpr fun i hi => ?_
      obtain ⟨hf, he⟩ := hall i (List.mem_range.mp hi)
      simp [hf, he]
    rw [execPartFrames, serve_of_serves hs]
    simp only [← hp, ← hpage, ← hframe, ← hn, hst, State.on, hfree]
    simp [hval, Nat.not_lt.mpr hin, Nat.not_lt.mpr hmem]
  · change execPartQblocks b s = _
    have hnone : (blocks.any fun k => s.on (Reg.QUE_BLOCK_ASSIGNED k)) = false := by
      simpa [List.any_eq_false, State.on] using hfree
    rw [execPartQblocks, serve_of_serves hs]
    simp only [← hp, ← hblocks, hst, hnone]
    simp [Nat.not_lt.mpr hin]
  · change execPartLock b s = _
    rw [execPartLock, serve_of_serves hs]
    simp [← hp, hst, State.on, htdi, hlock]
  · change execPartStart b s = _
    rw [execPartStart, serve_of_serves hs]
    simp [← hp, hst, State.on, htdi]
  · change execPartTeardown b s = _
    rw [execPartTeardown, serve_of_serves hs]
    simp [← hp, hown]
  · change execGetMlog b s = _
    rw [execGetMlog, serve_of_serves hs]
    simp [← hp, hst, toHost]
  · change execPartLock b s = _
    rw [execPartLock, serve_of_serves hs]
    simp [← hp, hst]
  · change execPartStart b s = _
    rw [execPartStart, serve_of_serves hs]
    simp [← hp, hst]
  · change execPartFrames b s = _
    exact serve_of_other_port ho hop (by decide) (by decide) hp h16 hown hport hatt hoch hst _
  · change execPartQblocks b s = _
    exact serve_of_other_port ho hop (by decide) (by decide) hp h16 hown hport hatt hoch hst _
  · change execPartLock b s = _
    exact serve_of_other_port ho hop (by decide) (by decide) hp h16 hown hport hatt hoch hst _
  · change execPartStart b s = _
    exact serve_of_other_port ho hop (by decide) (by decide) hp h16 hown hport hatt hoch hst _
  · change execPartTeardown b s = _
    exact serve_of_other_port ho hop (by decide) (by decide) hp h16 hown hport hatt hoch hst _

end Sys2Proof.Machine

namespace Sys2Proof.Machine

/-! ## Trusted interfaces (O50) -/

/-- Settles O50: each message about a TDI, and the failures of its stream. -/
theorem trustedInterfaces : Obligations.TrustedInterfaces := by
  unfold Obligations.TrustedInterfaces
  refine ⟨fun s t p htdi => ⟨fun hst hoch hlock => ?_, fun hst hoch hact hgen => ?_, ?_, ?_, ?_, fun tx n hfree hfew => ?_,
      fun tx hprog => ?_, fun tx hprog hact => ?_⟩,
    fun s p hst hon => ⟨?_, fun acc hin hwr => ?_, fun acc hin hwr => ?_⟩⟩
  · change execLockInterface t p s = _
    simp [execLockInterface, htdi, hst, hoch, hlock]
  · change execStartInterface t p s = _
    simp [execStartInterface, htdi, hst, hoch, hact, hgen]
  · change execStopInterface t p s = _
    simp [execStopInterface, htdi]
  · change execGetDeviceInterfaceReport t p s = _
    simp [execGetDeviceInterfaceReport, htdi]
  · change execGetDeviceInterfaceState t p s = _
    simp [execGetDeviceInterfaceState, htdi]
  · change execKeyProg t p n tx false s = _
    have hkey : ((s.ide p).active != 0 && (s.ide p).stream != n) = false := by
      rcases hfree with h | h <;> simp [h]
    simp only [execKeyProg, htdi, hkey, decide_eq_false (Nat.not_le.mpr hfew), Bool.not_true, Bool.or_self, Bool.false_eq_true, if_false]
  · change execKSetGo t p tx s = _
    simp [execKSetGo, htdi, hprog]
  · change execKSetStop t p tx s = _
    simp [execKSetStop, htdi, hprog, hact]
  · change execIdeIntegrityFailure p s = _
    simp [execIdeIntegrityFailure, hst, State.on, hon]
  · change execUnprotectedAccess p acc s = _
    simp [execUnprotectedAccess, hst, State.on, hon, hin, hwr]
  · change execUnprotectedAccess p acc s = _
    simp [execUnprotectedAccess, hst, State.on, hon, hin, hwr]

/-! ## The test access port (O52) -/

theorem jtagClosed_iff (s : State) : jtagClosed s = true ↔ stage s = 3 ∨ ∃ p : Part, partState s p ≠ 0 := by
  have hparts : (∃ p, p < 16 ∧ partState s p ≠ 0) ↔ ∃ p : Part, partState s p ≠ 0 :=
    ⟨fun ⟨p, hlt, hp⟩ => ⟨⟨p, hlt⟩, hp⟩, fun ⟨p, hp⟩ => ⟨p, p.isLt, hp⟩⟩
  simp [jtagClosed, ← hparts]

/-- Settles O52: what each instruction loads, and what the loaded one does while the port is closed and while it is open. -/
theorem testAccessPort : Obligations.TestAccessPort := by
  unfold Obligations.TestAccessPort
  refine fun s => ⟨fun k hk => ?_, fun k hj hk => ⟨fun hclosed => ?_, fun hst hnone => ?_⟩, fun hj => ?_, rfl, rfl, fun n hoff => ?_,
    fun n hon => ?_⟩
  · rcases hk with rfl | rfl | rfl | rfl <;> rfl
  · have hc : jtagClosed s = true := (jtagClosed_iff s).mpr hclosed
    rcases hk with rfl | rfl | rfl <;> simp [boundaryDrives, jtagNow, hj, hc]
  · have hc : jtagClosed s = false := Bool.eq_false_iff.mpr fun h =>
      ((jtagClosed_iff s).mp h).elim hst fun ⟨p, hp⟩ => hp (hnone p)
    rcases hk with rfl | rfl | rfl <;> simp [boundaryDrives, jtagNow, hj, hc]
  · rcases hj with h | h | h <;> simp [boundaryDrives, jtagNow, h]
  · change execTestAccessPortInstruction (.priv n) s = _
    simp [execTestAccessPortInstruction, State.on, hoff]
  · change execTestAccessPortInstruction (.priv n) s = _
    simp [execTestAccessPortInstruction, State.on, hon]

end Sys2Proof.Machine

namespace Sys2Proof.Machine

/-! ## SPDM requests (O51) -/

/-- After power-on, but that the contexts of the transports hold key 2 twice, which no step leaves behind. -/
def twiceSpdm : State :=
  { State.reset with spdms := [(2, Spdm.empty), (2, Spdm.empty)] }

/-- Refutes O51: the request ends the availability of the last signature first and stores the version then. Where key 2 stands twice
in the map, the first write takes one entry away and the second writes over the other; one write of both keeps two entries. -/
theorem not_spdmRequests : ¬ Obligations.SpdmRequests := by
  unfold Obligations.SpdmRequests
  intro h
  obtain ⟨hserved, -⟩ := h twiceSpdm .mctp 0x12 ⟨.mctp, 0x12, false⟩ _ rfl (.inl rfl) rfl
  obtain ⟨-, -, -, -, -, -, hun, -, -⟩ := hserved (by decide) (.inl rfl)
  have hsay := hun 0 .exchange []
  have hlen := congrArg (fun r : Res => match r with
    | .next t => t.spdms.length
    | _ => 0) hsay
  exact absurd hlen (by decide)

end Sys2Proof.Machine

namespace Sys2Proof.Machine

/-! ## Host accesses of registers (O53) -/

/-- The partition that a judged write is charged to (R439). -/
def chargedTo (s : State) (r : RRow) (i : List Nat) (w : HostWr) : Nat :=
  let part := (regPart s r i).getD 0xFF
  if r.kind == .queue then queuePart s (s.get (Reg.QUE_SEL_QUEUE w.port)) else if part < 16 && partState s part = 0 then 0xFF else part

/-- What a judgement that lets a write through says of it. -/
structure Judged (s u : State) (off : Nat) (w : HostWr) (x : Wr) (r : RRow) (i : List Nat) : Prop where
  reg : findReg off = some (r, i)
  name : x.name = r.name
  part : x.part = chargedTo s r i w
  owner : ∀ p, (regPart s r i).getD 0xFF = p → p < 16 → owned s p = true ∧ portOf s p = w.port
  locked : ∀ p, (regPart s r i).getD 0xFF = p → p < 16 → s.get (Reg.SEC_PART_STATUS_LOCK p) ≠ 0 → ∀ v ∈ x.vals, v.1.acc ≠ .rwl
  ochre : restricted s = true → ochreOk x.name = false → ∀ v ∈ x.vals, ochreField v = true
  frame : SameWork s u

theorem sameWork_regRecord {s t : State} {last : List Fld} {code part core off : Nat} {w : HostWr} {more : List Nat} (h : SameWork s t) :
    SameWork s (regRecord t last code part core off w more) := sameWork_raise h

theorem sameWork_ite {s a b : State} {c : Prop} [Decidable c] (ha : SameWork s a) (hb : SameWork s b) :
    SameWork s (if c then a else b) := by
  split
  · exact ha
  · exact hb

theorem sameWork_holdHalf (s : State) (off : Nat) (w : HostWr) : SameWork s (holdHalf s off w) := ⟨rfl, rfl, rfl, rfl⟩

/-- The half that a port holds is no part of what a register access is judged by. -/
theorem holdHalf_get (s : State) (off : Nat) (w : HostWr) (f : Fld) : (holdHalf s off w).get f = s.get f := rfl
theorem holdHalf_restricted (s : State) (off : Nat) (w : HostWr) : restricted (holdHalf s off w) = restricted s := rfl
theorem holdHalf_owned (s : State) (off : Nat) (w : HostWr) (p : Nat) : owned (holdHalf s off w) p = owned s p := rfl
theorem holdHalf_portOf (s : State) (off : Nat) (w : HostWr) (p : Nat) : portOf (holdHalf s off w) p = portOf s p := rfl
theorem holdHalf_regPart (s : State) (off : Nat) (w : HostWr) (r : RRow) (i : List Nat) :
    regPart (holdHalf s off w) r i = regPart s r i := rfl

/-- After LOCK no RWL field is among those that a write sets (R8). -/
theorem acc_ne_of_locked {c : Prop} [Decidable c] {l : List (FRow × Nat)} {v : FRow × Nat}
    (hv : v ∈ if c then l.filter (fun x => x.1.acc != .rwl) else l) (hc : c) : v.1.acc ≠ .rwl := by
  rw [if_pos hc] at hv
  simpa using (List.mem_filter.mp hv).2

theorem judged_of_judge {s u : State} {off : Nat} {w : HostWr} {x : Wr} (h : judge s off w = (u, some x)) :
    ∃ r i, Judged s u off w x r i := by
  unfold judge at h
  split at h
  · cases h
  · rename_i r i hf
    obtain ⟨c1, h⟩ := ite_none rfl h
    obtain ⟨c2, h⟩ := ite_none rfl h
    obtain ⟨c3, h⟩ := ite_none rfl h
    obtain ⟨c4, h⟩ := ite_none rfl h
    obtain ⟨c5, h⟩ := ite_none rfl h
    simp only [Prod.mk.injEq, Option.some.injEq] at h
    obtain ⟨hu, rfl⟩ := h
    refine ⟨r, i, hf, rfl, rfl, ?_, ?_, ?_, ?_⟩
    · rintro p rfl hp
      simp only [holdHalf_regPart, holdHalf_owned, holdHalf_portOf, hp, decide_true, Bool.true_and, Bool.not_eq_true',
        Bool.not_eq_false] at c4
      simpa using c4
    · rintro p rfl hp hl v hv
      have hlock : (decide ((regPart s r i).getD 0xFF < 16) && s.on (Reg.SEC_PART_STATUS_LOCK ((regPart s r i).getD 0xFF))) = true := by
        simp [hp, State.on, hl]
      exact acc_ne_of_locked hv hlock
    · intro hr ho v hv
      have hrest : (restricted (holdHalf s off w) && !ochreOk r.name) = true := by
        rw [holdHalf_restricted, hr]
        simpa using ho
      dsimp only at hv
      rw [if_pos hrest] at hv
      split at hv
      · exact (List.mem_filter.mp (List.mem_of_mem_filter hv)).2
      · exact (List.mem_filter.mp hv).2
    · have hH := sameWork_holdHalf s off w
      rw [← hu]
      refine sameWork_ite (sameWork_regRecord ?_) ?_
      · split
        · exact sameWork_ite (sameWork_regRecord hH) hH
        · exact hH
      · split
        · exact sameWork_ite (sameWork_regRecord hH) hH
        · exact hH

theorem findReg_mem {off : Nat} {r : RRow} {i : List Nat} (h : findReg off = some (r, i)) :
    r ∈ regRows ∧ ∃ d, idxOf r.dims d = some i := by
  obtain ⟨q, hq, he⟩ := List.exists_of_findSome?_eq_some h
  split at he
  · obtain ⟨j, hj, hpair⟩ := Option.map_eq_some_iff.mp he
    cases hpair
    exact ⟨hq, _, hj⟩
  · cases he

theorem idxOf_head_lt {n st d : Nat} {ds : List (Nat × Nat)} {i : List Nat} (h : idxOf ((n, st) :: ds) d = some i) :
    i.getD 0 0 < n := by
  unfold idxOf at h
  split at h
  · rename_i hlt
    obtain ⟨j, -, rfl⟩ := Option.map_eq_some_iff.mp h
    exact hlt
  · cases h

/-- The registers of partitions' pages are arrays over the 16 partitions. -/
theorem partRows_dims : (regRows.all fun r => r.kind != .part || (r.dims.headD (17, 0)).1 ≤ 16) = true := by decide +kernel

theorem regPart_lt {s : State} {off : Nat} {r : RRow} {i : List Nat} (h : findReg off = some (r, i)) (hk : r.kind = .part) :
    regPart s r i = some (i.getD 0 0) ∧ i.getD 0 0 < 16 := by
  obtain ⟨hr, d, hd⟩ := findReg_mem h
  have hdims := List.all_eq_true.mp partRows_dims r hr
  rw [hk] at hdims
  refine ⟨by rw [regPart, hk], ?_⟩
  cases hds : r.dims with
  | nil => simp [hds] at hdims
  | cons n ds =>
    obtain ⟨n, st⟩ := n
    rw [hds] at hd
    have hn : n ≤ 16 := by simpa [hds] using hdims
    exact Nat.lt_of_lt_of_le (idxOf_head_lt hd) hn

theorem chargedTo_of_part {s : State} {r : RRow} {i : List Nat} {w : HostWr} (hk : r.kind ≠ .queue) (h : chargedTo s r i w < 16) :
    chargedTo s r i w = (regPart s r i).getD 0xFF := by
  have hq : (r.kind == .queue) = false := by simpa using hk
  simp only [chargedTo, hq, Bool.false_eq_true, if_false] at h ⊢
  split
  · rename_i hc
    rw [if_pos hc] at h
    omega
  · rfl

theorem chargedTo_of_owned {s : State} {r : RRow} {i : List Nat} {w : HostWr} (hk : r.kind ≠ .queue) {p : Nat}
    (hp : (regPart s r i).getD 0xFF = p) (ho : owned s p = true) : chargedTo s r i w = p := by
  have hq : (r.kind == .queue) = false := by simpa using hk
  have hst : partState s p ≠ 0 := by
    intro h
    simp [owned, h] at ho
  simp only [chargedTo, hq, hp, Bool.false_eq_true, if_false]
  simp [hst]

theorem execRegisterWrite_bar0 (s : State) (off : Nat) (w : HostWr) :
    execRegisterWrite ⟨0, off⟩ w s = .next (hostWrite s off w regRule) := by
  simp [execRegisterWrite]

/-- Settles O53: what is let through by `judged_of_judge`, what is not, and what a read of a register that does not answer gives. -/
theorem hostRegisterAccesses : Obligations.HostRegisterAccesses := by
  unfold Obligations.HostRegisterAccesses
  refine fun s off w => ⟨fun hf => ?_, fun hst => ?_, fun hclk => ?_, fun u x hj => ?_, fun u hj => ?_, fun acc hok => ?_,
    fun acc u hbad hclk hst hu => ?_, fun b hf => ?_, fun b r i hf hst hname => ?_, fun b r i p hf hp hown hport hname => ?_⟩
  · have hj : judge s off w = (s, none) := by simp [judge, hf]
    exact (execRegisterWrite_bar0 s off w).trans (congrArg _ (hostWrite_none regRule hj))
  · have hj : judge s off w = (s, none) := by
      cases hf : findReg off with
      | none => simp [judge, hf]
      | some ri => simp [judge, hf, hst]
    exact (execRegisterWrite_bar0 s off w).trans (congrArg _ (hostWrite_none regRule hj))
  · change execRegisterWrite ⟨4, off⟩ w s = _
    simp [execRegisterWrite, hclk]
  · obtain ⟨r, i, hd⟩ := judged_of_judge hj
    obtain ⟨hm, hc, -, hp⟩ := hd.frame
    have hreg : ∀ r' i', findReg off = some (r', i') → r' = r ∧ i' = i := fun r' i' h => by
      rw [hd.reg] at h
      cases h
      exact ⟨rfl, rfl⟩
    refine ⟨(execRegisterWrite_bar0 s off w).trans (congrArg _ (hostWrite_some regRule hj)), (judge_some hj).2.1, hm, hc, hp,
      fun v hv hacc hlt r' i' h hk => ?_, hd.ochre, fun r' i' h hk => ?_⟩
    · obtain ⟨rfl, rfl⟩ := hreg r' i' h
      rw [hd.part] at hlt ⊢
      have hpart := chargedTo_of_part hk hlt
      rw [hpart] at hlt ⊢
      exact Classical.byContradiction fun hl => hd.locked _ rfl hlt hl v hv hacc
    · obtain ⟨rfl, rfl⟩ := hreg r' i' h
      obtain ⟨hp, h16⟩ := regPart_lt (s := s) h hk
      have hpd : (regPart s r' i').getD 0xFF = i'.getD 0 0 := by rw [hp]; rfl
      obtain ⟨hown, hport⟩ := hd.owner _ hpd h16
      have hq : r'.kind ≠ .queue := by rw [hk]; decide
      rw [hd.part, chargedTo_of_owned hq hpd hown]
      exact ⟨hown, hport⟩
  · exact (execRegisterWrite_bar0 s off w).trans (congrArg _ (hostWrite_none regRule hj))
  · change execRegisterAccessInvalid acc s = _
    simp [execRegisterAccessInvalid, hok]
  · change execRegisterAccessInvalid acc s = _
    have hgo : (decide (stage s = 0) && !atSecStatus acc) = false := by
      rcases hst with h | h <;> simp [h]
    simp only [execRegisterAccessInvalid, hbad, hclk, hgo, Bool.not_true, Bool.or_self, Bool.false_eq_true, if_false, ← hu]
  · simp [hostRead, hf]
  · have hgo : (decide (stage s = 0) && r.name != "SEC_STATUS") = true := by simp [hst, hname]
    simp only [hostRead, hf, hgo, if_true]
  · have hforeign : (owned s p && portOf s p != b) = true := by simp [hown, hport]
    have hno : (r.name == "SEC_PART_STATUS") = false := by simpa using hname
    have hshown : shownTo s b r i off = 0 := by
      simp only [shownTo, hp, hforeign, hno, Bool.false_eq_true, if_true, if_false]
    simp only [hostRead, hf, hshown, ite_self]

end Sys2Proof.Machine

namespace Sys2Proof.Machine

/-! ## The access codes on one field (O54) -/

theorem storeField_stored {s : State} {key v : Nat} {f : FRow} (h : f.acc = .rw ∨ f.acc = .rwl ∨ f.acc = .wo ∨ f.acc = .ctr) :
    storeField s key (f, v) = (s.put (f.fld key) v).markWritten (f.fld key) := by
  rcases h with h | h | h | h <;> simp [storeField, h]

theorem storeField_kept {s : State} {key v : Nat} {f : FRow} (h : f.acc = .ro ∨ f.acc = .w1s) : storeField s key (f, v) = s := by
  rcases h with h | h <;> simp [storeField, h]

theorem storeField_w1c {s : State} {key v : Nat} {f : FRow} (h : f.acc = .w1c) :
    storeField s key (f, v) = if v = 1 then s.put (f.fld key) 0 else s := by
  simp [storeField, h]

theorem isWritten_markWritten (s : State) (f : Fld) : (s.markWritten f).isWritten f = true :=
  SMap.get_set_new false _ _ true (by decide)

/-- Settles O54: a field that is stored (`storeField_stored`), kept (`storeField_kept`) or cleared (`storeField_w1c`). -/
theorem accessCodes : Obligations.AccessCodes := by
  unfold Obligations.AccessCodes
  intro s key f v hwf
  have hall : (f.acc = .rw ∨ f.acc = .rwl ∨ f.acc = .wo ∨ f.acc = .ctr) ∨ (f.acc = .ro ∨ f.acc = .w1s) ∨ f.acc = .w1c := by
    cases f.acc <;> simp
  refine ⟨fun h => ?_, storeField_kept, fun h hv => ?_, fun h hv => ?_, ?_, ?_⟩
  · rw [storeField_stored h]
    exact ⟨get_put_same s (f.fld key) v hwf, isWritten_markWritten _ _⟩
  · rw [storeField_w1c h, if_pos hv]
    exact (get_put_same s (f.fld key) 0 hwf).trans (Nat.zero_mod _)
  · rw [storeField_w1c h, if_neg hv]
  · rcases hall with h | h | h
    · rw [storeField_stored h]
      exact otherFields_put s (f.fld key) v
    · rw [storeField_kept h]
      exact otherFields_refl s _
    · rw [storeField_w1c h]
      split
      · exact otherFields_put s (f.fld key) 0
      · exact otherFields_refl s _
  · rcases hall with h | h | h
    · rw [storeField_stored h]
      rfl
    · rw [storeField_kept h]
    · rw [storeField_w1c h]
      split <;> rfl

end Sys2Proof.Machine

namespace Sys2Proof.Machine

/-! ## Host links, the supply and the clocks (O56) -/

/-- The root PLL has locked (R418): the state, before the ROM is judged done. -/
theorem execRootPllLock_of_up {s u : State} (ok : Bool) (hr : s.pwr.rails = true) (hl : s.pwr.rootLost = false)
    (hu : u = s.put Reg.CLK_STATUS_ROOT_LOCK 1) :
    execRootPllLock ok s = .next (if stage u = 0 && !s.pwr.zeroizing && ok then execRootPllLock.romDone u else u) := by
  subst hu
  simp only [execRootPllLock, hr, hl, Bool.not_true, Bool.or_self, Bool.false_eq_true, if_false] <;> rfl

theorem toNat_not_isEmpty {α : Type} [DecidableEq α] (l : List α) : (!l.isEmpty).toNat = if l = [] then 0 else 1 := by
  cases l <;> simp

/-- Settles O56: each event of the links, the supply and the clocks. -/
theorem linksSupplyAndClocks : Obligations.LinksSupplyAndClocks := by
  unfold Obligations.LinksSupplyAndClocks
  refine fun s b => ⟨fun g hclk hout h4 h6 => ?_, rfl, ⟨_, rfl, rfl⟩, rfl, rfl, fun f h => rfl, fun cause hr => ?_, fun hr => ?_,
    fun hr hl => ?_, fun u hr hl hu => ⟨?_, fun hno => ?_, fun hst hz => ⟨_, _, ?_, rfl, rfl⟩⟩, fun ok hbad => ?_, fun hclk hon => ?_,
    fun hoff => ?_, fun hclk => ?_, fun u hclk hu => ⟨_, rfl, ?_⟩, fun hr hl hoff => ?_, fun u hz hclk hu => ?_⟩
  · change execHostLinkUp b g s = _
    simp [execHostLinkUp, hclk, hout, h4, h6]
  · change execPowerLoss cause s = _
    simp [execPowerLoss, hr]
  · change execPowerLoss .vinRemoved s = _
    simp [execPowerLoss, hr]
  · change execPowerOn s = _
    simp only [execPowerOn, hr, hl, Bool.or_self, Bool.false_eq_true, if_false]
  · refine (execRootPllLock_of_up false hr hl hu).trans ?_
    simp only [Bool.and_false, Bool.false_eq_true, if_false]
  · refine (execRootPllLock_of_up true hr hl hu).trans ?_
    have hgo : (decide (stage u = 0) && !s.pwr.zeroizing && true) = false := by
      rcases hno with h | h <;> simp [h]
    simp only [hgo, Bool.false_eq_true, if_false]
  · refine (execRootPllLock_of_up true hr hl hu).trans ?_
    have hgo : (decide (stage u = 0) && !s.pwr.zeroizing && true) = true := by simp [hst, hz]
    rw [hgo, if_pos rfl, execRootPllLock.romDone]
    simp only [toNat_not_isEmpty]
  · change execRootPllLock ok s = _
    rcases hbad with h | h <;> simp [execRootPllLock, h]
  · change execVinOutOfRange s = _
    simp [execVinOutOfRange, hclk, State.on, hon]
  · change execVinOutOfRange s = _
    simp [execVinOutOfRange, State.on, hoff]
  · change execVinBackInRange s = _
    simp [execVinBackInRange, hclk]
  · change execRootClockLost s = _
    simp only [execRootClockLost, hclk, if_true, ← hu]
  · change execRootPllRelock s = _
    simp [execRootPllRelock, hr, hl, State.on, hoff]
  · change execFullZeroizationComplete [] s = _
    have hnone : (List.range 256).filter [].contains = [] := List.filter_eq_nil_iff.mpr fun c _ => by simp
    simp only [execFullZeroizationComplete, hz, hclk, Bool.and_self, if_true, hnone, List.foldl_nil, ← hu]

end Sys2Proof.Machine

namespace Sys2Proof.Machine

/-! ## The return to the power-up state (O57) -/

/-- What power-up leaves before the kept fields are put back. -/
def powerUpBase (s : State) : State :=
  { State.reset with
    pending := s.pending
    out := s.out
    free := s.free
    mem := SMap.drop (fun a => decide (a < slowBase)) ((List.range 16).foldl loseRegion s).mem
    sec := { SecCtx.empty with noIdentity := s.sec.noIdentity, testFails := s.sec.testFails }
    pwr := { PwrCtx.empty with perst := s.pwr.perst, jtag := s.pwr.jtag, boundary := s.pwr.boundary, rootLost := s.pwr.rootLost, zeroizing := true } }

theorem powerUp_eq (s : State) : powerUp s = keptFields.foldl (fun (t : State) f => t.put f (s.get f)) (powerUpBase s) := rfl

/-- Fields that are put change the register file alone. -/
theorem foldl_put_frame (v : Fld → Nat) (fs : List Fld) (t : State) :
    (fs.foldl (fun (t : State) f => t.put f (v f)) t).mem = t.mem
      ∧ (fs.foldl (fun (t : State) f => t.put f (v f)) t).slowKeys = t.slowKeys
      ∧ (fs.foldl (fun (t : State) f => t.put f (v f)) t).cmds = t.cmds
      ∧ (fs.foldl (fun (t : State) f => t.put f (v f)) t).launches = t.launches
      ∧ (fs.foldl (fun (t : State) f => t.put f (v f)) t).frames = t.frames
      ∧ (fs.foldl (fun (t : State) f => t.put f (v f)) t).pending = t.pending
      ∧ (fs.foldl (fun (t : State) f => t.put f (v f)) t).out = t.out := by
  induction fs generalizing t with
  | nil => exact ⟨rfl, rfl, rfl, rfl, rfl, rfl, rfl⟩
  | cons f fs ih => exact ih (t.put f (v f))

theorem get_powerUp_other {s : State} {f : Fld} (h : f.id ∉ keptFields.map Fld.id) : (powerUp s).get f = f.rst := by
  simp only [keptFields, List.map_cons, List.map_nil, List.mem_cons, List.not_mem_nil, or_false, not_or] at h
  obtain ⟨h1, h2, h3, h4⟩ := h
  rw [powerUp_eq]
  simp only [keptFields, List.foldl_cons, List.foldl_nil]
  rw [get_put_other _ _ _ _ h4, get_put_other _ _ _ _ h3, get_put_other _ _ _ _ h2, get_put_other _ _ _ _ h1]
  exact get_reset f

/-- A list of fields with ids of their own, each put to a value: each reads it. -/
theorem get_foldl_put_each {v : Fld → Nat} {f : Fld} : ∀ (fs : List Fld) (t : State), SMap.wf 0 t.regs = true →
    (fs.map Fld.id).Nodup → f ∈ fs → (fs.foldl (fun (t : State) f => t.put f (v f)) t).get f = v f % 2 ^ f.w
  | [], _, _, _, hf => absurd hf List.not_mem_nil
  | g :: fs, t, hw, hnd, hf => by
    rw [List.map_cons, List.nodup_cons] at hnd
    obtain ⟨hg, hnd⟩ := hnd
    rcases List.mem_cons.mp hf with rfl | hf
    · have hkeep : ∀ (gs : List Fld) (u : State), f.id ∉ gs.map Fld.id →
          (gs.foldl (fun (t : State) f => t.put f (v f)) u).get f = u.get f := by
        intro gs
        induction gs with
        | nil => exact fun _ _ => rfl
        | cons h gs ih =>
          intro u hn
          rw [List.map_cons, List.mem_cons, not_or] at hn
          exact (ih _ hn.2).trans (get_put_other _ _ _ _ hn.1)
      exact (hkeep fs _ hg).trans (get_put_same _ _ _ hw)
    · exact get_foldl_put_each fs _ (wf_put _ _ _ hw) hnd hf

theorem get_powerUp_kept {s : State} {f : Fld} (h : f ∈ keptFields) (hv : s.get f < 2 ^ f.w) : (powerUp s).get f = s.get f := by
  rw [powerUp_eq, get_foldl_put_each keptFields (powerUpBase s) rfl (by decide) h]
  exact Nat.mod_eq_of_lt hv

theorem get_powerUpBase_mem {s : State} {a : Nat} (h : a < slowBase) : SMap.get 0 (powerUpBase s).mem a = 0 := by
  unfold powerUpBase
  dsimp only
  rw [SMap.get_drop]
  exact if_pos (decide_eq_true h)

/-- Settles O57: the kept fields are put back over the power-up values, and nothing else but the slow tier is left. -/
theorem powerUpState : Obligations.PowerUpState := by
  unfold Obligations.PowerUpState
  intro s f
  obtain ⟨hmem, hkeys, hcmds, hlaunches, hframes, hpending, hout⟩ := foldl_put_frame s.get keptFields (powerUpBase s)
  refine ⟨get_powerUp_other, get_powerUp_kept, ?_⟩
  rw [powerUp_eq, hmem, hkeys, hcmds, hlaunches, hframes, hpending, hout]
  exact ⟨fun a => get_powerUpBase_mem, rfl, rfl, rfl, rfl, rfl, rfl⟩

end Sys2Proof.Machine

namespace Sys2Proof.Machine

/-! ## Temperatures and the steps of the a-clock (O58) -/

theorem readOther_short {s : State} {temps : List Nat} (h : temps.length ≤ 8) : readOther s temps = s := by
  simp [readOther, List.getElem?_eq_none h, List.getElem?_eq_none (Nat.le_succ_of_le h),
    List.getElem?_eq_none (Nat.le_succ_of_le (Nat.le_succ_of_le h))]

theorem readOther_long {s : State} {temps rest : List Nat} {a b c : Nat} (h : temps.drop 8 = a :: b :: c :: rest) :
    readOther s temps = ((s.put Reg.THM_OTHER_POWER_STAGE a).put Reg.THM_OTHER_LPDDR b).put Reg.THM_OTHER_OASIS c := by
  have hget (i : Nat) : temps[8 + i]? = (a :: b :: c :: rest)[i]? := by rw [← h, List.getElem?_drop]
  simp only [readOther, List.foldl_cons, List.foldl_nil, hget 0, hget 1, hget 2] <;> rfl

theorem execDieSensorRead_eq {s : State} {temps : List Nat} (hc : clocked s = true) : exec (.dieSensorRead temps) s =
    .next (judgeHeat (readOther ((temps.take 8).zipIdx.foldl (fun s x => readDie s x.2 x.1) s) temps)) :=
  if_pos hc

theorem execCaravanStepChange_eq {s : State} {c : Core} {cs : List Nat} {n : Nat} (ha : aclocksStand s = false)
    (hc : clocked s = true) (hcs : stepGroup s c = cs) (hne : cs ≠ [c.val]) (hn : n = (cs.map (requested s)).foldl max 0) :
    exec (.caravanStepChange c) s =
      .next (if cs.all fun d => s.get (Reg.CLK_ACLK_STEP_STEP d) == n then endHold s cs
        else if cs.all (tileBoundary s) then takeStep (endHold s cs) cs else holdIssue s cs) := by
  have hgo : (!clocked s || cs == [c.val] || aclocksStand s) = false := by simp [hc, ha, hne]
  change execCaravanStepChange c s = _
  simp only [execCaravanStepChange, hcs, ← hn, hgo, Bool.false_eq_true, if_false]

/-- Settles O58: each event of the sensors, of power control and of the a-clock's steps. -/
theorem temperaturesAndSteps : Obligations.TemperaturesAndSteps := by
  unfold Obligations.TemperaturesAndSteps
  refine fun s => ⟨fun temps u hc hu => ⟨fun hshort => ?_, fun a b c rest hlong => ?_⟩, fun temps hc => if_pos hc,
    fun e n hc => ?_, fun k n hc => ?_, fun t hc ht _ => ⟨_, rfl, fun hoff => ?_⟩, fun t hc ht => ?_,
    fun vin iin pin icore u hc hu hlim => ?_, fun hc hoff => ?_, fun hc => ?_, fun c ha => ⟨fun hc hg hb => ?_,
    fun cs n hc hcs hne hn => ⟨fun hall => ?_, fun hdue hb => ?_, fun hdue hb => ?_⟩, fun hb => ?_⟩⟩
  · rw [execDieSensorRead_eq hc, ← hu, readOther_short hshort]
  · rw [execDieSensorRead_eq hc, ← hu, readOther_long hlong]
  · change execDieLevelRelease e n s = _
    rw [execDieLevelRelease, if_pos hc]
  · change execCouplingLevelRelease k n s = _
    rw [execCouplingLevelRelease, if_pos hc]
  · change execCoolantInletHot t s = _
    simp [execCoolantInletHot, hc, ht, State.on, hoff]
  · change execCoolantInletNormal t s = _
    simp [execCoolantInletNormal, hc, ht]
  · have hon : u.on Reg.PWR_STATUS_CUR_LIMIT = false := by simp [State.on, hlim]
    have htick : exec (.powerControlTick vin iin pin icore) s = if effectiveLimit u < pin
          then .next (requestStep u (min 3 (u.get Reg.PWR_STATUS_PWR_REQ + 1)))
        else if 100 * pin ≤ 95 * effectiveLimit u then .next (requestStep u (u.get Reg.PWR_STATUS_PWR_REQ - 1))
        else .next u := by
      change execPowerControlTick vin iin pin icore s = _
      simp only [execPowerControlTick, hc, if_true, ← hu, hon, Bool.false_eq_true, if_false]
    refine ⟨fun hover => ?_, fun hle hlow => ?_, fun hle hhigh => ?_⟩
    · rw [htick, if_pos hover]
    · rw [htick, if_neg (Nat.not_lt.mpr hle), if_pos hlow]
    · rw [htick, if_neg (Nat.not_lt.mpr hle), if_neg (Nat.not_le.mpr hhigh)]
  · change execCoreCurrentLimit s = _
    simp [execCoreCurrentLimit, hc, State.on, hoff]
  · change execCoreCurrentLimitRelease s = _
    rw [execCoreCurrentLimitRelease, if_pos hc]
  · change execAclkStepChange c s = _
    simp [execAclkStepChange, hc, hg, hb, ha]
  · rw [execCaravanStepChange_eq ha hc hcs hne hn, if_pos (by simpa using hall)]
  · rw [execCaravanStepChange_eq ha hc hcs hne hn, if_neg (by simpa using hdue), if_pos (by simpa using hb)]
  · rw [execCaravanStepChange_eq ha hc hcs hne hn, if_neg (by simpa using hdue), if_neg (by simpa using hb)]
  · change execAclkStepChange c s = _
    simp [execAclkStepChange, hb]

end Sys2Proof.Machine

namespace Sys2Proof.Machine

/-! ## Resets, removal and the management messages (O60) -/

theorem pwrReset_of_one {s : State} {x : Wr} (h : x.val 0 = some 1) :
    pwrReset s x = if otherOwns s x.w.port then wrRecord s pwrLast 0x0C40 x [] else moduleReset s := by
  simp [pwrReset, Wr.one, h]

theorem pwrRemove_of_one {s : State} {x : Wr} (h : x.val 0 = some 1) :
    pwrRemove s x = if otherOwns s x.w.port then wrRecord s pwrLast 0x0C40 x [] else beginRemoval s := by
  simp [pwrRemove, Wr.one, h]

theorem limitOk_iff {n : Nat} : limitOk n = true ↔ 600 ≤ n ∧ n ≤ 1500 := by
  simp [limitOk]

theorem limitOk_eq_false {n : Nat} (h : n < 600 ∨ 1500 < n) : limitOk n = false := by
  rw [Bool.eq_false_iff, ne_eq, limitOk_iff]
  omega

theorem pwrLimit_eq {s : State} {x : Wr} {n : Nat} (h : x.val 0 = some n) :
    pwrLimit s x = if limitOk n then storeAll s x else wrRecord s pwrLast 0x0C23 x [] := by
  simp only [pwrLimit, h]

theorem execMateSenseLost_eq {s u : State} (hc : clocked s = true) (hm : s.get Reg.PWR_STATUS_MATE_SENSE ≠ 0)
    (hu : u = raise (removeFrames (s.put Reg.PWR_STATUS_MATE_SENSE 0)) pwrLast { code := 0x0C42, cls := 3 }) :
    execMateSenseLost s = if removeReady u then .next u else
      .next (removalNext ({ (SMap.keys u.flows).foldl (fun (s : State) k =>
          s.setFlow (k / 65536) (k % 65536) { s.flow (k / 65536) (k % 65536) with removing := false }) u with
        pwr := { ((SMap.keys u.flows).foldl (fun (s : State) k =>
          s.setFlow (k / 65536) (k % 65536) { s.flow (k / 65536) (k % 65536) with removing := false }) u).pwr with
            removing := true } }.put Reg.PWR_REMOVE_STATE 1)) := by
  have hgo : (clocked s && s.on Reg.PWR_STATUS_MATE_SENSE) = true := by simp [hc, State.on, hm]
  simp only [execMateSenseLost, hgo, if_true, ← hu]

/-- A message addressed to the module goes by its type (R421, R422). -/
theorem execMctpControlMessage_of_addressed {s : State} {x : MctpMsg} {code : Nat} {body : List Nat} (hc : clocked s = true)
    (ha : addressed s x.bus = true) : execMctpControlMessage x code body s =
      if x.type = 0 then .next (mctpControl s code body)
      else if x.type = 5 || x.type = 6 then .next s
      else if x.type = 0x7E && x.vendor = s.get Reg.ID_DEVICE_VENDOR_ID then
        .next (if 1 ≤ code && code ≤ 6 then s else mctpSay s "VENDOR_DEFINED" [1])
      else .next (mctpSay s "MCTP_CONTROL_ERROR" [x.type]) := by
  obtain ⟨bus, type, vendor⟩ := x
  cases bus with
  | assign a => cases ha
  | smbus a => simp only [execMctpControlMessage, hc, ha, Bool.not_true, Bool.false_eq_true, if_false]
  | i3c a => simp only [execMctpControlMessage, hc, ha, Bool.not_true, Bool.false_eq_true, if_false]

theorem execMctpControlMessage_of_not_addressed {s : State} {x : MctpMsg} {code : Nat} {body : List Nat}
    (hb : ∀ a, x.bus ≠ .assign a) (ha : addressed s x.bus = false) : execMctpControlMessage x code body s = .next s := by
  obtain ⟨bus, type, vendor⟩ := x
  cases bus with
  | assign a => exact absurd rfl (hb a)
  | smbus a => simp [execMctpControlMessage, ha]
  | i3c a => simp [execMctpControlMessage, ha]

theorem execMctpControlMessage_assign {s : State} {x : MctpMsg} {code a : Nat} {body : List Nat} (hc : clocked s = true)
    (hb : x.bus = .assign a) : execMctpControlMessage x code body s = .next { s with pwr := { s.pwr with i3c := a } } := by
  simp only [execMctpControlMessage, hc, hb, Bool.not_true, Bool.false_eq_true, if_false]

/-- Settles O60: each reset, removal step and management message while the module is clocked. -/
theorem resetsRemovalAndManagement : Obligations.ResetsRemovalAndManagement := by
  unfold Obligations.ResetsRemovalAndManagement
  refine fun s hc => ⟨?_, fun w u x hj h1 => ⟨fun ho => next_hostWrite hj fun _ => ?_, fun ho => next_hostWrite hj fun _ => ?_⟩,
    fun w u x hj h1 => ⟨fun ho => next_hostWrite hj fun _ => ?_, fun ho => next_hostWrite hj fun _ => ?_⟩, ?_, fun hst => ?_,
    fun u hm hu => ⟨fun hr => ?_, fun hr hf => ?_⟩,
    fun w u x n hj h0 => ⟨fun hlo hhi => next_hostWrite hj fun _ => ?_, fun hbad => next_hostWrite hj fun _ => ?_⟩,
    fun a code body x hb => execMctpControlMessage_assign hc hb,
    fun x ha => ⟨fun eid ht hlo hhi => ?_, fun code body ht hv hcode => ?_, fun code body h0 h5 h6 hno => ?_⟩,
    fun x code body => execMctpControlMessage_of_not_addressed, ?_, fun slot n hs hn => ?_, fun n hlo hhi => ?_, fun n hbad => ?_,
    fun hst => ?_, fun hst => ?_, ?_, fun ws r hun => ?_, fun hun => ?_⟩
  · change execModuleResetPin s = _
    rw [execModuleResetPin, if_pos hc]
  · rw [pwrReset_of_one h1, ho]
    exact if_neg Bool.false_ne_true
  · rw [pwrReset_of_one h1, ho]
    exact if_pos rfl
  · rw [pwrRemove_of_one h1, ho]
    exact if_neg Bool.false_ne_true
  · rw [pwrRemove_of_one h1, ho]
    exact if_pos rfl
  · change execRemoveReq s = _
    rw [execRemoveReq, if_pos hc]
  · exact if_pos (bne_iff_ne.mpr hst)
  · change execMateSenseLost s = _
    rw [execMateSenseLost_eq hc hm hu, if_pos hr]
  · change execMateSenseLost s = _
    rw [execMateSenseLost_eq hc hm hu, if_neg (by simp [hr]), hf, List.foldl_nil]
  · rw [pwrLimit_eq h0, if_pos (limitOk_iff.mpr ⟨hlo, hhi⟩)]
  · rw [pwrLimit_eq h0, limitOk_eq_false hbad]
    exact if_neg Bool.false_ne_true
  · refine (execMctpControlMessage_of_addressed hc ha).trans ((if_pos ht).trans ?_)
    simp [mctpControl, hlo, hhi]
  · refine (execMctpControlMessage_of_addressed hc ha).trans ?_
    have hcode : (decide (1 ≤ code) && decide (code ≤ 6)) = false := by
      rw [Bool.and_eq_false_iff, decide_eq_false_iff_not, decide_eq_false_iff_not]
      omega
    simp [ht, hv, hcode]
  · refine (execMctpControlMessage_of_addressed hc ha).trans ?_
    have hno : (decide (x.type = 0x7E) && decide (x.vendor = s.get Reg.ID_DEVICE_VENDOR_ID)) = false := by
      rcases hno with h | h <;> simp [h]
    simp [h0, h5, h6, hno]
  · change execGetTelemetry s = _
    rw [execGetTelemetry, if_pos hc]
  · change execGetLog slot n s = _
    have hgo : (decide (512 ≤ slot) || decide (8 < n)) = false := by
      rw [Bool.or_eq_false_iff, decide_eq_false_iff_not, decide_eq_false_iff_not]
      omega
    simp only [execGetLog, hc, hgo, Bool.not_true, Bool.false_eq_true, if_false]
  · change execSetPowerLimit n s = _
    simp only [execSetPowerLimit, hc, limitOk_iff.mpr ⟨hlo, hhi⟩, Bool.not_true, Bool.false_eq_true, if_false, if_true]
  · change execSetPowerLimit n s = _
    simp only [execSetPowerLimit, hc, limitOk_eq_false hbad, Bool.not_true, Bool.false_eq_true, if_false]
  · change execPrepareRemoval s = _
    simp only [execPrepareRemoval, hc, Bool.not_true, Bool.false_eq_true, if_false, if_neg hst]
  · change execPrepareRemoval s = _
    simp only [execPrepareRemoval, hc, Bool.not_true, Bool.false_eq_true, if_false, if_pos hst]
  · change execMctpModuleReset s = _
    rw [execMctpModuleReset, if_pos hc]
  · change execGetEvent s = _
    simp only [execGetEvent, hc, hun, Bool.not_true, Bool.false_eq_true, if_false]
  · change execGetEvent s = _
    simp only [execGetEvent, hc, hun, Bool.not_true, Bool.false_eq_true, if_false]

end Sys2Proof.Machine

namespace Sys2Proof.Machine

/-! ## Data that lands in two places, the first of which waits for tokens (O45)

In the register file of `wideState`, where WAYS holds 20 in two bits, a wait of partition 0 maps a channel out, and so takes its frame out of the backed range. A
frame of an ALLGATHER in relay mode that carries the output of two origins is written in two pieces: the write of the first waits
for tokens, and the second finds its address gone, although both translated when the frame came. -/

/-- Port 0 has link, and the fabric area of partition 0 holds one flow. -/
def relayRegs : SMap Nat :=
  ((Reg.FAB_PORT_STATUS_LINK_UP 0).id, 1) :: ((Reg.FAB_AREA_CTRL_ENABLE 0).id, 1) :: ((Reg.FAB_AREA_CTRL_FLOWS 0).id, 1) :: wideRegs
/-- The first line of the partition's frame. -/
def wideLine : Nat := wideAddr / 64
/-- Line i of the frame is in the cache. -/
def relayLine (i : Nat) : Nat × CLine := (wideLine + i, ⟨true, false, [], [], 0⟩)
/-- Member 0 of an ALLGATHER of three in relay mode, of one unit each: flow 0 leads to member 2, which relays its own output and
that of member 1. -/
def relayColl : Coll :=
  { part := 0, group := 0, inst := 0, nth := 0, tag := 0, core := 0, vcore := 0, seq := 0, iid := 0, op := 3, units := 1, fmt := 0,
    src := 0, dst := 288, sig := none, members := [(1, 0), (2, 1), (0, 2)], me := 0, relay := true, mcast := 0, frq := none,
    avail := 0, arrivals := [], rx := [], tx := [], detached := [], reduced := false, counted := false, quiet := false, ctl := none }
/-- `wideState` with flow 0 UP on plane 0, its record in the cache, and the collective. -/
def relayState : State :=
  { wideState with
    regs := relayRegs
    mem := [(wideAddr, 1), (wideAddr + 128, 2)]
    cache := [relayLine 0, relayLine 1, relayLine 2, relayLine 3]
    colls := [relayColl] }
/-- A DATA frame of two units on flow 0. -/
def relayHdr : FrameHdr :=
  { fport := 0, check := .ok, version := 1, type := 0, dst := 0, mcast := false, last := false, op := 3, phase := 0, groupTag := 0,
    psn := 1, inst := 0, offset := 0, authOk := true, srcRank := 0 }

/-- The registers below the fabric's are those of `wideState`. -/
theorem get_relayRegs {s : State} {f : Fld} (hr : s.regs = relayRegs) (h : f.id < (Reg.FAB_PORT_STATUS_LINK_UP 0).id) :
    s.get f = wideState.get f := by
  have h1 : f.id ≠ (Reg.FAB_PORT_STATUS_LINK_UP 0).id := Nat.ne_of_lt h
  have h2 : f.id ≠ (Reg.FAB_AREA_CTRL_ENABLE 0).id := Nat.ne_of_lt (h.trans (by decide))
  have h3 : f.id ≠ (Reg.FAB_AREA_CTRL_FLOWS 0).id := Nat.ne_of_lt (h.trans (by decide))
  rw [State.get, hr, relayRegs, SMap.get, if_neg h1, SMap.get, if_neg h2, SMap.get, if_neg h3]
  rfl

/-- The registers, the frames, the page map and the token buckets are those of `relayState`. -/
structure Relayed (s : State) : Prop where
  regs : s.regs = relayRegs
  frames : s.frames = [(384, .owned 0)]
  pageMap : s.pageMap = [(1, ⟨384, true⟩)]
  nativePins : s.nativePins = []
  tokens : s.tokens = []

theorem Relayed.withCache {s : State} (h : Relayed s) (c : SMap CLine) (t : Nat) : Relayed { s with cache := c, tick := t } :=
  ⟨h.regs, h.frames, h.pageMap, h.nativePins, h.tokens⟩

theorem Relayed.setFlow {s : State} (h : Relayed s) (p f : Nat) (x : FlowCtx) : Relayed (s.setFlow p f x) :=
  ⟨h.regs, h.frames, h.pageMap, h.nativePins, h.tokens⟩

theorem outId_lt_linkUp {c : Nat} (h : c < wideWays) : (Reg.MEM_MAPPED_OUT_OUT c).id < (Reg.FAB_PORT_STATUS_LINK_UP 0).id := by
  simp only [wideWays] at h
  simp only [Reg.MEM_MAPPED_OUT_OUT, Reg.FAB_PORT_STATUS_LINK_UP, Fld.id]
  omega

theorem waysOf_of_relayRegs {s : State} (hr : s.regs = relayRegs) : waysOf s = wideWays := by
  rw [waysOf, get_relayRegs hr (by decide)]
  exact wideState_ways

theorem two_live_of_relayRegs {s : State} (hr : s.regs = relayRegs) : 1 < (liveChans s 0).length := by
  have hl : liveChans s 0 = liveChans wideState 0 := by
    rw [liveChans, liveChans, waysOf_of_relayRegs hr, wideState_ways]
    refine List.filter_congr fun c hc => ?_
    obtain ⟨d, hd, rfl⟩ := List.mem_map.mp hc
    rw [State.on, State.on, get_relayRegs hr (outId_lt_linkUp (by simpa using hd))]
  rw [hl]
  exact wideState_two_live

theorem frameState_relayed {s : State} (h : Relayed s) : frameState s 384 = some (.owned 0) := by
  obtain ⟨hr, hf⟩ := h
  have hb : backedAddr s (384 * frameBytes) = true := by
    rw [backedAddr_frame384 (waysOf_of_relayRegs hr)]
    exact decide_eq_true (two_live_of_relayRegs hr)
  have hv : s.on Reg.MEM_INTERLEAVE_VALID = true := by
    rw [State.on, get_relayRegs hr (by decide), wideState_valid]
    rfl
  rw [frameState, hb, hv, hf]
  rfl

/-- A partition offset in page 0 lies in frame 384. -/
theorem xlate_relayed {s : State} {x : Nat} (h : Relayed s) (hx : x < frameBytes) : xlate s 0 x = some (wideAddr + x) := by
  have hp : s.pageMap = [(1, ⟨384, true⟩)] := h.pageMap
  have hn : x / frameBytes = 0 := Nat.div_eq_of_lt hx
  have he : SMap.get (⟨0, false⟩ : PEntry) s.pageMap (1 + 0) = ⟨384, true⟩ := by rw [hp]; rfl
  rw [xlate, get_relayRegs h.regs (by decide), get_relayRegs h.regs (by decide), wideState_pages, wideState_pmBase, hn,
    Nat.mod_eq_of_lt hx]
  simp only [he, frameState_relayed h] <;> rfl

theorem xlateAll_relayed {s : State} {n x : Nat} (h : Relayed s) (hx : x + n ≤ frameBytes) :
    xlateAll s 0 x n = some ((List.range' (wideAddr + x) n)) := by
  induction n generalizing x with
  | zero => rfl
  | succ n ih =>
    rw [xlateAll, xlate_relayed h (by omega), ih (by omega)] <;> rfl

theorem firstBad_relayed {s : State} {n x : Nat} (h : Relayed s) (hx : x + n ≤ frameBytes) : firstBad s 0 x n = none := by
  have h0 : x / frameBytes = 0 ∨ n = 0 := by
    by_cases hn : n = 0
    · exact .inr hn
    · exact .inl (Nat.div_eq_of_lt (by omega))
  rw [firstBad, List.findSome?_eq_none_iff]
  intro i hi
  by_cases hn : n = 0
  · simp [hn] at hi
  · rw [if_neg hn, List.mem_range, Nat.div_eq_of_lt (show x < frameBytes by omega),
      Nat.div_eq_of_lt (show x + n - 1 < frameBytes by omega)] at hi
    have hi : i = 0 := by omega
    have hm : max x ((x / frameBytes + i) * frameBytes) < frameBytes := by
      rw [hi, Nat.div_eq_of_lt (show x < frameBytes by omega)]
      omega
    simp [xlate_relayed h hm]

/-! ### The lookup of the flow's record -/

/-- Lines 0 to 3 of the frame are cached, and no other line is. -/
def RecordCached (s : State) : Prop :=
  (∀ i < 4, (SMap.get CLine.empty s.cache (wideLine + i)).cached = true) ∧ ∀ e ∈ s.cache, ∃ i < 4, e.1 = wideLine + i

theorem mem_of_mem_set {α : Type} [DecidableEq α] {d : α} {m : SMap α} {k : Nat} {v : α} {e : Nat × α}
    (h : e ∈ SMap.set d m k v) : e.1 = k ∨ e ∈ m := by
  induction m with
  | nil =>
    rw [SMap.set] at h
    split at h
    · cases h
    · exact .inl (by rw [List.mem_singleton.mp h])
  | cons x m ih =>
    obtain ⟨j, u⟩ := x
    have hcons {m' : SMap α} (h : e ∈ (k, v) :: m') : e.1 = k ∨ e ∈ m' :=
      (List.mem_cons.mp h).imp_left fun h => by rw [h]
    rw [SMap.set] at h
    split at h
    · split at h
      · exact .inr h
      · exact hcons h
    · split at h
      · split at h
        · exact .inr (List.mem_cons_of_mem _ h)
        · exact (hcons h).imp_right (List.mem_cons_of_mem _)
      · rcases List.mem_cons.mp h with rfl | h
        · exact .inr List.mem_cons_self
        · exact (ih h).imp_right (List.mem_cons_of_mem _)

/-- A line that is there, or for which there is room, is entered and none leaves. -/
theorem touch_of_room {s : State} {a : Nat} {wr : Bool} (ha : a < fastEnd)
    (h : (SMap.get CLine.empty s.cache (a / 64)).cached = true ∨ waysUsed s (a / 64) < 24) :
    ∃ l : CLine, l.cached = true
      ∧ touch s a wr = { s with cache := SMap.set CLine.empty s.cache (a / 64) l, tick := s.tick + 1 } := by
  have hroom : ((SMap.get CLine.empty s.cache (a / 64)).cached || decide (waysUsed s (a / 64) < 24)) = true := by
    simpa using h
  simp only [touch, if_pos ha, hroom, if_true]
  exact ⟨_, rfl, rfl⟩

theorem recordCached_touch {s : State} {a i : Nat} {wr : Bool} (h : RecordCached s) (hi : i < 4) (ha : a / 64 = wideLine + i) :
    RecordCached (touch s a wr) := by
  obtain ⟨hin, hout⟩ := h
  have hfast : a < fastEnd := by
    have : wideLine = 12582912 := by decide
    have : fastEnd = 206158430208 := by decide
    omega
  obtain ⟨l, hl, ht⟩ := touch_of_room (wr := wr) hfast (.inl (ha ▸ hin i hi))
  have hne : l ≠ CLine.empty := by
    rintro rfl
    cases hl
  rw [ht, ha]
  refine ⟨fun j hj => ?_, fun e he => ?_⟩
  · by_cases hji : j = i
    · rw [hji]
      exact (congrArg CLine.cached (SMap.get_set_new _ _ _ _ hne)).trans hl
    · exact (congrArg CLine.cached (SMap.get_set_other _ _ _ _ _ (by omega))).trans (hin j hj)
  · rcases mem_of_mem_set he with he | he
    · exact ⟨i, hi, he⟩
    · exact hout e he

theorem recordCached_touchAll {s : State} {wr : Bool} {last : Nat} {as : List Nat} (h : RecordCached s)
    (has : ∀ a ∈ as, ∃ i < 4, a / 64 = wideLine + i) : RecordCached (touchAll s wr last as) := by
  induction as generalizing s last with
  | nil => exact h
  | cons a as ih =>
    obtain ⟨i, hi, ha⟩ := has a List.mem_cons_self
    have has := fun b hb => has b (List.mem_cons_of_mem a hb)
    rw [touchAll]
    split
    · exact ih h has
    · exact ih (recordCached_touch h hi ha) has

/-- A hit takes no token. -/
theorem tokenKeys_of_cached {s : State} {wr : Bool} {last : Nat} {as : List Nat} (h : RecordCached s)
    (has : ∀ a ∈ as, ∃ i < 4, a / 64 = wideLine + i) : tokenKeys s wr last as = [] := by
  induction as generalizing s last with
  | nil => rfl
  | cons a as ih =>
    obtain ⟨i, hi, ha⟩ := has a List.mem_cons_self
    have has := fun b hb => has b (List.mem_cons_of_mem a hb)
    rw [tokenKeys]
    split
    · exact ih h has
    · rw [ih (recordCached_touch h hi ha) has, touchKeys, ha, h.1 i hi, Bool.not_true, Bool.and_false]
      rfl

theorem payTokens_nil (s : State) : payTokens s [] = s := rfl

/-- Accesses change the cache and its clock alone where they take no token. -/
theorem access_of_no_keys {s : State} {wr : Bool} {as : List Nat} (h : tokenKeys s wr 0 as = []) :
    ∃ c t, access s wr as = { s with cache := c, tick := t } := by
  rw [access, h, payTokens_nil]
  have hf := congrArg (fun t : State => { t with
    cache := (touchAll s wr 0 as).cache
    tick := (touchAll s wr 0 as).tick }) (touchAll_frame s wr 0 as)
  exact ⟨_, _, hf⟩

theorem relayed_relayState : Relayed relayState := ⟨rfl, rfl, rfl, rfl, rfl⟩

theorem recordCached_relayState : RecordCached relayState := by
  refine ⟨fun i hi => ?_, fun e he => ?_⟩
  · interval_cases i <;> rfl
  · have he : e = relayLine 0 ∨ e = relayLine 1 ∨ e = relayLine 2 ∨ e = relayLine 3 := by simpa [relayState] using he
    rcases he with rfl | rfl | rfl | rfl
    · exact ⟨0, by decide, rfl⟩
    · exact ⟨1, by decide, rfl⟩
    · exact ⟨2, by decide, rfl⟩
    · exact ⟨3, by decide, rfl⟩

theorem flowsOf_relayed {s : State} (h : Relayed s) : flowsOf s 0 = [0] := by
  have hon : s.on (Reg.FAB_AREA_CTRL_ENABLE 0) = true := by
    rw [State.on, State.get, h.regs]
    rfl
  have hn : s.get (Reg.FAB_AREA_CTRL_FLOWS 0) = 1 := by
    rw [State.get, h.regs]
    rfl
  rw [flowsOf, if_pos hon, hn]
  rfl

theorem fabBase_relayed {s : State} (h : Relayed s) : fabBase s 0 = 0 := by
  have hb : s.get (Reg.FAB_AREA_BASE 0) = 0 := by
    have h1 : (Reg.FAB_AREA_BASE 0).id ≠ (Reg.FAB_PORT_STATUS_LINK_UP 0).id := by decide
    have h2 : (Reg.FAB_AREA_BASE 0).id ≠ (Reg.FAB_AREA_CTRL_ENABLE 0).id := by decide
    have h3 : (Reg.FAB_AREA_BASE 0).id ≠ (Reg.FAB_AREA_CTRL_FLOWS 0).id := by decide
    rw [State.get, h.regs, relayRegs, SMap.get, if_neg h1, SMap.get, if_neg h2, SMap.get, if_neg h3,
      get_wideRegs_of_above _ (by decide), if_neg]
    · rfl
    · rintro hm
      obtain ⟨c, hc, he⟩ := List.mem_map.mp hm
      have hlt := outId_lt_linkUp (c := c) (by simpa using (List.mem_filter.mp hc).1)
      rw [he] at hlt
      exact absurd hlt (by decide)
  rw [fabBase, hb, Nat.zero_mul]

theorem flowAddr_relayed {s : State} (h : Relayed s) : flowAddr s 0 0 = 0 := by
  rw [flowAddr, fabBase_relayed h]

theorem readRecord_of_good {s : State} {p x n : Nat} {as : List Nat} (hx : xlateAll s p x n = some as)
    (hb : firstBad s p x n = none) : readRecord s p x n = access s false as := by
  rw [readRecord, hb, pTouch, hx]

theorem lookTargets_relayState : ∃ c t, lookTargets relayState relayHdr = { relayState with cache := c, tick := t }
    ∧ RecordCached { relayState with cache := c, tick := t } := by
  have hall := xlateAll_relayed (n := 256) (x := 0) relayed_relayState (by decide)
  have hlines : ∀ a ∈ List.range' (wideAddr + 0) 256, ∃ i < 4, a / 64 = wideLine + i := by
    intro a ha
    rw [List.mem_range'_1] at ha
    have hw : wideAddr = 64 * wideLine := by decide
    exact ⟨a / 64 - wideLine, by omega, by omega⟩
  have hkeys := tokenKeys_of_cached (wr := false) (last := 0) recordCached_relayState hlines
  obtain ⟨c, t, hacc⟩ := access_of_no_keys hkeys
  refine ⟨c, t, ?_, hacc ▸ ?_⟩
  · have hd : relayHdr.dst ≠ 0xFFFFF := by decide
    have hin : (flowsOf relayState 0).contains 0 = true := by
      rw [flowsOf_relayed relayed_relayState]
      rfl
    rw [lookTargets, if_neg hd]
    change lookFlow relayState 0 0 = _
    rw [lookFlow, if_pos hin, flowAddr_relayed relayed_relayState,
      readRecord_of_good hall (firstBad_relayed relayed_relayState (by decide))]
    exact hacc
  · rw [access, hkeys, payTokens_nil]
    exact recordCached_touchAll recordCached_relayState hlines

/-! ### The frame reaches its flow -/

/-- The bytes that the partition reads in page 0. -/
theorem pNat_relayed {s : State} {x n : Nat} (h : Relayed s) (hx : x + n ≤ frameBytes) :
    pNat s 0 x n = leNat ((List.range' (wideAddr + x) n).map fun a => SMap.get 0 s.mem a) := by
  rw [pNat, pRead, xlateAll_relayed h hx] <;> rfl

/-- A state in which the flow's record has been looked up. -/
def Looked (s : State) : Prop := Relayed s ∧ s.mem = relayState.mem

theorem flowFld_looked {s : State} {o n v : Nat} (h : Looked s) (hx : o + n ≤ frameBytes)
    (hv : leNat ((List.range' (wideAddr + o) n).map fun a => SMap.get 0 relayState.mem a) = v) : flowFld s 0 0 o n = v := by
  rw [flowFld, flowAddr_relayed h.1, Nat.zero_add, pNat_relayed h.1 hx, h.2, hv]

theorem target_looked {s : State} (h : Looked s) : target s relayHdr false = some (0, 0) := by
  have hst : flowState s 0 0 = 2 := flowFld_looked h (by decide) (by decide)
  have hpl : flowFld s 0 0 (16 * 0) 16 = 1 := flowFld_looked h (by decide) (by decide)
  have hmc : flowFld s 0 0 70 1 = 0 := flowFld_looked h (by decide) (by decide)
  have hgo : ((flowsOf s 0).contains 0 && (flowState s 0 0 == 1 || flowState s 0 0 == 2 || (false && flowState s 0 0 == 4))
      && onPlane s 0 0 0 && !isMcast s 0 0) = true := by
    rw [flowsOf_relayed h.1, hst, onPlane, hpl, isMcast, hmc]
    rfl
  rw [target]
  exact if_pos hgo

theorem fromExcluded_of_no_vote {s : State} {p f tag : Nat} (h : s.isWritten (Reg.HLT_MIRAGE_CTRL_GROUP p) = false) :
    fromExcluded s p f tag = false := by
  have hx (g r : Nat) : excluded s p g r = false := by rw [excluded, isVoteGroup, h, Bool.false_and, Bool.false_and]
  obtain ⟨G, hG⟩ := exists_eq (a' := @groupOfTag)
  obtain ⟨R, hR⟩ := exists_eq (a' := @rankOfFlow)
  obtain ⟨F, hF⟩ := exists_eq (a' := @fromExcluded)
  rw [← hF]
  delta fromExcluded at hF
  rw [← hG, ← hR] at hF
  rw [hF]
  dsimp only
  generalize G s p tag = o
  cases o with
  | none => rfl
  | some g =>
    dsimp only
    generalize R s p g f = o
    cases o with
    | none => rfl
    | some r => exact hx g r

/-! ### The write of the first piece -/

theorem SMap.get_of_no_key {α : Type} {d : α} {m : SMap α} {k : Nat} (h : ∀ e ∈ m, e.1 ≠ k) : SMap.get d m k = d := by
  induction m with
  | nil => rfl
  | cons e m ih =>
    rw [SMap.get, if_neg fun hk => h e List.mem_cons_self hk.symm]
    exact ih fun e he => h e (List.mem_cons_of_mem _ he)

/-- Every cached line is one of the first n of the frame. -/
def LinesBelow (s : State) (n : Nat) : Prop := ∀ e ∈ s.cache, ∃ i < n, e.1 = wideLine + i

theorem waysUsed_of_linesBelow {s : State} {n j : Nat} (h : LinesBelow s n) (hp : s.nativePins = []) (hn : n ≤ j) (hj : j < 16384) :
    waysUsed s (wideLine + j) < 24 := by
  have hnone : (s.cache.filter fun e => e.1 % 16384 == (wideLine + j) % 16384
      && e.1 * 64 / ergBytes == (wideLine + j) * 64 / ergBytes) = [] := by
    rw [List.filter_eq_nil_iff]
    intro e he
    obtain ⟨i, hi, hk⟩ := h e he
    rw [hk, Bool.and_eq_true, beq_iff_eq]
    rintro ⟨hmod, -⟩
    omega
  have hzero (e : Nat) : (List.range 16).map (fun p => SMap.get 0 ([] : SMap Nat) (p * 8 + e)) = List.replicate 16 0 := rfl
  rw [waysUsed, hnone, nativeWays, nativeLines, hp, hzero]
  decide

theorem touchKeys_of_linesBelow {s : State} {n j a : Nat} (h : LinesBelow s n) (hs : Relayed s) (hn : n ≤ j) (hj : j < 16384)
    (ha : a / 64 = wideLine + j) : touchKeys s a true = [0] := by
  have hline : wideLine = 12582912 := by decide
  have hfast : a < fastEnd := by
    have : fastEnd = 206158430208 := by decide
    omega
  have hmiss : SMap.get CLine.empty s.cache (a / 64) = CLine.empty := SMap.get_of_no_key fun e he => by
    obtain ⟨i, hi, hk⟩ := h e he
    omega
  have hframe : a / frameBytes = 384 := by
    have hb : frameBytes = 2097152 := by decide
    rw [hb]
    omega
  have herg : a / ergBytes = 0 := by
    have hb : ergBytes = 25769803776 := by decide
    rw [hb]
    omega
  have hon : s.on (Reg.MEM_REG_ENABLE 0 0) = true := by
    rw [State.on, get_relayRegs hs.regs (by decide), wideState_enable]
    rfl
  have hkey : bucketKey s a = [0] := by
    have ho : ownerOf s a = some 0 := by rw [ownerOf, hframe, frameState_relayed hs]
    rw [bucketKey, ho, herg]
    exact if_pos hon
  have hmiss' : (decide (a < fastEnd) && !(SMap.get CLine.empty s.cache (a / 64)).cached) = true := by
    rw [hmiss, decide_eq_true hfast]
    rfl
  rw [touchKeys, if_pos hmiss', if_pos rfl, hkey, ha, if_pos (waysUsed_of_linesBelow h hs.nativePins hn hj), List.append_nil]

/-- Bytes of the line that was touched last take nothing more. -/
theorem tokenKeys_same_line {s : State} {wr : Bool} {last : Nat} {as bs : List Nat} (h : ∀ a ∈ as, a / 64 + 1 = last) :
    tokenKeys s wr last (as ++ bs) = tokenKeys s wr last bs := by
  induction as with
  | nil => rfl
  | cons a as ih =>
    rw [List.cons_append, tokenKeys, if_pos (h a List.mem_cons_self)]
    exact ih fun b hb => h b (List.mem_cons_of_mem _ hb)

/-- Where the output of member 2 goes: half a line, and the half of the next. -/
def relayAddr : Nat := wideAddr + 416

theorem tokenKeys_relayAddr {s : State} (h : LinesBelow s 4) (hs : Relayed s) :
    tokenKeys s true 0 (List.range' relayAddr 64) = [0, 0] := by
  have hline : wideLine = 12582912 := by decide
  have hA : relayAddr = 805306784 := by decide
  have hl1 : relayAddr / 64 = wideLine + 6 := by decide
  have hl2 : (relayAddr + 32) / 64 = wideLine + 7 := by decide
  have hsplit : List.range' relayAddr 64 =
      relayAddr :: (List.range' (relayAddr + 1) 31 ++ (relayAddr + 32) :: (List.range' (relayAddr + 33) 31 ++ [])) := by
    rw [List.append_nil]
    decide
  have hlines : LinesBelow (touch s relayAddr true) 7 ∧ Relayed (touch s relayAddr true) := by
    have hroom := waysUsed_of_linesBelow h hs.nativePins (show 4 ≤ 6 by decide) (by decide)
    obtain ⟨l, -, ht⟩ := touch_of_room (wr := true) (show relayAddr < fastEnd by decide) (.inr (hl1 ▸ hroom))
    rw [ht]
    refine ⟨fun e he => ?_, hs.withCache _ _⟩
    rcases mem_of_mem_set he with he | he
    · exact ⟨6, by decide, he.trans hl1⟩
    · obtain ⟨i, hi, hk⟩ := h e he
      exact ⟨i, by omega, hk⟩
  have hw1 (r : List Nat) : (!(true && wholeLine relayAddr r)) = true := by
    have hmod : (relayAddr % 64 == 0) = false := by decide
    rw [wholeLine, hmod]
    rfl
  have hw2 : (!(true && wholeLine (relayAddr + 32) (List.range' (relayAddr + 33) 31 ++ []))) = true := by
    rw [List.append_nil]
    decide
  obtain ⟨hbelow, hrel⟩ := hlines
  rw [hsplit, tokenKeys, if_neg (by omega), hw1, touchKeys_of_linesBelow h hs (show 4 ≤ 6 by decide) (by decide) hl1,
    tokenKeys_same_line, tokenKeys, if_neg (by omega), hw2,
    touchKeys_of_linesBelow hbelow hrel (show 7 ≤ 7 by decide) (by decide) hl2, tokenKeys_same_line]
  · rfl
  · intro a ha
    rw [List.mem_range'_1] at ha
    omega
  · intro a ha
    rw [List.mem_range'_1] at ha
    omega

/-- Two tokens that are missing come with two refills. -/
theorem payTokens_two_refills {s : State} {k : Nat} (ht : s.tokens = []) (hr : bucketRate s k = 1) :
    (payTokens s [k, k]).regs = (s.bumpWrap (Reg.MEM_PART_WAIT_CYCLES (k / 8)) 128).regs := by
  have hs : shortOf s [k, k] k = 2 := by
    rw [shortOf, ht]
    simp [SMap.get]
  have hn : refillsOf s [k, k] k = 2 := by rw [refillsOf, hs, hr]
  have hd : [k, k].dedup.filter (fun j => shortOf s [k, k] j != 0) = [k] := by simp [hs]
  unfold payTokens
  rw [hd]
  simp [hr, hn, State.bumpWrap, State.put, State.get]

theorem bumpWrap_regs_congr {s t : State} {f : Fld} {n : Nat} (h : s.regs = t.regs) :
    (s.bumpWrap f n).regs = (t.bumpWrap f n).regs := by
  simp only [State.bumpWrap, State.put, State.get, h]

/-- The registers once partition 0 has waited. -/
def Waited (s : State) : Prop := ∀ f : Fld, s.get f = (relayState.bumpWrap (Reg.MEM_PART_WAIT_CYCLES 0) 128).get f

theorem waited_get {s : State} {f : Fld} (h : Waited s) (hf : f.id ≠ (Reg.MEM_PART_WAIT_CYCLES 0).id)
    (hid : f.id < (Reg.FAB_PORT_STATUS_LINK_UP 0).id) : s.get f = wideState.get f := by
  rw [h, State.bumpWrap, get_put_other _ _ _ _ hf]
  exact get_relayRegs rfl hid

theorem waysOf_waited {s : State} (h : Waited s) : waysOf s = wideWays := by
  rw [waysOf, waited_get h (by decide) (by decide)]
  exact wideState_ways

/-- The wait has mapped `waitChan` out. -/
theorem waited_waitChan {s : State} (h : Waited s) : s.get (Reg.MEM_MAPPED_OUT_OUT waitChan) ≠ 0 := by
  have hid : (Reg.MEM_MAPPED_OUT_OUT waitChan).id = (Reg.MEM_PART_WAIT_CYCLES 0).id := by decide
  have hw : relayState.get (Reg.MEM_PART_WAIT_CYCLES 0) = 0 := (get_relayRegs rfl (by decide)).trans wideState_wait
  have hget : ∀ u : State, u.get (Reg.MEM_MAPPED_OUT_OUT waitChan) = u.get (Reg.MEM_PART_WAIT_CYCLES 0) := fun u => by
    rw [State.get, hid]
    rfl
  have hval : (0 + 128) % 2 ^ (Reg.MEM_PART_WAIT_CYCLES 0).w ^^^ (Reg.MEM_PART_WAIT_CYCLES 0).rst ≠ 0 := by decide
  rw [h, hget, State.bumpWrap, hw, get_put_same_of_ne _ _ _ hval]
  decide

theorem frameState_waited {s : State} (h : Waited s) : frameState s 384 = none := by
  have hsub : liveChans s 0 ⊆ [0] := by
    intro c hc
    obtain ⟨hlt, hoff⟩ := mem_liveChans_zero.mp hc
    rw [waysOf_waited h] at hlt
    by_contra hne
    have hw : c ≠ waitChan := by
      rintro rfl
      exact waited_waitChan h hoff
    have hid : (Reg.MEM_MAPPED_OUT_OUT c).id ≠ (Reg.MEM_PART_WAIT_CYCLES 0).id := fun h => hw (outId_injective h)
    rw [waited_get h hid (outId_lt_linkUp hlt), wideState_get_of_out c rfl rfl, if_pos ⟨hlt, by simpa using hne, hw⟩] at hoff
    exact absurd hoff (by decide)
  have hle := (List.subperm_of_subset (liveChans_zero_nodup s) hsub).length_le
  refine frameState_of_unbacked ((backedAddr_frame384 (waysOf_waited h)).trans (decide_eq_false ?_))
  simpa using hle

theorem pWrite_waited {s : State} {x n : Nat} {bs : List Byte} (h : Waited s) (hp : s.pageMap = [(1, ⟨384, true⟩)])
    (hx : x < frameBytes) (hn : bs.length = n + 1) : pWrite s 0 x bs = none := by
  have hpm : s.get (Reg.MEM_PART_MAP_PM_BASE 0) = 1 := (waited_get h (by decide) (by decide)).trans wideState_pmBase
  have he : (SMap.get (⟨0, false⟩ : PEntry) s.pageMap (1 + 0)).frame = 384 := by
    rw [hp]
    rfl
  have hxl : xlate s 0 x = none := by simp [xlate, Nat.div_eq_of_lt hx, hpm, he, frameState_waited h]
  simp only [pWrite, hn, xlateAll, hxl]

theorem pWrite_relayed {s : State} {bs : List Byte} (h : LinesBelow s 4) (hs : Relayed s) (hn : bs.length = 64) :
    ∃ t, pWrite s 0 416 bs = some t ∧ Waited t ∧ t.pageMap = [(1, ⟨384, true⟩)] := by
  have hall := xlateAll_relayed (x := 416) (n := bs.length) hs (by rw [hn]; decide)
  refine ⟨storeAt (access s true (List.range' (wideAddr + 416) bs.length)) (List.range' (wideAddr + 416) bs.length) bs,
    by rw [pWrite, hall], fun f => ?_, ?_⟩
  · have hkeys : tokenKeys s true 0 (List.range' (wideAddr + 416) bs.length) = [0, 0] := by
      rw [hn]
      exact tokenKeys_relayAddr h hs
    have hrate : bucketRate s 0 = 1 := (get_relayRegs hs.regs (by decide)).trans wideState_rate
    rw [State.get, storeAt_regs, access, touchAll_regs, hkeys, payTokens_two_refills hs.tokens hrate,
      bumpWrap_regs_congr (t := relayState) hs.regs, State.get]
  · rw [storeAt_pageMap, access_pageMap]
    exact hs.pageMap

/-! ### The two pieces -/

theorem collWrite_eq {s : State} {x : Coll} {at_ : Nat} {bs : List Byte} (hc : x.ctl = none) (hp : x.part = 0) :
    (∀ t, pWrite s 0 at_ bs = some t → collWrite s x at_ bs = (none, t))
      ∧ (pWrite s 0 at_ bs = none → (collWrite s x at_ bs).1 ≠ none) := by
  refine ⟨fun t ht => ?_, fun ht => ?_⟩
  · rw [collWrite, hc, hp, ht]
    rfl
  · rw [collWrite, hc, hp, ht]
    exact Option.some_ne_none _

/-- A piece that is refused ends the landing. -/
theorem landSlices_out {s : State} {x : Coll} {rank n : Nat} {p : Piece} {off : Nat} {r : List (Piece × Nat × Nat)} {bs : List Byte}
    (hk : p.kind = .out) (hc : x.ctl = none) :
    (∀ t, collWrite s x (x.dst + 64 * (x.outAt p.rank + off)) (bs.take (64 * n)) = (none, t) →
        landSlices s x rank ((p, off, n) :: r) bs = landSlices t x rank r (bs.drop (64 * n)))
      ∧ ((collWrite s x (x.dst + 64 * (x.outAt p.rank + off)) (bs.take (64 * n))).1 ≠ none →
        (landSlices s x rank ((p, off, n) :: r) bs).1 ≠ none) := by
  refine ⟨fun t ht => ?_, fun ht => ?_⟩
  · simp only [landSlices, hk, ht, hc, Option.isSome_none, Bool.false_eq_true, if_false]
  · simp only [landSlices, hk]
    generalize collWrite s x (x.dst + 64 * (x.outAt p.rank + off)) (bs.take (64 * n)) = z at ht
    obtain ⟨e, t⟩ := z
    cases e with
    | none => exact absurd rfl ht
    | some e => exact Option.some_ne_none e

/-- The collective with both units landed. -/
def relayLanded : Coll := relayColl.setRx 2 ⟨0, 0, [(0, 2)]⟩

/-- The second piece is refused. -/
theorem landData_relayed {s : State} {bs : List Byte} (h : LinesBelow s 4) (hs : Relayed s) (hn : bs.length = 128) :
    (landData s relayColl 2 0 bs).1 ≠ none := by
  obtain ⟨t, ht, hw, hp⟩ := pWrite_relayed (bs := bs.take (64 * 1)) h hs (by rw [List.length_take, hn]; rfl)
  have h2 : pWrite t 0 352 ((bs.drop (64 * 1)).take (64 * 1)) = none :=
    pWrite_waited (n := 63) hw hp (by decide) (by rw [List.length_take, List.length_drop, hn]; rfl)
  have hland : landData s relayColl 2 0 bs = landSlices s relayLanded 2 [(⟨0, .out, 2, 1⟩, 0, 1), (⟨0, .out, 1, 1⟩, 0, 1)] bs := by
    rw [landData, hn]
    rfl
  have h1 := (collWrite_eq (x := relayLanded) rfl rfl).1 t ht
  rw [hland, (landSlices_out (x := relayLanded) rfl rfl).1 t h1]
  exact (landSlices_out (x := relayLanded) rfl rfl).2 ((collWrite_eq rfl rfl).2 h2)

/-! ### The refutation -/

/-- The state in which the frame acts: its record has been looked up. -/
def relayAt (c : SMap CLine) (t : Nat) : State := { relayState with cache := c, tick := t }

theorem relayed_relayAt (c : SMap CLine) (t : Nat) : Relayed (relayAt c t) := relayed_relayState.withCache c t

theorem arrives_relayHdr {c : SMap CLine} {t : Nat} (h : lookTargets relayState relayHdr = relayAt c t) :
    Arrives relayState (relayAt c t) relayHdr false 0 0 := by
  have hl : Looked (relayAt c t) := ⟨relayed_relayAt c t, rfl⟩
  have hst : flowState (relayAt c t) 0 0 = 2 := flowFld_looked hl (by decide) (by decide)
  have hup : relayState.get (Reg.FAB_PORT_STATUS_LINK_UP 0) ≠ 0 := by
    rw [State.get]
    exact Nat.one_ne_zero
  refine ⟨⟨hup, rfl, rfl, by decide⟩, by decide, h.symm, target_looked hl, rfl, ?_⟩
  rw [hst]
  decide

/-- A frame is taken without an ACK while fewer than 16 wait for one. -/
theorem acceptSeq_no_ack {s : State} {p f k psn : Nat} {y : PeerRx} (hy : SMap.get PeerRx.empty (s.flow p f).rx k = y)
    (hd : (psn + 2 ^ 32 - y.cum) % 2 ^ 32 ≤ 1024) (hs : y.seen.contains psn = false) (hn : y.sinceAck < 15) :
    ∃ x, (acceptSeq s p f k psn).1 = s.setFlow p f x := by
  have hgo : (decide (1024 < (psn + 2 ^ 32 - y.cum) % 2 ^ 32) || y.seen.contains psn) = false := by
    rw [hs, Bool.or_false, decide_eq_false_iff_not]
    omega
  simp only [acceptSeq, hy, hgo, Bool.false_eq_true, if_false, if_neg (show ¬ 16 ≤ y.sinceAck + 1 by omega)]
  exact ⟨_, rfl⟩

/-- Refutes O45: in its clause of a new DATA frame. Both places of `relayHdr`'s two units translate when the frame comes; the write of
the first waits for tokens, the wait maps a channel out, and the second is refused. -/
theorem not_xftFrames : ¬ Obligations.XftFrames := by
  intro hO
  obtain ⟨-, -, -, hnew, -⟩ := hO
  obtain ⟨c, t, hlook, hcached⟩ := lookTargets_relayState
  have hrx : SMap.get PeerRx.empty ((relayAt c t).flow 0 0).rx 0 = PeerRx.empty := rfl
  obtain ⟨x, hu⟩ := acceptSeq_no_ack (psn := 1) hrx (by decide) rfl (by decide)
  obtain ⟨hdata, -⟩ := hnew relayState (relayAt c t) relayHdr 0 0 _ (arrives_relayHdr hlook) ⟨by rw [hrx]; decide, rfl⟩ hu.symm
  have hrel : Relayed ((relayAt c t).setFlow 0 0 x) := (relayed_relayAt c t).setFlow 0 0 x
  have hlines : LinesBelow ((relayAt c t).setFlow 0 0 x) 4 := hcached.2
  obtain ⟨v, z, hland, -, -⟩ := hdata (List.replicate 128 0) 2 relayColl 2 (List.length_replicate ..) (by decide)
    (fromExcluded_of_no_vote rfl) rfl (by decide) rfl rfl (by decide) fun q hq _ i hi => by
      have hq : q = (⟨0, .out, 2, 1⟩, 0, 1) ∨ q = (⟨0, .out, 1, 1⟩, 0, 1) := by
        have hs : slices (relayColl.rxPieces 2) relayHdr.offset 2 = [(⟨0, .out, 2, 1⟩, 0, 1), (⟨0, .out, 1, 1⟩, 0, 1)] := rfl
        simpa [hs] using hq
      have hx : relayColl.dst + 64 * (relayColl.outAt q.1.rank + q.2.1) + i < frameBytes := by
        have hb : frameBytes = 2097152 := by decide
        have h2 : relayColl.dst + 64 * (relayColl.outAt 2 + 0) = 416 := rfl
        have h1 : relayColl.dst + 64 * (relayColl.outAt 1 + 0) = 352 := rfl
        rcases hq with rfl | rfl
        · rw [h2, hb]
          change i < 64 at hi
          omega
        · rw [h1, hb]
          change i < 64 at hi
          omega
      rw [show relayColl.part = 0 from rfl, xlate_relayed hrel hx]
      rfl
  have hbad := landData_relayed hlines hrel (List.length_replicate (n := 128) (a := (0 : Byte)))
  exact hbad (congrArg Prod.fst hland)

end Sys2Proof.Machine

namespace Sys2Proof.Machine

/-! ## Flows, up to the free values (O46)

The clause of GROUP_KEY_DISTRIBUTION names the key that goes to the peers as `Config.freeValue s.free` under the fold's own `s`,
whose count stands one further on than that of the state in which the key was drawn. O46 therefore holds exactly where two free
values that follow each other agree in their low 256 bits; `Config.freeValue` is opaque, so neither is provable. -/

/-- Partition 0 holds group 0, with MCAST flow 0 and the member of rank 1 behind flow 1, which is UP. A CTRL frame waits on flow 1
already, so that the next one waits behind it. -/
def keyBase : State :=
  { State.reset with
    regs := [(Reg.MEM_INTERLEAVE_VALID.id, 1), ((Reg.MEM_PART_MAP_PAGES 0).id, 16), ((Reg.FAB_AREA_CTRL_FLOWS 0).id, 2),
      ((Reg.FAB_AREA_CTRL_ENABLE 0).id, 1), ((Reg.FAB_AREA_CTRL_GROUPS 0).id, 1)]
    frames := [(0, .owned 0), (8, .owned 0)]
    pageMap := [(0, ⟨0, true⟩), (8, ⟨8, true⟩)]
    mem := [(128, 1), (384, 2), (516, 1), (0x1000002, 1), (0x1000004, 2), (0x1000011, 2)]
    flows := [(1, { FlowCtx.empty with held := [(0, [])] })] }

/-- What the command reads of the group and of its flows, in a state that differs from `keyBase` elsewhere. -/
structure KeyReady (s : State) : Prop where
  groups : 0 ∈ groupsOf s 0
  relay : isRelay s 0 0 = false
  rank : groupFld s 0 0 8 4 = 0
  mcast : groupFld s 0 0 12 4 = 0
  shaking : flowState s 0 0 = 1
  peers : peersOf s 0 0 = [1]
  link : listFlow s 0 0 1 = 1
  up : flowState s 0 1 = 2

theorem keyReady_keyBase : KeyReady keyBase := by
  constructor <;> decide +kernel

section SameView
variable {s t : State} (h : SameView s t)
include h

theorem groupsOf_sameView (p : Nat) : groupsOf t p = groupsOf s p := by
  simp only [groupsOf, on_sameView h, get_sameView h, groupFld_sameView h]

theorem isRelay_sameView (p g : Nat) : isRelay t p g = isRelay s p g := by rw [isRelay, isRelay, groupFld_sameView h]

theorem peersOf_sameView (p g : Nat) : peersOf t p g = peersOf s p g := by simp only [peersOf, groupFld_sameView h]

theorem listFlow_sameView (p g r : Nat) : listFlow t p g r = listFlow s p g r := by
  simp only [listFlow, fabBase, get_sameView h, groupFld_sameView h, pNat_sameView h]

theorem flowState_sameView (p f : Nat) : flowState t p f = flowState s p f := by
  simp only [flowState, flowFld, flowAddr, fabBase, get_sameView h, pNat_sameView h]

theorem keyReady_sameView (hs : KeyReady s) : KeyReady t where
  groups := groupsOf_sameView h 0 ▸ hs.groups
  relay := (isRelay_sameView h 0 0).trans hs.relay
  rank := (groupFld_sameView h 0 0 8 4).trans hs.rank
  mcast := (groupFld_sameView h 0 0 12 4).trans hs.mcast
  shaking := (flowState_sameView h 0 0).trans hs.shaking
  peers := (peersOf_sameView h 0 0).trans hs.peers
  link := (listFlow_sameView h 0 0 1).trans hs.link
  up := (flowState_sameView h 0 1).trans hs.up

end SameView

/-! ### The key that goes out -/

theorem leBytes_congr {n a b : Nat} (h : a % 256 ^ n = b % 256 ^ n) : leBytes n a = leBytes n b := by
  induction n generalizing a b with
  | zero => rfl
  | succ n ih =>
    have hlow : a % 256 = b % 256 := by
      have hd : 256 ∣ 256 ^ (n + 1) := Dvd.intro_left _ (Nat.pow_succ ..).symm
      rw [← Nat.mod_mod_of_dvd a hd, h, Nat.mod_mod_of_dvd b hd]
    have hhigh : a / 256 % 256 ^ n = b / 256 % 256 ^ n := by
      rw [← Nat.mod_mul_right_div_self, ← Nat.mod_mul_right_div_self, ← Nat.pow_succ', h]
    have hbyte : BitVec.ofNat 8 a = BitVec.ofNat 8 b := BitVec.eq_of_toNat_eq (by simpa using hlow)
    rw [leBytes, leBytes, ih hhigh, hbyte]

theorem leNat_leBytes (n a : Nat) : leNat (leBytes n a) = a % 256 ^ n := by
  induction n generalizing a with
  | zero => rw [Nat.pow_zero, Nat.mod_one]; rfl
  | succ n ih =>
    have hpow : 256 ^ (n + 1) = 2 ^ 8 * 256 ^ n := Nat.pow_succ'
    rw [leBytes, leNat, ih, BitVec.toNat_ofNat, hpow, Nat.mod_mul] <;> rfl

/-- The holder of a group whose members' flows are all UP draws the group key and sends it (R338 steps 1 and 2). -/
theorem execGroupKeyDistribution_of_ready {s u v : State} {p : Part} {g m e key : Nat} (hg : g ∈ groupsOf s p)
    (hrelay : isRelay s p g = false) (hlen : groupFld s p g 8 4 = 0) (hm : m = groupFld s p g 12 4) (hst : flowState s p m = 1)
    (hkeyed : (s.flow p m).keyed = false) (hpeers : ∀ r ∈ peersOf s p g, flowState s p (listFlow s p g r) = 2)
    (he : e = SMap.get 0 s.epochs (p * 65536 + g) + 1) (hk : key = Config.freeValue s.free)
    (hu : u = { s with free := s.free + 1, epochs := SMap.set 0 s.epochs (p * 65536 + g) e })
    (hv : v = giveKey u p m e key) :
    exec (.groupKeyDistribution p g) s = .next ((peersOf v p g).foldl (fun t r => sendCtrl t p (listFlow t p g r) 5
      (leBytes 2 (groupFld v p g 0 2) ++ leBytes 4 e ++ leBytes 32 key)) v) := by
  have hall : ((groupsOf s p).contains g && !isRelay s p g && decide (groupFld s p g 8 4 = 0) && decide (flowState s p m = 1)
      && !(s.flow p m).keyed && (peersOf s p g).all fun r => flowState s p (listFlow s p g r) == 2) = true := by
    simp only [List.contains_eq_mem, hg, hrelay, hlen, hst, hkeyed, decide_true, Bool.not_false, Bool.true_and, List.all_eq_true]
    exact fun r hr => by simp [hpeers r hr]
  change execGroupKeyDistribution p g s = _
  simp only [execGroupKeyDistribution, ← hm, hall, if_true, State.draw, ← he, ← hu, ← hk, ← hv]

/-- Free values that follow each other agree in the bits of a key. -/
def KeysAgree : Prop := ∀ n, Config.freeValue (n + 1) % 2 ^ 256 = Config.freeValue n % 2 ^ 256

theorem freeValue_of_keysAgree (h : KeysAgree) (n : Nat) : Config.freeValue n % 2 ^ 256 = Config.freeValue 0 % 2 ^ 256 := by
  induction n with
  | zero => rfl
  | succ n ih => exact (h n).trans ih

theorem keyBytes_of_keysAgree (h : KeysAgree) (m n : Nat) :
    leBytes 32 (Config.freeValue m) = leBytes 32 (Config.freeValue n) :=
  leBytes_congr ((freeValue_of_keysAgree h m).trans (freeValue_of_keysAgree h n).symm)

/-- Where the keys agree, each register command, message and timer of a flow is as O46 says. -/
theorem flows_of_keysAgree (hkeys : KeysAgree) : Obligations.Flows := by
  unfold Obligations.Flows
  refine ⟨fun s p f => ⟨fun w u x v hj h16 hv hall hbad hen hf hlt => ⟨fun hop hvalid hst => next_hostWrite hj fun hw => ?_,
        fun hop hst => next_hostWrite hj fun hw => ?_⟩,
      fun x u v hw hu ht hshake hv => ⟨fun hrsa hslh hpeer => ?_, fun hbad => ?_⟩,
      fun x u hw hu ht => ?_, fun hf hst => ?_, fun hf hst => ⟨_, rfl, ?_⟩,
      fun g m e u v hg hrelay hlen hm hst hkeyed hpeers he hu hv => ?_⟩,
    fun s p f => ⟨fun hst => ?_, fun psn t hst ht hmax => ?_, fun psn t hst ht hmax => ?_, fun n hn => ?_, fun psn hno => ?_⟩⟩
  · have hgo : (!allWritten v [Reg.FAB_FLOW_CMD_OP x.part, Reg.FAB_FLOW_CMD_FLOW x.part, Reg.FAB_TIMERS_RTO_US, Reg.FAB_TIMERS_RETRY_MAX]
        || !v.on (Reg.FAB_AREA_CTRL_ENABLE x.part)) = false := by simp [hall, State.on, hen]
    simp only [fabFlowCmd, Wr.one, h16, ← hv, hgo, ← hf, hbad, hop, hvalid, hlt]
    simp [hst]
  · have hgo : (!allWritten v [Reg.FAB_FLOW_CMD_OP x.part, Reg.FAB_FLOW_CMD_FLOW x.part, Reg.FAB_TIMERS_RTO_US, Reg.FAB_TIMERS_RETRY_MAX]
        || !v.on (Reg.FAB_AREA_CTRL_ENABLE x.part)) = false := by simp [hall, State.on, hen]
    simp only [fabFlowCmd, Wr.one, h16, ← hv, hgo, ← hf, hbad, hop, hst, hlt]
    simp
  · change execHandshake p f x s = _
    simp only [execHandshake, frameMac_whole hw, ← hu, ht, hshake]
    simp [endShake, ← hv, hrsa, hslh, hpeer]
  · change execHandshake p f x s = _
    have hno : (x.rsa && x.slh && pRead v p (flowAddr v p f + 72) 48 == some x.peer) = false := by
      rcases hbad with h | h | h <;> simp [h]
    simp only [execHandshake, frameMac_whole hw, ← hu, ht, hshake]
    simp [endShake, ← hv, hno]
  · change execHandshake p f x s = _
    simp only [execHandshake, frameMac_whole hw, ← hu, ht, if_true]
  · change execHandshakeTimeout p f s = _
    simp [execHandshakeTimeout, hf, hst]
  · change execFlowClosingTimeout p f s = _
    simp [execFlowClosingTimeout, hf, hst]
  · refine (execGroupKeyDistribution_of_ready hg hrelay hlen hm hst hkeyed hpeers he rfl hu hv).trans ?_
    refine congrArg Host.Outcome.next (congrArg (fun F => List.foldl F v (peersOf v p g)) (funext₂ fun t r => ?_))
    rw [keyBytes_of_keysAgree hkeys s.free t.free]
  · change execAckTimer p f s = _
    simp only [execAckTimer, hst, if_true]
  · change execRetransmitTimeout p f psn s = _
    simp [execRetransmitTimeout, ht, hst, hmax]
  · change execRetransmitTimeout p f psn s = _
    have hgo : (flowState s p f != 2 && flowState s p f != 4) = false := by
      rcases hst with h | h <;> simp [h]
    simp only [execRetransmitTimeout, ht, hgo, if_neg (Nat.not_le.mpr hmax), Bool.false_eq_true, if_false]
    congr 5
    simp
  · change execPortRotationRejoin p f n s = _
    simp [execPortRotationRejoin, hn]
  · change execRetransmitTimeout p f psn s = _
    have hnone : ((s.flow p f).unacked.find? fun t => t.psn == psn) = none :=
      List.find?_eq_none.mpr fun t ht => by simpa using hno t ht
    simp only [execRetransmitTimeout, hnone]

/-! ### The group of `keyBase` -/

/-- `keyBase` with n free values drawn, and once the key has been drawn and given to the MCAST flow. -/
def keyState (n : Nat) : State := { keyBase with free := n }
def keyDrawn (n : Nat) : State :=
  giveKey { keyBase with free := n + 1, epochs := SMap.set 0 keyBase.epochs 0 1 } 0 0 1 (Config.freeValue n)

theorem keyReady_keyState (n : Nat) : KeyReady (keyState n) := keyReady_sameView (s := keyBase) ⟨rfl, rfl, rfl, rfl, rfl⟩ keyReady_keyBase

theorem keyReady_keyDrawn (n : Nat) : KeyReady (keyDrawn n) := keyReady_sameView (s := keyBase) ⟨rfl, rfl, rfl, rfl, rfl⟩ keyReady_keyBase

/-- Behind a CTRL frame that waits, the next one waits too. -/
theorem held_sendCtrl {s : State} {p f code : Nat} {args : List Byte} (hst : flowState s p f = 2) (hh : (s.flow p f).held ≠ []) :
    ((sendCtrl s p f code args).flow p f).held = (s.flow p f).held ++ [(code, args)] := by
  have hgo : (decide ((s.flow p f).unacked.length < 1024) && (s.flow p f).held.isEmpty) = false := by
    rw [List.isEmpty_eq_false_iff.mpr hh, Bool.and_false]
  have hne : ({ s.flow p f with held := (s.flow p f).held ++ [(code, args)] } : FlowCtx) ≠ FlowCtx.empty := fun h =>
    List.append_ne_nil_of_right_ne_nil _ (List.cons_ne_nil _ _) (congrArg FlowCtx.held h)
  rw [sendCtrl, if_pos hst]
  simp only [hgo, Bool.false_eq_true, if_false]
  exact congrArg FlowCtx.held (SMap.get_set_new _ _ _ _ hne)

theorem flow_keyDrawn (n : Nat) : ((keyDrawn n).flow 0 1).held = [(0, [])] := by
  rw [keyDrawn, giveKey, State.flow, State.setFlow]
  exact (congrArg FlowCtx.held (SMap.get_set_other _ _ _ _ _ (by decide))).trans rfl

theorem keysAgree_of_flows (h : Obligations.Flows) : KeysAgree := by
  intro n
  obtain ⟨hfirst, -⟩ := h
  obtain ⟨-, -, -, -, -, hclause⟩ := hfirst (keyState n) 0 0
  have hs := keyReady_keyState n
  have hv := keyReady_keyDrawn n
  have hpeers : ∀ r ∈ peersOf (keyState n) 0 0, flowState (keyState n) 0 (listFlow (keyState n) 0 0 r) = 2 := by
    rw [hs.peers]
    intro r hr
    rw [List.mem_singleton.mp hr, hs.link]
    exact hs.up
  have hsaid := hclause 0 0 1 _ (keyDrawn n) hs.groups hs.relay hs.rank hs.mcast.symm hs.shaking rfl hpeers rfl rfl rfl
  have hdone := execGroupKeyDistribution_of_ready (p := 0) (e := 1) (v := keyDrawn n) hs.groups hs.relay hs.rank hs.mcast.symm hs.shaking rfl
    hpeers rfl rfl rfl rfl
  have heq := Host.Outcome.next.inj (hdone.symm.trans hsaid)
  have hheld (args : State → List Byte) : (((peersOf (keyDrawn n) 0 0).foldl (fun t r => sendCtrl t 0 (listFlow t 0 0 r) 5 (args t))
      (keyDrawn n)).flow 0 1).held = [(0, []), (5, args (keyDrawn n))] := by
    rw [hv.peers, List.foldl_cons, List.foldl_nil, hv.link, held_sendCtrl hv.up (by rw [flow_keyDrawn]; exact List.cons_ne_nil _ _),
      flow_keyDrawn]
    rfl
  have hargs := (hheld _).symm.trans ((congrArg (fun t : State => (t.flow 0 1).held) heq).trans (hheld _))
  have hbytes : leBytes 32 (Config.freeValue n) = leBytes 32 (Config.freeValue (n + 1)) := by
    obtain ⟨-, hsecond⟩ := List.cons.inj hargs
    obtain ⟨hframe, -⟩ := List.cons.inj hsecond
    obtain ⟨-, hbytes⟩ := Prod.mk.inj hframe
    exact List.append_cancel_left hbytes
  have hnum := congrArg leNat hbytes
  rw [leNat_leBytes, leNat_leBytes] at hnum
  exact hnum.symm

/-- O46 says just that the free values agree. `Config.freeValue` is opaque, so that its values may agree or not: O46 stays unsettled. -/
theorem flows_iff_keysAgree : Obligations.Flows ↔ KeysAgree := ⟨keysAgree_of_flows, flows_of_keysAgree⟩

end Sys2Proof.Machine
